-- ==== Sys2Proof/Word.lean ====
section
/-! DEFINITION. Word.lean: the bit-vector widths the spec uses by name, and nothing else (R10: little-endian, bit 0
least significant). -/

namespace Sys2Proof

abbrev Byte := BitVec 8
abbrev Half := BitVec 16
abbrev Word := BitVec 32
abbrev Dword := BitVec 64
/-- A drum instruction or extension word (R147). -/
abbrev Quad := BitVec 128

end Sys2Proof
end

