-- ==== Sys2Proof/Syntax.lean ====
section
/-! DEFINITION. Syntax.lean: the commands, one constructor per row of spec/opcode_table.json, in the table's order.
A drum instruction names its physical drum only: the instruction word is the one at the sequencer's position (R147,
R148), with `par`: whether every word that the command reads in an array under parity passes (R357). Every other command
carries what its event brings: an address, a value, the verdict of a check that the outside world decides. -/

namespace Sys2Proof

/-- A torus coordinate (R334). -/
structure Coord where
  x : Nat
  y : Nat
  z : Nat
deriving DecidableEq, Repr

/-- A flit as it stands on a lane (R327): the header's fields, the payload bytes and the CRC. -/
structure Flit where
  kind : Nat
  vc : Nat
  last : Bool
  half : Bool
  seq : Nat
  ackseq : Nat
  acktype : Nat
  cvc : Nat
  ccnt : Nat
  payload : List Byte
  crc : Dword
deriving DecidableEq, Repr

/-- What the check bytes of one block access show (R305, R309): clean; single-bit errors, bit w for code word w; an
uncorrectable word that the re-read delivers; an uncorrectable word twice. -/
inductive EccVerdict where
  | clean | corrected (words : Word) | rereadGood | uncorrectable
deriving DecidableEq, Repr

/-- What becomes of a packet on its way over the NoC and the bonded face (R357): it arrives; it arrives, and a word that its
landing reads in an array under parity fails; a flit of it fails its parity
after one resend; a flit of it fails its CRC on four crossings at a bridge, numbered 4 times its die plus b. -/
inductive NocVerdict where
  | arrives | badArray | badFlit | badBond (bridge : Nat)
deriving DecidableEq, Repr

/-- Why a flash slot is or is not bootable (R386). -/
inductive SlotVerdict where
  | bootable | badVerify | rollback
deriving DecidableEq, Repr

/-- One end's word in the handshake of R325: its coordinate, the fabric's dimensions, its port's direction, its image version
floor, and whether it is SYNCED. -/
structure Hello where
  coord : Coord
  dims : Coord
  dir : BitVec 3
  floor : Nat
  synced : Bool
deriving DecidableEq, Repr

/-- How an answer of the work counter comes to its drum (R257, R357): does it pass the checks of the base die, and what
becomes of its packet. -/
structure ClaimReply where
  delivered : Bool
  net : NocVerdict
deriving DecidableEq, Repr

/-- What the re-read of a pad word shows (R235): does it pass, and is its reader a stick or a DMA engine. -/
structure Reread where
  passes : Bool
  outside : Bool
deriving DecidableEq, Repr

/-- What a stick's access meets (R357): are the cache words it uses good under their SECDED code, and what becomes of its
packets. -/
structure StickPath where
  cache : Bool
  net : NocVerdict
deriving DecidableEq, Repr

/-- A flaw of the arithmetic path in a run of a sound check (R372): it is off by so much in segment i of output n of check row r,
or turns bits over in column n of row 0 at a stage behind the segments: 0 the shell, 1 the roll unit, 2 the quantiser. -/
inductive Flaw where
  | segment (r n i : Nat) (off : Int)
  | stage (k n : Nat) (bits : Word)
deriving DecidableEq, Repr

/-- A word written over SMBus, with the packet error code that follows it, if one does (R418). -/
structure SmbWrite where
  value : Half
  pec : Option Byte
deriving DecidableEq, Repr

/-- The outcome of a port's training (R323, R325): the lanes that failed it, and the peer's word in the handshake. -/
structure Trained where
  failedLanes : Byte
  peer : Hello
deriving DecidableEq, Repr

/-- A flit as it arrives (R323, R327): with the codewords that the FEC of each lane corrected and those that it could not, lanes
ascending. -/
structure Arrived where
  flit : Flit
  fec : List (Nat × Nat)
deriving DecidableEq, Repr

/-- The start of a retrain (R329): the port, and whether its peer starts it. -/
structure RetrainStart where
  port : Nat
  peer : Bool
deriving DecidableEq, Repr

inductive Instr where
  -- skin
  | strike (d : Nat)
  | weightLoadEnd (d : Nat)
  | dequantiseRow (d : Nat) (par : Bool)
  -- shell and bell tree
  | leafDone (d : Nat) (par : Bool)
  | nodeArrival (d src : Nat) (net : NocVerdict)
  | bellStatsArrival (d src : Nat) (net : NocVerdict)
  -- tap
  | tap (d : Nat) (par : Bool)
  | check (d : Nat) (par : Bool)
  -- tuner
  | narrow (d : Nat) (par : Bool)
  | widen (d : Nat) (par : Bool)
  | convert (d : Nat) (par : Bool)
  | amax (d : Nat) (par : Bool)
  | close (d : Nat) (par : Bool)
  | shareReductionDone (d : Nat) (par : Bool)
  | ldscale (d : Nat)
  | stscale (d : Nat) (par : Bool)
  | qsave (d : Nat) (par : Bool)
  | qload (d : Nat)
  -- roll unit
  | rollScale (d : Nat) (par : Bool)
  | rollMask (d : Nat) (par : Bool)
  | softmax (d : Nat) (par : Bool)
  | rmsnorm (d : Nat) (par : Bool)
  | layernorm (d : Nat) (par : Bool)
  | gelu (d : Nat) (par : Bool)
  | silu (d : Nat) (par : Bool)
  | rope (d : Nat) (par : Bool)
  | topk (d : Nat) (par : Bool)
  -- pad engine, NoC port, sequencer
  | fill (d : Nat)
  | copy (d : Nat)
  | send (d : Nat)
  | wait (d : Nat)
  | waitComplete (d : Nat)
  | waitTimeout (d : Nat)
  | fence (d : Nat)
  | fenceComplete (d : Nat)
  | endRun (d : Nat)
  -- work counter
  | workClaim (d : Nat) (reply : ClaimReply)
  | claimRetry (d : Nat)
  -- pads
  | shellClearDone (d : Nat)
  | sendArrival (d src : Nat) (net : NocVerdict)
  | sendAckArrival (d src : Nat) (net : NocVerdict)
  | padReread (d word : Nat) (v : Reread)
  | bankGate (d bank : Nat)
  | bankWakeEnd (d bank : Nat)
  | damperFinish (d slot : Nat)
  -- scores and the Metronome
  | score (q : Nat)
  | scoreBind (q : Nat)
  | drain (q : Nat)
  | kill (q : Nat)
  | taskDispatch (job : Half) (task target : Nat)
  | preemptSave (d : Nat)
  | preemptRestore (d : Nat)
  | taskEnd (job : Half) (task : Nat)
  | liveOverrun (job : Half) (task : Nat)
  | groupHoldExpire (q : Nat)
  | liveReserveApply (l : Nat)
  | metRelease (key : Word)
  | metStkdone (k : Nat) (value : Word)
  | stickTrap (k : Nat)
  | stickApertureAccess (k off width : Nat) (write : Bool) (data : Dword)
  | stickDeviceAccess (k addr : Nat) (write : Bool) (data : List Byte) (path : StickPath)
  -- host interface
  | ringEnable (q : Nat) (value : Word)
  | ringDisable (q : Nat) (value : Word)
  | doorbellSqtail (page : Nat) (value : Word)
  | doorbellCqhead (page : Nat) (value : Word)
  | irqTimerExpire (q : Nat)
  | msixVectorUnmask (v : Nat)
  | forwardedAccess (off width : Nat) (write : Bool) (data : Dword)
  | forwardTimeout
  | followerHostTraffic (src : Coord) (pkind : Nat) (live : Bool) (addr : Nat) (data : List Byte)
  | followerMsixRequest (src : Coord) (vec : Nat)
  | functionLevelReset
  | perstAssert
  | linkDown
  -- memory
  | memoryRead (ch blk cls : Nat) (linkErrs : List Nat) (ecc : EccVerdict)
  | memoryWrite (ch blk lo cls : Nat) (linkErrs : List Nat) (data : List Byte) (ecc : EccVerdict)
  | eccWriteback (ch blk : Nat)
  | patrolScrub (ch blk : Nat) (single : Bool)
  | mr4Poll (ch : Nat) (temp : Int)
  | memoryReady
  | pgtDataAccess (agent width : Nat) (write : Bool) (data : Dword)
  | pageTableClear
  | streamTableClear
  -- links and the fabric
  | linkHandshake (p : Nat) (r : Trained)
  | flitSend (p : Nat)
  | flitReceive (p : Nat) (a : Arrived)
  | replayTimeout (p : Nat)
  | linkRetrain (r : RetrainStart)
  | retrainEnd (p : Nat) (failedLanes : Byte) (ok : Bool)
  | lnkRetrainWrite (p : Nat)
  | alignmentSend (p : Nat)
  | alignmentReceive (p : Nat) (beat : Dword) (notSynced : Bool)
  | syncInEdge
  | syncOutPulse
  | syncInTimeout
  | abortReceive (p : Nat) (group : Nat) (origin : Coord) (serial : Half) (stamp : Dword)
  | groupReopen (value : Word)
  -- faults
  | graceExpire (src : Nat)
  | faultnPulseEnd
  | faultClear (src : Nat)
  | faultInject (src : Nat) (value : Word)
  | drmRetire (d : Nat) (value : Word)
  | soundCheck (d : Nat) (flaws1 flaws2 : List Flaw)
  -- clocks and power
  | idleStrikeSlot
  | dutyUpdate (est : Nat)
  | pwrcapAssert
  | sensorSample (readings : List Int)
  | thermalFault
  | railFault (pair : Nat)
  | powerOn
  | pllLock (pufOk : Bool) (trained : Dword)
  | pllLockLoss
  | resetnAssert
  | pwrRst (value : Word)
  | powerDown
  -- boot, updates, attestation
  | bootComplete (flashOk counterOk : Bool)
  | writeImage (len : Nat)
  | commit (len : Nat)
  | abandon (len : Nat)
  | writeRepair (len : Nat)
  | writePlace (len : Nat)
  | updateOpComplete (flashOk counterOk : Bool)
  | doeDiscovery (index : Nat)
  | getVersion (request : List Byte)
  | getCapabilities (request : List Byte)
  | negotiateAlgorithms (request : List Byte)
  | getDigests (request : List Byte)
  | getCertificate (slot offset length : Nat)
  | challenge (nonce : List Byte)
  | getMeasurements (index : Nat) (signed : Bool) (nonce : List Byte)
  | pqsig
  | pqchain (offset length : Nat)
  -- sideband
  | smbReadTmax
  | smbReadPower
  | smbCapRead
  | smbCapWrite (value : SmbWrite)
  | smbReadStatus
  | smbReadFaults
  | jtagIdcode
  -- diagnosis and the register map
  | diagModeEnter
  | diagModeLeave
  | bar4Read (off len : Nat) (bad : List Nat)
  | broadcastWrite (off width : Nat) (data : Dword)
  | broadcastRead (off width : Nat)
  | sknCntClr (d : Nat)
  | tunCntClr (d : Nat)
  | shlCntClr (d : Nat)
  | seqCntClr (d : Nat)
  | rolCntClr (d : Nat)
  | tapCntClr (d : Nat)
  | padCntClr (d : Nat)
  | metCntClr
  | wkcCntClr
  | pciCntClr
  | mchCntClr (ch : Nat)
  | lnkCntClr (p : Nat)
  | registerWrite (off width : Nat) (data : Dword)
  -- pins, links and requests
  | resetnRelease (trained : Dword)
  | pwrcapRelease
  | perstRelease
  | pcieLinkUp (width speed : Nat)
  | configurationRequest (off : Nat) (write : Bool) (data : Word)
  | completionTimeout (q : Nat) (score : Bool) (dma : Option Nat)
  | submissionEntryFault (q : Nat)
  | bar4Write (off : Nat) (data : List Byte)
  | tableClearDone (stream : Bool)
  | jtagInstruction (privateOne : Bool)
deriving DecidableEq, Repr

end Sys2Proof
end

