-- ==== Sys2Proof/Decode.lean ====
section
/-! DEFINITION. Decode.lean: a block: the opcode table gives no row any bits, so no word spells a command. -/

namespace Sys2Proof

/-- The command a word spells by the table's bits: none, for every row. -/
def decodeTableWord (_nbits _w : Nat) : Option Instr := none

end Sys2Proof
end

