-- ==== Sys2Proof/Config.lean ====
section
/-! DEFINITION. Config.lean: what the spec leaves to a value it does not give. Each constant has no body: nothing in
Lean can evaluate it, and a statement that mentions it holds for every value (log 2). -/

namespace Sys2Proof

/-- ex(x) of R178 between its two fixed points (free; the spec gives the bound 2^-22 only). -/
opaque Config.expBits : Word → Word
/-- rs(x) of R178 (free within 1 ulp). -/
opaque Config.rsqrtBits : Word → Word
/-- A value the spec leaves open, drawn by the counter of State. -/
opaque Config.freeValue : Nat → Dword
/-- The scale (low 16 bits) and zero point (next 8) fitted to bounds of which one is a NaN; R101 names no such record. -/
opaque Config.nanFit : Word → Word → Word
/-- The n-th value of the impairment LFSR whose polynomial R353 does not give, from its seed. -/
opaque Config.lfsrNext : Word → Word
/-- The device secret that the PUF array and the helper data give (R383). -/
opaque Config.pufSecret : List Byte → BitVec 256
/-- Odzel's root public keys, whose digests the boot ROM holds (R382): 0 Ed25519, 1 ML-DSA-65. -/
opaque Config.rootKey : Nat → List Byte
/-- The public key bytes of a 32-byte private value: 0 Ed25519, 1 ML-DSA-65 (FIPS 204). -/
opaque Config.publicKey : BitVec 256 → Nat → List Byte
/-- A signature over a byte string with a seed: 0 Ed25519, 1 ML-DSA-65. -/
opaque Config.sign : BitVec 256 → Nat → List Byte → List Byte
/-- The DER bytes of an alias certificate (R384), signed with the device's private value: alias public key, measurements; 0
Ed25519, 1 ML-DSA-65. -/
opaque Config.aliasCert : BitVec 256 → List Byte → List Byte → Nat → List Byte
/-- The bytes of a message that SPDM or the DOE specification lays down (R395): code, the request it answers, content. -/
opaque Config.spdmBytes : Nat → List Byte → List Byte → List Byte
/-- What a manifest of R385 in the bytes of an image holds; the byte layout is not in the spec. -/
opaque Config.imageSvn : List Byte → Nat
opaque Config.imageVer : List Byte → Nat
opaque Config.imageFactory : List Byte → Bool
opaque Config.imageDevBind : List Byte → Bool
opaque Config.imageDevid : List Byte → BitVec 128
opaque Config.imageSubsystem : List Byte → Word
/-- Do MAGIC and LAYOUT hold the Konik's values? Are the other bits of FLAGS zero? -/
opaque Config.imageMagic : List Byte → Bool
opaque Config.imageFlags : List Byte → Bool
/-- SECTIONS: flash offset, length and digest. -/
opaque Config.imageSections : List Byte → List (Nat × Nat × BitVec 512)
/-- KEYS, and whether the signature of SIGS verifies with its key over the fields above it: 0 Ed25519, 1 ML-DSA-65. -/
opaque Config.imageKey : List Byte → Nat → List Byte
opaque Config.imageSigned : List Byte → Nat → Bool
/-- Bytes of the manifest at the front of an image. -/
opaque Config.manifestSize : List Byte → Nat
/-- What the boot ROM hashes for measurement n of R388, 1 and 4 to 7, from the model's bytes of it; the byte forms are not in
the spec. -/
opaque Config.measured : Nat → List Byte → List Byte
/-- Bytes that a record of so many content bytes takes in the records area (R387, R394). -/
opaque Config.recordSize : Nat → Nat
/-- What a placement record of R387 holds; its bit layout is not in the spec. -/
opaque Config.placeRole : List Byte → BitVec 2
opaque Config.placeCoord : List Byte → BitVec 4 × BitVec 4 × BitVec 6
opaque Config.placeDims : List Byte → BitVec 4 × BitVec 4 × BitVec 6
opaque Config.placeDir : List Byte → Nat → BitVec 3
/-- Odzel's PCI-SIG vendor ID and JEP106 code, printed on the ordering sheet (R2, R418). -/
opaque Config.vendorId : Half
opaque Config.jep106 : BitVec 11
/-- The fields of the PCIe configuration space that the base specification, not this spec, lays down (R272). -/
opaque Config.configSpace : Nat → Word
/-- The check byte of the 15 data bytes of a code word (R305); the spec does not give the SECDED code. -/
opaque Config.checkByte : List Byte → Byte
/-- Offset of the dword that holds Device Control in configuration space (R272). -/
opaque Config.devCtl : Nat
/-- Offset of the dword that holds the MSI-X message control in configuration space (R272, R294). -/
opaque Config.msixCap : Nat
/-- The order in which a plane of a sound check's rows carries its four patterns, and whether its activation codes are signed
(R372). -/
opaque Config.checkOrder : Nat → Nat
opaque Config.checkSigned : Bool

end Sys2Proof
end

