-- ==== Sys2Proof/Machine/Num.lean ====
section
/-! DEFINITION. Machine/Num.lean: exact numbers and their rounding. A floating-point code is read as an exact value
(m times a power of two), arithmetic is exact, and one rounding writes the result (R76, R77, R92, R95, R132-R137, R178). -/

namespace Sys2Proof.Machine

/-- A floating-point format of R76: magnitude codes rise with the value up to `maxCode`; `infCode` where the format has
an infinity; `nanCode` is the canonical NaN of R77. -/
structure Fmt where
  ebits : Nat
  fbits : Nat
  bias : Nat
  maxCode : Nat
  infCode : Option Nat
  nanCode : Nat
deriving DecidableEq, Repr

def fp32 : Fmt := ⟨8, 23, 127, 0x7F7FFFFF, some 0x7F800000, 0x7FC00000⟩
def bf16 : Fmt := ⟨8, 7, 127, 0x7F7F, some 0x7F80, 0x7FC0⟩
def fp16 : Fmt := ⟨5, 10, 15, 0x7BFF, some 0x7C00, 0x7E00⟩
def e4m3 : Fmt := ⟨4, 3, 7, 0x7E, none, 0x7F⟩
def e5m2 : Fmt := ⟨5, 2, 15, 0x7B, some 0x7C, 0x7E⟩

/-- Weight of the sign bit. -/
def Fmt.signW (f : Fmt) : Nat := 2 ^ (f.ebits + f.fbits)
/-- Exponent of the smallest positive subnormal. -/
def Fmt.emin (f : Fmt) : Int := 1 - (f.bias : Int) - (f.fbits : Int)

/-- The value of a code: NaN, an infinity, or plus or minus m * 2^e with the sign kept on zero. -/
inductive FV where
  | nan
  | inf (neg : Bool)
  | fin (neg : Bool) (m : Nat) (e : Int)
deriving DecidableEq, Repr

def Fmt.read (f : Fmt) (code : Nat) : FV :=
  let neg := decide (code / f.signW % 2 = 1)
  let mag := code % f.signW
  if mag ≤ f.maxCode then
    let ef := mag / 2 ^ f.fbits
    let fr := mag % 2 ^ f.fbits
    if ef = 0 then .fin neg fr f.emin
    else .fin neg (fr + 2 ^ f.fbits) (f.emin + (ef : Int) - 1)
  else if f.infCode = some mag then .inf neg
  else .nan

/-- Rounding of a magnitude: ties to even, ties away from zero, away from zero, toward zero. -/
inductive Rnd where
  | even | away | up | down
deriving DecidableEq, Repr

def isqrtGo (n : Nat) : Nat → Nat → Nat
  | 0, q => if (q + 1) * (q + 1) ≤ n then q + 1 else q
  | b + 1, q => if (q + 2 ^ (b + 1)) * (q + 2 ^ (b + 1)) ≤ n then isqrtGo n b (q + 2 ^ (b + 1)) else isqrtGo n b q

/-- Integer square root, rounded down. -/
def isqrt (n : Nat) : Nat := isqrtGo n (Nat.log2 n / 2 + 1) 0

/-- num/den * 2^e as a fraction of naturals. -/
def scaleFrac (num den : Nat) (e : Int) : Nat × Nat :=
  if 0 ≤ e then (num * 2 ^ e.toNat, den) else (num, den * 2 ^ (-e).toNat)

/-- floor(log2 (num/den)) for num, den > 0. -/
def floorLog (num den : Nat) : Int :=
  let l : Int := (Nat.log2 num : Int) - (Nat.log2 den : Int)
  let p := scaleFrac num den (-l)
  if p.2 ≤ p.1 then l else l - 1

/-- One rounding of the fraction num/den (or of its square root) to a natural number. -/
def roundFrac (r : Rnd) (sq : Bool) (num den : Nat) : Nat :=
  let q := if sq then isqrt (num / den) else num / den
  let exact := if sq then decide (q * q * den = num) else decide (q * den = num)
  let twice := if sq then compare ((2 * q + 1) * (2 * q + 1) * den) (4 * num) else compare ((2 * q + 1) * den) (2 * num)
  if exact then q else
  match r, twice with
  | .down, _ => q
  | .up, _ => q + 1
  | _, .lt => q + 1
  | _, .gt => q
  | .away, .eq => q + 1
  | .even, .eq => if q % 2 = 0 then q else q + 1

/-- The magnitude code nearest to num/den * 2^e, or to the square root of that, before any clamp: a result above
`maxCode` says that the value lies beyond the format's range. -/
def Fmt.roundMag (f : Fmt) (r : Rnd) (sq : Bool) (num den : Nat) (e : Int) : Nat :=
  if num = 0 ∨ den = 0 then 0 else
  let p := scaleFrac num den e
  let lg := floorLog p.1 p.2
  let lg := if sq then lg / 2 else lg
  let u := max f.emin (lg - (f.fbits : Int))
  let s := scaleFrac p.1 p.2 (if sq then -2 * u else -u)
  (u - f.emin).toNat * 2 ^ f.fbits + roundFrac r sq s.1 s.2

def Fmt.sign (f : Fmt) (neg : Bool) : Nat := if neg then f.signW else 0

/-- IEEE 754 overflow: beyond the range the infinity stands in, or the canonical NaN where the format has none. -/
def Fmt.pack (f : Fmt) (neg : Bool) (mag : Nat) : Nat :=
  f.sign neg + (if mag ≤ f.maxCode then mag else f.infCode.getD f.maxCode)

/-- The tuner's overflow (R95): a finite value beyond the range becomes the largest finite value. -/
def Fmt.packClamp (f : Fmt) (neg : Bool) (mag : Nat) : Nat := f.sign neg + min mag f.maxCode

/-! ### Exact sums -/

/-- The exact sum of two finite values as integer times power of two. -/
def addExact (a : Int) (ea : Int) (b : Int) (eb : Int) : Int × Int :=
  let e := min ea eb
  (a * 2 ^ (ea - e).toNat + b * 2 ^ (eb - e).toNat, e)

def sgn (neg : Bool) (m : Nat) : Int := if neg then -(m : Int) else (m : Int)

/-- The product of two values under IEEE 754, exact. -/
def FV.mul : FV → FV → FV
  | .nan, _ => .nan
  | _, .nan => .nan
  | .inf a, .inf b => .inf (a != b)
  | .inf a, .fin b m _ => if m = 0 then .nan else .inf (a != b)
  | .fin a m _, .inf b => if m = 0 then .nan else .inf (a != b)
  | .fin a m e, .fin b n f => .fin (a != b) (m * n) (e + f)

/-- The sum of two values under IEEE 754, exact; an exact zero is +0 except that -0 + -0 is -0 (R133). -/
def FV.add : FV → FV → FV
  | .nan, _ => .nan
  | _, .nan => .nan
  | .inf a, .inf b => if a = b then .inf a else .nan
  | .inf a, .fin _ _ _ => .inf a
  | .fin _ _ _, .inf b => .inf b
  | .fin a m e, .fin b n f =>
    let s := addExact (sgn a m) e (sgn b n) f
    if s.1 = 0 then .fin (a && b && decide (m = 0) && decide (n = 0)) 0 0
    else .fin (decide (s.1 < 0)) s.1.natAbs s.2

def FV.neg : FV → FV
  | .nan => .nan
  | .inf a => .inf (!a)
  | .fin a m e => .fin (!a) m e

/-- rn() and its kin: one rounding of an exact value to a code, infinities and the canonical NaN kept. -/
def Fmt.round (f : Fmt) (r : Rnd) : FV → Nat
  | .nan => f.nanCode
  | .inf a => f.sign a + f.infCode.getD f.maxCode
  | .fin a m e => f.pack a (f.roundMag r false m 1 e)

def toW (n : Nat) : Word := BitVec.ofNat 32 n
def val (w : Word) : FV := fp32.read w.toNat
def rn (v : FV) : Word := toW (fp32.round .even v)
def bfVal (h : Half) : FV := bf16.read h.toNat
def one32 : Word := 0x3F800000#32
def negInf32 : Word := 0xFF800000#32
def posInf32 : Word := 0x7F800000#32
def nan32 : Word := 0x7FC00000#32

def FV.isNan : FV → Bool
  | .nan => true
  | _ => false
def FV.isInf : FV → Bool
  | .inf _ => true
  | _ => false
def FV.isFin : FV → Bool
  | .fin _ _ _ => true
  | _ => false
def FV.isZero : FV → Bool
  | .fin _ m _ => m == 0
  | _ => false
def FV.isNegative : FV → Bool
  | .fin a m _ => a && m != 0
  | .inf a => a
  | .nan => false

/-- a < b on values; false with a NaN; +0 equals -0. -/
def FV.lt : FV → FV → Bool
  | .nan, _ => false
  | _, .nan => false
  | .inf a, .inf b => a && !b
  | .inf a, .fin _ _ _ => a
  | .fin _ _ _, .inf b => !b
  | .fin a m e, .fin b n f => decide ((addExact (sgn a m) e (-(sgn b n)) f).1 < 0)

def FV.abs : FV → FV
  | .nan => .nan
  | .inf _ => .inf false
  | .fin _ m e => .fin false m e

/-! ### FP32 operations -/

def fadd (a b : Word) : Word := rn ((val a).add (val b))
def fsub (a b : Word) : Word := rn ((val a).add (val b).neg)
def fmul (a b : Word) : Word := rn ((val a).mul (val b))
/-- rn(x * y + z), one rounding. -/
def ffma (x y z : FV) : Word := rn ((x.mul y).add z)
/-- rn(a / n) for a natural n > 0. -/
def fdivNat (a : Word) (n : Nat) : Word :=
  match val a with
  | .fin s m e => toW (fp32.pack s (fp32.roundMag .even false m n e))
  | v => rn v
/-- rn(1.0 / s). -/
def frecip (a : Word) : Word :=
  match val a with
  | .nan => nan32
  | .inf s => toW (fp32.sign s)
  | .fin s m e => if m = 0 then toW (fp32.sign s + 0x7F800000) else toW (fp32.pack s (fp32.roundMag .even false 1 m (-e)))

/-- The stochastic rounding of R134: d = (x - a)/(b - a) against 2r + 1 over 2^17, with 2^128 standing for infinity. -/
def roundSR (v : FV) (r : Half) : Word :=
  match v with
  | .fin s m e =>
    if m = 0 then rn v else
    let lo := fp32.roundMag .down false m 1 e
    let hi := fp32.roundMag .up false m 1 e
    if lo = hi then toW (fp32.pack s lo) else
    if 0x7F7FFFFF < lo then toW (fp32.pack s hi) else
    -- magnitudes lo < |x| < hi; in value order a = lo for a positive x and a = -hi for a negative one
    let ef : Nat := lo / 2 ^ 23
    let ml : Nat := if ef = 0 then lo % 2 ^ 23 else lo % 2 ^ 23 + 2 ^ 23
    let u : Int := fp32.emin + (if ef = 0 then 0 else (ef : Int) - 1)
    let x := scaleFrac m 1 (e - u)
    -- fraction of the magnitude above lo: (x.1 - ml * x.2) / x.2
    let num := x.1 - ml * x.2
    let d := if s then x.2 - num else num
    let takeB := decide ((2 * r.toNat + 1) * x.2 < d * 2 ^ 17)
    toW (fp32.pack s (if takeB != s then hi else lo))
  | _ => rn v

/-! ### The two functions the spec bounds but does not fix (R178) -/

/-- e^(-u / 2^512) in units of 2^-512, by its series. -/
def expSeries (u : Nat) : Nat :=
  ((List.range 60).foldl (fun (p : Nat × Int) k =>
    let t := p.1 * u / 2 ^ 512 / (k + 1)
    (t, if k % 2 = 0 then p.2 - t else p.2 + t)) (2 ^ 512, 2 ^ 512)).2.toNat

/-- e^(-m * 2^e) in units of 2^-512, within 2^-280 of itself for exponents up to 150, far below every code beyond. -/
def expFixed (m : Nat) (e : Int) : Nat :=
  let p := scaleFrac m 1 (e + 504)
  if 150 * 2 ^ 504 ≤ p.1 / p.2 then 1 else (List.range 8).foldl (fun y _ => y * y / 2 ^ 512) (expSeries (p.1 / p.2))

/-- How far code c lies from a value given in units of 2^-512; none for a code that is no value of ex. -/
def exMiss (y : Nat) (c : Word) : Option Nat :=
  match val c with
  | .fin s m e =>
    let p := scaleFrac m 1 (e + 512)
    if s && m != 0 then none else some (p.1 / p.2 - y + (y - p.1 / p.2))
  | _ => none

/-- The nearest code to a value given in units of 2^-512. -/
def exNearest (y : Nat) : Word := toW (fp32.pack false (fp32.roundMag .even false y 1 (-512)))

/-- Does code c lie within the relative error of R178? Deep in the subnormals, where no code does, the two neighbours of the
value may stand (log 2). -/
def exOk (y : Nat) (c : Word) : Bool :=
  match exMiss y c, exMiss y (exNearest y) with
  | some k, some n => decide (k * 2 ^ 22 ≤ y) || (decide (y < n * 2 ^ 22) && decide (k < 2 ^ 363))
  | _, _ => false

/-- ex(x), for x at or below 0: ex(0) = 1, ex(-infinity) = +0, otherwise a free value within the error of R178. Of a NaN, which
a scaled row can give and R178 does not name, the canonical NaN (DESIGN CHOICE, log 65). -/
def fex (x : Word) : Word :=
  match val x with
  | .fin _ 0 _ => one32
  | .inf true => 0#32
  | .nan => nan32
  | .fin true m e =>
    let y := expFixed m e
    if exOk y (Config.expBits x) then Config.expBits x else exNearest y
  | _ => Config.expBits x

/-- Is code c within one ulp of 1/sqrt of m * 2^e? Compared through squares: the two neighbours of c bracket it. -/
def rsOk (m : Nat) (e : Int) (c : Word) : Bool :=
  let lo := fp32.roundMag .down true 1 m (-e)
  decide (lo ≤ c.toNat + 1 ∧ c.toNat ≤ lo + 1) &&
    (decide (fp32.roundMag .up true 1 m (-e) ≤ c.toNat + 1))

/-- rs(x): rs(+0) = +infinity; otherwise a free value that lies within 1 ulp (R178). -/
def frs (x : Word) : Word :=
  match val x with
  | .nan => nan32
  | .inf false => 0#32
  | .inf true => nan32
  | .fin s m e =>
    if m = 0 then posInf32
    else if s then nan32
    else if rsOk m e (Config.rsqrtBits x) then Config.rsqrtBits x
    else toW (fp32.roundMag .down true 1 m (-e))

/-! ### Scales (R83) -/

/-- A scale is legal when it is a zero or a positive finite BF16. -/
def scaleLegal (h : Half) : Bool :=
  match bfVal h with
  | .fin s m _ => !s || m == 0
  | _ => false

/-- The magnitude of a legal scale as (m, e); -0 reads as +0. -/
def scaleMag (h : Half) : Nat × Int :=
  match bfVal h with
  | .fin _ m e => (m, e)
  | _ => (0, 0)

/-- v = C * (sw * sa), rounded once to FP32 to nearest even (R64); C carries a factor 2^-half for the tap's halves (R202). -/
def dequant (c : Int) (cexp : Int) (sw sa : Half) : Word :=
  let a := scaleMag sw
  let b := scaleMag sa
  let m := c.natAbs * a.1 * b.1
  if m = 0 then 0#32 else toW (fp32.pack (decide (c < 0)) (fp32.roundMag .even false m 1 (cexp + a.2 + b.2)))

/-- up(): rounding toward +infinity to BF16 with the clamps of R96; the square root of the fraction when `sq`. -/
def upScale (sq : Bool) (num den : Nat) (e : Int) : Half :=
  BitVec.ofNat 16 (min 0x7F7F (bf16.roundMag .up sq num den e))

end Sys2Proof.Machine
end

