-- ==== Sys2Proof/Machine/State.lean ====
section
/-! DEFINITION. Machine/State.lean: everything the spec gives the part, as plain data. Stores are sorted lists of
(key, value) pairs that leave out the entries equal to the store's default (Machine/Ops.lean reads and writes them). -/

namespace Sys2Proof.Machine

/-- A store: sorted (key, value) pairs. -/
abbrev Cells (α : Type) := List (Nat × α)
/-- Byte memory. -/
abbrev Memory := List Host.Cell

/-- The run of a task that an event belongs to (R152, R358). -/
structure RunId where
  job : Half
  task : Nat
  n : Nat
deriving DecidableEq, Repr

/-! ## Fault sets (R356-R365) -/

/-- A fault as it is raised. -/
structure Raised where
  src : Nat
  sub : Byte
  job : Option Half
  run : Option RunId
  inj : Bool
deriving DecidableEq, Repr

structure FaultSet where
  valid : Bool
  ovf : Bool
  inj : Bool
  real : Bool
  level : BitVec 2
  jobv : Bool
  job : Half
  sub : Byte
  nlate : Byte
  stamp : Dword
  ien : Bool
  vec : BitVec 11
  grace : BitVec 14
  frozen : Bool            -- R365
  struck : Bool            -- a later fault has brought a frozen record's unit the effects of stroke (R365)
  run : Option RunId       -- task run of the latched fault (R358)
  origin : Option Dword    -- ac from which the grace timer counts; none when stopped
  recent : List (Dword × Raised)  -- faults of the block in control tick `tick`, with their beats, oldest first (R359)
  tick : Nat
deriving DecidableEq, Repr

/-! ## The drum -/

/-- One strike, with every operand derived (R46, R163); offsets are bytes from the region base. -/
structure Step where
  m : Nat
  n : Nat
  k : Nat
  row0 : Nat
  a : Nat                  -- activation width
  sgn : Bool
  zp : Bool
  wfmt : BitVec 3
  group : BitVec 2
  loadw : Bool
  acc : BitVec 2
  rd : Nat
  kto : Nat
  aTag : BitVec 6
  wTag : BitVec 6
  aOff : Nat
  wOff : Nat
  lmOff : Nat
  lmEn : Bool
  src : BitVec 2           -- weight source (R164)
  sstr : Nat               -- source row stride in bytes
  wscl : Option Nat        -- weight scale block to load
  ascl : Option Nat        -- row scale block to load
  im : Nat
  in_ : Nat
  ik : Nat
  lastStep : Bool
  ord : Nat                -- issue order of its strike
  all : BitVec 256         -- shell rows that the whole strike writes
deriving DecidableEq, Repr

/-- The tile in the latches (R49-R55, R86). -/
structure Tile where
  wfmt : BitVec 3
  group : BitVec 2
  tag : BitVec 6
  occ : BitVec 256         -- the map that skipping follows
  wsum : Bool
  step : Step              -- the load it came from: source and address (R168, R214)
deriving DecidableEq, Repr

/-- A row in the lane queues (R61, R67). -/
structure SkinRow where
  m : Nat
  step : Step
  mask : Dword
  z : List Nat
  acc : Cells (BitVec 24)  -- key s * 1024 + n
deriving DecidableEq, Repr

/-- An instruction issued to a unit (R150): its order of issue, its offset in 16 B units, its word, whether the arrays it
reads pass their parity (R357), and whether it follows a STRIKE with FUSE = 1 (R167). -/
structure UnitJob where
  ord : Nat
  pc : Nat
  w : Quad
  par : Bool
  fused : Bool
deriving DecidableEq, Repr

/-- The queues of the units beside the skin (R150). -/
structure Queues where
  tuner : List UnitJob
  roll : List UnitJob
  pad : List UnitJob
  noc : List UnitJob
deriving DecidableEq, Repr

/-- A STRIKE, TAP or CHECK in the skin's queue: its extension word, the index of its next step (R162, R163) and the shell
rows that it writes. -/
structure SkinJob where
  u : UnitJob
  x : Option Quad
  next : Nat
  rows : BitVec 256
  allLanes : Bool          -- a make-up replay's strike (R214)
deriving DecidableEq, Repr

structure Skin where
  tile : Option Tile
  cells : Cells (BitVec 4) -- key k * 1024 + n
  sums : Cells Half        -- weight-sum file, key s * 1024 + n
  load : Option Step       -- a weight load in progress
  cur : Option Step        -- the step whose rows are being fed
  nextRow : Nat
  jobs : List SkinJob      -- the strike in progress and those that wait
  started : Option SkinJob -- the job of the step begun last, as it stood before that step
  holds : Cells Nat        -- per descriptor: the least Q(0) of its next leaf, as the carry of the last one frees slot 0 (R126)
  laneQ : List SkinRow
  fin : List Nat           -- finish of each lane (R68)
  qs : List Nat            -- Q of the last rows, newest first
  fed : Nat                -- rows of the chain fed so far
  final : Nat              -- the ac, in the chain's count, in which the last shell row taken is final (R65, R165)
  used : BitVec 256        -- rows of the row scale buffer that the last step fed uses (R165)
  askip : Bool
  wskip : Bool
  askipNow : Bool          -- in force since the last STRIKE decode (R73)
  wskipNow : Bool
  pairs : Dword
  wskipped : Dword
  askipped : Dword
  stall : Dword
  rows : Dword
deriving DecidableEq, Repr

/-- Validity, tag and GROUP of a row of the row scale buffer (R86). -/
structure RowTag where
  valid : Bool
  tag : BitVec 6
  group : BitVec 2
deriving DecidableEq, Repr

/-- A quantiser record: its image (R99) and its owner (R245). -/
structure QRec where
  img : Memory
  owner : Option Half
deriving DecidableEq, Repr

/-- A shared AMAX or CLOSE that waits for its drum set (R104). -/
structure ShareWait where
  close : Bool
  qid : Nat
  ord : Nat
  u : UnitJob
  folds : Bool             -- does the AMAX fold (R102), as CAL_EN stood at its decode (R110)?
deriving DecidableEq, Repr

/-- What a conversion has seen: saturations, non-finite inputs, finite elements, elements (R112). -/
structure Seen where
  sat : Nat
  nonfin : Nat
  fin : Nat
  elems : Nat
deriving DecidableEq, Repr

/-- A TUNE that takes its rows one by one from the STRIKE before it (R167): the next row, the scales that its rows share
(R97), whether it folds, as CAL_EN stood at its decode (R110), and what the rows before it gave. -/
structure TuneRun where
  job : UnitJob
  row : Nat
  fit : List (Half × Nat)
  folds : Bool
  scales : List (List Half × List Nat)
  rows : List (List Word)
  seen : Seen
deriving DecidableEq, Repr

structure Tuner where
  file : Cells Half        -- key s * 1024 + n
  fvalid : Bool
  ftag : BitVec 6
  fgroup : BitVec 2
  fpair : Bool
  rsb : Cells Half         -- key row * 32 + s
  rsbTag : Cells RowTag
  recs : Cells QRec
  cur : Option TuneRun
  share : Option ShareWait
  shareOrd : Nat
  calEn : Bool
  qsel : BitVec 5
  sat : Dword
  nonfin : Dword
  elems : Dword
deriving DecidableEq, Repr

/-- A reduction descriptor (R120). -/
structure Desc where
  valid : Bool
  bell : Bool
  sr : Bool
  qen : Bool
  tx : Bool
  qid : Nat
  blk : Nat
  rid : Nat
  kbase : Nat
  ktot : Nat
  rxmask : Word
  parent : Word
  prid : Nat
deriving DecidableEq, Repr

/-- A SEND's identity, for its acknowledgements (R230). -/
structure SendId where
  drum : Nat
  serial : Nat
  receiver : Nat           -- logical drum, or 128 + its index for a drum of another part
deriving DecidableEq, Repr

/-- A packet between parts (R340). -/
structure Pk where
  pkind : Nat
  group : Nat
  dst : Coord
  src : Coord
  dstDrum : Nat
  srcDrum : Nat
  spec : List Byte
  data : List Byte
deriving DecidableEq, Repr

/-- The record of the stream that a DMA task names, as read at its dispatch (R314, R316, R317). -/
structure StreamUse where
  id : Half
  valid : Bool
  ptbase : Nat
  ptcnt : Nat
deriving DecidableEq, Repr

/-- One side of a transfer: its first address, the stream that translates it, and the pages walked so far with their
frames. -/
structure Side where
  base : Nat
  stream : Option StreamUse
  pages : List (Nat × Nat)
deriving DecidableEq, Repr

/-- What a DMA engine is doing: a plain copy, or an expansion that reads its container, writes the image from byte 64 on,
and writes its first bytes last (R197, R198). -/
inductive MovePhase where
  | copy | gather | body | head
deriving DecidableEq, Repr

/-- A DMA task under way on an engine (R255, R260). -/
structure Move where
  engine : Nat
  job : Half
  task : Nat
  live : Bool
  src : Side
  dst : Side
  len : Nat
  expand : Bool
  fallback : Bool
  phase : MovePhase
  pos : Nat                -- bytes of the phase that have been moved
  data : List Byte         -- the container as far as read, or the image from byte 64 on
  first : List Byte        -- the image's first bytes
  spoilt : Bool            -- a metadata fault has been found
  beyond : Nat             -- indices dropped by the fall-back (R199)
deriving DecidableEq, Repr

/-- The architectural state of a stick core, an RV64GCV hart (R8): the program counter, the integer registers, the
floating-point registers, the vector registers and the control registers by number. VLEN is the least that the V extension
allows, and no command of the table runs an instruction of the hart (log 69). -/
structure StickCore where
  pc : Dword
  x : Cells Dword
  f : Cells Dword
  v : Cells (BitVec 128)
  csr : Cells Dword
deriving DecidableEq, Repr

/-- The sticks' caches (R21, R39): the 64-byte lines of LPDDR5 that the private cache of each stick and the shared cache hold,
the last used first. A line holds what memory holds (log 69). -/
structure StickCaches where
  own : Cells (List Nat)
  shared : List Nat
deriving DecidableEq, Repr

/-- What travels on the NoC, from or to a drum (R127, R140, R229, R230). `link` is a packet for another part, on its way
to the base die. -/
inductive Body where
  | send (id : SendId) (dst : Nat) (tally : Nat) (data : List Byte)
  | ack (id : SendId) (accepted : Bool)
  | node (prid level m n row0 : Nat) (flags : Word) (vals : Cells Word)
  | nodeRefusal
  | stats (qid m n group : Nat) (rid : Nat) (his los : List Word)
  | link (p : Pk)
deriving DecidableEq, Repr

/-- A packet on the NoC. `job` is none for a packet of another part's job until it is resolved by its group (R343). -/
structure Packet where
  src : Nat                -- physical drum, or 136 for the base die
  dst : Nat                -- physical drum, or 136
  job : Option Half
  group : Nat
  from_ : Coord            -- source part
  fromDrum : Nat           -- logical drum that sent it
  body : Body
  span : Nat × Nat := (0, 0)  -- a node: its serial among those its drum has sent; statistics: the first and last they answer (R140)
deriving DecidableEq, Repr

/-- The stack of one descriptor's block (R123-R128). -/
structure Stack where
  started : Bool
  ended : Bool
  next : Nat               -- next expected KT
  row0 : Nat
  m : Nat
  n : Nat
  pend : Word              -- bit l: slot l + 1 holds a pending left child
  rcv : Word               -- bit l: the receive slot of level l is full
  seen : Word              -- bit l: a node of level l has arrived in this block
  climb : Option Nat       -- own_done waits at this level
  level : Nat              -- level of the node in slot 0
  misaligned : Bool
  done : Bool
  senders : List (Coord × Nat × Nat)  -- part, logical drum and serial of each node taken in (R140)
  early : List Packet      -- nodes taken in before the block's first strike fixes their slots' rows (R128)
deriving DecidableEq, Repr

/-- A final node sent to its parent, kept for the statistics that travel back down the tree (R140). -/
structure SentNode where
  serial : Nat
  job : Half
  part : Coord
  parent : Nat             -- the parent's logical drum
  prid : Nat
  rid : Nat
  senders : List (Coord × Nat × Nat)
deriving DecidableEq, Repr

/-- A leaf complete in slot 0 (R124). -/
structure Leaf where
  rd : Nat
  kt : Nat
  last : Bool
  ord : Nat                -- issue order of its strike
deriving DecidableEq, Repr

structure Shell where
  rows : Cells Word        -- key row * 1024 + column
  tstat : Cells Word
  check : Cells Word       -- the check row (R114)
  descs : Cells Desc
  blocks : Cells Stack
  leaves : List Leaf
  sent : List SentNode
  nodes : Nat              -- nodes that the drum has sent (R140)
  clearing : Bool
  seed : Dword
  adds : Dword
  sradds : Dword
  rxnodes : Dword
  aligns : Dword
deriving DecidableEq, Repr

structure Roll where
  cur : Option UnitJob     -- the ROLL in progress
  table : List Byte        -- the table of its GELU or SILU (R183)
  func : Byte
  row : Nat                -- its next logical row
  elems : Dword
  nonfin : Dword
  empty : Dword
  tails : Dword
deriving DecidableEq, Repr

structure Tap where
  seq : Half
  replay : Option Nat      -- MOUT of the CHECK whose make-up replay runs (R214)
  tile : Option Step       -- the load of the tile that the last TAP struck
  tiles : Cells (Option Step)  -- per map, by MOUT: the load of the tile that its last TAP struck (R214)
  serial : Word
  loads : Word             -- pattern loads of the drum (R206)
  kept : Dword
  audited : Dword
  misses : Dword
  mass : Dword
  makeups : Dword
deriving DecidableEq, Repr

/-- State of a region slot (R227). -/
inductive SlotState where
  | free | bound | held | damp | purge
deriving DecidableEq, Repr

structure Slot where
  base : Nat
  bound : Nat
  resv : Nat
  tbase : Nat
  tcnt : Nat
  state : SlotState
  job : Half
  key : Word               -- residency key (R246)
  heldAt : Nat             -- order in which slots became HELD (R253)
  purgeMark : Bool         -- R235
  ending : Bool            -- its job has ended; the shell clearing comes first (R239)
deriving DecidableEq, Repr

/-- A bank's power state (R236). -/
inductive Bank where
  | awake | gated | waking
deriving DecidableEq, Repr

structure Pad where
  mem : Memory
  idle : Byte
  slots : List Slot
  tallies : Cells Word
  saveEn : Bool
  saveHeld : Bool
  saveDirty : Bool         -- the save area waits for the damper (R239)
  banks : Cells Bank
  wakes : Cells Dword      -- beat at which a waking bank's wake started
  touched : Cells Dword    -- beat of each bank's last access (R236, R241)
  failed : List Nat        -- words that fail their re-read, until they are written (R235)
  eject : List Packet      -- arrivals held for a wake (R237)
  held : List Packet       -- bell nodes held at the station (R128)
  rereads : Dword
  conflicts : Dword
  arbwait : Dword
  latewr : Dword
  discards : Dword
  damped : Dword
  conf : Cells Dword
deriving DecidableEq, Repr

structure Waiting where
  tally : Nat              -- absolute counter number
  value : Word
  dec : Bool
  tmo : Nat
  since : Dword
deriving DecidableEq, Repr

structure Fencing where
  remote : Bool
  local_ : Bool
  isEnd : Bool
deriving DecidableEq, Repr

/-- A claim for a tile (R256, R257). -/
structure Claim where
  job : Half
  task : Nat
  seq : Nat
  fails : Nat
deriving DecidableEq, Repr

/-- An instruction withdrawn by a preemption, with what its re-issue keeps: its offset, its order of issue, and whether it
follows a STRIKE with FUSE = 1 (R167, R266). -/
structure Withdrawn where
  pc : Nat
  ord : Nat
  fused : Bool
deriving DecidableEq, Repr

structure Seq where
  run : Option RunId
  cls : Nat
  miss : Nat
  tile : Nat
  pc : Nat                 -- region offset in 16 B units
  bucket : Nat
  lastop : Byte
  waiting : Option Waiting
  fencing : Option Fencing
  stopped : Bool           -- a fault ended issue (R152)
  ended : Bool             -- the run has ended; TASK_END follows
  outstanding : List SendId
  sendSerial : Nat
  cache : List (Nat × BitVec 512)
  issued : Dword
  misses : Dword
  walkIm : Byte
  walkIn : Byte
  walkIk : Byte
  madeup : Bool
  tapMisses : Nat
  refused : List Nat       -- nodes refused (R127)
  lastJob : Option Half    -- job of the last task run (R244)
  wrote : BitVec 256       -- shell rows the run has written (R259)
  ord : Nat                -- order of the next issue
  fuse : Bool              -- the instruction issued last was a STRIKE with FUSE = 1 (R167)
  reissue : List Withdrawn -- withdrawn instructions, in their order (R266)
  lastPc : Nat             -- offset of the instruction issued last
deriving DecidableEq, Repr

/-- A preempted task's state that stands beside the shell bytes of the save area (R142, R168, R240). -/
structure Saved where
  descs : Cells Desc
  blocks : Cells Stack
  leaves : List Leaf
  seed : Dword
  file : Cells Half
  fvalid : Bool
  ftag : BitVec 6
  fgroup : BitVec 2
  fpair : Bool
  rsb : Cells Half
  rsbTag : Cells RowTag
  seq : Seq
  tapSeq : Half
  serial : Word
  replay : Option Nat
  tapTile : Option Step
  tapTiles : Cells (Option Step)
  tile : Option Tile
  jobs : List SkinJob      -- a walk between two of its steps
  askipNow : Bool          -- the settings that the walk's STRIKE has latched (R73)
  wskipNow : Bool
  rollCur : Option UnitJob -- a ROLL between two of its rows (R191)
  rollTable : List Byte
  rollFunc : Byte
  rollRow : Nat
  shareOrd : Nat
deriving DecidableEq, Repr

/-- STATE of DRM_IDENT. -/
inductive DrumState where
  | active | spare | retired
deriving DecidableEq, Repr

/-- A run of a task on a drum: its job, the job's group, the task, and the beat at which it ended (R374). -/
structure RanTask where
  job : Half
  group : Nat
  task : Nat
  ended : Dword
deriving DecidableEq, Repr

structure Sound where
  variant : BitVec 2
  fail : Bool
  lastPass : Dword
  prevPass : Option Dword  -- start of the older of the last two passing checks (R374)
  passes : Nat
  runs : Dword
  reruns : Dword
  again : Bool             -- the last check was run again
  failIn : Nat             -- ac until a check and its rerun, both failing, are over; 0 when none is (R374)
  ran : List RanTask       -- runs that a later failure can still reach (R374)
deriving DecidableEq, Repr

structure Drum where
  logical : Byte
  status : DrumState
  skin : Skin
  tuner : Tuner
  shell : Shell
  roll : Roll
  tap : Tap
  pad : Pad
  queues : Queues
  seq : Seq
  saved : Option Saved
  preempting : Option (Half × Nat)   -- the class-0 task that waits for the save
  claim : Option Claim
  liveHeld : Option Bool             -- a held change of the reserve bit (R261)
  boundaryDue : Bool                 -- a job of the drum ended while another job's task ran (R244)
  sound : Sound
deriving DecidableEq, Repr

/-! ## Scores, jobs and tasks (R246-R259) -/

inductive TaskBody where
  | drum (set : BitVec 128) (btab e tiles tile0 : Nat)
  | stick (mask : Half) (entry arg : Dword)
  | dma (src dst len : Nat) (expand fallback : Bool)
  | barrier
deriving DecidableEq, Repr

structure TaskRec where
  cls : Nat
  miss : Nat
  cmpl : Bool
  stream : Option Half
  deps : Nat
  succs : List Nat
  work : Nat
  utag : Word
  ledger : Nat
  body : TaskBody
deriving DecidableEq, Repr

inductive TaskState where
  | waiting                -- dependences remain
  | ready
  | running                -- dispatched somewhere
  | ended
deriving DecidableEq, Repr

/-- CODE of a status word (R259). -/
inductive Code where
  | done | doneEmpty | faulted | aborted | cancelled | refused | scoreFault
deriving DecidableEq, Repr

structure Task where
  trec : TaskRec
  remaining : Nat
  state : TaskState
  started : List Nat       -- logical drums dispatched to
  finished : List Nat      -- logical drums that finished their share
  unit : Option Nat        -- stick or engine
  code : Code              -- the code it will end with
  flags : BitVec 5         -- INF, NAN, LONG, ALIGN, SR of R259, as bits [8:4]
  madeup : Bool
  dup : Bool
  dropped : Bool
  overrun : Bool
  count : Nat
  finish : Option Dword    -- promised finish (R264)
  readyAt : Dword
  endBeat : Dword
  ran : List Nat           -- physical drums that ran it (R376)
deriving DecidableEq, Repr

structure Score where
  ntask : Nat
  seed : Dword
  ndrum : Nat
  live : Bool
  rblk : Nat
  rres : Nat
  tcnt : Nat
  reskey : Word
  deadline : Nat
  stream : Option Half
  mask : BitVec 128
  tasks : List TaskRec
deriving DecidableEq, Repr

structure Job where
  num : Half
  ring : Nat
  sqidx : Half
  serial : Nat             -- of its entry on the ring
  utag : Word
  group : Nat
  order : Nat              -- order of admission (R255)
  score : Score
  tasks : List Task
  aborted : Bool
  reserved : Nat           -- records still reserved for it
deriving DecidableEq, Repr

/-! ## Rings (R279-R298) -/

structure Record where
  status : Word
  utag : Word
  task : Word
  job : Half
  beat : Dword
  sqidx : Word
  kind : BitVec 2
  nojob : Bool
  cls0 : Bool
  group : Nat
  sound : List (Nat × Nat)  -- drum and the passes it had at the task's end (R376)
  holdTo : Option Dword     -- R352
  aborted : Bool
  jobNum : Half
  serial : Nat              -- of the score's entry on the ring
deriving DecidableEq, Repr

/-- A score that waits at its ring's head (R253, R282). -/
structure Head where
  score : Score
  finishes : List Dword     -- promised finishes when admitted
  engs : List (Option Nat)  -- DMA engine of each class-0 DMA task (R264)
  utag : Word
  sqidx : Half
  serial : Nat              -- of its entry on the ring
  ordered : Bool
  order : Nat               -- order of admission of a class-0 score (R265)
deriving DecidableEq, Repr

structure Ring where
  sqbase : Dword
  cqbase : Dword
  en : Bool
  live : Bool
  cqsz : BitVec 4
  sqsz : BitVec 4
  cqNow : BitVec 4          -- CQSZ, SQSZ and LIVE as read when EN was set: those that the ring works with (R280)
  sqNow : BitVec 4
  liveNow : Bool
  urg : Bool
  time : BitVec 10
  cnt : Byte
  vec : BitVec 11
  err : Bool
  sqhead : Half
  sqtail : Half
  cqhead : Half
  cqtail : Half
  phase : Bool
  reserved : Nat
  head : Option Head
  out : List Record         -- records waiting to be written, in order
  drains : List (Word × Half × Nat)  -- DRAIN entries waiting: UTAG, SQIDX and serial
  kills : List (Half × Word × Half)
  count : Nat
  oldest : Option Dword
  taken : Nat               -- serial of the next entry taken
  unreleased : Nat          -- records written and not yet released
  pendingScores : List Nat  -- serials of scores not yet recorded (R293)
deriving DecidableEq, Repr

structure MsixEntry where
  addr : Dword
  data : Word
  masked : Bool
deriving DecidableEq, Repr

/-- A message the part sends on PCIe or an answer it gives; the newest stands first. -/
inductive Out where
  | msix (vec : Nat) (addr : Dword) (data : Word)
  | hostWrite (addr : Nat) (data : List Byte) (relaxed : Bool)
  | flit (port : Nat) (f : Flit) (blocks : List (Nat × List Byte))  -- with the blocks it completes and their lanes (R323)
  | hello (port : Nat) (h : Hello)
  | syncOut
  | faultN (low : Bool)
  | hostRead (src : Coord) (addr len : Nat)
  | retry
deriving DecidableEq, Repr

/-- A forwarded read: the follower, the offset, the width, and the ac of its issue. -/
structure FwdRead where
  dst : Coord
  off : Nat
  width : Nat
  since : Dword
deriving DecidableEq, Repr

/-- Who reads host memory: a ring's entry or score, a DMA engine, a stick, a ledger mark, the boot engine. -/
inductive Reader where
  | ring (q : Nat) | engine (e : Nat) | stick (k : Nat) | ledger | boot
deriving DecidableEq, Repr

/-- A follower's read of host memory through its lead, and what of its data has come. -/
structure HostAsk where
  who : Reader
  addr : Nat
  len : Nat
  data : List (Option Byte)  -- the bytes that have come; a lead's reads are cut to the Max read request size (R272)
deriving DecidableEq, Repr

/-- A read of host memory that a lead has taken from a follower: its source and the range of one request (R272, R296). -/
structure Fetch where
  src : Coord
  addr : Nat
  len : Nat
deriving DecidableEq, Repr

structure Pcie where
  linkUp : Bool
  width : BitVec 6
  speed : BitVec 4
  perst : Bool              -- PCIE_PERST_N asserted
  role : BitVec 2
  nfol : BitVec 6
  coord : Coord
  splitph : Bool
  roEn : Bool
  fwdValid : Bool
  fwdSel : Coord
  fwdReads : List FwdRead   -- forwarded reads without an answer, oldest first (R297)
  fetches : List Fetch      -- a lead's requests for its followers, oldest first: the first 512 are outstanding (R272)
  asks : List HostAsk       -- host reads that a follower has sent to its lead, oldest first (R296)
  badacc : Dword
  dbdrop : Dword
  cplwr : Dword
  msixCount : Dword
  fwdtmo : Dword
  table : Cells MsixEntry
  pba : Cells Bool
  funcMask : Bool
  msixEn : Bool             -- MSI-X Enable of the message control
  config : Cells Word
  quiet : Bool              -- a link down fault has ended the part's messages, until a ring is enabled again (R275)
deriving DecidableEq, Repr

/-! ## Metronome and work counter -/

/-- A work counter of a claimed task (R256, R257). -/
structure Counter where
  job : Half
  task : Nat
  value : Nat
  stored : Cells (Nat × Nat)  -- per logical drum: sequence number and answer
deriving DecidableEq, Repr

structure ShareEntry where
  job : Half
  task : Nat
  ord : Nat
  close : Bool
  drum : Nat               -- logical
  his : List Word
  los : List Word
  sat : Nat
  count : Nat
  faulted : Bool
deriving DecidableEq, Repr

structure Met where
  en : Bool
  lslots : BitVec 13
  maxsc : BitVec 6
  liveEn : Bool
  mask : BitVec 128        -- live reserve in force
  hold : Bool              -- MET_SAFE.HOLD
  jobs : List Job
  nextJob : Half
  nextOrder : Nat
  heldSerial : Nat
  horizon : Cells Nat      -- drums 0-127; 128 + e for engine e
  shares : List ShareEntry
  sticks : Cells (Option (Half × Nat))
  engines : Cells (Option (Half × Nat))
  cores : Cells StickCore
  moves : List Move        -- transfers under way, oldest first
  lastRing : Nat           -- the ring read last (R254)
  dispatched : Dword
  refused : Dword
  preempts : Dword
  overruns : Dword
  startmax : Dword
  readymax : Dword
  ringwait : Dword
  counters : List Counter
  claims : Dword
  retries : Dword
  dups : Dword
deriving DecidableEq, Repr

/-! ## Main memory, page and stream tables -/

structure Channel where
  patrol : Byte
  ueThr : Byte
  trainfails : BitVec 4
  retire : Bool
  retired : Bool
  trained : Bool
  ready : Bool
  ueValid : Bool
  ueAddr : BitVec 48
  rdblk : Dword
  wrblk : Dword
  rmw : Dword
  ce : Dword
  ue : Dword
  reread : Dword
  linkretry : Dword
  liveblk : Dword
  bkpress : Dword
  scrubbed : Dword
  ueSince : Nat            -- MCH_UE since cold reset (R311)
  exhausted : Nat          -- link retries exhausted since cold reset
  bad : List Nat           -- blocks that hold an uncorrectable word
  fix : List Nat           -- blocks whose correction waits for write-back
  temp : Int
  fastRefresh : Bool
deriving DecidableEq, Repr

structure MainMem where
  data : Memory
  chans : List Channel
  dense16 : Bool           -- devices of 16 GiB
  map : List Nat           -- channels in service, ascending
  up : Bool
  training : Option (Dword × Bool)  -- outcome of a bring-up that runs, by channel, and whether contents may stay (R306, R308)
  pgt : Cells Dword
  str : Cells Dword        -- key s * 16 + word
  pgtBusy : Bool
  strBusy : Bool
  idx : BitVec 21
  autoinc : Bool
  stickIdx : Cells (Bool × BitVec 21)
  walks : Dword
  faults : Dword
deriving DecidableEq, Repr

/-! ## Links and the fabric -/

inductive PortState where
  | down | training | up | retraining | retired | wiringFault
deriving DecidableEq, Repr

/-- Source and destination of a packet: part and logical drum of each, 255 for the base die (R338). -/
structure Pair where
  src : Coord
  srcDrum : Nat
  dst : Coord
  dstDrum : Nat
deriving DecidableEq, Repr

/-- A flit in a queue or a replay buffer. -/
structure Queued where
  flit : Flit
  pair : Pair               -- the pair its packet belongs to
  first : Bool              -- it begins a packet, or the rest of one that a retired port began
  moved : Bool              -- it came from a retired port: until it is acknowledged, new packets of the pair wait (R330)
  tag : Option (Nat × Nat)  -- the port and channel at which its packet came, for one in transit (R337)
  owes : Option (Nat × Nat) -- the port and channel whose receive buffer it still takes (R331)
deriving DecidableEq, Repr

/-- Where the rest of a packet in transit goes that has not come whole (R337). -/
structure Onward where
  pair : Pair
  tag : Nat × Nat
  out : Option (Nat × Nat)  -- port and channel by which it leaves; none where it waits or no port leads on
  waits : Bool              -- it waits under R330
  fresh : Bool              -- what has come of it was acknowledged on a port that is retired: the rest follows on another
deriving DecidableEq, Repr

structure Port where
  state : PortState
  dir : BitVec 3
  lanes : Byte
  peer : Coord
  impSeed : Word
  impCtl : Bool
  impReorder : BitVec 5
  impCorrupt : BitVec 5
  impDrop : BitVec 5
  impEn : Bool
  lfsr : Word
  heldFlits : List Flit     -- flits that REORDER holds back, the newest first (R353)
  counters : Cells Dword    -- key 0-11 in the order of the register tables
  txSeq : Nat
  rxSeq : Nat
  nakSent : Bool
  replay : List Queued      -- sent and not acknowledged, oldest first
  resend : List Queued      -- to be sent again, oldest first
  noProgress : Nat
  failedRetrains : Nat
  credits : List Nat        -- per VC
  owed : List Nat           -- credits to return, per VC
  txq : List (List Queued)  -- flits waiting, per VC
  midTx : List Bool         -- has the packet in front of each VC been sent in part?
  rxPart : List (List Byte) -- payload of the packet arriving, per VC
  ways : List (Option Onward)  -- where the packet in transit that arrives goes on, per VC (R337)
  cutRx : List (Nat × List Byte)  -- VC and payload so far of packets that a retired port cut, in order (R330)
  cutWays : List (Nat × Onward)      -- the same of packets in transit
  ingress : List (Nat × List Byte)  -- VC and bytes of packets held in the receive buffer, oldest first (R343)
  stuck : List Nat          -- flits in the receive buffer whose credits are not returned, per VC
  through : List Nat        -- flits in transit that stay in the receive buffer until they have left, per VC (R331, R337)
  fecAt : List (Option Dword)  -- time of each lane's last uncorrectable codeword since the last retrain (R329)
  txTail : List Byte        -- bytes of the stream that fill no 257-bit block yet (R323)
  txBlocks : Nat            -- blocks since the lanes trained
  altLive : Bool
  altReq : Bool
  altRsp : Bool
  delay : Nat               -- measured one-way delay in ticks
  peerSynced : Bool
deriving DecidableEq, Repr

structure AbortId where
  origin : Coord
  serial : Half
deriving DecidableEq, Repr

/-- A packet that is to be routed: its class, whether it arrived on subchannel b, the direction of the port it arrived at, its
flits so far, and whether more of them are to come. -/
structure WaitTx where
  live : Bool
  subB : Bool
  came : Option Nat
  flits : List Queued
  more : Bool
deriving DecidableEq, Repr

structure Fabric where
  dims : Coord
  depth : BitVec 6
  parent : BitVec 5
  root : Bool
  synced : Bool
  offset : Int
  outOfStep : Nat           -- alignment packets in a row beyond 4 ticks
  ports : List Port
  abortSerial : Half
  seen : List AbortId
  aborts : List (Nat × Dword)  -- group and fault stamp received
  closed : List Nat
  groups : Cells (BitVec 10)   -- LNK_RGRP per ring
  waitingTx : List WaitTx   -- packets that wait under R330, oldest first
  abortTx : Dword
  abortRx : Dword
  nogrp : Dword
  badpkt : Dword
  lockBeat : Option Dword
  late : Bool               -- the sync fault of R404 has been raised
  rejoin : Bool             -- a handshake has found a SYNCED peer before the part was SYNCED (R349)
  pulsed : Bool             -- SYNC_OUT has risen since the lock (R403)
deriving DecidableEq, Repr

/-! ## Clocks and power -/

structure Power where
  ac : Dword                -- ac since the lock: what the timers outside the tasks count in; never stepped
  pwrok : Bool
  resetN : Bool
  pwrcapN : Bool
  locked : Bool
  refOk : Bool
  pcieRef : Bool
  tripped : Bool
  rstcause : BitVec 5
  cap : BitVec 7
  fastd : BitVec 6
  bmcCap : BitVec 7
  fastdNow : BitVec 6
  alertNow : BitVec 7
  alert : BitVec 7
  dcap : Nat
  dtherm : Nat
  duty : BitVec 7
  fastSince : Option Dword  -- ac of the falling edge of PWRCAP_N while it is low
  shownD : BitVec 7         -- status fields, as of the last update
  shownTmax : Int
  shownSensor : BitVec 5
  capped : Bool
  hot : Bool
  fast : Bool
  tmax : Int
  tsensor : BitVec 5
  floor : Bool
  est : Half
  temps : List (Bool × Int)
  hotSince : Option Dword
  thermN : Bool             -- driven low
  gpioOe : Byte
  gpioOut : Byte
  gpioIn : Byte
  idleSlots : Dword
  capTime : Dword
  hotTime : Dword
  faultnHold : Bool
  faultnPulse : Bool
  gongValid : Bool
  gongSource : BitVec 9
  gongSub : Byte
  gongCount : Byte
  gongTick : Option Nat     -- the control tick of the last gong (R364)
deriving DecidableEq, Repr

/-! ## Boot, identity, updates -/


/-- An entry of SECTIONS (R385). -/
structure ImageSection where
  off : Nat
  len : Nat
  digest : BitVec 512
deriving DecidableEq, Repr

/-- An image slot: its bytes, and what the manifest in them holds (R385). -/
structure FlashSlot where
  present : Bool
  magic : Bool              -- MAGIC and LAYOUT hold the Konik's values
  svn : Half
  imgver : BitVec 48
  factory : Bool
  devbind : Bool
  flagsOk : Bool            -- the other bits of FLAGS are zero
  devid : BitVec 128
  subsystem : Word
  sections : List ImageSection
  keyEd : List Byte
  keyMldsa : List Byte
  sigEd : Bool              -- each signature verifies with its key over the fields above
  sigMldsa : Bool
  bytes : List Byte
deriving DecidableEq, Repr

/-- Records of the flash (R381, R387). -/
inductive RecordKind where
  | factory | repair | place
deriving DecidableEq, Repr

/-- A record: its body, the counter value at the time it was written, and whether its two signatures verify, a factory map's with
the root-chain keys and a field record's with the device keys. -/
structure FlashRecord where
  kind : RecordKind
  body : List Byte
  counter : Half
  sigEd : Bool
  sigMldsa : Bool
deriving DecidableEq, Repr

/-- The key store (R383): the device secret and the three values derived from it. -/
structure KeyStore where
  secret : BitVec 256
  ed : BitVec 256
  mldsa : BitVec 256
  rpmc : BitVec 256
deriving DecidableEq, Repr

inductive UpdateOp where
  | writeImage (len : Nat)
  | commit
  | abandon
  | writeRepair (len : Nat)
  | writePlace (len : Nat)
deriving DecidableEq, Repr

structure Boot where
  mode : BitVec 2
  trial : Bool
  slot : Bool               -- false A, true B
  floor : Half
  svn : Half
  imgver : BitVec 48
  devid : BitVec 128
  updAddr : Dword
  result : BitVec 4
  busy : Option UpdateOp
  bar0 : Bool
  booting : Bool
  pufOk : Bool
  -- flash
  layout : Word             -- the header's layout version, and the offsets of the other areas in the order of R381
  areas : List Nat
  active : Bool
  trialSlot : Option Bool
  tried : Bool
  slotA : FlashSlot
  slotB : FlashSlot
  counter : Half
  helper : List Byte        -- PUF helper data
  certEd : List Byte        -- root, intermediate and device certificate, one chain per algorithm
  certMldsa : List Byte
  rootEd : List Byte        -- Odzel's root public keys, as the ROM's digests name them (R382)
  rootMldsa : List Byte
  records : List FlashRecord -- the records area, oldest first
  coldRecords : List FlashRecord -- what it held at the last cold reset (R394)
  published : Bool          -- the records have been published since the cold reset (R389)
  inForce : List Word       -- the repair map in force since the last cold reset
  placeNow : Option (List Byte)  -- the placement record in force
  -- identity
  keys : Option KeyStore
  aliasEd : BitVec 256
  aliasMldsa : BitVec 256
  aliasCertEd : List Byte   -- the alias certificates of R384
  aliasCertMldsa : List Byte
  meas : List (BitVec 512 × BitVec 512)
  -- attestation
  vca : List Byte           -- messages GET_VERSION to ALGORITHMS since the last GET_VERSION (R396)
  certMsgs : List Byte      -- certificate messages since the last signed answer
  measMsgs : List Byte      -- measurement messages since the last signed one
  signedHash : Option (BitVec 512)  -- transcript hash of the signed answer just given, for PQSIG
  spdmWait : List Instr     -- requests held while a flash operation runs (R396)
  -- diagnostic mode
  diag : Bool
  entered : Bool
  lpbase : BitVec 11
  winerr : Dword
  bcastMask : Byte
  bcastDiff : BitVec 3
deriving DecidableEq, Repr

/-! ## The environment -/

/-- What one block access meets: the link errors of each of its bursts, and what its check bytes show (R305, R309). -/
structure BlockFate where
  errs : List Nat
  ecc : EccVerdict
deriving DecidableEq, Repr

/-- What the coming accesses of engines, sticks, rings, ledgers and windows meet, in their order, where no command of the
table says it; past its end each meets nothing. The environment's own list, as the queue of commands is (log 62). -/
structure Fates where
  blocks : List BlockFate   -- LPDDR5 block accesses
  mesh : List NocVerdict    -- ways to a pad or a shell and back
  arrays : List Bool        -- does the shell that a preemption saves pass its parity (R357)?
deriving DecidableEq, Repr

/-! ## The part -/

structure State where
  pending : List Instr
  beat : Dword
  free : Nat                -- draws of Config.freeValue so far; the model's own field (log 2)
  drums : List Drum
  noc : List Packet
  met : Met
  caches : StickCaches
  rings : Cells Ring
  dbmap : Cells Word
  pcie : Pcie
  mem : MainMem
  fab : Fabric
  faults : Cells FaultSet
  crashed : Bool
  power : Power
  boot : Boot
  fates : Fates             -- the environment's; the model's own field (log 62)
  hostMem : Memory          -- the host's memory behind the IOVA window
  resp : List Byte          -- the last answer given to a reader
  sent : List Out           -- what the part has sent, newest first
deriving DecidableEq, Repr

/-- Why the model stops. -/
inductive Fault where
  /-- A command names a drum above 0x87, a port above 19, a channel above 63, a ring above 4,095, a stick above 15 or a
  fault source that R356 does not list. Raised by the command's meaning; safe: no such command can reach the part. -/
  | noSuchUnit
  /-- A private JTAG instruction in factory test mode: R393 offers it and says nothing of what it does. Raised by
  JTAG_INSTRUCTION; safe. -/
  | privateInstruction
deriving DecidableEq, Repr

inductive Refusal where
  /-- A row of the table without a meaning yet; raised by Dispatch only; safe. -/
  | notModelled (mnemonic : String)
deriving DecidableEq, Repr

/-! ## Reset values -/

def FaultSet.reset : FaultSet :=
  { valid := false, ovf := false, inj := false, real := false, level := 0, jobv := false, job := 0, sub := 0, nlate := 0,
    stamp := 0, ien := false, vec := 0, grace := 100, frozen := false, struck := false, run := none, origin := none,
    recent := [], tick := 0 }

def Skin.reset : Skin :=
  { tile := none, cells := [], sums := [], load := none, cur := none, nextRow := 0, jobs := [], started := none,
    holds := [], laneQ := [], fin := [], qs := [], fed := 0, final := 0, used := 0, askip := true, wskip := true, askipNow := true, wskipNow := true,
    pairs := 0, wskipped := 0, askipped := 0, stall := 0, rows := 0 }

def RowTag.reset : RowTag := ⟨false, 0, 0⟩
def QRec.reset : QRec := ⟨[], none⟩

def Tuner.reset : Tuner :=
  { file := [], fvalid := false, ftag := 0, fgroup := 0, fpair := false, rsb := [], rsbTag := [], recs := [],
    cur := none, share := none, shareOrd := 0, calEn := true, qsel := 0, sat := 0, nonfin := 0, elems := 0 }

def Desc.reset : Desc :=
  { valid := false, bell := false, sr := false, qen := false, tx := false, qid := 0, blk := 0, rid := 0, kbase := 0,
    ktot := 0, rxmask := 0, parent := 0, prid := 0 }

def Stack.reset : Stack :=
  { started := false, ended := false, next := 0, row0 := 0, m := 0, n := 0, pend := 0, rcv := 0, seen := 0,
    climb := none, level := 0, misaligned := false, done := false, senders := [], early := [] }

def Shell.reset : Shell :=
  { rows := [], tstat := [], check := [], descs := [], blocks := [], leaves := [], sent := [], nodes := 0, clearing := false, seed := 0,
    adds := 0, sradds := 0, rxnodes := 0, aligns := 0 }

def Roll.reset : Roll :=
  { cur := none, table := [], func := 0, row := 0, elems := 0, nonfin := 0, empty := 0, tails := 0 }
def Tap.reset : Tap :=
  { seq := 0, replay := none, tile := none, tiles := [], serial := 0, loads := 0, kept := 0, audited := 0, misses := 0,
    mass := 0, makeups := 0 }
def Queues.reset : Queues := ⟨[], [], [], []⟩

def Slot.reset : Slot :=
  { base := 0, bound := 0, resv := 0, tbase := 0, tcnt := 0, state := .free, job := 0, key := 0, heldAt := 0,
    purgeMark := false, ending := false }

def Pad.reset : Pad :=
  { mem := [], idle := 0, slots := List.replicate 8 Slot.reset, tallies := [], saveEn := false, saveHeld := false,
    saveDirty := false, banks := [], wakes := [], touched := [], failed := [], eject := [], held := [], rereads := 0, conflicts := 0, arbwait := 0, latewr := 0,
    discards := 0, damped := 0, conf := [] }

def Seq.reset : Seq :=
  { run := none, cls := 0, miss := 0, tile := 0, pc := 0, bucket := 0, lastop := 0, waiting := none, fencing := none,
    stopped := false, ended := false, outstanding := [], sendSerial := 0, cache := [], issued := 0, misses := 0,
    walkIm := 0, walkIn := 0, walkIk := 0, madeup := false, tapMisses := 0, refused := [], lastJob := none, wrote := 0, ord := 0,
    fuse := false, reissue := [], lastPc := 0 }

def Sound.reset : Sound :=
  { variant := 0, fail := false, lastPass := 0, prevPass := none, passes := 0, runs := 0, reruns := 0, again := false, failIn := 0, ran := [] }

/-- A drum right after reset, before the boot ROM publishes the map: no logical number. -/
def Drum.reset : Drum :=
  { logical := 0xFF, status := .spare, skin := Skin.reset, tuner := Tuner.reset, shell := Shell.reset, roll := Roll.reset,
    tap := Tap.reset, pad := Pad.reset, queues := Queues.reset, seq := Seq.reset, saved := none, preempting := none,
    claim := none, liveHeld := none, boundaryDue := false, sound := Sound.reset }

/-- The factory spares of R27. -/
def factorySpares : List Nat := [0x00, 0x08, 0x3B, 0x43, 0x44, 0x4C, 0x7F, 0x87]

/-- Logical number of physical drum p in a part with no repairs (R27); 0xFF for a spare. -/
def factoryLogical (p : Nat) : Byte :=
  if factorySpares.contains p then 0xFF
  else BitVec.ofNat 8 (((List.range p).filter fun i => !factorySpares.contains i).length)

def Drum.factory (p : Nat) : Drum :=
  { Drum.reset with logical := factoryLogical p, status := if factorySpares.contains p then .spare else .active }

def Ring.reset : Ring :=
  { sqbase := 0, cqbase := 0, en := false, live := false, cqsz := 0, sqsz := 0, cqNow := 0, sqNow := 0, liveNow := false, urg := false, time := 0, cnt := 0,
    vec := 0, err := false, sqhead := 0, sqtail := 0, cqhead := 0, cqtail := 0, phase := true, reserved := 0,
    head := none, out := [], drains := [], kills := [], count := 0, oldest := none, taken := 0,
    unreleased := 0, pendingScores := [] }

def StickCore.reset : StickCore := ⟨0, [], [], [], []⟩
def StickCaches.reset : StickCaches := ⟨[], []⟩
def MsixEntry.reset : MsixEntry := ⟨0, 0, true⟩

def Pcie.reset : Pcie :=
  { linkUp := false, width := 0, speed := 0, perst := false, role := 0, nfol := 0, coord := ⟨0, 0, 0⟩, splitph := false,
    roEn := false, fwdValid := false, fwdSel := ⟨0, 0, 0⟩, fwdReads := [], fetches := [], asks := [], badacc := 0, dbdrop := 0, cplwr := 0,
    msixCount := 0, fwdtmo := 0, table := [], pba := [], funcMask := false, msixEn := false,
    config := [], quiet := false }

def Met.reset : Met :=
  { en := false, lslots := 4096, maxsc := 15, liveEn := false, mask := 0, hold := false, jobs := [], nextJob := 0,
    nextOrder := 0, heldSerial := 0, horizon := [], shares := [], sticks := [], engines := [], cores := [], moves := [],
    lastRing := 4095, dispatched := 0,
    refused := 0, preempts := 0, overruns := 0, startmax := 0, readymax := 0, ringwait := 0, counters := [],
    claims := 0, retries := 0, dups := 0 }

def Channel.reset : Channel :=
  { patrol := 24, ueThr := 4, trainfails := 0, retire := false, retired := false, trained := false, ready := false,
    ueValid := false, ueAddr := 0, rdblk := 0, wrblk := 0, rmw := 0, ce := 0, ue := 0, reread := 0, linkretry := 0,
    liveblk := 0, bkpress := 0, scrubbed := 0, ueSince := 0, exhausted := 0, bad := [], fix := [], temp := 0,
    fastRefresh := false }

def MainMem.reset : MainMem :=
  { data := [], chans := List.replicate 64 Channel.reset, dense16 := true, map := [], up := false, training := none, pgt := [], str := [],
    pgtBusy := false, strBusy := false, idx := 0, autoinc := false, stickIdx := [], walks := 0, faults := 0 }

/-- Direction of port p in the default wiring of R324; a 1 x 1 x 1 fabric leaves every port unwired (6). -/
def defaultDir (_p : Nat) : BitVec 3 := 6

def Port.reset : Port :=
  { state := .down, dir := 6, lanes := 0, peer := ⟨0, 0, 0⟩, impSeed := 0, impCtl := false, impReorder := 0,
    impCorrupt := 0, impDrop := 0, impEn := false, lfsr := 1, heldFlits := [], counters := [], txSeq := 0, rxSeq := 0,
    nakSent := false, replay := [], resend := [], noProgress := 0, failedRetrains := 0,
    credits := [16, 64, 64, 256, 256, 128, 128], owed := [0, 0, 0, 0, 0, 0, 0], txq := [[], [], [], [], [], [], []],
    midTx := [false, false, false, false, false, false, false], rxPart := [[], [], [], [], [], [], []],
    ways := [none, none, none, none, none, none, none], cutRx := [], cutWays := [],
    ingress := [], stuck := [0, 0, 0, 0, 0, 0, 0], through := [0, 0, 0, 0, 0, 0, 0], fecAt := [none, none, none, none, none, none, none, none],
    txTail := [], txBlocks := 0, altLive := false, altReq := false, altRsp := false, delay := 0,
    peerSynced := false }

def Fabric.reset : Fabric :=
  { dims := ⟨1, 1, 1⟩, depth := 0, parent := 0, root := false, synced := false, offset := 0, outOfStep := 0,
    ports := List.replicate 20 Port.reset, abortSerial := 0, seen := [], aborts := [], closed := [], groups := [],
    waitingTx := [], abortTx := 0, abortRx := 0, nogrp := 0, badpkt := 0, lockBeat := none, late := false, rejoin := false, pulsed := false }

def Power.reset : Power :=
  { ac := 0, pwrok := true, resetN := true, pwrcapN := true, locked := false, refOk := false, pcieRef := false, tripped := false,
    rstcause := 1, cap := 120, fastd := 32, bmcCap := 120, fastdNow := 32, alertNow := 105, alert := 105,
    dcap := 64, dtherm := 64, duty := 64, fastSince := none, shownD := 64, shownTmax := 0, shownSensor := 0, capped := false, hot := false,
    fast := false, tmax := 0, tsensor := 0, floor := false,
    est := 0, temps := List.replicate 24 (false, 0), hotSince := none, thermN := false, gpioOe := 0, gpioOut := 0,
    gpioIn := 0, idleSlots := 0, capTime := 0, hotTime := 0, faultnHold := false, faultnPulse := false,
    gongValid := false, gongSource := 0, gongSub := 0, gongCount := 0, gongTick := none }

def FlashSlot.empty : FlashSlot :=
  { present := false, magic := false, svn := 0, imgver := 0, factory := false, devbind := false, flagsOk := true, devid := 0,
    subsystem := 0, sections := [], keyEd := [], keyMldsa := [], sigEd := false, sigMldsa := false, bytes := [] }

/-- The image the board's flash holds when the part is first powered: one that passes R386 (log 8). -/
def FlashSlot.first : FlashSlot :=
  { FlashSlot.empty with present := true, magic := true, keyEd := Config.rootKey 0, keyMldsa := Config.rootKey 1, sigEd := true,
                         sigMldsa := true }

def Boot.reset : Boot :=
  { mode := 0, trial := false, slot := false, floor := 0, svn := 0, imgver := 0, devid := 0, updAddr := 0, result := 0,
    busy := none, bar0 := false, booting := false, pufOk := false,
    layout := 0, areas := [0x1000, 0x10000, 0x40000, 0x80000, 0x2080000], active := false, trialSlot := none,
    tried := false, slotA := FlashSlot.first, slotB := FlashSlot.empty, counter := 0, helper := [],
    certEd := [], certMldsa := [], rootEd := Config.rootKey 0, rootMldsa := Config.rootKey 1, records := [], coldRecords := [], published := false,
    inForce := [], placeNow := none, keys := none, aliasEd := 0, aliasMldsa := 0, aliasCertEd := [], aliasCertMldsa := [], meas := [],
    vca := [], certMsgs := [], measMsgs := [], signedHash := none,
    spdmWait := [], diag := false, entered := false, lpbase := 0, winerr := 0, bcastMask := 0xFF, bcastDiff := 0 }

/-- The part right after cold reset: PWROK high, the PLL started and not yet locked (R403), every register at the value of
its Reset column. -/
def State.reset : State :=
  { pending := [], beat := 0, free := 0, drums := (List.range 136).map Drum.factory, noc := [], met := Met.reset,
    caches := StickCaches.reset, rings := [], dbmap := [], pcie := Pcie.reset, mem := MainMem.reset, fab := Fabric.reset, faults := [],
    crashed := false, power := Power.reset, boot := Boot.reset, fates := ⟨[], [], []⟩, hostMem := [], resp := [], sent := [] }

end Sys2Proof.Machine
end

