-- ==== Sys2Proof/Machine/Store.lean ====
section
/-! DEFINITION. Machine/Store.lean: reading and writing stores, and bytes as numbers (R10). -/

namespace Sys2Proof.Machine

/-- The value at key a; `d` where the store lists none. -/
def getCell {α : Type} (d : α) : Cells α → Nat → α
  | [], _ => d
  | (k, v) :: r, a => if k = a then v else getCell d r a

/-- Writes v at key a and keeps the canonical form: keys rising, no entry equal to the default. -/
def putCell {α : Type} [DecidableEq α] (d : α) : Cells α → Nat → α → Cells α
  | [], a, v => if v = d then [] else [(a, v)]
  | (k, w) :: r, a, v =>
    if a < k then (if v = d then (k, w) :: r else (a, v) :: (k, w) :: r)
    else if a = k then (if v = d then r else (a, v) :: r)
    else (k, w) :: putCell d r a v

/-- The canonical form: keys strictly rising from `lo`, no entry equal to the default. -/
def cellsFrom {α : Type} [DecidableEq α] (d : α) : Nat → Cells α → Bool
  | _, [] => true
  | lo, (k, v) :: r => decide (lo ≤ k) && decide (v ≠ d) && cellsFrom d (k + 1) r

def cellsWf {α : Type} [DecidableEq α] (d : α) (c : Cells α) : Bool := cellsFrom d 0 c

/-- What a byte that nothing has written reads as (log 3). -/
def blankByte : Byte := 0

def getByte (m : Memory) (a : Nat) : Byte := getCell blankByte m a
def putByte (m : Memory) (a : Nat) (b : Byte) : Memory := putCell blankByte m a b

/-- The canonical form of a byte memory. -/
def Memory.wf (m : Memory) : Bool := cellsWf blankByte m

def getBytes (m : Memory) (a : Nat) : Nat → List Byte
  | 0 => []
  | n + 1 => getByte m a :: getBytes m (a + 1) n

def putBytes (m : Memory) (a : Nat) : List Byte → Memory
  | [] => m
  | b :: r => putBytes (putByte m a b) (a + 1) r

/-- Little-endian number of a byte list. -/
def leNat : List Byte → Nat
  | [] => 0
  | b :: r => b.toNat + 256 * leNat r

/-- The n low bytes of a number, least significant first. -/
def leBytes : Nat → Nat → List Byte
  | 0, _ => []
  | n + 1, v => BitVec.ofNat 8 v :: leBytes n (v / 256)

def getNat (m : Memory) (a n : Nat) : Nat := leNat (getBytes m a n)
def putNat (m : Memory) (a n v : Nat) : Memory := putBytes m a (leBytes n v)

/-- Zeroes [lo, hi): drops the cells of the range. -/
def zeroRange {α : Type} (c : Cells α) (lo hi : Nat) : Cells α :=
  c.filter fun p => decide (p.1 < lo) || decide (hi ≤ p.1)

/-- Bits [lo + w - 1 : lo] of a number. -/
def fld (n lo w : Nat) : Nat := n / 2 ^ lo % 2 ^ w
def bit (n i : Nat) : Bool := fld n i 1 == 1

/-- Applies f for i = 0 to n - 1 in ascending order. -/
def loop {σ : Type} (f : Nat → σ → σ) : Nat → σ → σ
  | 0, s => s
  | n + 1, s => f n (loop f n s)

def modAt {α : Type} (l : List α) (i : Nat) (f : α → α) : List α :=
  match l[i]? with
  | some x => l.set i (f x)
  | none => l

/-- Saturating increment of a record's count (R358). -/
def satInc8 (b : Byte) : Byte := if b = 255 then b else b + 1

end Sys2Proof.Machine
end

