-- ==== Sys2Proof/Machine/Route.lean ====
section
/-! DEFINITION. Machine/Route.lean: packets between parts as bytes and flits (R327, R340), the torus route and the port a
packet takes (R335-R339), and putting a packet's flits into a port's channel. -/

namespace Sys2Proof.Machine

def coordWord (c : Coord) : Nat := c.x % 16 + 16 * (c.y % 16) + 256 * (c.z % 64)
def wordCoord (n : Nat) : Coord := ⟨fld n 0 4, fld n 4 4, fld n 8 6⟩

def padTo (n : Nat) (l : List Byte) : List Byte := (l ++ List.replicate (n - l.length) 0).take n

/-- The packet's bytes: the 32-byte header, then the data. -/
def Pk.bytes (p : Pk) : List Byte :=
  leBytes 1 p.pkind ++ leBytes 1 0 ++ leBytes 2 p.group ++ leBytes 2 (coordWord p.dst) ++ leBytes 2 (coordWord p.src) ++
  leBytes 1 p.dstDrum ++ leBytes 1 p.srcDrum ++ leBytes 2 0 ++ leBytes 4 p.data.length ++ padTo 16 p.spec ++ p.data

def sub (l : List Byte) (a n : Nat) : List Byte := (l.drop a).take n

/-- Reads a packet back from the payload bytes of its flits; none for a reserved PKIND or a set reserved bit (R340). -/
def Pk.ofBytes (l : List Byte) : Option Pk :=
  let k := leNat (sub l 0 1)
  let g := leNat (sub l 2 2)
  let d := leNat (sub l 4 2)
  let s := leNat (sub l 6 2)
  let ok := (decide (1 ≤ k ∧ k ≤ 0x0A) || k == 0x10 || k == 0x11) && leNat (sub l 1 1) == 0 && decide (g < 1024) &&
    decide (d < 2 ^ 14) && decide (s < 2 ^ 14) && leNat (sub l 10 2) == 0
  if ok then
    some { pkind := k, group := g, dst := wordCoord d, src := wordCoord s, dstDrum := leNat (sub l 8 1),
           srcDrum := leNat (sub l 9 1), spec := sub l 16 16, data := sub (l.drop 32) 0 (leNat (sub l 12 4)) }
  else none

/-- The link header of R327 as a number. -/
def flitHeader (f : Flit) : Nat :=
  f.kind % 256 + 2 ^ 8 * (f.vc % 8) + 2 ^ 11 * f.last.toNat + 2 ^ 12 * f.half.toNat + 2 ^ 16 * (f.seq % 4096) +
  2 ^ 28 * (f.ackseq % 4096) + 2 ^ 40 * (f.acktype % 4) + 2 ^ 42 * (f.cvc % 8) + 2 ^ 45 * (f.ccnt % 256)

def crcBits : Nat → Nat → Nat
  | 0, c => c
  | n + 1, c => crcBits n (if c / 2 ^ 63 = 1 then Nat.xor (c * 2 % 2 ^ 64) 0x42F0E1EBA9EA3693 else c * 2 % 2 ^ 64)

/-- CRC-64 with the ECMA-182 polynomial, initial value all ones and final inversion (R327). -/
def crc64 (l : List Byte) : Dword :=
  BitVec.ofNat 64 (2 ^ 64 - 1 - l.foldl (fun c b => crcBits 8 (Nat.xor c (b.toNat * 2 ^ 56))) (2 ^ 64 - 1))

def flitBytes (f : Flit) : List Byte := leBytes 8 (flitHeader f) ++ padTo 256 f.payload
def sealFlit (f : Flit) : Flit := { f with crc := crc64 (flitBytes f) }
def flitGood (f : Flit) : Bool := f.crc == crc64 (flitBytes f)

/-- Cuts a packet's bytes into the flits of one channel; SEQ and acks are written when a flit is sent. -/
def flitsOf (kind vc : Nat) : Nat → List Byte → List Flit
  | 0, _ => []
  | n + 1, l =>
    let rest := l.drop 256
    { kind := kind, vc := vc, last := rest.isEmpty, half := decide (l.length ≤ 128), seq := 0, ackseq := 0, acktype := 0,
      cvc := 0, ccnt := 0, payload := l.take 256, crc := 0 } :: (if rest.isEmpty then [] else flitsOf kind vc n rest)

/-- The way round a ring of size n: + when it is not the longer one (R335). -/
def wayPlus (n cur dst : Nat) : Bool := decide ((dst + n - cur) % n ≤ (cur + n - dst) % n)

/-- The direction code (R324, R335) of the next hop, none at the destination. -/
def nextDir (dims cur dst : Coord) : Option Nat :=
  if cur.x ≠ dst.x then some (if wayPlus dims.x cur.x dst.x then 0 else 1)
  else if cur.y ≠ dst.y then some (if wayPlus dims.y cur.y dst.y then 2 else 3)
  else if cur.z ≠ dst.z then some (if wayPlus dims.z cur.z dst.z then 4 else 5)
  else none

def Port.inService (p : Port) : Bool := p.state == .up || p.state == .retraining

def portsToward (ports : List Port) (dir : Nat) : List Nat :=
  (List.range ports.length).filter fun i => match ports[i]? with
    | some p => p.inService && p.dir.toNat == dir
    | none => false

/-- The opposite direction of the same dimension. -/
def otherWay (dir : Nat) : Nat := if dir % 2 = 0 then dir + 1 else dir - 1

/-- Does a hop in this direction cross the dateline between D - 1 and 0 (R336)? -/
def crosses (dims cur : Coord) (dir : Nat) : Bool :=
  match dir with
  | 0 => cur.x + 1 == dims.x
  | 1 => cur.x == 0
  | 2 => cur.y + 1 == dims.y
  | 3 => cur.y == 0
  | 4 => cur.z + 1 == dims.z
  | 5 => cur.z == 0
  | _ => false

def drumKey (n : Nat) : Nat := if n ≤ 127 then n else 128

/-- The port for a packet of a pair in a direction (R338), the other way round when the direction has no port (R339). -/
def choosePort (ports : List Port) (p : Pair) (dir : Nat) : Option (Nat × Nat) :=
  let pick (d : Nat) : Option (Nat × Nat) :=
    let ps := portsToward ports d
    if ps.isEmpty then none else
    let idx := (p.src.x + 3 * p.src.y + 5 * p.src.z + 7 * p.dst.x + 11 * p.dst.y + 13 * p.dst.z +
      17 * drumKey p.srcDrum + 19 * drumKey p.dstDrum) % ps.length
    (ps[idx]?).map fun i => (i, d)
  match pick dir with
  | some r => some r
  | none => pick (otherWay dir)

/-- Base channel of a packet (R331, R340): CTL 0, LIVE 1, REQ 3, RSP 5. -/
def baseVc (pkind : Nat) (live : Bool) : Nat :=
  if pkind = 0x10 ∨ pkind = 0x11 then 0
  else if live then 1
  else if pkind = 0x02 ∨ pkind = 0x04 ∨ pkind = 0x07 ∨ pkind = 0x0A then 5
  else 3

/-- Appends flits to channel vc of port i. -/
def queueFlits (ports : List Port) (i vc : Nat) (fs : List Queued) : List Port :=
  modAt ports i fun p => { p with txq := modAt p.txq vc (· ++ fs) }

def Pk.pair (p : Pk) : Pair := ⟨p.src, p.srcDrum, p.dst, p.dstDrum⟩

/-- Bytes of a packet cut into the flits of channel vc; for one in transit, with the port and channel at which they came. -/
def queuedOf (pair : Pair) (at_ : Option (Nat × Nat)) (vc : Nat) (l : List Byte) : List Queued :=
  (flitsOf (if vc = 0 then 2 else 1) vc (l.length / 256 + 1) l).zipIdx.map fun f => ⟨f.1, pair, f.2 == 0, false, at_, at_⟩

/-- The flits of a packet of this part. -/
def Pk.queued (p : Pk) (vc : Nat) : List Queued := queuedOf p.pair none vc p.bytes

/-- The payload of a flit as it was taken. -/
def flitPayload (f : Flit) : List Byte := padTo (if f.half then 128 else 256) f.payload

/-! ## Receive buffers (R331) -/

/-- Flits that n payload bytes of a packet take. -/
def flitCount (n : Nat) : Nat := (n + 255) / 256

/-- n flits in transit leave the receive buffer of channel vc, and their credits are to be returned. -/
def Port.leave (x : Port) (vc n : Nat) : Port :=
  let k := min n ((x.through[vc]?).getD 0)
  { x with through := modAt x.through vc (· - k), owed := modAt x.owed vc (· + k) }

def Fabric.leave (f : Fabric) (owes : Option (Nat × Nat)) : Fabric := match owes with
  | some o => { f with ports := modAt f.ports o.1 (·.leave o.2 1) }
  | none => f

/-- Flits that go no further give up their places. -/
def Fabric.dropFlits (f : Fabric) (l : List Queued) : Fabric := l.foldl (fun f q => f.leave q.owes) f

/-! ## Packets cut through (R337) -/

/-- A change of every way that is held. -/
def Fabric.mapWays (f : Fabric) (g : Onward → Onward) : Fabric :=
  { f with ports := f.ports.map fun x => { x with ways := x.ways.map (·.map g), cutWays := x.cutWays.map fun c => (c.1, g c.2) } }

/-- The rest of the packet that came at a port and channel goes on as said. -/
def Fabric.setWay (f : Fabric) (tag : Option (Nat × Nat)) (out : Option (Nat × Nat)) (waits : Bool) : Fabric :=
  f.mapWays fun w => if some w.tag = tag then { w with out := out, waits := waits, fresh := false } else w

/-- The flits in front that go on with the packet which a channel has begun to send, and those behind them. -/
def cutFirst (l : List Queued) : List Queued × List Queued := (l.takeWhile fun q => !q.first, l.dropWhile fun q => !q.first)

/-- Puts flits behind what a channel has of the packet that it has begun to send. -/
def Port.insert (x : Port) (vc : Nat) (qs : List Queued) : Port :=
  let c := cutFirst ((x.txq[vc]?).getD [])
  { x with txq := x.txq.set vc (c.1 ++ qs ++ c.2) }

/-- The next flit of a packet in transit joins what a channel holds of it; where all of that has been sent, the packet is the one
that the channel is sending, unless a port that is retired sent it. -/
def Port.extend (x : Port) (vc : Nat) (q : Queued) (fresh : Bool) : Port :=
  let l := (x.txq[vc]?).getD []
  match l.reverse.findIdx? fun y => y.tag == q.tag && !y.flit.last with
  | some k => { x with txq := x.txq.set vc (l.take (l.length - k) ++ q :: l.drop (l.length - k)) }
  | none => if fresh then x.insert vc [{ q with first := true, moved := true }] else { x with txq := x.txq.set vc (q :: l) }

/-- Does a pair wait for the acknowledgement of flits moved off a retired port (R330)? -/
def Fabric.pairHeld (f : Fabric) (p : Pair) : Bool :=
  f.ports.any fun x => (x.replay ++ x.txq.flatten).any fun q => q.moved && decide (q.pair = p)

/-- The direction of a packet's next hop: within a dimension it goes on the way it came, also where that is the longer way
round (R335, R339). `came` is the direction of the port it arrived at, none for a packet of this part. -/
def hopDir (dims cur dst : Coord) (came : Option Nat) : Option Nat :=
  match nextDir dims cur dst, came with
  | some dir, some c => some (if dir / 2 = c / 2 then otherWay c else dir)
  | r, _ => r

/-- Puts a packet on the port of its route, and what is still to come of it on the same way. A packet of a pair under R330 waits.
The second component is false when no port leads there. -/
def Fabric.routeFrom (f : Fabric) (cur : Coord) (p : Pk) (w : WaitTx) : Fabric × Bool :=
  let tag := if w.more then w.flits.head?.bind (·.tag) else none
  if f.pairHeld p.pair then (({ f with waitingTx := f.waitingTx ++ [w] }).setWay tag none true, true)
  else
  let lost := (f.dropFlits w.flits).setWay tag none false
  match hopDir f.dims cur p.dst w.came with
  | none => (lost, true)
  | some dir =>
    match choosePort f.ports p.pair dir with
    | none => (lost, false)
    | some (i, d) =>
      let base := baseVc p.pkind w.live
      let b := crosses f.dims cur d || (w.subB && (w.came.map (· / 2)) == some (d / 2))
      let vc := if base = 0 then 0 else if b then base + 1 else base
      let l := w.flits.map fun q => { q with flit := { q.flit with vc := vc, kind := if vc = 0 then 2 else 1 } }
      (({ f with ports := queueFlits f.ports i vc l }).setWay tag (some (i, vc)) false, true)

/-- Puts a packet of this part on the port of its route. -/
def Fabric.route (f : Fabric) (cur : Coord) (p : Pk) (live : Bool) : Fabric × Bool :=
  f.routeFrom cur p ⟨live, false, none, p.queued (baseVc p.pkind live), false⟩

end Sys2Proof.Machine
end

