-- ==== Sys2Proof/Machine/Ops.lean ====
section
/-! DEFINITION. Machine/Ops.lean: the named operations over the part that every family shares: access to units, messages,
completion records (R286-R295), the end of tasks and jobs (R244, R255, R259), resets (R403-R408), and raising a fault
with its escalation (R356-R365). A block has no exception entry: what a fault does is written here once. -/

namespace Sys2Proof.Machine

/-! ## Units -/

def State.drum (s : State) (d : Nat) : Drum := (s.drums[d]?).getD Drum.reset
def State.setDrum (s : State) (d : Nat) (x : Drum) : State := { s with drums := s.drums.set d x }
def State.modDrum (s : State) (d : Nat) (f : Drum → Drum) : State := s.setDrum d (f (s.drum d))
def State.modPad (s : State) (d : Nat) (f : Pad → Pad) : State := s.modDrum d fun x => { x with pad := f x.pad }
def State.modSeq (s : State) (d : Nat) (f : Seq → Seq) : State := s.modDrum d fun x => { x with seq := f x.seq }
def State.modShell (s : State) (d : Nat) (f : Shell → Shell) : State := s.modDrum d fun x => { x with shell := f x.shell }
def State.modSkin (s : State) (d : Nat) (f : Skin → Skin) : State := s.modDrum d fun x => { x with skin := f x.skin }
def State.modTuner (s : State) (d : Nat) (f : Tuner → Tuner) : State := s.modDrum d fun x => { x with tuner := f x.tuner }
def State.modTap (s : State) (d : Nat) (f : Tap → Tap) : State := s.modDrum d fun x => { x with tap := f x.tap }
def State.modRoll (s : State) (d : Nat) (f : Roll → Roll) : State := s.modDrum d fun x => { x with roll := f x.roll }
def State.modMet (s : State) (f : Met → Met) : State := { s with met := f s.met }
def State.modPcie (s : State) (f : Pcie → Pcie) : State := { s with pcie := f s.pcie }
def State.modMem (s : State) (f : MainMem → MainMem) : State := { s with mem := f s.mem }
def State.modFab (s : State) (f : Fabric → Fabric) : State := { s with fab := f s.fab }
def State.modPower (s : State) (f : Power → Power) : State := { s with power := f s.power }
def State.modBoot (s : State) (f : Boot → Boot) : State := { s with boot := f s.boot }
def State.port (s : State) (p : Nat) : Port := (s.fab.ports[p]?).getD Port.reset
def State.modPort (s : State) (p : Nat) (f : Port → Port) : State := s.modFab fun x => { x with ports := modAt x.ports p f }
def State.chan (s : State) (c : Nat) : Channel := (s.mem.chans[c]?).getD Channel.reset
def State.modChan (s : State) (c : Nat) (f : Channel → Channel) : State :=
  s.modMem fun x => { x with chans := modAt x.chans c f }
def State.ring (s : State) (q : Nat) : Ring := getCell Ring.reset s.rings q
def State.setRing (s : State) (q : Nat) (r : Ring) : State := { s with rings := putCell Ring.reset s.rings q r }
def State.modRing (s : State) (q : Nat) (f : Ring → Ring) : State := s.setRing q (f (s.ring q))
def State.badacc (s : State) : State := s.modPcie fun p => { p with badacc := p.badacc + 1 }
def State.emit (s : State) (o : Out) : State := { s with sent := o :: s.sent }
def State.answer (s : State) (l : List Byte) : State := { s with resp := l }

/-- A value the spec leaves open, and the state that has drawn it (log 2). -/
def State.draw (s : State) : Dword × State := (Config.freeValue s.free, { s with free := s.free + 1 })

/-- What the next block access meets. -/
def State.nextBlock (s : State) : BlockFate × State :=
  match s.fates.blocks with
  | [] => (⟨[], .clean⟩, s)
  | f :: r => (f, { s with fates := { s.fates with blocks := r } })

/-- What the next way to a pad or a shell meets. -/
def State.nextMesh (s : State) : NocVerdict × State :=
  match s.fates.mesh with
  | [] => (.arrives, s)
  | f :: r => (f, { s with fates := { s.fates with mesh := r } })

/-- Does the shell that the next preemption saves pass its parity? -/
def State.nextArray (s : State) : Bool × State :=
  match s.fates.arrays with
  | [] => (true, s)
  | f :: r => (f, { s with fates := { s.fates with arrays := r } })

/-- Physical drum that holds logical drum l, while it is active (R27, R30). -/
def State.physOf (s : State) (l : Nat) : Option Nat :=
  (List.range 136).find? fun p => (s.drum p).status == .active && (s.drum p).logical.toNat == l

def State.spares (s : State) : List Nat := (List.range 136).filter fun p => (s.drum p).status == .spare

/-- Retired drums whose logical number has not passed on yet (R30). -/
def State.leaving (s : State) : List Nat :=
  (List.range 136).filter fun p => (s.drum p).status == .retired && (s.drum p).logical != 0xFF

/-- SPARES of DIAG_CAP1: a spare that a retired drum's number will pass to counts no more from the retirement on (R427). -/
def State.sparesFree (s : State) : Nat := s.spares.length - s.leaving.length

/-- Drums exposed: 128, 120 or 0 (R6, R369). -/
def State.exposed (s : State) : Nat :=
  if s.spares.length < s.leaving.length then 0 else ((List.range 136).filter fun p => (s.drum p).logical != 0xFF).length

/-- Logical drums named by a 128-bit mask, ascending. -/
def maskDrums (m : BitVec 128) : List Nat := (List.range 128).filter fun l => m.getLsbD l

def State.job? (s : State) (j : Half) : Option Job := s.met.jobs.find? fun x => x.num == j
def State.modJob (s : State) (j : Half) (f : Job → Job) : State :=
  s.modMet fun m => { m with jobs := m.jobs.map fun x => if x.num = j then f x else x }
def State.task? (s : State) (j : Half) (i : Nat) : Option Task := (s.job? j).bind fun x => x.tasks[i]?
def State.modTask (s : State) (j : Half) (i : Nat) (f : Task → Task) : State :=
  s.modJob j fun x => { x with tasks := modAt x.tasks i f }

/-! ## Fault sources (R356) -/

def isSource (n : Nat) : Bool :=
  decide (n ≤ 0x87) || decide (0xA0 ≤ n ∧ n ≤ 0xAF) || decide (0xC0 ≤ n ∧ n ≤ 0xFF) || decide (0x100 ≤ n ∧ n ≤ 0x113) ||
  n == 0x140 || n == 0x141 || n == 0x150 || n == 0x160 || n == 0x161 || decide (0x170 ≤ n ∧ n ≤ 0x177)

def State.fault (s : State) (src : Nat) : FaultSet := getCell FaultSet.reset s.faults src
def State.setFault (s : State) (src : Nat) (f : FaultSet) : State :=
  { s with faults := putCell FaultSet.reset s.faults src f }
def State.modFault (s : State) (src : Nat) (f : FaultSet → FaultSet) : State := s.setFault src (f (s.fault src))

/-! ## Interrupts (R294, R295) -/

/-- Do these bytes begin a packet in transit (R337)? -/
def State.transits (s : State) (l : List Byte) : Bool := match Pk.ofBytes l with
  | some p => decide (p.dst ≠ s.pcie.coord ∧ p.pkind < 0x10)
  | none => false

/-- What a warm reset leaves of the packets that a port holds: those in transit, which a part in reset goes on to forward (R406). -/
def State.onlyTransit (s : State) (x : Port) : Port :=
  let l := x.ingress.filter fun h => s.transits h.2
  let held (v : Nat) : Nat := ((l.filter fun h => h.1 == v).map fun h => flitCount h.2.length).sum
  { x with ingress := l, stuck := (List.range 7).map held
           owed := x.owed.zipIdx.map fun o => o.1 + ((x.stuck[o.2]?).getD 0 - held o.2) }

/-- Puts a packet of this part on its way over the links. -/
def State.sendPk (s : State) (p : Pk) (live : Bool) : State :=
  -- a crashed part originates no data packet (R361)
  if s.crashed && decide (p.pkind < 0x10) then s else
  s.modFab fun f => (f.route s.pcie.coord p live).1

/-- Puts a packet for another part on the NoC of drum d, on its way to the base die (R26). -/
def State.sendOut (s : State) (d : Nat) (job : Option Half) (p : Pk) : State :=
  { s with noc := s.noc ++ [{ src := d, dst := 136, job := job, group := p.group, from_ := s.pcie.coord, fromDrum := p.srcDrum,
                              body := .link p }] }

/-- Coordinate of the lead of a part's chassis: the chassis origin (R334). -/
def leadOf (c : Coord) : Coord := ⟨c.x / 4 * 4, c.y / 4 * 4, c.z / 4 * 4⟩

def State.vectorEntry (s : State) (v : Nat) : MsixEntry := getCell MsixEntry.reset s.pcie.table v
def State.vectorMasked (s : State) (v : Nat) : Bool := s.pcie.funcMask || (s.vectorEntry v).masked

/-- The message of vector v: its entry's data at its entry's address (R294). -/
def State.sendVector (s : State) (v : Nat) : State :=
  (s.modPcie fun p => { p with msixCount := p.msixCount + 1 }).emit (.msix v (s.vectorEntry v).addr (s.vectorEntry v).data)

/-- A request for MSI-X vector v on the part's own PCIe: the message, or the pending bit of a masked vector. Nothing goes while
MSI-X is disabled or the link is down, or from a link down fault on until a ring is enabled again (R275). -/
def State.issueVector (s : State) (v : Nat) : State :=
  if !s.pcie.msixEn || !s.pcie.linkUp || s.pcie.quiet then s
  else if s.vectorMasked v then s.modPcie fun p => { p with pba := putCell false p.pba v true }
  else s.sendVector v

/-- The part requests MSI-X vector v; a follower asks its lead, for class 0 on the live channel (R296). From a link down fault on
it requests none until a ring is enabled again (R275). -/
def State.requestVector (s : State) (v : Nat) (live : Bool) : State :=
  if s.pcie.quiet then s
  else if s.pcie.role = 2 then
    s.sendPk { pkind := 8, group := 0, dst := leadOf s.pcie.coord, src := s.pcie.coord, dstDrum := 255, srcDrum := 255,
               spec := leBytes 2 v, data := [] } live
  else s.issueVector v

/-! ## Host memory (R35, R272, R291, R296) -/

/-- Max payload size: bits [7:5] of the Device Control register, which the base specification lays down; a value above 2 acts
as 512 B, the largest that R272 supports (log 48). -/
def State.maxPayload (s : State) : Nat :=
  128 * 2 ^ min 2 (fld (getCell (Config.configSpace Config.devCtl) s.pcie.config Config.devCtl).toNat 5 3)

/-- Max read request size: bits [14:12] of the same register; a value above 5 acts as 4,096 B, the largest of R272 (log 48). -/
def State.maxRead (s : State) : Nat :=
  128 * 2 ^ min 5 (fld (getCell (Config.configSpace Config.devCtl) s.pcie.config Config.devCtl).toNat 12 3)

/-- The pieces of a write: each lies within one aligned range of `size` bytes. -/
def cutWrite (size : Nat) : Nat → Nat → List Byte → List (Nat × List Byte)
  | 0, _, _ => []
  | k + 1, a, l =>
    let n := size - a % size
    if l.isEmpty then [] else (a, l.take n) :: cutWrite size k (a + n) (l.drop n)

/-- The pieces of a read, by address and length, each within one aligned range of `size` bytes. -/
def cutRead (size : Nat) : Nat → Nat → Nat → List (Nat × Nat)
  | 0, _, _ => []
  | k + 1, a, n =>
    let m := min n (size - a % size)
    if n = 0 then [] else (a, m) :: cutRead size k (a + m) (n - m)

/-- The enables of the bytes of the first and of the last dword of a range. -/
def byteEnables (a n : Nat) : Nat :=
  let one := decide ((a % 4) + n ≤ 4)
  let first := ((List.range 4).filter fun b => decide (a % 4 ≤ b ∧ b < a % 4 + n)).foldl (fun e b => e + 2 ^ b) 0
  let last := if one then 0 else ((List.range ((a + n - 1) % 4 + 1)).foldl (fun e b => e + 2 ^ b) 0)
  first + 16 * last

/-- The kind-specific bytes of a packet for host memory: address, length, byte enables (log 17). -/
def hostSpec (a n : Nat) : List Byte := leBytes 8 a ++ leBytes 4 n ++ leBytes 1 (byteEnables a n)

/-- A packet of a follower for its lead. -/
def State.toLead (s : State) (pkind : Nat) (spec data : List Byte) (live : Bool) : State :=
  s.sendPk { pkind := pkind, group := 0, dst := leadOf s.pcie.coord, src := s.pcie.coord, dstDrum := 255, srcDrum := 255,
             spec := spec, data := data } live

/-- Memory writes of the part's own PCIe link, cut to the Max payload size; `relaxed` sets Relaxed Ordering. -/
def State.issueWrite (s : State) (a : Nat) (l : List Byte) (relaxed : Bool) : State :=
  let t := { s with hostMem := putBytes s.hostMem a l }
  (cutWrite s.maxPayload (l.length + 1) a l).foldl (fun t p => t.emit (.hostWrite p.1 p.2 relaxed)) t

/-- Writes bytes to host memory; a follower's write leaves through its lead. -/
def State.hostWrite (s : State) (a : Nat) (l : List Byte) (live relaxed : Bool) : State :=
  if s.pcie.role = 2 then s.toLead 5 (hostSpec a l.length) l live else s.issueWrite a l relaxed

/-- What a read gives: its bytes, an error, or nothing yet. -/
inductive Fetched where
  | data (l : List Byte)
  | error
  | waits
deriving DecidableEq, Repr

def HostAsk.fits (k : HostAsk) (who : Reader) (a n : Nat) : Bool := k.who == who && k.addr == a && k.len == n

/-- A read of host memory. A follower asks its lead once, and its reader waits for the completion (R296). -/
def State.hostRead (s : State) (who : Reader) (a n : Nat) (live : Bool) : Fetched × State :=
  if s.pcie.role ≠ 2 then (.data (getBytes s.hostMem a n), s) else
  match s.pcie.asks.find? (HostAsk.fits · who a n) with
  | none =>
    let s := s.modPcie fun p => { p with asks := p.asks ++ [⟨who, a, n, List.replicate n none⟩] }
    (.waits, s.toLead 6 (hostSpec a n) [] live)
  | some k => if k.data.all (·.isSome) then (.data (k.data.filterMap id), s) else (.waits, s)

/-- Does a completion of n bytes at address a answer a part of the read that still waits? -/
def HostAsk.wants (k : HostAsk) (a n : Nat) : Bool :=
  decide (0 < n ∧ k.addr ≤ a ∧ a + n ≤ k.addr + k.len) && ((k.data.drop (a - k.addr)).take n).all (·.isNone)

/-- A completion, or one of several, of a follower's read (R272, R296). -/
def State.hostGot (s : State) (a : Nat) (l : List Byte) : State :=
  match s.pcie.asks.findIdx? (·.wants a l.length) with
  | some i => s.modPcie fun p => { p with asks := modAt p.asks i fun k =>
      { k with data := k.data.take (a - k.addr) ++ l.map some ++ k.data.drop (a - k.addr + l.length) } }
  | none => s

/-- A reader has taken, or gives up, what it has asked for. -/
def State.dropAsks (s : State) (p : Reader → Bool) : State :=
  s.modPcie fun x => { x with asks := x.asks.filter fun k => !p k.who }

/-! ## Completion records (R286-R290) -/

def Code.num : Code → Nat
  | .done => 0 | .doneEmpty => 1 | .faulted => 2 | .aborted => 3 | .cancelled => 4 | .refused => 5 | .scoreFault => 6

def Code.good (c : Code) : Bool := c == .done || c == .doneEmpty

/-- The status word of R259. -/
def statusWord (c : Code) (flags : BitVec 5) (madeup missed dup dropped overrun : Bool) (count : Nat) : Word :=
  toW (c.num + 16 * flags.toNat + 2 ^ 9 * madeup.toNat + 2 ^ 10 * missed.toNat + 2 ^ 11 * dup.toNat +
    2 ^ 12 * dropped.toNat + 2 ^ 13 * overrun.toNat + 2 ^ 16 * min count 65535)

def Task.isDrum (t : Task) : Bool := match t.trec.body with | .drum .. => true | _ => false

def Task.status (t : Task) : Word :=
  statusWord t.code t.flags t.madeup (t.isDrum && decide (0 < t.count)) t.dup t.dropped t.overrun t.count

/-- CODE field replaced. -/
def withCode (w : Word) (c : Code) : Word := toW (w.toNat / 16 * 16 + c.num)
def codeGood (w : Word) : Bool := decide (w.toNat % 16 ≤ 1)

def ringSize (sz : BitVec 4) : Nat := 64 * 2 ^ sz.toNat

def Record.bytes (r : Record) (sqhead : Half) (phase : Bool) : List Byte :=
  leBytes 4 r.status.toNat ++ leBytes 4 r.utag.toNat ++ leBytes 4 r.task.toNat ++ leBytes 2 r.job.toNat ++
  leBytes 2 sqhead.toNat ++ leBytes 8 r.beat.toNat ++ leBytes 4 r.sqidx.toNat ++
  leBytes 1 (phase.toNat + 2 * r.kind.toNat + 8 * r.nojob.toNat) ++ leBytes 3 0

/-- Is an interrupt due for ring r after a record (R295)? -/
def Ring.wantsIrq (r : Ring) (rec : Record) : Bool :=
  (decide (r.cnt.toNat ≠ 0) && decide (r.cnt.toNat ≤ r.count)) ||
  (r.urg && (r.cnt != 0 || r.time != 0) && (!codeGood rec.status || (rec.kind == 0 && rec.cls0)))

/-- The ring requests its vector; `live` for the record of a class-0 task. -/
def State.ringIrq (s : State) (q : Nat) (live : Bool) : State :=
  (s.modRing q fun r => { r with count := 0, oldest := none }).requestVector (s.ring q).vec.toNat live

/-- Writes one record into ring q's completion ring (R288, R289) and counts it for the interrupt. -/
def State.writeRecord (s : State) (q : Nat) (rec : Record) : State :=
  let r := s.ring q
  let a := r.cqbase.toNat + 32 * r.cqtail.toNat
  let b := rec.bytes r.sqhead r.phase
  let s := if s.pcie.splitph then (s.hostWrite a (b.take 28) rec.cls0 false).hostWrite (a + 28) (b.drop 28) rec.cls0 false
           else s.hostWrite a b rec.cls0 false
  let s := s.modPcie fun p => { p with cplwr := p.cplwr + 1 }
  let wrap := decide (r.cqtail.toNat + 1 = ringSize r.cqNow)
  let s := s.modRing q fun r =>
    { r with cqtail := if wrap then 0 else r.cqtail + 1, phase := if wrap then !r.phase else r.phase, count := r.count + 1,
             unreleased := r.unreleased + 1
             oldest := r.oldest.or (some s.beat) }
  if (s.ring q).wantsIrq rec then s.ringIrq q rec.cls0 else s

/-- Have two checks that started after a drum had `n` passes passed by now? A check takes 256 ac, and as many again where it
was run twice (R373, R374). -/
def Sound.passedTwice (x : Sound) (n : Nat) (beat : Dword) : Bool :=
  decide (n + 3 ≤ x.passes) ||
  (decide (n + 2 ≤ x.passes) && decide (x.lastPass.toNat + (if x.again then 512 else 256) ≤ beat.toNat))

/-- Has the hold of R376 ended for a record whose task ended at beat b: two later passes on every drum named? A retired drum
runs no check; there the hold ends at its limit, 160,512 ac after the task's end (DEDUCED, log 61). -/
def State.soundOk (s : State) (b : Dword) (l : List (Nat × Nat)) : Bool := l.all fun p =>
  (s.drum p.1).sound.passedTwice p.2 s.beat ||
  ((s.drum p.1).status == .retired && decide (b.toNat + 160512 ≤ s.beat.toNat))

/-- Is the record still held: until the beat of its end has passed, since the records of one beat have their own order
(R290, log 61), or under R352 or R376? -/
def State.recordHeld (s : State) (r : Record) : Bool :=
  decide (s.beat ≤ r.beat) || (match r.holdTo with | some b => decide (s.beat.toNat ≤ b.toNat) | none => false) ||
  (!r.aborted && !s.soundOk r.beat r.sound)

/-- What a record that has been held says in the end (R352, R376). -/
def State.settleRecord (s : State) (r : Record) : Record :=
  let late := r.holdTo.isSome && s.fab.aborts.any fun p => p.1 == r.group && decide (p.2.toNat ≤ r.beat.toNat + 8)
  if codeGood r.status && (r.aborted || late) then { r with status := withCode r.status .aborted } else r

/-- An operation record (R287). -/
def opRecord (c : Code) (utag : Word) (job : Half) (beat : Dword) (sqidx : Half) (nojob : Bool) : Record :=
  { status := toW c.num, utag := utag, task := 0xFFFFFFFF, job := job, beat := beat, sqidx := sqidx.setWidth 32, kind := 2,
    nojob := nojob, cls0 := false, group := 0, sound := [], holdTo := none, aborted := false, jobNum := job, serial := 0 }

/-- Does record a go before record b of its ring (R290)? -/
def Record.before (a b : Record) : Bool :=
  decide (a.beat < b.beat) || (a.beat == b.beat &&
    (decide (a.sqidx < b.sqidx) || (a.sqidx == b.sqidx && decide (a.task ≤ b.task))))

/-- Puts a record in its place among those that wait. -/
def insertRecord (r : Record) : List Record → List Record
  | [] => [r]
  | x :: l => if x.before r then x :: insertRecord r l else r :: x :: l

/-- A record joins its ring's queue; it is written once its beat has passed and nothing holds it. -/
def State.pushRecord (s : State) (q : Nat) (r : Record) : State := s.modRing q fun x => { x with out := insertRecord r x.out }

/-- Queues the DRAIN records of ring q that no earlier score holds back any more (R293). -/
def State.drained (s : State) (q : Nat) : State :=
  let r := s.ring q
  let due (k : Word × Half × Nat) : Bool := r.pendingScores.all fun n => decide (k.2.2 ≤ n)
  let s := s.modRing q fun r => { r with drains := r.drains.filter fun k => !due k }
  (r.drains.filter due).foldl (fun s k => s.pushRecord q (opRecord .done k.1 0 s.beat k.2.1 false)) s

/-- What follows a score record that has been written: the KILL records of its job, and the DRAIN records it held back; an
ORDERED score that waited for it may go (R282, R293). -/
def State.afterScore (s : State) (q : Nat) (rec : Record) : State :=
  let s := s.modRing q fun r => { r with pendingScores := r.pendingScores.erase rec.serial }
  if rec.nojob then s.drained q else
  let ks := (s.ring q).kills.filter fun k => k.1 == rec.jobNum
  let s := s.modRing q fun r => { r with kills := r.kills.filter fun k => k.1 != rec.jobNum }
  (ks.foldl (fun s k => s.pushRecord q (opRecord .done k.2.1 rec.jobNum s.beat k.2.2 false)) s).drained q

/-- Writes the records at the front of ring q's queue that nothing holds, in order (R290). -/
def flushGo (q : Nat) : Nat → State → State
  | 0, s => s
  | n + 1, s =>
    match (s.ring q).out with
    | [] => s
    | r :: rest =>
      if s.recordHeld r then s
      else
        let s := (s.modRing q fun x => { x with out := rest }).writeRecord q (s.settleRecord r)
        flushGo q n (if r.kind = 1 then s.afterScore q r else s)

def State.flush (s : State) (q : Nat) : State := flushGo q (s.ring q).out.length s

/-- How many records of a ring's queue stand before its first record of a class-0 task; none where it has no such record. -/
def Ring.beforeUrgent (r : Ring) : Option Nat := r.out.findIdx? fun x => x.kind == 0 && x.cls0

/-- Writes the records of a ring up to its first one of a class-0 task, for as long as none of them is held. -/
def State.flushUrgent (s : State) (q : Nat) : State := match (s.ring q).beforeUrgent with
  | some n => flushGo q (n + 1) s
  | none => s

/-- The ring whose first record of a class-0 task has the fewest records before it, of those whose records up to it are free. -/
def State.urgentRing (s : State) : Option Nat :=
  let l := s.rings.filterMap fun p => match p.2.beforeUrgent with
    | some n => if (p.2.out.take (n + 1)).any s.recordHeld then none else some (n, p.1)
    | none => none
  (l.foldl (fun (b : Option (Nat × Nat)) e => match b with
    | some c => if e.1 < c.1 then some e else some c
    | none => some e) none).map (·.2)

/-- Writes class-0 records, one after another, each with what its own ring has before it (R290). -/
def urgentGo : Nat → State → State
  | 0, s => s
  | n + 1, s => match s.urgentRing with
    | some q => urgentGo n (s.flushUrgent q)
    | none => s

/-- The records that may be written now. A class-0 task's record goes ahead of every other ring's, and only what stands before
it in its own ring goes before it (R290); the class-0 record with the fewest such records is the first (DESIGN CHOICE, log 61). -/
def State.flushAll (s : State) : State :=
  let s := urgentGo (s.rings.map fun p => p.2.out.length).sum s
  ((s.rings.filter fun p => !p.2.out.isEmpty).map (·.1)).foldl (fun s q => s.flush q) s

/-- Beat that ends the hold of R352, for a good record of a grouped job. -/
def holdEnd (group : Nat) (good : Bool) (beat : Dword) : Option Dword :=
  if group ≠ 0 ∧ good = true then some (beat + 6416) else none

def State.taskRecord (s : State) (j : Job) (i : Nat) (t : Task) : Record :=
  { status := t.status, utag := t.trec.utag, task := toW i, job := j.num, beat := t.endBeat, sqidx := j.sqidx.setWidth 32,
    kind := 0, nojob := false, cls0 := t.trec.cls == 0, group := j.group,
    sound := if s.met.hold && t.isDrum && t.code.good then t.ran.map fun d => (d, (s.drum d).sound.passes) else [],
    holdTo := holdEnd j.group t.code.good t.endBeat, aborted := false, jobNum := j.num, serial := j.serial }

/-- STATUS of a score record (R287): the highest CODE, the OR of the flags, the number of tasks not done. -/
def scoreStatus (l : List Task) : Word :=
  let top := l.foldl (fun c t => max c t.code.num) 0
  let fl := l.foldl (fun (f : BitVec 5) t => f ||| t.flags) 0
  toW (top + 16 * fl.toNat + 2 ^ 9 * (l.any (·.madeup)).toNat + 2 ^ 10 * (l.any fun t => t.isDrum && decide (0 < t.count)).toNat +
    2 ^ 11 * (l.any (·.dup)).toNat + 2 ^ 12 * (l.any (·.dropped)).toNat + 2 ^ 13 * (l.any (·.overrun)).toNat +
    2 ^ 16 * min (l.filter fun t => !t.code.good).length 65535)

def State.scoreRecord (s : State) (j : Job) : Record :=
  let st := scoreStatus j.tasks
  { status := st, utag := j.utag, task := 0xFFFFFFFF, job := j.num, beat := s.beat, sqidx := j.sqidx.setWidth 32, kind := 1,
    nojob := false, cls0 := j.score.live, group := j.group,
    sound := if s.met.hold then j.tasks.flatMap fun t =>
        if t.isDrum && t.code.good then t.ran.map fun d => (d, (s.drum d).sound.passes) else [] else [],
    holdTo := holdEnd j.group (codeGood st) s.beat, aborted := false, jobNum := j.num, serial := j.serial }

/-! ## Job boundaries and halts (R54, R88, R100, R116, R148, R244) -/

/-- The units of a drum with nothing at work: latches empty, queues empty. -/
def Drum.idleUnits (x : Drum) : Drum :=
  { x with
    skin := { x.skin with load := none, cur := none, nextRow := 0, jobs := [], started := none, holds := [], laneQ := [],
                          fin := [], qs := [], fed := 0 }
    tuner := { x.tuner with cur := none, share := none }
    roll := { x.roll with cur := none, table := [] }
    queues := Queues.reset }

/-- The clearing of a boundary, a halt or a reset: latches, scales, records, shell and cache. A record that is no longer valid
reads zero (R111, log 60). -/
def Drum.clear (x : Drum) : Drum :=
  let x := x.idleUnits
  { x with
    skin := { x.skin with tile := none, cells := [], sums := [] }
    tuner := { x.tuner with file := [], fvalid := false, rsb := [], rsbTag := [], recs := [] }
    shell := { x.shell with rows := [], tstat := [], descs := [], blocks := [], leaves := [], sent := [], clearing := true, seed := 0 }
    tap := { x.tap with replay := none }
    seq := { x.seq with cache := [] }
    boundaryDue := false }

/-- The clearing of a boundary while a preempted task's state stands in the save area: that job's records, and its place in
the tree, stay (R245, R266). -/
def Drum.clearBeside (x : Drum) : Drum :=
  match x.saved with
  | none => x.clear
  | some v =>
    let j := v.seq.run.map (·.job)
    let y := x.clear
    { y with tuner := { y.tuner with recs := x.tuner.recs.filter fun r => decide (r.2.owner = j) }
             shell := { y.shell with sent := x.shell.sent.filter fun t => decide (some t.job = j) } }

/-- Ends whatever run the sequencer holds. -/
def Seq.stop (q : Seq) : Seq :=
  { q with run := none, waiting := none, fencing := none, stopped := false, ended := false, outstanding := [],
           madeup := false, tapMisses := 0, refused := [], fuse := false, reissue := [] }

/-- The make-ups and tap misses of a run that leaves its drum go into its task's status word (R259). -/
def State.bankSeq (s : State) (q : Seq) : State :=
  match q.run with
  | some r => s.modTask r.job r.task fun t => { t with madeup := t.madeup || q.madeup, count := t.count + q.tapMisses }
  | none => s

def State.bankRun (s : State) (d : Nat) : State := s.bankSeq (s.drum d).seq

/-- The runs of job j on drum d, the running one and the saved one. -/
def State.bankJob (s : State) (d : Nat) (j : Half) : State :=
  let x := s.drum d
  let s := if (x.seq.run.map (·.job)) = some j then s.bankRun d else s
  match x.saved with
  | some v => if (v.seq.run.map (·.job)) = some j then s.bankSeq v.seq else s
  | none => s

/-- Drops the run and the saved state of a job on a drum. -/
def Drum.dropJob (x : Drum) (j : Half) : Drum :=
  let x := if (x.seq.run.map (·.job)) = some j then
      let y := x.idleUnits
      { y with seq := x.seq.stop, claim := none, preempting := none, shell := { y.shell with leaves := [] },
               tap := { y.tap with replay := none } } else x
  let x := if (x.preempting.map (·.1)) = some j then { x with preempting := none } else x
  let x := if (x.claim.map (·.job)) = some j then { x with claim := none } else x
  match x.saved with
  | some v => if (v.seq.run.map (·.job)) = some j then
      { x with saved := none, pad := { x.pad with saveHeld := false, saveDirty := true } } else x
  | none => x

/-- Held bell nodes of a job that has ended are discarded and counted (R128). -/
def Drum.dropHeld (x : Drum) (j : Half) : Drum :=
  let n := (x.pad.held.filter fun k => k.job == some j).length
  if n = 0 then x else
  { x with pad := { x.pad with held := x.pad.held.filter fun k => k.job != some j
                               discards := x.pad.discards + BitVec.ofNat 64 n } }

/-- The end of job j on a drum of its mask (R244, R239): its slots wait for the shell clearing, and its records are freed
(R245). On a drum that runs another job's task the boundary's clearing comes before the next task (log 11). -/
def Drum.endJob (x : Drum) (j : Half) : Drum :=
  let x := x.dropJob j
  let slots := x.pad.slots.map fun t => if t.job = j ∧ t.state = .bound then { t with ending := true } else t
  let x := { x with pad := { x.pad with slots := slots } }
  if x.seq.run.isSome then
    { x with boundaryDue := true
             tuner := { x.tuner with recs := x.tuner.recs.filter fun r => decide (r.2.owner ≠ some j) } }
  else { x.clearBeside with seq := { x.clearBeside.seq with lastJob := none } }

/-! ## The end of tasks and jobs (R255, R259) -/

/-- Predecessors of task i in a job. -/
def preds (l : List Task) (i : Nat) : List Task := l.filter fun t => t.trec.succs.contains i

/-- Decrements the remaining count of each successor of a task that ended done or done-empty. -/
def release (l : List Task) (succs : List Nat) : List Task :=
  succs.foldl (fun l k => modAt l k fun t => { t with remaining := t.remaining - 1 }) l

/-- One task of the settling pass: a waiting task becomes ready, a ready barrier ends, and a task whose predecessors have
all ended without releasing it ends cancelled. Successors stand later, so one ascending pass is enough. -/
def settleTask (beat : Dword) (i : Nat) (l : List Task) : List Task :=
  match l[i]? with
  | none => l
  | some t =>
    if t.state ≠ .waiting then l
    else if t.remaining = 0 then
      match t.trec.body with
      | .barrier => release (l.set i { t with state := .ended, code := .done, endBeat := beat }) t.trec.succs
      | _ => l.set i { t with state := .ready, readyAt := beat }
    else if (preds l i).all (fun p => p.state == .ended) then
      l.set i { t with state := .ended, code := .cancelled, endBeat := beat }
    else l

def settleTasks (beat : Dword) (l : List Task) : List Task := loop (settleTask beat) l.length l

def TaskBody.drumSet : TaskBody → BitVec 128
  | .drum set .. => set
  | _ => 0

/-- Drums or engine that a class-0 task holds in order. -/
def Task.units (t : Task) : List Nat :=
  maskDrums t.trec.body.drumSet ++ (match t.trec.body, t.unit with | .dma .., some e => [128 + e] | _, _ => [])

/-- Class-0 tasks of the job admitted as number `o` have ended: a later one on their drums or engine that has waited for
them counts as ready from now on (R265). -/
def State.noteTurn (s : State) (o : Nat) (l : List (Task × Nat)) : State :=
  let l := l.filter fun e => e.1.trec.cls == 0
  let behind (y : Job) (i : Nat) (t : Task) : Bool := t.trec.cls == 0 && t.state == .ready && l.any fun e =>
    (decide (o < y.order) || (o == y.order && decide (e.2 < i))) && e.1.units.any fun u => t.units.contains u
  if l.isEmpty then s else s.modMet fun m => { m with jobs := m.jobs.map fun y =>
    { y with tasks := y.tasks.zipIdx.map fun p => if behind y p.2 p.1 then { p.1 with readyAt := s.beat } else p.1 } }

/-- Pushes the records of the tasks of j that ended between the two lists, in index order. -/
def State.pushTasks (s : State) (j : Job) (before after : List Task) : State :=
  (List.range after.length).foldl (fun s i =>
    match before[i]?, after[i]? with
    | some a, some b =>
      if a.state ≠ .ended ∧ b.state = .ended ∧ b.trec.cmpl = true then s.pushRecord j.ring (s.taskRecord j i b) else s
    | _, _ => s) s

/-- Readers of host memory that work for a task: its engine and its stick. -/
def Met.holds (m : Met) (p : Half × Nat → Bool) (r : Reader) : Bool :=
  match r with
  | .engine e => ((getCell none m.engines e).map p).getD false
  | .stick k => ((getCell none m.sticks k).map p).getD false
  | _ => false

/-- Frees what a task that ends held: its stick or engine and its work counter. -/
def State.freeUnits (s : State) (j : Half) (i : Nat) : State :=
  (s.dropAsks (s.met.holds fun p => p == (j, i))).modMet fun m => { m with
    sticks := m.sticks.filter fun p => decide (p.2 ≠ some (j, i))
    engines := m.engines.filter fun p => decide (p.2 ≠ some (j, i))
    moves := m.moves.filter fun k => !(k.job == j && k.task == i)
    counters := m.counters.filter fun c => !(c.job == j && c.task == i)
    shares := m.shares.filter fun c => !(c.job == j && c.task == i) }

/-- Ends a job all of whose tasks have ended: score record, slots on every drum of its mask. -/
def State.finishJob (s : State) (j : Half) : State :=
  match s.job? j with
  | none => s
  | some x =>
    if x.tasks.all (fun t => t.state == .ended) then
      let s := s.pushRecord x.ring (s.scoreRecord x)
      let s := s.modMet fun m => { m with jobs := m.jobs.filter fun y => y.num != j }
      let s := (List.range 136).foldl (fun s d =>
        if (s.drum d).pad.slots.any (fun t => t.job == j && t.state == .bound) then s.modDrum d (·.endJob j) else s) s
      { s with drums := s.drums.map fun y => Drum.dropHeld y j }
    else s

/-- Tasks that ended between two lists of a job's tasks, with their indices. -/
def newlyEnded (before after : List Task) : List (Task × Nat) :=
  after.zipIdx.filter fun p => p.1.state == .ended && ((before[p.2]?).map (·.state)) != some .ended

/-- Task i of job j ends with a code (R259): the status, the release of successors, barriers and cancellations, the
records, and the job's end when it was the last. -/
def State.endTask (s : State) (j : Half) (i : Nat) (c : Code) : State :=
  match s.job? j with
  | none => s
  | some x =>
    match x.tasks[i]? with
    | none => s
    | some t =>
      if t.state = .ended then s else
      let l := x.tasks.set i { t with state := .ended, code := c, endBeat := s.beat }
      let l := if c.good then release l t.trec.succs else l
      let l := settleTasks s.beat l
      let s := s.freeUnits j i
      let s := (s.modJob j fun y => { y with tasks := l }).noteTurn x.order (newlyEnded x.tasks l)
      let s := s.pushTasks { x with tasks := l } x.tasks l
      s.finishJob j

/-- A task that faults (R152): it will end with CODE faulted. -/
def State.markFaulted (s : State) (j : Half) (i : Nat) : State :=
  s.modTask j i fun t => if t.code.good then { t with code := .faulted } else t

/-! ## Aborts (R259, R260, R350, R361) -/

/-- Stops every drum, stick and engine that works for job j. -/
def State.stopJob (s : State) (j : Half) : State :=
  let s := (List.range 136).foldl (fun s d =>
    if ((s.drum d).seq.run.map (·.job)) = some j ∨ (s.drum d).saved.isSome ∨ (s.drum d).preempting.isSome ∨
        (s.drum d).claim.isSome then
      (s.bankJob d j).modDrum d (·.dropJob j) else s) s
  (s.dropAsks (s.met.holds fun p => p.1 == j)).modMet fun m => { m with
    sticks := m.sticks.filter fun p => decide ((p.2.map (·.1)) ≠ some j)
    engines := m.engines.filter fun p => decide ((p.2.map (·.1)) ≠ some j)
    moves := m.moves.filter fun k => k.job != j
    counters := m.counters.filter fun c => c.job != j
    shares := m.shares.filter fun c => c.job != j }

/-- Every task of job j that has not ended ends aborted, and the job ends. -/
def State.abortTasks (s : State) (j : Half) : State :=
  let s := s.stopJob j
  match s.job? j with
  | none => s
  | some x =>
    let l := x.tasks.map fun t => if t.state = .ended then t else { t with state := .ended, code := .aborted, endBeat := s.beat }
    let s := (s.modJob j fun y => { y with tasks := l, aborted := true }).noteTurn x.order
      (x.tasks.zipIdx.filter fun p => p.1.state != .ended)
    (s.pushTasks { x with tasks := l } x.tasks l).finishJob j

/-- Task and score records of the job that are not written yet will say aborted where they said done (R260, R376). A record
that R352 alone holds goes by the stamps of its group's aborts. -/
def State.abortRecords (s : State) (j : Half) : State :=
  let hit (r : Record) : Bool := r.jobNum == j && r.kind != 2 && (r.holdTo.isNone || !s.soundOk r.beat r.sound)
  let mark (x : Record) : Record := if hit x then { x with aborted := true } else x
  { s with rings := s.rings.map fun p => (p.1, { p.2 with out := p.2.out.map mark }) }

/-- One abort packet on every wired port (R350); `skip` is the arrival port. -/
def State.spreadAbort (s : State) (g : Nat) (id : AbortId) (stamp : Dword) (skip : Option Nat) : State :=
  (List.range 20).foldl (fun s p =>
    if (s.port p).dir.toNat ≤ 5 ∧ (s.port p).inService = true ∧ some p ≠ skip then
      let pk : Pk := { pkind := 0x10, group := g, dst := (s.port p).peer, src := s.pcie.coord, dstDrum := 255, srcDrum := 255,
                       spec := leBytes 2 (coordWord id.origin) ++ leBytes 2 id.serial.toNat ++ leBytes 8 stamp.toNat, data := [] }
      s.modFab fun f => { f with ports := queueFlits f.ports p 0 (pk.queued 0) }
    else s) s

/-- The acknowledgement or refusal of a SEND of another part. -/
def State.ackPk (s : State) (k : Packet) (serial : Nat) (ok : Bool) : Pk :=
  { pkind := 2, group := k.group, dst := k.from_, src := s.pcie.coord, dstDrum := k.fromDrum,
    srcDrum := (s.drum k.dst).logical.toNat, spec := leBytes 4 serial ++ leBytes 1 ok.toNat, data := [] }

/-- The base die refuses a SEND of another part. -/
def State.refuseSend (s : State) (k : Packet) (serial : Nat) : State := s.sendPk (s.ackPk k serial false) false

/-- The part that aborts a job of group g sends the abort and closes the group (R350). -/
def State.originateAbort (s : State) (g : Nat) (stamp : Dword) : State :=
  if g = 0 then s else
  let id : AbortId := ⟨s.pcie.coord, s.fab.abortSerial⟩
  let s := s.modFab fun f => { f with abortSerial := f.abortSerial + 1, abortTx := f.abortTx + 1,
                                      seen := (id :: f.seen).take 4096, aborts := (g, stamp) :: f.aborts,
                                      closed := if f.closed.contains g then f.closed else g :: f.closed }
  s.spreadAbort g id stamp none

/-- Job j of group g is aborted, across its parts when it is grouped. -/
def State.abortOf (s : State) (j : Half) (g : Nat) (stamp : Dword) : State :=
  ((s.originateAbort g stamp).abortTasks j).abortRecords j

/-- Jobs with records that are not written yet, and their groups. -/
def State.recordJobs (s : State) : List (Half × Nat) :=
  (s.rings.flatMap fun p => (p.2.out.filter fun r => r.kind != 2 && !r.nojob).map fun r => (r.jobNum, r.group)).eraseDups

/-- Group of job j, in flight or ended with records that are not written yet. -/
def State.groupOf (s : State) (j : Half) : Nat :=
  match s.job? j with
  | some x => x.group
  | none => ((s.recordJobs.find? fun p => p.1 == j).map (·.2)).getD 0

/-- Job j is aborted, across its parts when it is grouped. -/
def State.abortJob (s : State) (j : Half) (stamp : Dword) : State := s.abortOf j (s.groupOf j) stamp

/-- Every job on the part is aborted, those that have ended and whose records are still held among them (R361, R376). -/
def State.abortAll (s : State) (stamp : Dword) : State :=
  (s.met.jobs.map (·.num) ++ s.recordJobs.map (·.1)).eraseDups.foldl (fun s j => s.abortJob j stamp) s

/-! ## Latching faults (R358) -/

/-- Does the grace timer of a source run now (R392: source 0x161 waits for BAR0, and never in recovery)? -/
def State.timerRuns (s : State) (src : Nat) : Bool := src != 0x161 || (s.boot.bar0 && s.boot.mode != 2)

/-- Where the grace timer of a record that latches or climbs now starts to count. -/
def State.timerFrom (s : State) (src : Nat) : Option Dword := if s.timerRuns src then some s.power.ac else none

def State.interrupt (s : State) (src : Nat) : State :=
  if (s.fault src).ien then s.requestVector (s.fault src).vec.toNat false else s

/-- A new record at notice. -/
def FaultSet.latch (f : FaultSet) (r : Raised) (beat : Dword) (origin : Option Dword) : FaultSet :=
  { f with valid := true, ovf := false, inj := r.inj, real := !r.inj, level := 0, jobv := r.job.isSome,
           job := r.job.getD 0, sub := r.sub, nlate := 0, stamp := beat, frozen := false, struck := false, run := r.run,
           origin := origin }

/-- Is r the fault to latch in the event that f holds: a real one before an injected one, then the lower sub-source? -/
def FaultSet.outranked (f : FaultSet) (r : Raised) : Bool :=
  if f.real then !r.inj && decide (r.sub.toNat < f.sub.toNat)
  else !r.inj || decide (r.sub.toNat < f.sub.toNat)

/-- Another fault of the event that f holds (R358, R379). -/
def FaultSet.join (f : FaultSet) (r : Raised) : FaultSet :=
  let g := { f with ovf := true, nlate := satInc8 f.nlate, inj := f.inj || r.inj, real := f.real || !r.inj }
  if f.outranked r then { g with sub := r.sub, jobv := r.job.isSome, job := r.job.getD 0, run := r.run } else g

/-- A later fault. -/
def FaultSet.late (f : FaultSet) : FaultSet := { f with ovf := true, nlate := satInc8 f.nlate }

/-! ## Drum map changes (R28-R30, R368) -/

/-- Holds some job a BOUND slot on drum p, or does a saved run stand there? -/
def Drum.hasJob (x : Drum) : Bool := x.pad.slots.any (fun t => t.state == .bound) || x.saved.isSome

/-- The spare that takes over from drum p: the lowest of its compute die, else of the other (R28). -/
def State.spareFor (s : State) (p : Nat) : Option Nat :=
  match s.spares.find? fun q => decide (q / 68 = p / 68) with
  | some q => some q
  | none => s.spares.head?

/-- Passes the logical number of a retired drum to its spare once no job holds a slot on it. -/
def State.moveDrum (s : State) (p : Nat) : State :=
  let x := s.drum p
  if x.status = .retired ∧ x.logical ≠ 0xFF ∧ x.hasJob = false then
    match s.spareFor p with
    | some q => (s.modDrum q fun y => { y with logical := x.logical, status := .active, liveHeld := x.liveHeld,
                                                pad := { y.pad with saveEn := s.met.mask.getLsbD x.logical.toNat } }).modDrum p fun y =>
        { y with logical := 0xFF, liveHeld := none, pad := { y.pad with saveEn := false } }
    | none => s
  else s

/-- Applies every pending change of the drum map. -/
def State.applyMap (s : State) : State := loop (fun p s => s.moveDrum p) 136 s

/-! ## Memory bring-up (R306-R308) -/

/-- A fault raised while a reset or a boot runs: every valid record is frozen then, so nothing escalates (R365). -/
def State.raiseBoot (s : State) (src sub : Nat) : State :=
  let f := s.fault src
  if f.valid then s.setFault src f.late
  else (s.setFault src (f.latch ⟨src, BitVec.ofNat 8 sub, none, none, false⟩ s.beat (s.timerFrom src))).interrupt src

/-- The repair entry of channel c (R387). -/
def State.chanListed (s : State) (c : Nat) : Bool := s.boot.inForce.contains (BitVec.ofNat 32 (2 + 256 * c))

/-- Channel c after training: out of the map when the repair map or RETIRE takes it out, or when training failed three
times; how often a channel that passes failed before is open (log 2). -/
def Channel.bringUp (c : Channel) (listed pass : Bool) (tries : Nat) : Channel :=
  let out := listed || c.retire
  { c with retired := out || !pass, trained := !out && pass, ready := false,
           trainfails := if out then 0 else if pass then BitVec.ofNat 4 (tries % 3) else 3 }

/-- One bring-up of all channels with the outcome of training, bit c for channel c; the map of R307 results. With the set
unchanged and `keep`, contents and tables stay (R308); otherwise the zero fill runs and the tables clear. -/
def State.bringUp (s : State) (mask : Dword) (keep : Bool) : State :=
  let old := s.mem.map
  let chans := s.mem.chans.zipIdx.map fun p =>
    p.1.bringUp (s.chanListed p.2) (mask.getLsbD p.2) (Config.freeValue (s.free + p.2)).toNat
  let inUse := (List.range 64).filter fun c => ((chans[c]?).getD Channel.reset).trained
  let failed := (List.range 64).filter fun c => ((chans[c]?).getD Channel.reset).trainfails = 3
  let lst := if inUse.length < 48 then [] else inUse
  let s := { s with free := s.free + 64 }.modMem fun m => { m with chans := chans, map := lst, up := false }
  let s := if keep && decide (lst = old) then s else
    s.modMem fun m => { m with data := [], pgt := [], str := [], pgtBusy := false, strBusy := false
                               chans := m.chans.map fun c => { c with bad := [], fix := [] } }
  failed.foldl (fun s c => s.raiseBoot (0xC0 + c) 0x03) s

/-- The memory controllers are released: their training runs, with the outcome `mask`. The map is built once the boot has
published the repair map (R307, R389). -/
def State.trainMem (s : State) (mask : Dword) (keep : Bool) : State :=
  s.modMem fun m => { m with up := false, training := some (mask, keep) }

/-- The map is built from the channels that have trained. -/
def State.bringMem (s : State) : State := match s.mem.training with
  | some (mask, keep) => (s.modMem fun m => { m with training := none }).bringUp mask keep
  | none => s

/-! ## Resets (R403-R408) -/

def Drum.warm (x : Drum) : Drum :=
  { Drum.reset with logical := x.logical, status := x.status, sound := { Sound.reset with fail := x.sound.fail } }

/-- A ring at warm reset (R407): its configuration stays, EN clears, indices and reservations return. -/
def Ring.warm (r : Ring) : Ring :=
  { Ring.reset with sqbase := r.sqbase, cqbase := r.cqbase, live := r.live, cqsz := r.cqsz, sqsz := r.sqsz, urg := r.urg,
                    time := r.time, cnt := r.cnt, vec := r.vec }

def Channel.warm (c : Channel) : Channel :=
  { Channel.reset with trainfails := c.trainfails, retire := c.retire, retired := c.retired, ueSince := c.ueSince,
                       exhausted := c.exhausted, bad := c.bad, temp := c.temp, fastRefresh := c.fastRefresh }

/-- Every valid record freezes at a warm reset (R365). -/
def FaultSet.freeze (f : FaultSet) : FaultSet := if f.valid then { f with frozen := true, origin := none } else f

/-- The warm reset of R405-R407 up to the release of the boot ROM; `cause` is the bit of PWR_RSTCAUSE. -/
def State.warmCore (s : State) (cause : Nat) : State :=
  let js := (s.met.jobs.map (·.num) ++ s.recordJobs.map (·.1)).eraseDups
  let s := (js.map s.groupOf).foldl (fun s g => s.originateAbort g s.beat) s
  let lost := s.fab.ports.foldl (fun n p => n + (p.ingress.filter fun h => !s.transits h.2).length) 0
  { s with
    drums := s.drums.map (·.warm)
    noc := []
    met := { Met.reset with heldSerial := s.met.heldSerial }
    caches := StickCaches.reset
    rings := (s.rings.map fun p => (p.1, p.2.warm)).filter fun p => decide (p.2 ≠ Ring.reset)
    pcie := { s.pcie with pba := [], fwdValid := false, fwdSel := ⟨0, 0, 0⟩, fwdReads := [], fetches := [], asks := [], badacc := 0,
                          dbdrop := 0, cplwr := 0, msixCount := 0, fwdtmo := 0 }
    mem := { s.mem with up := false, training := none, chans := s.mem.chans.map (·.warm), pgtBusy := false, strBusy := false, idx := 0, autoinc := false,
                        stickIdx := [], walks := 0, faults := 0 }
    fab := { s.fab with aborts := [], abortTx := 0, abortRx := 0, nogrp := BitVec.ofNat 64 lost, badpkt := 0,
                        ports := s.fab.ports.map fun p =>
                          { s.onlyTransit p with impSeed := 0, impCtl := false, impReorder := 0, impCorrupt := 0, impDrop := 0,
                                                 impEn := false, counters := [] } }
    faults := (s.faults.map fun p => (p.1, p.2.freeze))
    crashed := false
    power := { s.power with rstcause := s.power.rstcause ||| BitVec.ofNat 5 (2 ^ cause), cap := 120, fastd := 32, bmcCap := 120, alert := 105,
                            fastdNow := 32, alertNow := 105, dcap := 64, dtherm := 64, duty := 64,
                            shownD := 64, shownTmax := 0, shownSensor := 0, capped := false, hot := false, fast := false, floor := false,
                            est := 0, tmax := 0, tsensor := 0, temps := List.replicate 24 (false, 0), gpioOe := 0, gpioOut := 0, hotSince := none,
                            gongValid := s.power.gongValid && cause == 3 }
    boot := { s.boot with bar0 := false, booting := true, diag := false, entered := false, updAddr := 0, result := 0,
                          busy := none, lpbase := 0, winerr := 0, bcastMask := 0xFF, bcastDiff := 0, vca := [],
                          certMsgs := [], measMsgs := [], signedHash := none, spdmWait := [] } }

/-- A warm reset: pending changes of the drum map apply, as no job holds a slot any more; unless RESET_N, low, holds the
controllers, memory is trained again, with an outcome of training that no command states (log 2). -/
def State.warmReset (s : State) (cause : Nat) : State :=
  let s := (s.warmCore cause).applyMap
  if cause = 1 ∨ s.power.resetN = false then s else let r := s.draw; r.2.trainMem r.1 true

/-- The cold reset: every register at its reset value; what the board and the flash hold, and the command queue, stay. -/
def State.coldReset (s : State) : State :=
  { State.reset with
    pending := s.pending, free := s.free, fates := s.fates, hostMem := s.hostMem, resp := s.resp, sent := s.sent
    power := { Power.reset with pwrok := s.power.pwrok, resetN := s.power.resetN, pwrcapN := s.power.pwrcapN,
                                refOk := s.power.refOk, pcieRef := s.power.pcieRef, gpioIn := s.power.gpioIn,
                                rstcause := s.power.rstcause, fastSince := if s.power.pwrcapN then none else some 0 }
    pcie := { Pcie.reset with perst := s.pcie.perst }
    mem := { MainMem.reset with dense16 := s.mem.dense16 }
    boot := { Boot.reset with layout := s.boot.layout, areas := s.boot.areas, active := s.boot.active, trialSlot := s.boot.trialSlot, tried := s.boot.tried,
                              slotA := s.boot.slotA, slotB := s.boot.slotB, counter := s.boot.counter,
                              helper := s.boot.helper, certEd := s.boot.certEd, certMldsa := s.boot.certMldsa,
                              rootEd := s.boot.rootEd, rootMldsa := s.boot.rootMldsa, records := s.boot.records,
                              coldRecords := s.boot.records } }

/-! ## Raising faults (R358, R361-R365) -/

/-- The task that a drum runs, or for which it waits for a tile. -/
def Drum.ownTask (x : Drum) : Option (Half × Nat) :=
  match x.seq.run with
  | some r => some (r.job, r.task)
  | none => x.claim.map fun c => (c.job, c.task)

/-- Notes that the drum ran a task of a job up to a beat (R374); runs older than the last two checks are dropped there. -/
def Drum.noteRun (x : Drum) (group : Nat) (beat : Dword) (r : RunId) : Drum :=
  { x with sound := { x.sound with ran := ⟨r.job, group, r.task, beat⟩ :: x.sound.ran } }

/-- Notes the run that a drum is doing, which ends there. -/
def State.noteOwnRun (s : State) (d : Nat) : State :=
  match (s.drum d).seq.run with
  | some r => s.modDrum d (·.noteRun (s.groupOf r.job) s.beat r)
  | none => s

/-- The halt of a drum or stick at stroke (R361): the drum issues nothing and clears, and its task will end aborted. -/
def State.haltUnit (s : State) (src : Nat) : State :=
  if src ≤ 0x87 then
    let own := (s.drum src).ownTask
    let s := (((s.bankRun src).noteOwnRun src).modDrum src fun x => { x with seq := x.seq.stop, claim := none, preempting := none }).modDrum src (·.clear)
    match own with
    | some (j, i) => s.modTask j i fun t => { t with code := .aborted }
    | none => s
  else if 0xA0 ≤ src ∧ src ≤ 0xAF then
    match getCell none s.met.sticks (src - 0xA0) with
    | some (j, i) => s.endTask j i .aborted
    | none => s
  else s

/-- The effects of stroke: the unit halts and the jobs named are aborted. -/
def State.stroke (s : State) (src : Nat) (jobs : List Half) (stamp : Dword) : State :=
  let own := if src ≤ 0x87 then (s.drum src).ownTask else none
  let s := s.haltUnit src
  let s := jobs.foldl (fun s j => s.abortJob j stamp) s
  match own with
  | some (j, i) => s.endTask j i .aborted
  | none => s

/-- Is FAULT_N low? -/
def Power.faultLow (p : Power) : Bool := p.faultnPulse || p.faultnHold || p.tripped

def State.crash (s : State) (stamp : Dword) : State :=
  let s := (s.modPower fun p => { p with faultnPulse := true }).emit (.faultN true)
  { s.abortAll stamp with crashed := true }

/-- Does the grace timer of a record expire now? -/
def FaultSet.expired (f : FaultSet) (ac : Dword) : Bool :=
  f.valid && !f.frozen && decide (f.level ≠ 3) &&
    match f.origin with
    | some o => decide (o.toNat + 320 * f.grace.toNat ≤ ac.toNat)
    | none => false

/-- Would the record of source e reach gong now, its grace timer expired at crash? -/
def State.gongDue (s : State) (e : Nat) : Bool := (s.fault e).expired s.power.ac && (s.fault e).level == 2

/-- The control tick of 3.2 ac that the part is in (R359, R362, R364). -/
def Power.controlTick (p : Power) : Nat := p.ac.toNat * 5 / 16

/-- The gong of a record that has reached level 3. Records that are due reach it in the same tick, and PWR_GONG names the
lowest source of them (R364). -/
def State.gong (s : State) (src : Nat) : State :=
  let also := (s.faults.map (·.1)).filter s.gongDue
  let s := also.foldl (fun s e => (s.modFault e fun f => { f with level := 3 }).interrupt e) s
  let e := also.foldl min src
  let p := s.power
  (s.modPower fun x => { x with gongValid := true, gongSource := BitVec.ofNat 9 e, gongSub := (s.fault e).sub,
                                gongCount := satInc8 p.gongCount,
                                gongTick := some p.controlTick }).warmReset 3

/-- A record climbs one level (R361, R362); `extra` is the job of the second fault that drove it. -/
def State.escalate (s : State) (src : Nat) (extra : List Half) : State :=
  let f := s.fault src
  if f.level = 3 then s else
  let s := s.setFault src { f with level := f.level + 1, origin := s.timerFrom src }
  let s := s.interrupt src
  let jobs := (if f.jobv then [f.job] else []) ++ extra
  match f.level.toNat with
  | 0 => s.stroke src jobs f.stamp
  | 1 => s.crash f.stamp
  | _ => s.gong src

/-- A second fault drives the record of a lower source to gong in the tick of a gong: PWR_GONG names the lower source (R364). -/
def State.joinGong (s : State) (r : Raised) : State :=
  let f := s.fault r.src
  if s.power.gongTick = some s.power.controlTick ∧ f.level = 2 ∧ f.stamp ≠ s.beat ∧ (r.run.isSome ∧ r.run = f.run) = False ∧
      r.src < s.power.gongSource.toNat then
    (s.modFault r.src fun f => { f with level := 3 }).modPower fun p =>
      { p with gongSource := BitVec.ofNat 9 r.src, gongSub := f.sub }
  else s

/-- A fault of beat `beat` meets its block's record: it latches, or is a later one, which escalates the record unless it belongs
to the same task run or the same event (R358); a frozen record takes the effects of stroke only (R365). -/
def State.latchFault (s : State) (r : Raised) (beat : Dword) : State :=
  let f := s.fault r.src
  if f.valid = false then (s.setFault r.src (f.latch r beat (s.timerFrom r.src))).interrupt r.src
  else if f.frozen then ((s.joinGong r).modFault r.src fun f => { f.late with struck := true }).stroke r.src r.job.toList beat
  else if f.stamp = beat then s.setFault r.src (f.join r)
  else if r.run.isSome ∧ r.run = f.run then s.setFault r.src f.late
  else (s.setFault r.src f.late).escalate r.src r.job.toList

/-- The block keeps the faults of the control tick that it is in, for a clear that meets them there (R359). -/
def FaultSet.note (f : FaultSet) (r : Raised) (beat : Dword) (tick : Nat) : FaultSet :=
  { f with recent := (if f.tick = tick then f.recent else []) ++ [(beat, r)], tick := tick }

/-- A block raises a fault. -/
def State.raiseWith (s : State) (r : Raised) : State :=
  (s.modFault r.src fun f => f.note r s.beat s.power.controlTick).latchFault r s.beat

/-- A real fault of a block with no job. -/
def State.raise (s : State) (src : Nat) (sub : Nat) : State :=
  s.raiseWith { src := src, sub := BitVec.ofNat 8 sub, job := none, run := none, inj := false }

/-- A real fault that belongs to a job. -/
def State.raiseJob (s : State) (src : Nat) (sub : Nat) (j : Half) (run : Option RunId) : State :=
  s.raiseWith { src := src, sub := BitVec.ofNat 8 sub, job := some j, run := run, inj := false }

/-- A fault raised by the instruction that drum d runs (R152): the sequencer issues nothing further of the task, which
will end faulted. -/
def State.drumFault (s : State) (d : Nat) (sub : Nat) : State :=
  match (s.drum d).seq.run with
  | some r =>
    let s := s.modSeq d fun q => { q with stopped := true, waiting := none }
    (s.markFaulted r.job r.task).raiseJob d sub r.job (some r)
  | none => s.raise d sub

/-- A fault in drum d that belongs to another job or to none: an arrival (R128, R232). -/
def State.arrivalFault (s : State) (d : Nat) (sub : Nat) (j : Option Half) : State :=
  let run := match (s.drum d).seq.run with
    | some r => if some r.job = j then some r else none
    | none => none
  match run with
  | some _ => s.drumFault d sub
  | none => s.raiseWith { src := d, sub := BitVec.ofNat 8 sub, job := j, run := none, inj := false }

/-! ## What passes when no command waits (log 1) -/

/-- The smallest of the limits of R411; PWRCAP_N counts from 1 us (320 ac) after its edge. -/
def Power.limit (p : Power) : BitVec 7 :=
  let d := min p.dcap p.dtherm
  let fast := match p.fastSince with
    | some b => decide (b.toNat + 320 ≤ p.ac.toNat) && decide (p.fastdNow ≠ 0)
    | none => false
  BitVec.ofNat 7 (if fast then min d p.fastdNow.toNat else d)

/-- Does the score at the head of ring r wait for slots or regions, its records being there (MET_RINGWAIT)? -/
def Ring.waitsForRoom (r : Ring) : Bool := match r.head with
  | some h => decide (r.reserved + (h.score.tasks.filter (·.cmpl)).length ≤ ringSize r.cqNow)
  | none => false

/-- One ac: the beat counter counts while the control clock runs (R403, R412), and a change of the duty D takes effect
with the next frame of 64 ac (R410). -/
def State.tick (s : State) : State :=
  if s.power.locked && !s.power.tripped then
    let s := { s with beat := s.beat + 1 }.modPower fun p => { p with ac := p.ac + 1 }
    let s := if s.rings.any fun p => p.2.waitsForRoom then s.modMet fun m => { m with ringwait := m.ringwait + 2 } else s
    if s.beat.toNat % 64 = 0 then s.modPower fun p => { p with duty := p.limit } else s
  else s

end Sys2Proof.Machine
end

