-- ==== Sys2Proof/Machine/Flags.lean ====
section
/-! DEFINITION. Machine/Flags.lean: the tile status word of R115 and every computation of its flags. -/

namespace Sys2Proof.Machine

def tsLevel (w : Word) : Nat := fld w.toNat 17 5
def tsDone (w : Word) : Bool := w.getLsbD 16
def tsBell (w : Word) : Bool := w.getLsbD 15
def tsTerms (w : Word) : Nat := fld w.toNat 0 9

def flagSR : Word := 0x4000#32
def flagALIGN : Word := 0x2000#32
def flagNAN : Word := 0x1000#32
def flagINF : Word := 0x0800#32
def flagLONG : Word := 0x0400#32
/-- The five sticky flags, [14:10]. -/
def flagMask : Word := 0x7C00#32

/-- INF or NAN of one FP32 value. -/
def valueFlag (w : Word) : Word :=
  match val w with
  | .nan => flagNAN
  | .inf _ => flagINF
  | _ => 0#32

def valuesFlag (l : List Word) : Word := l.foldl (fun f w => f ||| valueFlag w) 0#32

/-- The word of a chain-mode row: BELL, DONE and LEVEL zero, TERMS grown and saturating at 511, LONG past the limit
(R115, R118, R139). -/
def chainStatus (old : Word) (set sr : Bool) (terms : Nat) (new : Word) : Word :=
  let flags := (if set then 0#32 else old &&& flagMask) ||| (new &&& flagMask)
  let t := min 511 ((if set then 0 else tsTerms old) + terms)
  let long := if (if sr then 128 else 256) < t then flagLONG else 0#32
  flags ||| long ||| toW t

/-- The word of a bell row of slot 0: BELL set, LEVEL and DONE as given, TERMS zero. -/
def bellStatus (flags : Word) (level : Nat) (done : Bool) : Word :=
  (flags &&& flagMask) ||| 0x8000#32 ||| (if done then 0x10000#32 else 0#32) ||| toW (level * 2 ^ 17)

/-- A row that gains INF or NAN and keeps the rest (R190). -/
def gainFlags (old new : Word) : Word := old ||| new

/-- INF and NAN formed anew, the rest kept (R213). -/
def replaceValueFlags (old new : Word) : Word := (old &&& ~~~(flagNAN ||| flagINF)) ||| new

/-- FLAGS of a task's status word from the OR of its rows' words: bits [14:10] (R259; log 12). -/
def taskFlags (w : Word) : BitVec 5 := BitVec.ofNat 5 (fld w.toNat 10 5)

/-! ### Shell rows -/

def shellAt (h : Shell) (row col : Nat) : Word := getCell 0#32 h.rows (row * 1024 + col)
def Shell.put (h : Shell) (row col : Nat) (v : Word) : Shell := { h with rows := putCell 0#32 h.rows (row * 1024 + col) v }
def Shell.tstatus (h : Shell) (row : Nat) : Word := getCell 0#32 h.tstat row
def Shell.setStatus (h : Shell) (row : Nat) (w : Word) : Shell := { h with tstat := putCell 0#32 h.tstat row w }
/-- Columns 0 to n - 1 of a row. -/
def Shell.rowList (h : Shell) (row n : Nat) : List Word := (List.range n).map fun c => shellAt h row c
/-- Writes values over columns c, c + 1, ... of a row. -/
def Shell.putRow (h : Shell) (row c : Nat) : List Word → Shell
  | [] => h
  | v :: r => Shell.putRow (h.put row c v) row (c + 1) r

/-- Rows lo to lo + n - 1 as the bits of a row mask. -/
def rowMask (lo n : Nat) : BitVec 256 := BitVec.ofNat 256 ((2 ^ n - 1) * 2 ^ lo)

/-- Notes that the run has written rows (R259). -/
def State.noteRows (s : State) (d lo n : Nat) : State := s.modSeq d fun q => { q with wrote := q.wrote ||| rowMask lo n }

end Sys2Proof.Machine
end

