-- ==== Sys2Proof/Machine/Operands.lean ====
section
/-! DEFINITION. Machine/Operands.lean: the operand forms: the fields of the instruction words (R153-R162), the format
codes (R79), the layouts of pad rows (R80), regions (R223-R224), and the issue of an instruction by a drum's sequencer
(R147-R154). -/

namespace Sys2Proof.Machine

/-! ## Fields of a word -/

def wf (w : Quad) (hi lo : Nat) : Nat := fld w.toNat lo (hi + 1 - lo)
def wb (w : Quad) (i : Nat) : Bool := w.getLsbD i
def opcode (w : Quad) : Nat := wf w 127 120
/-- The opcodes of R153. -/
def opcodes : List Nat := [0x10, 0x11, 0x20, 0x30, 0x40, 0x41, 0x50, 0x60, 0x61, 0x7F]

def groupSize (g : BitVec 2) : Nat := 32 * 2 ^ g.toNat
def ceilDiv (a b : Nat) : Nat := (a + b - 1) / b

/-- A byte range relative to the region's base. -/
structure Range where
  off : Nat
  len : Nat
deriving DecidableEq, Repr

/-! ## Banks that an access touches (R218-R220, R235-R237, R241) -/

/-- Bank of the 16-byte word at an absolute pad offset. -/
def bankOf (a : Nat) : Nat := (a / 1024 + a / 16 % 64) % 64

/-- Words that a range of n bytes from absolute offset a touches. -/
def wordsOf (a n : Nat) : Nat := if n = 0 then 0 else (a + n - 1) / 16 - a / 16 + 1

/-- Notes an access to banks: the beat of the last one, and the wake of a gated bank, which begins once its retention is
complete (R236, R237). -/
def Pad.touch (p : Pad) (beat : Dword) (hit : List Nat) : Pad :=
  let p := { p with touched := hit.foldl (fun c b => putCell 0#64 c b beat) p.touched }
  if p.banks.isEmpty then p else
  let wake := (p.banks.filter fun b => b.2 == .gated && hit.contains b.1).map (·.1)
  { p with banks := p.banks.map fun b => if wake.contains b.1 then (b.1, .waking) else b
           wakes := wake.foldl (fun c b => putCell 0#64 c b (if beat < getCell 0#64 c b then getCell 0#64 c b else beat)) p.wakes }

/-- Conflicts of one access set of absolute word addresses (R219). -/
def Pad.countSet (p : Pad) (l : List Nat) : Pad :=
  let per := (List.range 64).map fun b => (l.filter fun a => bankOf (16 * a) == b).length
  let extra := per.foldl max 0 - 1
  let p := { p with conflicts := p.conflicts + BitVec.ofNat 64 extra }
  per.zipIdx.foldl (fun p c => if 1 < c.1 then
    { p with conf := putCell 0#64 p.conf c.2 (getCell 0#64 p.conf c.2 + BitVec.ofNat 64 (c.1 - 1)) } else p) p

def Pad.conflictIn (p : Pad) (b : Nat) : Pad :=
  { p with conflicts := p.conflicts + 1, conf := putCell 0#64 p.conf b (getCell 0#64 p.conf b + 1) }

/-- Conflicts of the sets of a contiguous range, split at 64 words: a full set that starts at word c of a pad row, c not
zero, meets one bank twice. -/
def Pad.setConflicts (p : Pad) (a n : Nat) : Pad :=
  if a / 16 % 64 = 0 then p else loop (fun k p => p.conflictIn (bankOf (a + 1024 * k))) (wordsOf a n / 64) p

/-- One access to the n bytes from absolute offset a, in sets that have no conflict. From 128 words on it touches every bank. -/
def Pad.reach (p : Pad) (beat : Dword) (a n : Nat) : Pad :=
  if n = 0 then p else p.touch beat ((List.range (min 128 (wordsOf a n))).map fun i => bankOf (a + 16 * i))

/-- One access to the n bytes from absolute offset a, in sets of up to 64 words in ascending order. -/
def Pad.access (p : Pad) (beat : Dword) (a n : Nat) : Pad := if n = 0 then p else (p.reach beat a n).setConflicts a n

/-- Takes the ranges of one word at the front of a list, 64 at most: their words form one set (log 23). -/
def takeSingles (base : Nat) : Nat → List Range → List Nat × List Range
  | 0, l => ([], l)
  | _, [] => ([], [])
  | n + 1, r :: l =>
    if wordsOf (base + r.off) r.len = 1 then
      let q := takeSingles base n l
      ((base + r.off) / 16 :: q.1, q.2)
    else ([], r :: l)

/-- The accesses of an instruction to its ranges, relative to `base`: the sets of the tuner and the roll unit. -/
def accessGo (beat : Dword) (base : Nat) : Nat → List Range → Pad → Pad
  | 0, _, p => p
  | _, [], p => p
  | n + 1, r :: l, p =>
    match takeSingles base 64 (r :: l) with
    | ([], _) => accessGo beat base n l (p.access beat (base + r.off) r.len)
    | (ws, rest) => accessGo beat base n rest ((p.touch beat (ws.map fun a => bankOf (16 * a))).countSet ws)

def Pad.accessAll (p : Pad) (beat : Dword) (base : Nat) (l : List Range) : Pad := accessGo beat base l.length l p

/-- Does the range hold a word that fails its re-read (R235)? -/
def Pad.anyFailed (p : Pad) (a n : Nat) : Bool := p.failed.any fun w => decide (a / 16 ≤ w ∧ w * 16 < a + n)

/-- Marks the slot whose resident part holds a byte offset (R235). -/
def Pad.markPurge (p : Pad) (a : Nat) : Pad :=
  { p with slots := p.slots.map fun t =>
      if t.state = .bound ∧ t.base * 65536 ≤ a ∧ a < t.resv * 65536 then { t with purgeMark := true } else t }

/-- A read of n bytes meets words that fail again: each is read twice, and its slot is marked (R235). -/
def Pad.reread (p : Pad) (a n : Nat) : Pad :=
  (p.failed.filter fun w => decide (a / 16 ≤ w ∧ w * 16 < a + n)).foldl (fun p w =>
    { p.markPurge (16 * w) with rereads := p.rereads + 1 }) p

/-- Writes bytes at an absolute offset; a word that is written again passes its parity. -/
def Pad.put (p : Pad) (a : Nat) (l : List Byte) : Pad :=
  { p with mem := putBytes p.mem a l
           failed := if p.failed.isEmpty then [] else p.failed.filter fun w => !decide (a / 16 ≤ w ∧ w * 16 < a + l.length) }

/-- Zeroes [lo, hi). -/
def Pad.zero (p : Pad) (lo hi : Nat) : Pad :=
  { p with mem := zeroRange p.mem lo hi, failed := p.failed.filter fun w => decide (16 * w < lo ∨ hi ≤ 16 * w) }

/-! ## Regions -/

/-- The BOUND slot of a job on a drum (R223). -/
def Pad.slotOf (p : Pad) (j : Half) : Option Slot := p.slots.find? fun t => t.job == j && t.state == .bound && !t.ending

/-- The slot in which the drum's running task runs. -/
def Drum.slot (x : Drum) : Option Slot := x.seq.run.bind fun r => x.pad.slotOf r.job

def Slot.bytes (t : Slot) : Nat := (t.bound - t.base) * 65536
def Slot.start (t : Slot) : Nat := t.base * 65536

/-- The region check of R154: no byte outside the region. -/
def Slot.holds (t : Slot) (r : Range) : Bool := decide (r.len = 0) || decide (r.off + r.len ≤ t.bytes)

def Drum.regionOk (x : Drum) (l : List Range) : Bool :=
  match x.slot with
  | some t => l.all t.holds
  | none => false

/-- Absolute pad offset of a region offset. -/
def Drum.abs (x : Drum) (off : Nat) : Nat := (x.slot.map Slot.start).getD 0 + off

def Drum.padBytes (x : Drum) (off n : Nat) : List Byte := getBytes x.pad.mem (x.abs off) n
def Drum.padNat (x : Drum) (off n : Nat) : Nat := getNat x.pad.mem (x.abs off) n
def Drum.padPut (x : Drum) (off : Nat) (l : List Byte) : Drum :=
  { x with pad := x.pad.put (x.abs off) l }

/-- Does a range of the list hold a word that fails its re-read (R235)? -/
def Drum.readFails (x : Drum) (l : List Range) : Bool :=
  !x.pad.failed.isEmpty && l.any fun r => decide (r.len ≠ 0) && x.pad.anyFailed (x.abs r.off) r.len

/-- The words of the ranges that fail are read a second time (R235). -/
def State.rereads (s : State) (d : Nat) (l : List Range) : State :=
  s.modDrum d fun x => if x.readFails l then
    { x with pad := l.foldl (fun p r => if r.len = 0 then p else p.reread (x.abs r.off) r.len) x.pad } else x

/-! ## Fetch (R148) -/

/-- A line of the pattern cache: line number and its 64 bytes. -/
def Drum.lineBytes (x : Drum) (line : Nat) : BitVec 512 := BitVec.ofNat 512 (x.padNat (line * 64) 64)

/-- Brings the line that holds 16-byte unit pc into the cache: 64 lines, the oldest replaced (log 13). -/
def Drum.fillLine (x : Drum) (beat : Dword) (pc : Nat) : Drum :=
  let line := pc / 4
  if x.seq.cache.any (fun p => p.1 == line) then x
  else { x with seq := { x.seq with cache := ((line, x.lineBytes line) :: x.seq.cache).take 64
                                    misses := x.seq.misses + 1 }
                pad := x.pad.access beat (x.abs (64 * line)) 64 }

/-- Does the line that a fetch at pc would bring in hold a word that fails its re-read (R235)? -/
def Drum.lineFails (x : Drum) (pc : Nat) : Bool :=
  !(x.seq.cache.any fun p => p.1 == pc / 4) && x.pad.anyFailed (x.abs (64 * (pc / 4))) 64

/-- The word that the cache delivers at unit pc. -/
def Drum.cached (x : Drum) (pc : Nat) : Quad :=
  match x.seq.cache.find? fun p => p.1 == pc / 4 with
  | some p => BitVec.ofNat 128 (p.2.toNat / 2 ^ (128 * (pc % 4)))
  | none => 0

/-- Does unit pc lie inside the region (R149)? -/
def Drum.fetchOk (x : Drum) (pc : Nat) : Bool := x.regionOk [⟨16 * pc, 16⟩]

/-- Is the job a CHECK (R156)? -/
def SkinJob.isCheck (j : SkinJob) : Bool := opcode j.u.w == 0x11 && wf j.u.w 70 69 == 3

/-- Does issue wait for a CHECK that may send the sequencer back (R214, log 18)? -/
def Drum.checkPending (x : Drum) : Bool := x.seq.miss == 1 && x.skin.jobs.any SkinJob.isCheck

/-- May the sequencer issue now: a task runs, nothing holds issue (R150, R152, R160, R214, R266), and the shell clearing of a
boundary has ended (R116)? -/
def Drum.mayIssue (x : Drum) : Bool :=
  x.seq.run.isSome && !x.seq.stopped && !x.seq.ended && x.seq.waiting.isNone && x.seq.fencing.isNone &&
  x.preempting.isNone && !x.shell.clearing && x.slot.isSome && !x.checkPending

/-- Offset of the next instruction: a withdrawn one goes first (R266). -/
def Seq.nextPc (q : Seq) : Nat := match q.reissue with | [] => q.pc | w :: _ => w.pc

/-- An instruction of n words has been taken: the position, LASTOP, the counter and the order of issue move on. A STRIKE and
its extension word count as one (R162, R173). An instruction that faults at its decode counts as well (log 58). -/
def Seq.took (q : Seq) (n : Nat) (w : Quad) : Seq :=
  let q := { q with lastPc := q.nextPc }
  let q := match q.reissue with
    | [] => { q with pc := q.pc + n, ord := q.ord + 1 }
    | _ :: r => { q with reissue := r }
  { q with lastop := BitVec.ofNat 8 (opcode w), issued := q.issued + 1, fuse := false }

def State.took (s : State) (d n : Nat) (w : Quad) : State := s.modSeq d fun q => q.took n w

/-- Raises faults of one ac, in the order given. -/
def State.drumFaults (s : State) (d : Nat) (l : List Nat) : State :=
  match (s.drum d).seq.run with
  | some r =>
    let s := (s.modSeq d fun q => { q with stopped := true, waiting := none }).markFaulted r.job r.task
    l.foldl (fun s b => s.raiseJob d b r.job (some r)) s
  | none => s

/-- The sequencer of drum d offers the next instruction to a row of the table: `fits` says whether the word is the row's.
A fetch past the bound faults (R149), a reserved opcode faults (R153), and a word of another row leaves the state as it is
(log 10). `run w s s1` gets the word, the state before the fetch (to hold issue) and the state after it. -/
def State.issue (s : State) (d opc : Nat) (fits : Quad → Bool) (run : Quad → State → State → State) : State :=
  let x := s.drum d
  let pc := x.seq.nextPc
  if x.mayIssue = false then s
  else if x.fetchOk pc = false then s.drumFault d 0x02
  else
    let s1 := s.modDrum d fun y => y.fillLine s.beat pc
    let w := (s1.drum d).cached pc
    if x.lineFails pc then (s1.rereads d [⟨64 * (pc / 4), 64⟩]).drumFault d 0x62
    else if opcodes.contains (opcode w) = false then (s1.took d 1 w).drumFault d 0x01
    else if opcode w = opc ∧ fits w = true then run w s s1
    else s

/-- The access to ranges that lie in sets without a conflict, or whose sets have been counted: it notes the banks and wakes
them (R236, R237). -/
def State.reach (s : State) (d : Nat) (l : List Range) : State :=
  s.modDrum d fun x => { x with pad := l.foldl (fun p r => p.reach s.beat (x.abs r.off) r.len) x.pad }

/-- The access of an instruction to its ranges of the region. -/
def State.access (s : State) (d : Nat) (l : List Range) : State :=
  s.modDrum d fun x => { x with pad := x.pad.accessAll s.beat (x.abs 0) l }

/-- Pad bytes a list of ranges touches lie outside the region: the address fault when a byte lies past the pad, else the
region fault (R37, R154, R242). -/
def State.regionFault (s : State) (d : Nat) (l : List Range) : List Nat :=
  let x := s.drum d
  if x.regionOk l then []
  else if l.any fun r => decide (r.len ≠ 0) && decide (4194304 < x.abs r.off + r.len) then [0x61] else [0x60]

/-! ## The units' queues (R150) -/

inductive UnitId where
  | tuner | roll | pad | noc
deriving DecidableEq, Repr

def Queues.get (q : Queues) : UnitId → List UnitJob
  | .tuner => q.tuner
  | .roll => q.roll
  | .pad => q.pad
  | .noc => q.noc

def Queues.put (q : Queues) (u : UnitId) (l : List UnitJob) : Queues :=
  match u with
  | .tuner => { q with tuner := l }
  | .roll => { q with roll := l }
  | .pad => { q with pad := l }
  | .noc => { q with noc := l }

def Queues.all (q : Queues) : List UnitJob := q.tuner ++ q.roll ++ q.pad ++ q.noc

def Drum.setQueue (x : Drum) (u : UnitId) (l : List UnitJob) : Drum := { x with queues := x.queues.put u l }

/-- What the sequencer hands to a unit with the instruction word w. A withdrawn instruction keeps its place among those that
were issued, and what it follows (R266). -/
def Drum.newJob (x : Drum) (w : Quad) (par : Bool) : UnitJob :=
  match x.seq.reissue with
  | [] => { ord := x.seq.ord, pc := x.seq.nextPc, w := w, par := par, fused := x.seq.fuse }
  | k :: _ => { ord := k.ord, pc := k.pc, w := w, par := par, fused := k.fused }

/-- The instruction of order o ends where it stands: the steps left of a strike, the rows left of a ROLL or a TUNE. -/
def Drum.dropOrd (x : Drum) (o : Nat) : Drum :=
  { x with skin := { x.skin with jobs := x.skin.jobs.filter fun j => decide (j.u.ord ≠ o) }
           tuner := { x.tuner with cur := x.tuner.cur.filter fun c => decide (c.job.ord ≠ o) }
           roll := { x.roll with cur := x.roll.cur.filter fun j => decide (j.ord ≠ o) } }

/-- The instruction of order o faults in its unit: it ends, and issue stops. What stands in the queues has been issued and
runs to completion (R152, log 58). -/
def State.unitFault (s : State) (d o : Nat) (l : List Nat) : State := (s.modDrum d (·.dropOrd o)).drumFaults d l

/-- The instruction of order o reads ranges of its region: a word that fails its re-read ends it, with nothing derived from
the word (R235, R242). -/
def State.reading (s : State) (d o : Nat) (l : List Range) (effect : State → State) : State :=
  if (s.drum d).readFails l then (s.rereads d l).unitFault d o [0x62] else effect s

/-- The accesses of an instruction of the tuner, the roll unit or a TAP: its reads, then its writes, each in sets of their own
(R220); its reads may fail (R235). -/
def State.readWrite (s : State) (d o : Nat) (reads writes : List Range) (effect : State → State) : State :=
  (s.access d reads).reading d o reads fun s => effect (s.access d writes)

/-- One row of an instruction that does its rows one by one: it reaches the banks of its reads and writes, whose sets were
counted when the instruction started, and a word that fails its re-read ends the instruction there (R152, R235-R237). -/
def State.rowAccess (s : State) (d o : Nat) (reads writes : List Range) (effect : State → State) : State :=
  (s.reach d reads).reading d o reads fun s => effect (s.reach d writes)

/-- An effect that may read words of an array under parity: where one of them fails, the instruction that reads it raises
the array parity fault, and nothing derived from the word is written (R152, R357). -/
def State.checked (s : State) (d : Nat) (j : UnitJob) (reads : Bool) (effect : State → State) : State :=
  if j.par || !reads then effect s else s.unitFault d j.ord [0x72]

/-! ## What is still at work on a drum -/

/-- Is skin work of any kind pending: a load, rows, an instruction queued? -/
def Skin.busy (k : Skin) : Bool := k.load.isSome || k.cur.isSome || !k.laneQ.isEmpty || !k.jobs.isEmpty

/-- Is some row of a mask a bell row whose final node does not stand there yet (R141)? -/
def Shell.openRow (h : Shell) (rows : BitVec 256) : Bool :=
  h.tstat.any fun p => rows.getLsbD p.1 && tsBell p.2 && !tsDone p.2

/-! ## Format codes of TUNE (R79, R436) -/

inductive TFmt where
  | int (b : Nat)
  | ternary
  | fp8a | fp8b
  | root8
  | f16 | bf | f32
deriving DecidableEq, Repr

def tfmt (c : Nat) : Option TFmt :=
  match c with
  | 0x0 => some (.int 1)
  | 0x1 => some .ternary
  | 0x2 | 0x3 | 0x4 | 0x5 | 0x6 | 0x7 | 0x8 => some (.int c)
  | 0x9 => some .fp8a
  | 0xA => some .fp8b
  | 0xB => some .root8
  | 0xC => some .f16
  | 0xD => some .bf
  | 0xE => some .f32
  | _ => none

def TFmt.wide : TFmt → Bool
  | .f16 | .bf | .f32 => true
  | _ => false

def TFmt.float? : TFmt → Option Fmt
  | .fp8a => some e4m3
  | .fp8b => some e5m2
  | .f16 => some fp16
  | .bf => some bf16
  | .f32 => some fp32
  | _ => none

/-- Bits of one code. -/
def TFmt.bits : TFmt → Nat
  | .int b => b
  | .ternary => 2
  | .fp8a | .fp8b | .root8 => 8
  | .f16 | .bf => 16
  | .f32 => 32

/-- Layout allowed for a format (R80). -/
def layoutOk (lay : Nat) (f : TFmt) : Bool :=
  match lay, f with
  | 0, .int 8 => true
  | 0, .int _ => false
  | 0, .ternary => false
  | 0, _ => true
  | 1, .int _ => true
  | 1, .ternary => true
  | 2, .int _ => true
  | 3, .int b => decide (2 ≤ b)
  | 3, .ternary => true
  | 3, .fp8a => true
  | 3, .fp8b => true
  | 3, .root8 => true
  | _, _ => false

/-- SGN and ZP allowed for a format (R79, R90). -/
def signOk (f : TFmt) (sgn zp : Bool) : Bool :=
  match f with
  | .int 1 => !sgn
  | .int _ => !(sgn && zp)
  | .ternary => sgn && !zp
  | _ => !sgn && !zp

/-- Bytes of one row of n elements in a layout (R80). -/
def rowBytes (lay : Nat) (f : TFmt) (zp : Bool) (n : Nat) : Nat :=
  match lay with
  | 2 => 128 * f.bits + 32 * zp.toNat
  | 3 => ceilDiv (ceilDiv (f.bits * n) 8) 64 * 64 + 64 + 32 * zp.toNat
  | _ => ceilDiv (f.bits * n) 8

/-- Stride of rows: PLANE fixes its own (R80). -/
def rowStride (lay : Nat) (f : TFmt) (zp : Bool) (field : Nat) : Nat :=
  if lay = 2 then 128 * f.bits + 32 * zp.toNat else 32 * field

/-- Bits lo to lo + w - 1 of a byte string, bit 0 of byte 0 first. -/
def bitsAt (l : List Byte) (lo w : Nat) : Nat := leNat (sub l (lo / 8) (w / 8 + 2)) / 2 ^ (lo % 8) % 2 ^ w

/-- Code of element k in a row's bytes. -/
def codeAt (lay : Nat) (f : TFmt) (l : List Byte) (k : Nat) : Nat :=
  if lay = 2 then
    (List.range f.bits).foldl (fun c i => c + 2 ^ i * (((l[128 * i + k / 8]?).getD 0).getLsbD (k % 8)).toNat) 0
  else bitsAt l (f.bits * k) f.bits

/-- Packs codes of b bits, element 0 in the lowest bits. -/
def packCodes (b : Nat) (l : List Nat) : Nat := l.foldr (fun c acc => acc * 2 ^ b + c % 2 ^ b) 0

/-- The bytes of a row: codes in their layout, then the scales and zero points of ROWSCALED and PLANE (R80, R81). -/
def rowOut (lay : Nat) (f : TFmt) (zp : Bool) (codes : List Nat) (scales : List Half) (zs : List Nat) : List Byte :=
  let zb := if zp then padTo 32 (zs.map fun z => BitVec.ofNat 8 z) else []
  match lay with
  | 2 => ((List.range f.bits).flatMap fun i =>
      leBytes 128 (packCodes 1 (codes.map fun c => c / 2 ^ i))) ++ zb
  | 3 =>
    let n := ceilDiv (f.bits * codes.length) 8
    padTo (ceilDiv n 64 * 64) (leBytes n (packCodes f.bits codes)) ++
      padTo 64 (scales.flatMap fun h => leBytes 2 h.toNat) ++ zb
  | _ => leBytes (ceilDiv (f.bits * codes.length) 8) (packCodes f.bits codes)

/-- Scale s of a ROWSCALED row of n elements. -/
def rowScaleAt (f : TFmt) (l : List Byte) (n s : Nat) : Half :=
  BitVec.ofNat 16 (leNat (sub l (ceilDiv (ceilDiv (f.bits * n) 8) 64 * 64 + 2 * s) 2))

/-- Zero point s of a row. -/
def rowZpAt (lay : Nat) (f : TFmt) (l : List Byte) (n s : Nat) : Nat :=
  if lay = 2 then ((l[128 * f.bits + s]?).getD 0).toNat
  else ((l[ceilDiv (ceilDiv (f.bits * n) 8) 64 * 64 + 64 + s]?).getD 0).toNat

/-- The integer value of a code. The ternary code 0b10, which the table of R78 does not list, reads as -2 (log 60). -/
def codeVal (f : TFmt) (sgn : Bool) (c : Nat) : Int :=
  match f with
  | .ternary => if c < 2 then (c : Int) else (c : Int) - 4
  | .int b => if sgn && decide (2 ^ (b - 1) ≤ c) then (c : Int) - 2 ^ b else (c : Int)
  | _ => (c : Int)

/-! ## STRIKE (R155) -/

structure StrikeW where
  m : Nat
  n : Nat
  k : Nat
  row0 : Nat
  a : Nat
  sgn : Bool
  zp : Bool
  wfmt : BitVec 3
  group : BitVec 2
  loadw : Bool
  acc : BitVec 2
  rd : Nat
  kto : Nat
  aTag : BitVec 6
  wTag : BitVec 6
  aAddr : Nat
  wAddr : Nat
  lmAddr : Nat
  lmEn : Bool
  fuse : Bool
  ext : Bool
deriving DecidableEq, Repr

def strikeW (w : Quad) : StrikeW :=
  { m := wf w 119 111, n := wf w 110 100, k := wf w 99 89, row0 := wf w 88 81, a := wf w 80 78 + 1, sgn := wb w 77,
    zp := wb w 76, wfmt := BitVec.ofNat 3 (wf w 75 73), group := BitVec.ofNat 2 (wf w 72 71), loadw := wb w 70,
    acc := BitVec.ofNat 2 (wf w 69 68), rd := wf w 67 64, kto := wf w 63 48, aTag := BitVec.ofNat 6 (wf w 47 42),
    wTag := BitVec.ofNat 6 (wf w 41 36), aAddr := 512 * wf w 35 23, wAddr := 8192 * wf w 22 14,
    lmAddr := 2048 * wf w 13 3, lmEn := wb w 2, fuse := wb w 1, ext := wb w 0 }

/-- The extension word of R162. -/
structure ExtW where
  zeroTop : Bool
  order : Nat
  serp : Bool
  src : BitVec 2
  wscl : Bool
  ascl : Bool
  cm : Nat
  cn : Nat
  ck : Nat
  ask : Nat
  wsk : Nat
  wsn : Nat
  wsaddr : Nat
  wsstr : Nat
  asaddr : Nat
  asstr : Nat
  sstr : Nat
deriving DecidableEq, Repr

def extW (w : Quad) : ExtW :=
  { zeroTop := wf w 127 120 == 0, order := wf w 119 117, serp := wb w 116, src := BitVec.ofNat 2 (wf w 115 114),
    wscl := wb w 113, ascl := wb w 112, cm := wf w 111 104 + 1, cn := wf w 103 96 + 1, ck := wf w 95 88 + 1,
    ask := 512 * wf w 87 75, wsk := 8192 * wf w 74 66, wsn := 8192 * wf w 65 57, wsaddr := 512 * wf w 56 44,
    wsstr := 512 * wf w 43 31, asaddr := 512 * wf w 30 18, asstr := 512 * wf w 17 5, sstr := 32 * wf w 4 0 }

/-- The extension word of a STRIKE with EXT = 0: one step with SRC 0 (R155). -/
def extNone : ExtW :=
  { zeroTop := true, order := 0, serp := false, src := 0, wscl := false, ascl := false, cm := 1, cn := 1, ck := 1, ask := 0,
    wsk := 0, wsn := 0, wsaddr := 0, wsstr := 0, asaddr := 0, asstr := 0, sstr := 0 }

/-- Loops from outer to inner: 0 M, 1 N, 2 K (R162). -/
def loopOrder (o : Nat) : Nat × Nat × Nat :=
  match o with
  | 0 => (2, 1, 0)
  | 1 => (1, 2, 0)
  | 2 => (2, 0, 1)
  | 3 => (0, 2, 1)
  | 4 => (1, 0, 2)
  | _ => (0, 1, 2)

def pick3 (i m n k : Nat) : Nat := if i = 0 then m else if i = 1 then n else k

def ExtW.steps (x : ExtW) : Nat := x.cm * x.cn * x.ck

/-- (im, in, ik) of step t of a walk (R163). -/
def walkIdx (x : ExtW) (t : Nat) : Nat × Nat × Nat :=
  let (o, d, i) := loopOrder x.order
  let co := pick3 o x.cm x.cn x.ck
  let cd := pick3 d x.cm x.cn x.ck
  let ci := pick3 i x.cm x.cn x.ck
  let a := t / (cd * ci) % co
  let b := t / ci % cd
  let c := t % ci
  let vd := if x.serp && d != 2 && a % 2 == 1 then cd - 1 - b else b
  let vi := if x.serp && i != 2 && (a * cd + b) % 2 == 1 then ci - 1 - c else c
  let at_ (j : Nat) : Nat := if o = j then a else if d = j then vd else vi
  (at_ 0, at_ 1, at_ 2)

/-- The operands of step t (R163, R164). -/
def walkStep (s : StrikeW) (x : ExtW) (ext : Bool) (t : Nat) : Step :=
  let (im, in_, ik) := walkIdx x t
  let prev := walkIdx x (t - 1)
  let rowb := 128 * s.a + 32 * s.zp.toNat
  let chain := decide (s.acc.toNat < 2)
  let loadw := if t = 0 then s.loadw else decide (in_ ≠ prev.2.1 ∨ ik ≠ prev.2.2)
  { m := s.m, n := s.n, k := s.k, row0 := s.row0 + (in_ * x.cm + im) * s.m, a := s.a, sgn := s.sgn, zp := s.zp,
    wfmt := s.wfmt, group := s.group, loadw := loadw
    acc := if chain then (if ik = 0 then s.acc else 1) else (if ik + 1 = x.ck then s.acc else 2)
    rd := s.rd, kto := s.kto + ik
    aTag := s.aTag + (if x.ascl then BitVec.ofNat 6 (ik * x.cm + im) else 0)
    wTag := s.wTag + (if x.wscl || x.src != 0 then BitVec.ofNat 6 (in_ * x.ck + ik) else 0)
    aOff := s.aAddr + ik * x.ask + im * s.m * rowb
    wOff := s.wAddr + in_ * x.wsn + ik * x.wsk
    lmOff := s.lmAddr + (in_ * x.cm + im) * 8 * s.m, lmEn := s.lmEn
    src := if ext then x.src else 0, sstr := x.sstr
    wscl := if x.wscl && x.src == 0 then some (x.wsaddr + (in_ * x.ck + ik) * x.wsstr) else none
    ascl := if x.ascl then some (x.asaddr + (ik * x.cm + im) * x.asstr) else none
    im := im, in_ := in_, ik := ik, lastStep := decide (t + 1 = x.steps), ord := 0, all := 0 }

/-! ## TAP and CHECK (R156) -/

structure TapW where
  m : Nat
  n : Nat
  k : Nat
  row0 : Nat
  a : Nat
  sgn : Bool
  zp : Bool
  wfmt : BitVec 3
  group : BitVec 2
  sel : Nat
  aTag : BitVec 6
  wTag : BitVec 6
  aAddr : Nat
  mout : Nat
  thr : Half
  topk : Nat
  rsv : Nat
deriving DecidableEq, Repr

def tapW (w : Quad) : TapW :=
  { m := wf w 119 111, n := wf w 110 100, k := wf w 99 89, row0 := wf w 88 81, a := wf w 80 78 + 1, sgn := wb w 77,
    zp := wb w 76, wfmt := BitVec.ofNat 3 (wf w 75 73), group := BitVec.ofNat 2 (wf w 72 71), sel := wf w 70 69,
    aTag := BitVec.ofNat 6 (wf w 68 63), wTag := BitVec.ofNat 6 (wf w 62 57), aAddr := 512 * wf w 56 44,
    mout := 2048 * wf w 43 33, thr := BitVec.ofNat 16 (wf w 32 17), topk := wf w 16 6, rsv := wf w 5 0 }

/-! ## TUNE (R157) -/

structure TuneW where
  op : Nat
  sfmt : Nat
  dfmt : Nat
  sgn : Bool
  zp : Bool
  slay : Nat
  dlay : Nat
  m : Nat
  n : Nat
  group : BitVec 2
  smode : Nat
  qid : Nat
  cal : Bool
  away : Bool
  rsb : Bool
  drow0 : Nat
  tag : BitVec 6
  sclOut : Bool
  share : Bool
  ssrc : Bool
  src : Nat
  srcRow : Nat
  dst : Nat
  scl : Nat
  sstride : Nat
  dstride : Nat
  rsv : Bool
deriving DecidableEq, Repr

/-- The fields of a TUNE; `rsv`: a reserved bit is set, the upper bits of a shell SRC among them (R153, R157, R436). -/
def tuneW (w : Quad) : TuneW :=
  { op := wf w 119 116, sfmt := wf w 115 112, dfmt := wf w 111 108, sgn := wb w 107, zp := wb w 106, slay := wf w 105 104,
    dlay := wf w 103 102, m := wf w 101 93, n := wf w 92 82, group := BitVec.ofNat 2 (wf w 81 80), smode := wf w 79 78,
    qid := wf w 77 73, cal := wb w 72, away := wb w 71, rsb := wb w 70, drow0 := wf w 69 62,
    tag := BitVec.ofNat 6 (wf w 61 56), sclOut := wb w 55, share := wb w 54, ssrc := wb w 53, src := 1024 * wf w 52 41,
    srcRow := wf w 48 41, dst := 1024 * wf w 40 29, scl := 1024 * wf w 28 17, sstride := wf w 16 9, dstride := wf w 8 1,
    rsv := wb w 0 || (wb w 53 && (decide (wf w 119 116 ≤ 3) || wf w 119 116 == 8) && decide (wf w 52 49 ≠ 0)) }

/-! ## ROLL (R158) -/

structure RollW where
  func : Nat
  row0 : Nat
  m : Nat
  n : Nat
  span : Nat
  rstride : Nat
  arg0 : Half
  arg1 : Half
  aux : Nat
  dsel : Bool
  dst : Nat
  rsv : Nat
deriving DecidableEq, Repr

def rollW (w : Quad) : RollW :=
  { func := wf w 119 112, row0 := wf w 111 104, m := wf w 103 95, n := wf w 94 84, span := wf w 83 81 + 1,
    rstride := wf w 80 73, arg0 := BitVec.ofNat 16 (wf w 72 57), arg1 := BitVec.ofNat 16 (wf w 56 41),
    aux := 1024 * wf w 40 29, dsel := wb w 28, dst := 1024 * wf w 27 16, rsv := wf w 15 0 }

/-! ## Scale blocks (R84, R85) -/

/-- The 4 header bytes of a scale block that matter. -/
structure SclHdr where
  tag : BitVec 6
  kind : Nat
  group : BitVec 2
  zp : Bool
  pair : Bool
  count : Nat
  rsvZero : Bool
deriving DecidableEq, Repr

def sclHdr (l : List Byte) : SclHdr :=
  let b0 := leNat (sub l 0 1)
  let b1 := leNat (sub l 1 1)
  { tag := BitVec.ofNat 6 b0, kind := b0 / 64, group := BitVec.ofNat 2 b1, zp := bit b1 2, pair := bit b1 3,
    count := leNat (sub l 2 2), rsvZero := b1 / 16 == 0 && leNat (sub l 4 12) == 0 }

/-- The conditions of R85 that hold for every block. -/
def SclHdr.ok (h : SclHdr) : Bool :=
  decide (h.kind < 2) && h.group != 3 && h.rsvZero && !(h.kind == 0 && h.zp) &&
  (if h.kind = 0 then h.count == (if h.pair then 512 else 1024) else decide (1 ≤ h.count ∧ h.count ≤ 256))

/-- Bytes of a whole block. -/
def SclHdr.bytes (h : SclHdr) : Nat :=
  16 + (if h.kind = 0 then 1024 / groupSize h.group * h.count * 2 else h.count * (64 + 32 * h.zp.toNat))

end Sys2Proof.Machine
end

