-- ==== Sys2Proof/Machine/Device.lean ====
section
/-! DEFINITION. Machine/Device.lean: the device physical address space (R33-R37): LPDDR5 data in blocks (R302-R305, R309,
R311, R312), the pads of the exposed logical drums, and the host's IOVA window. -/

namespace Sys2Proof.Machine

def padSpace : Nat := 0x100000000000
def padSize : Nat := 0x400000
def hostSpace : Nat := 0x800000000000

/-- Usable LPDDR5 bytes: C channels of 8 or 4 GiB raw, 480 data bytes in 512 (R33, R34); none below 48 channels (R307). -/
def MainMem.capacity (m : MainMem) : Nat :=
  if m.map.length < 48 then 0 else m.map.length * (if m.dense16 then 8 else 4) * 2 ^ 30 / 512 * 480

/-- 256 KiB frames of usable capacity (MCH_MAP.FRAMES). -/
def MainMem.frames (m : MainMem) : Nat := m.capacity / 262144

/-- Physical drum whose LOGICAL field is l. -/
def State.holder (s : State) (l : Nat) : Option Nat := (List.range 136).find? fun p => (s.drum p).logical.toNat == l

/-- Is the range LPDDR5 data? -/
def State.inMem (s : State) (a n : Nat) : Bool := decide (a + n ≤ s.mem.capacity)
/-- Is the range pad space of exposed drums (R36)? -/
def State.inPads (s : State) (a n : Nat) : Bool := decide (padSpace ≤ a ∧ a + n ≤ padSpace + padSize * s.exposed)
def inHost (a n : Nat) : Bool := decide (hostSpace ≤ a ∧ a + n ≤ 2 * hostSpace)

/-- Is every byte of the range backed (R33, R37)? -/
def State.backed (s : State) (a n : Nat) : Bool := s.inMem a n || s.inPads a n || inHost a n

/-- Is LPDDR5 coming up, so that requests to it wait for READY (R306)? -/
def State.memHeld (s : State) : Bool := !s.mem.up && decide (48 ≤ s.mem.map.length)

/-- Is an access to the range held in the base crossbar (R306)? -/
def State.heldAt (s : State) (a n : Nat) : Bool := s.memHeld && s.inMem a n

/-- Logical drum and pad offset of a pad address. -/
def padPlace (a : Nat) : Nat × Nat := ((a - padSpace) / padSize, (a - padSpace) % padSize)

/-- The parts of [a, a + n) within the aligned ranges of `size` bytes: the index of the range, the offset in it, the length. -/
def partsOf (size a n : Nat) : List (Nat × Nat × Nat) :=
  (List.range ((a + n + size - 1) / size - a / size)).map fun i =>
    let lo := max a ((a / size + i) * size)
    let hi := min (a + n) ((a / size + i + 1) * size)
    (a / size + i, lo - (a / size + i) * size, hi - lo)

/-! ## Blocks (R302-R305) -/

/-- First data address of raw block b of channel c (R303); none when the channel is out of service or ends below b. -/
def MainMem.blockAddr (m : MainMem) (c b : Nat) : Option Nat :=
  let i := m.map.idxOf c
  let a := (b * m.map.length + i) * 480
  if i < m.map.length ∧ a + 480 ≤ m.capacity then some a else none

/-- Channel and raw block of data block n of the whole space (R303). -/
def MainMem.place (m : MainMem) (n : Nat) : Nat × Nat := ((m.map[n % m.map.length]?).getD 0, n / m.map.length)

/-- Where a raw block lies in its device (R304). -/
structure RawPlace where
  column : Nat             -- 512-byte column group of the 2 KiB page
  bankGroup : Nat
  bank : Nat
  rank : Nat
  row : Nat
deriving DecidableEq, Repr

/-- Raw block b in the device of its channel: 131,072 rows with 32 Gb dies, 65,536 with 16 Gb dies (R304). -/
def MainMem.rawPlace (m : MainMem) (b : Nat) : RawPlace :=
  { column := fld b 0 2, bankGroup := fld b 2 2, bank := fld b 4 2, rank := fld b 6 1,
    row := fld b 7 (if m.dense16 then 17 else 16) }

/-- Data bytes of code word w of a block (R305). -/
def codeWord (data : List Byte) (w : Nat) : List Byte := (data.drop (15 * w)).take 15

/-- The 512 bytes of a raw block: the data, and check byte 480 + w for code word w (R305). -/
def rawBlock (data : List Byte) : List Byte := data ++ (List.range 32).map fun w => Config.checkByte (codeWord data w)

/-- Reserved slot period P (R312). -/
def MainMem.period (m : MainMem) : Nat := m.map.length / 8

/-- Is the present 40 ns slot of 12.8 ac a reserved one? R312 does not say which slot in P is; it is the first (log 21). -/
def State.reservedSlot (s : State) : Bool := decide (s.beat.toNat * 5 / 64 % s.mem.period = 0)

/-! ## Errors (R309, R311) -/

/-- Marks the channel for retirement when a threshold of R311 is reached. -/
def Channel.markRetire (c : Channel) : Channel :=
  { c with retire := c.retire || (decide (c.ueThr ≠ 0) && decide (c.ueThr.toNat ≤ c.ueSince)) || decide (4 ≤ c.exhausted) }

/-- An uncorrectable event: MCH_UE, and MCH_UEADDR when it holds nothing. -/
def Channel.noteUe (c : Channel) (addr : Nat) : Channel :=
  let c := { c with ue := c.ue + 1, ueSince := c.ueSince + 1 }
  if c.ueValid then c else { c with ueValid := true, ueAddr := BitVec.ofNat 48 addr }

/-- Does a burst meet a fifth link error, which exhausts its retries? -/
def linkSpent (errs : List Nat) : Bool := errs.any fun e => decide (4 < e)

/-- Link retries of one access, up to 4 of each burst. -/
def Channel.noteLink (c : Channel) (errs : List Nat) : Channel :=
  { c with linkretry := c.linkretry + BitVec.ofNat 64 (errs.map (min · 4)).sum, exhausted := c.exhausted + (linkSpent errs).toNat }

/-- What one read of a block finds: does it deliver, and the fault otherwise. -/
inductive Found where
  | good
  | lost (sub : Nat)
deriving DecidableEq, Repr

/-- A block that holds an uncorrectable word shows it at every read until it is rewritten. -/
def Channel.verdict (c : Channel) (b : Nat) (e : EccVerdict) : EccVerdict := if c.bad.contains b then .uncorrectable else e

/-- Code words of a block that have been corrected. -/
def wordCount (w : Word) : Nat := ((List.range 32).filter fun i => w.getLsbD i).length

/-- The handling of R309 for a read of block b at data address addr; `sub` names the fault of an uncorrectable word. -/
def Channel.check (c : Channel) (b addr : Nat) (errs : List Nat) (e : EccVerdict) (sub : Nat) : Channel × Found :=
  let c := c.noteLink errs
  if linkSpent errs then ((c.noteUe addr).markRetire, .lost 0x02)
  else match c.verdict b e with
    | .clean => (c, .good)
    | .corrected w =>
      if w = 0 then (c, .good)
      else ({ c with ce := c.ce + BitVec.ofNat 64 (wordCount w), fix := if c.fix.contains b then c.fix else b :: c.fix }, .good)
    | .rereadGood => ({ c with reread := c.reread + 1 }, .good)
    | .uncorrectable =>
      let c := { c with reread := c.reread + 1, bad := if c.bad.contains b then c.bad else b :: c.bad }
      ((c.noteUe addr).markRetire, .lost sub)

/-- A class-0 block served in a reserved slot counts (MCH_LIVEBLK). -/
def State.noteLive (s : State) (ch : Nat) (live : Bool) : State :=
  if live && s.reservedSlot then s.modChan ch fun c => { c with liveblk := c.liveblk + 1 } else s

def State.putChan (s : State) (ch : Nat) (c : Channel) : State := s.modChan ch fun _ => c

/-- Raises what a read found. -/
def State.noteFound (s : State) (ch : Nat) (f : Found) : State :=
  match f with
  | .good => s
  | .lost sub => s.raise (0xC0 + ch) sub

/-- A read of a whole block (R302), and whether it delivers. -/
def State.readBlock (s : State) (ch b addr : Nat) (errs : List Nat) (e : EccVerdict) (live : Bool) : State × Bool :=
  let r := Channel.check { s.chan ch with rdblk := (s.chan ch).rdblk + 1 } b addr errs e 0x01
  (((s.putChan ch r.1).noteLive ch live).noteFound ch r.2, r.2 == .good)

/-- A block that is written anew holds no bad word and needs no write-back. -/
def Channel.rewritten (c : Channel) (b : Nat) : Channel :=
  { c with wrblk := c.wrblk + 1, bad := c.bad.filter (· ≠ b), fix := c.fix.filter (· ≠ b) }

/-- A write of a whole block reads no code word: only the link can fail it (R309). -/
def Channel.checkWrite (c : Channel) (b addr : Nat) (errs : List Nat) : Channel × Found :=
  if linkSpent errs then c.check b addr errs .clean 0x04 else (c.noteLink errs, .good)

/-- A write of bytes lo onward of a block: of the whole block, or a read-modify-write, which a bad word refuses (R302, R309). -/
def State.writeBlock (s : State) (ch b addr lo : Nat) (errs : List Nat) (data : List Byte) (e : EccVerdict) (live : Bool) :
    State × Bool :=
  let c := s.chan ch
  let r := if data.length = 480 then
      c.checkWrite b addr errs
    else Channel.check { c with rmw := c.rmw + 1, rdblk := c.rdblk + 1 } b addr errs e 0x04
  match r.2 with
  | .good =>
    let s := (s.putChan ch (r.1.rewritten b)).noteLive ch live
    (s.modMem fun m => { m with data := putBytes m.data (addr + lo) data }, true)
  | .lost sub => ((s.putChan ch r.1).raise (0xC0 + ch) sub, false)

/-- The blocks of a read of data bytes; false when one of them gives an error. -/
def State.fetchMem (s : State) (a n : Nat) (live : Bool) : State × Bool :=
  (partsOf 480 a n).foldl (fun (q : State × Bool) p =>
    let c := q.1.mem.place p.1
    let t := q.1.nextBlock
    let r := t.2.readBlock c.1 c.2 (480 * p.1) t.1.errs t.1.ecc live
    (r.1, q.2 && r.2)) (s, true)

/-- The blocks of a write of data bytes; false when one of them is refused. -/
def State.storeMem (s : State) (a : Nat) (l : List Byte) (live : Bool) : State × Bool :=
  (partsOf 480 a l.length).foldl (fun (q : State × Bool) p =>
    let c := q.1.mem.place p.1
    let t := q.1.nextBlock
    let r := t.2.writeBlock c.1 c.2 (480 * p.1) p.2.1 t.1.errs (sub l (480 * p.1 + p.2.1 - a) p.2.2) t.1.ecc live
    (r.1, q.2 && r.2)) (s, true)

/-! ## Pads -/

/-- The words of one request to a pad form its sets (R220); a word that fails its re-read is the drum's pad parity fault, and
the reader gets an error (R235). -/
def State.fetchPads (s : State) (a n : Nat) : State × Bool :=
  (partsOf padSize (a - padSpace) n).foldl (fun (q : State × Bool) p =>
    match q.1.holder p.1 with
    | some d =>
      let t := q.1.modPad d fun x => x.access q.1.beat p.2.1 p.2.2
      if (t.drum d).pad.anyFailed p.2.1 p.2.2 then ((t.modPad d (·.reread p.2.1 p.2.2)).raise d 0x62, false) else (t, q.2)
    | none => q) (s, true)

def State.storePads (s : State) (a : Nat) (l : List Byte) : State :=
  (partsOf padSize (a - padSpace) l.length).foldl (fun s p =>
    match s.holder p.1 with
    | some d => s.modPad d fun x =>
        (x.access s.beat p.2.1 p.2.2).put p.2.1 (sub l (padSize * p.1 + p.2.1 - (a - padSpace)) p.2.2)
    | none => s) s

/-! ## Accesses at device addresses -/

/-- The byte at a backed device address. -/
def State.devByte (s : State) (a : Nat) : Byte :=
  if s.inMem a 1 then getByte s.mem.data a
  else if s.inPads a 1 then
    match s.holder (padPlace a).1 with
    | some p => getByte (s.drum p).pad.mem (padPlace a).2
    | none => blankByte
  else getByte s.hostMem (a - hostSpace)

def State.devBytes (s : State) (a n : Nat) : List Byte := (List.range n).map fun i => s.devByte (a + i)

/-- A read of a backed range that no READY holds. -/
def State.fetchDev (s : State) (who : Reader) (a n : Nat) (live : Bool) : Fetched × State :=
  if n = 0 then (.data [], s)
  else if s.inMem a n then
    let r := s.fetchMem a n live
    (if r.2 then .data (s.devBytes a n) else .error, r.1)
  else if s.inPads a n then
    let r := s.fetchPads a n
    (if r.2 then .data (s.devBytes a n) else .error, r.1)
  else s.hostRead who (a - hostSpace) n live

/-- A write to a backed range that no READY holds; false when LPDDR5 refuses a block. `live` names the class of host traffic,
and a result write carries Relaxed Ordering where PCI_CTRL says so (R291). -/
def State.storeDev (s : State) (a : Nat) (l : List Byte) (live : Bool) : State × Bool :=
  if l.isEmpty then (s, true)
  else if s.inMem a l.length then s.storeMem a l live
  else if s.inPads a l.length then (s.storePads a l, true)
  else (s.hostWrite (a - hostSpace) l live s.pcie.roEn, true)

/-- Does the range touch a pad byte outside job j's BOUND slot on that drum (R225)? -/
def State.padRefused (s : State) (j : Half) (a n : Nat) : Bool :=
  s.inPads a n && (partsOf padSize (a - padSpace) n).any fun p =>
    match s.holder p.1 with
    | some d => !(s.drum d).pad.slots.any fun t => t.job == j && t.state == .bound &&
        decide (t.base * 65536 ≤ p.2.1 ∧ p.2.1 + p.2.2 ≤ t.bound * 65536)
    | none => true

end Sys2Proof.Machine
end

