-- ==== Sys2Proof/Machine/Scales.lean ====
section
/-! DEFINITION. Machine/Scales.lean: scale blocks read from the pad (R83-R85, R98) and the scale stores of the tuner (R82,
R86), shared by the strike walks and TUNE. -/

namespace Sys2Proof.Machine

/-- -0 reads as +0 (R83). -/
def plainScale (h : Half) : Half := if h = 0x8000#16 then 0#16 else h

def halfAt (x : Drum) (off : Nat) : Half := BitVec.ofNat 16 (x.padNat off 2)

/-- The header of the scale block at a region offset. -/
def Drum.sclHdr (x : Drum) (off : Nat) : SclHdr := Sys2Proof.Machine.sclHdr (x.padBytes off 16)

/-- Bytes of one row of a row scale block. -/
def SclHdr.rowBytes (h : SclHdr) : Nat := 64 + 32 * h.zp.toNat

/-- sw(n, s) of the scale register file. -/
def Tuner.sw (t : Tuner) (s n : Nat) : Half := getCell 0#16 t.file (s * 1024 + n)
/-- sa(r, s) of the row scale buffer. -/
def Tuner.sa (t : Tuner) (row s : Nat) : Half := getCell 0#16 t.rsb (row * 32 + s)
def Tuner.rowTag (t : Tuner) (row : Nat) : RowTag := getCell RowTag.reset t.rsbTag row

/-- Writes scales into consecutive cells, from key k on. -/
def putHalves (c : Cells Half) (k : Nat) : List Half → Cells Half
  | [] => c
  | h :: r => putHalves (putCell 0#16 c k h) (k + 1) r

/-- Writes one row of the row scale buffer with its tag and GROUP. -/
def Tuner.putRow (t : Tuner) (row : Nat) (l : List Half) (tag : BitVec 6) (group : BitVec 2) : Tuner :=
  { t with rsb := putHalves (zeroRange t.rsb (row * 32) (row * 32 + 32)) (row * 32) l
           rsbTag := putCell RowTag.reset t.rsbTag row ⟨true, tag, group⟩ }

/-- Replaces the scale register file (R98). -/
def Tuner.putFile (t : Tuner) (c : Cells Half) (tag : BitVec 6) (group : BitVec 2) (pair : Bool) : Tuner :=
  { t with file := c, fvalid := true, ftag := tag, fgroup := group, fpair := pair }

/-- Bytes that a load of the weight scale block at off reads: what its header gives, or the header alone where that is not
one of a block (R84, R85). -/
def Drum.fileBytes (x : Drum) (off : Nat) : Nat := let h := x.sclHdr off; if h.ok && h.kind == 0 then h.bytes else 16

/-- A legal weight scale block at off, as the file it makes; none for the scale value fault (R83, R85). -/
def Drum.readFile (x : Drum) (off : Nat) : Option Tuner :=
  let h := x.sclHdr off
  let nout := h.count
  let g := 1024 / groupSize h.group
  let at_ (i : Nat) : Half := halfAt x (off + 16 + 2 * i)
  if h.ok && h.kind == 0 && (List.range (g * nout)).all (fun i => scaleLegal (at_ i)) then
    some (x.tuner.putFile (loop (fun i c => putCell 0#16 c (i / nout * 1024 + i % nout) (plainScale (at_ i))) (g * nout) [])
      h.tag h.group h.pair)
  else none

/-- The 32 scales of row r of the row scale block at off. -/
def Drum.blockRow (x : Drum) (off r : Nat) : List Half :=
  let h := x.sclHdr off
  (List.range 32).map fun i => halfAt x (off + 16 + h.rowBytes * r + 2 * i)

/-- Zero point s of row r of the row scale block at off. -/
def Drum.blockZp (x : Drum) (off r i : Nat) : Nat := x.padNat (off + 16 + (x.sclHdr off).rowBytes * r + 64 + i) 1

/-- Loads rows 0 to n - 1 of the row scale block at off into buffer rows row0 on; none for the scale value fault. -/
def Drum.readRows (x : Drum) (off row0 n : Nat) : Option Tuner :=
  let h := x.sclHdr off
  if h.ok && h.kind == 1 && decide (n ≤ h.count) &&
      (List.range n).all (fun r => (x.blockRow off r).all scaleLegal) then
    some (loop (fun r t => t.putRow (row0 + r) ((x.blockRow off r).map plainScale) h.tag h.group) n x.tuner)
  else none

end Sys2Proof.Machine
end

