-- ==== Sys2Proof/Machine/Records.lean ====
section
/-! DEFINITION. Machine/Records.lean: quantiser records (R99-R104) and the fitting of scales (R96, R97, R101). A record is
held as its 2,368-byte image. -/

namespace Sys2Proof.Machine

/-! ## Fields of the image (R99) -/

def QRec.b (q : QRec) (i : Nat) : Nat := (getByte q.img i).toNat
def QRec.nat (q : QRec) (i n : Nat) : Nat := getNat q.img i n
def QRec.put (q : QRec) (i n v : Nat) : QRec := { q with img := putNat q.img i n v }

def QRec.valid (q : QRec) : Bool := bit (q.b 0) 0
def QRec.sgn (q : QRec) : Bool := bit (q.b 0) 1
def QRec.zp (q : QRec) : Bool := bit (q.b 0) 2
def QRec.shares (q : QRec) : Bool := bit (q.b 0) 3
def QRec.fmt (q : QRec) : Nat := q.b 0 / 16
def QRec.group (q : QRec) : BitVec 2 := BitVec.ofNat 2 (q.b 1)
def QRec.current (q : QRec) : Bool := bit (q.b 1) 2
def QRec.len (q : QRec) : Nat := q.b 2 % 16 + 1
def QRec.margin (q : QRec) : Nat := fld (q.b 2) 4 3
def QRec.classOk (q : QRec) (c : Nat) : Bool := bit (q.b 3) c
def QRec.satThr (q : QRec) : Nat := q.b 3 / 16
def QRec.adj (q : QRec) : Int := (BitVec.ofNat 8 (q.b 4)).toInt
def QRec.halveRun (q : QRec) : Nat := q.b 5
def QRec.hfill (q : QRec) : Nat := q.b 6 % 32
def QRec.hpos (q : QRec) : Nat := q.b 7 % 16
def QRec.initScale (q : QRec) : Half := BitVec.ofNat 16 (q.nat 12 2)
def QRec.initZp (q : QRec) : Nat := q.b 14
def QRec.sat (q : QRec) : Nat := q.nat 16 4
def QRec.count (q : QRec) : Nat := q.nat 20 4
def QRec.hi (q : QRec) (s : Nat) : Word := toW (q.nat (64 + 8 * s) 4)
def QRec.lo (q : QRec) (s : Nat) : Word := toW (q.nat (68 + 8 * s) 4)
def QRec.histHi (q : QRec) (h s : Nat) : Half := BitVec.ofNat 16 (q.nat (320 + 128 * h + 4 * s) 2)
def QRec.histLo (q : QRec) (h s : Nat) : Half := BitVec.ofNat 16 (q.nat (322 + 128 * h + 4 * s) 2)

/-- Is the record valid for a job (R245)? -/
def QRec.validFor (q : QRec) (j : Half) : Bool := q.valid && q.owner == some j

def Tuner.recAt (t : Tuner) (i : Nat) : QRec := getCell QRec.reset t.recs i
def Tuner.setRec (t : Tuner) (i : Nat) (q : QRec) : Tuner := { t with recs := putCell QRec.reset t.recs i q }

/-- The image checks of QLOAD: the faults it raises, ascending (R99). -/
def QRec.loadFaults (q : QRec) : List Nat :=
  let rsv := decide (8 ≤ q.b 1) || decide (128 ≤ q.b 2) || decide (32 ≤ q.b 6) || decide (16 ≤ q.b 7) || decide (q.b 15 ≠ 0) ||
    (List.range 40).any fun i => decide (q.b (24 + i) ≠ 0)
  let bad := rsv || decide (0xB < q.fmt) || q.group == 3 || decide (q.adj < -16) || decide (15 < q.adj) ||
    decide (63 < q.halveRun) || decide (16 < q.hfill) || decide (q.len < q.hfill)
  (if scaleLegal q.initScale then [] else [0x21]) ++ (if bad then [0x22] else [])

/-! ## Folding (R102) -/

/-- The order of bounds: that of values, with -0 below +0, so that folding commutes on the bits too (log 59). -/
def boundBelow (a b : Word) : Bool := (val a).lt (val b) || (a == 0x80000000#32 && b == 0#32)

/-- The larger and the smaller of two bounds. -/
def boundMax (a b : Word) : Word := if boundBelow a b then b else a
def boundMin (a b : Word) : Word := if boundBelow b a then b else a

/-- hi and lo grown by one value; non-finite values take no part. -/
def foldOne (p : Word × Word) (w : Word) : Word × Word :=
  if (val w).isFin then (boundMax p.1 w, boundMin p.2 w) else p

/-- hi and lo of a list of values, from the empty group. -/
def foldList (l : List Word) : Word × Word := l.foldl foldOne (negInf32, posInf32)

/-- Joins the bounds of group s into the record: the larger hi, the smaller lo. -/
def QRec.joinGroup (q : QRec) (s : Nat) (p : Word × Word) : QRec :=
  let q := if boundBelow (q.hi s) p.1 then q.put (64 + 8 * s) 4 p.1.toNat else q
  if boundBelow p.2 (q.lo s) then q.put (68 + 8 * s) 4 p.2.toNat else q

def QRec.joinAll (q : QRec) (l : List (Word × Word)) : QRec :=
  (List.range l.length).foldl (fun q s => match l[s]? with | some p => q.joinGroup s p | none => q) q

def u32max : Nat := 2 ^ 32 - 1
/-- Adds saturations and finite elements, each saturating. -/
def QRec.addCounts (q : QRec) (sat cnt : Nat) : QRec :=
  (q.put 16 4 (min u32max (q.sat + sat))).put 20 4 (min u32max (q.count + cnt))

/-- Group bounds of rows of values: group s holds columns s * g to s * g + g - 1. -/
def groupBounds (g n : Nat) (rows : List (List Word)) : List (Word × Word) :=
  (List.range (ceilDiv n g)).map fun s => foldList (rows.flatMap fun r => (r.drop (s * g)).take g)

/-! ## Fitting a scale (R96) -/

def FV.ge0 : FV → FV
  | .fin true _ _ => .fin false 0 0
  | .inf true => .fin false 0 0
  | v => v

/-- The quantity that R96 divides by the code range, before 2^e; root8 gives the value under its square root. -/
def fitAmount (f : TFmt) (sg zp : Bool) (hi lo : FV) : FV :=
  match f with
  | .root8 => hi.ge0
  | .int _ => if sg then (if hi.abs.lt lo.abs then lo.abs else hi.abs)
              else if zp then hi.ge0.add lo.neg.ge0 else hi.ge0
  | _ => if hi.abs.lt lo.abs then lo.abs else hi.abs

def fitMax (f : TFmt) (sg : Bool) : Nat :=
  match f with
  | .int b => if sg then 2 ^ (b - 1) - 1 else 2 ^ b - 1
  | .fp8a => 448
  | .fp8b => 57344
  | .root8 => 255
  | _ => 1

/-- A scale free of the spec's words, kept legal (R83). -/
def freeScale (hi lo : Word) : Half :=
  let v := BitVec.ofNat 16 (Config.nanFit hi lo).toNat
  if scaleLegal v then v else 0x3F80#16

/-- Zero point round(x / s), x at or above 0, clamped to 2^b - 1. -/
def zeroPoint (b : Nat) (r : Rnd) (x : FV) (s : Half) : Nat :=
  match x with
  | .fin _ m e =>
    let a := scaleMag s
    let p := scaleFrac m a.1 (e - a.2)
    if p.2 = 0 then 0 else min (2 ^ b - 1) (roundFrac r false p.1 p.2)
  | _ => 2 ^ b - 1

/-- Scale and zero point fitted to bounds (R96, R101). -/
def fitScale (f : TFmt) (sg zp : Bool) (hi lo : Word) (e : Int) (r : Rnd) : Half × Nat :=
  if (val hi).isNan || (val lo).isNan then (freeScale hi lo, fld (Config.nanFit hi lo).toNat 16 8 % 2 ^ f.bits) else
  match fitAmount f sg zp (val hi) (val lo) with
  | .fin _ m em =>
    if m = 0 then (0x3F80#16, 0) else
    let q := fitMax f sg
    let s := if f = .root8 then upScale true m (q * q) (em + 2 * e) else upScale false m q (em + e)
    (s, if zp then zeroPoint f.bits r (val lo).neg.ge0 s else 0)
  | _ => (0x7F7F#16, if zp then zeroPoint f.bits r (val lo).neg.ge0 0x7F7F#16 else 0)

/-- Is a group without elements: hi = -infinity and lo = +infinity (R101)? -/
def emptyGroup (hi lo : Word) : Bool := hi == negInf32 && lo == posInf32

/-- INIT_SCALE * 2^e rounded up and clamped; a zero stays zero (R101). -/
def initScaleOf (s : Half) (e : Int) : Half :=
  let a := scaleMag s
  if a.1 = 0 then 0#16 else upScale false a.1 1 (a.2 + e)

def widen16 (h : Half) : Word := toW (h.toNat * 65536)

/-- History bounds of group s over the filled slots, FP32; the empty group where every slot is empty (R101). -/
def QRec.histBounds (q : QRec) (s : Nat) : Word × Word :=
  (List.range q.hfill).foldl (fun p i =>
    let h := (q.hpos + 15 - i) % 16
    let hi := widen16 (q.histHi h s)
    let lo := widen16 (q.histLo h s)
    if emptyGroup hi lo then p
    else if (val hi).isNan || (val lo).isNan || (val p.1).isNan || (val p.2).isNan then (nan32, nan32)
    else (if (val p.1).lt (val hi) then hi else p.1, if (val lo).lt (val p.2) then lo else p.2)) (negInf32, posInf32)

/-- Scale and zero point of group s under SMODE 0 (R97, R101). -/
def QRec.delayed (q : QRec) (f : TFmt) (s : Nat) (r : Rnd) : Half × Nat :=
  let e : Int := q.margin + q.adj
  let p := q.histBounds s
  if emptyGroup p.1 p.2 then (initScaleOf q.initScale e, q.initZp) else fitScale f q.sgn q.zp p.1 p.2 e r

/-- Scale and zero point of group s under SMODE 1. -/
def QRec.currentScale (q : QRec) (f : TFmt) (s : Nat) (r : Rnd) : Half × Nat :=
  if emptyGroup (q.hi s) (q.lo s) then (initScaleOf q.initScale q.margin, q.initZp)
  else fitScale f q.sgn q.zp (q.hi s) (q.lo s) q.margin r

/-- The groups of the current statistics that hold elements. -/
def QRec.groupsFilled (q : QRec) : List Nat := (List.range 32).filter fun s => !emptyGroup (q.hi s) (q.lo s)

/-! ## CLOSE (R103) -/

/-- Is the fitted amount of group s below half of Qmax * s_t? -/
def QRec.belowHalf (q : QRec) (f : TFmt) (s : Nat) : Bool :=
  let sc := scaleMag (q.delayed f s .even).1
  let lim : FV := .fin false (fitMax f q.sgn * sc.1) (sc.2 - 1)
  let a := fitAmount f q.sgn q.zp (val (q.hi s)) (val (q.lo s))
  if f = .root8 then a.lt (lim.mul lim) else a.lt lim

/-- BF16 toward +infinity for hi, toward -infinity for lo. -/
def bfBound (upward : Bool) (w : Word) : Nat :=
  match val w with
  | .fin s m e => bf16.pack s (bf16.roundMag (if s = upward then .down else .up) false m 1 e)
  | v => bf16.round .even v

def QRec.pushHistory (q : QRec) : QRec :=
  let h := q.hpos
  let q := (List.range 32).foldl (fun q s =>
    (q.put (320 + 128 * h + 4 * s) 2 (bfBound true (q.hi s))).put (322 + 128 * h + 4 * s) 2 (bfBound false (q.lo s))) q
  (q.put 7 1 ((h + 1) % 16)).put 6 1 (min (q.hfill + 1) q.len)

def QRec.clearCurrent (q : QRec) : QRec :=
  let q := (List.range 32).foldl (fun q s => (q.put (64 + 8 * s) 4 negInf32.toNat).put (68 + 8 * s) 4 posInf32.toNat) q
  (q.put 16 4 0).put 20 4 0

def QRec.setAdj (q : QRec) (a : Int) : QRec := q.put 4 1 (BitVec.ofInt 8 a).toNat

/-- The adaptation of ADJ and HALVE_RUN. -/
def QRec.adapt (q : QRec) (f : TFmt) : QRec :=
  if q.count = 0 then q
  else if q.count < q.sat * 2 ^ q.satThr then (q.setAdj (min (q.adj + 1) 15)).put 5 1 0
  else if q.groupsFilled.all (fun s => q.belowHalf f s) then
    if q.halveRun + 1 = 64 then (q.setAdj (max (q.adj - 1) (-16))).put 5 1 0 else q.put 5 1 (q.halveRun + 1)
  else q.put 5 1 0

/-- CLOSE after any sharing. -/
def QRec.closeStep (q : QRec) : QRec :=
  let q := if q.current then q else match tfmt q.fmt with
    | some f => (q.adapt f).pushHistory
    | none => q.pushHistory
  q.clearCurrent.put 8 4 ((q.nat 8 4 + 1) % 2 ^ 32)

end Sys2Proof.Machine
end

