-- ==== Sys2Proof/Machine/Tree.lean ====
section
/-! DEFINITION. Machine/Tree.lean: rounded additions of the shell (R132-R137), the stack of a bell block (R123, R124), the
arrival of nodes (R127, R128) and the statistics that travel back down the tree (R140). -/

namespace Sys2Proof.Machine

/-! ## One addition -/

/-- The random bits of R135; kt is a u32. -/
def srBits (seed : Dword) (ldrum lane kt row col op : Nat) : Half :=
  let k := seed ^^^ (BitVec.ofNat 64 ldrum <<< 57) ^^^ (BitVec.ofNat 64 lane <<< 51) ^^^ BitVec.ofNat 64 (kt % 2 ^ 32)
  let x := k ^^^ (BitVec.ofNat 64 (row * 2 ^ 16 + col * 2 ^ 8 + op) * 0x8B3C2F1D6A57E4C9#64)
  let mix (x : Dword) : Dword :=
    let y := (x ^^^ (x >>> 29)) * 0xC2D41E7B93A506F1#64
    y ^^^ (y >>> 32)
  (mix (mix (mix x)) >>> 48).setWidth 16

/-- One addition of the shell: to nearest even, or stochastic with the random bits r (R132, R134). -/
def shellAdd (sr : Bool) (r : Half) (a b : Word) : Word := if sr then roundSR ((val a).add (val b)) r else fadd a b

def popBelow (m : Word) (l : Nat) : Nat := ((List.range l).filter fun i => m.getLsbD i).length

/-- Slots of a descriptor's block: D (R123). -/
def Desc.depth (de : Desc) : Nat := de.blk + 1 + popBelow de.rxmask 32
def Desc.recvSlot (de : Desc) (l : Nat) : Nat := de.blk + 1 + popBelow de.rxmask l
def Desc.blockEnd (de : Desc) : Nat := de.kbase + 2 ^ de.blk

def Drum.desc (x : Drum) (e : Nat) : Desc := getCell Desc.reset x.shell.descs e
def Drum.stack (x : Drum) (e : Nat) : Stack := getCell Stack.reset x.shell.blocks e
def Drum.modStack (x : Drum) (e : Nat) (f : Stack → Stack) : Drum :=
  { x with shell := { x.shell with blocks := putCell Stack.reset x.shell.blocks e (f (x.stack e)) } }

/-- Status of a row that holds a pending or received node. -/
def slotStatus (flags : Word) (level : Nat) : Word := (flags &&& flagMask) ||| toW (level * 2 ^ 17)

/-- Shell row of slot j, row i of a block. -/
def Stack.rowAt (b : Stack) (j i : Nat) : Nat := b.row0 + j * b.m + i

/-- Writes one node row into slot j. The values' flags join those of the row (R115). -/
def Shell.nodeRow (h : Shell) (b : Stack) (j i level : Nat) (vals : List Word) (flags : Word) : Shell :=
  let r := b.rowAt j i
  let f := h.tstatus r ||| flags
  (h.putRow r 0 vals).setStatus r (if j = 0 then bellStatus f level false else slotStatus f level)

def Drum.noteRows (x : Drum) (lo n : Nat) : Drum := { x with seq := { x.seq with wrote := x.seq.wrote ||| rowMask lo n } }

/-- add(slot j, slot 0, l) of R124, written into slot `dst`; kt names the first K-tile of the node produced (R135). -/
def Drum.combine (x : Drum) (rd j dst l kt : Nat) : Drum :=
  let b := x.stack rd
  let de := x.desc rd
  let h := loop (fun i h =>
    let ra := b.rowAt j i
    let r0 := b.rowAt 0 i
    let vals := (List.range b.n).map fun n =>
      shellAdd de.sr (srBits h.seed x.logical.toNat (n / 16) kt i (n % 16) (32 + l)) (shellAt h ra n) (shellAt h r0 n)
    let flags := h.tstatus ra ||| h.tstatus r0 ||| valuesFlag vals ||| (if de.sr then flagSR else 0#32)
    h.nodeRow b dst i (l + 1) vals flags) b.m x.shell
  let k := BitVec.ofNat 64 b.m
  ({ x with shell := { h with adds := h.adds + k, sradds := if de.sr then h.sradds + k else h.sradds } }).noteRows
    (b.rowAt dst 0) b.m

/-- Moves the leaf of slot 0 into slot 1 (R126). -/
def Drum.moveLeaf (x : Drum) (rd : Nat) : Drum :=
  let b := x.stack rd
  let h := loop (fun i h => h.nodeRow b 1 i 0 (h.rowList (b.rowAt 0 i) b.n) (h.tstatus (b.rowAt 0 i))) b.m x.shell
  ({ x with shell := h }).noteRows (b.rowAt 1 0) b.m

/-- First K-tile of the node that a carry at level l of local index t produces. -/
def carryKt (de : Desc) (misaligned : Bool) (t l : Nat) : Nat :=
  let first := t / 2 ^ (l + 1) * 2 ^ (l + 1)
  if misaligned then de.kbase + first else (de.kbase + first) / 2 ^ (l + 1) * 2 ^ (l + 1)

/-- The carries of a leaf: levels l, l + 1, ... while bit l of t is set; `stay` says that the last one ends in slot 0. -/
def carries (rd t p : Nat) (stay : Bool) : Nat → Nat → Drum → Drum × Nat
  | 0, l, x => (x, l)
  | n + 1, l, x =>
    if l < p ∧ bit t l = true then
      let ends := !(decide (l + 1 < p) && bit t (l + 1))
      let dst := if ends && !stay then l + 2 else 0
      let x := x.combine rd (l + 1) dst l (carryKt (x.desc rd) (x.stack rd).misaligned t l)
      carries rd t p stay n (l + 1) (x.modStack rd fun b =>
        { b with pend := b.pend &&& ~~~BitVec.ofNat 32 (2 ^ l), level := l + 1 })
    else (x, l)

/-- The folding at a block's end: every pending left child from level l on. -/
def foldUp (rd t p : Nat) : Nat → Nat → Drum → Drum
  | 0, _, x => x
  | n + 1, l, x =>
    if l < p then
      if (x.stack rd).pend.getLsbD l then
        let x := x.combine rd (l + 1) 0 l (carryKt (x.desc rd) (x.stack rd).misaligned t l)
        foldUp rd t p n (l + 1) (x.modStack rd fun b => { b with pend := b.pend &&& ~~~BitVec.ofNat 32 (2 ^ l) })
      else foldUp rd t p n (l + 1) x
    else x

/-- own_done of R124 from level lv: combines each received node in ascending level, or stops where one is missing. -/
def climbGo (rd : Nat) : Nat → Nat → Drum → Drum × Bool
  | 0, _, x => (x, true)
  | n + 1, lv, x =>
    let de := x.desc rd
    if de.rxmask.getLsbD lv then
      if (x.stack rd).rcv.getLsbD lv then
        let kt := if (x.stack rd).misaligned then de.kbase else de.kbase / 2 ^ (lv + 1) * 2 ^ (lv + 1)
        let x := x.combine rd (de.recvSlot lv) 0 lv kt
        climbGo rd n (lv + 1) (x.modStack rd fun b =>
          { b with rcv := b.rcv &&& ~~~BitVec.ofNat 32 (2 ^ lv), level := lv + 1 })
      else (x.modStack rd fun b => { b with climb := some lv }, false)
    else climbGo rd n (lv + 1) x

/-! ## The end of a block -/

/-- ORs flags into the slot-0 rows. -/
def Drum.slot0Flags (x : Drum) (rd : Nat) (f : Word) : Drum :=
  let b := x.stack rd
  { x with shell := loop (fun i h => h.setStatus (b.rowAt 0 i) (h.tstatus (b.rowAt 0 i) ||| f)) b.m x.shell }

/-- set_done: DONE and the LEVEL reached on the slot-0 rows. -/
def Drum.setDone (x : Drum) (rd : Nat) : Drum :=
  let b := x.stack rd
  let h := loop (fun i h => h.setStatus (b.rowAt 0 i) (bellStatus (h.tstatus (b.rowAt 0 i)) b.level true)) b.m x.shell
  ({ x with shell := h }).modStack rd fun b => { b with done := true, climb := none }

def wordCoordOf (p : Word) : Coord := ⟨fld p.toNat 7 4, fld p.toNat 11 4, fld p.toNat 15 6⟩
def Desc.remote (de : Desc) : Bool := de.parent.getLsbD 21
def Desc.parentDrum (de : Desc) : Nat := fld de.parent.toNat 0 7

/-- Values of M x N columns of the slot-0 rows, keyed row * 1,024 + column. -/
def Drum.nodeVals (x : Drum) (b : Stack) : Cells Word :=
  loop (fun i c => loop (fun n c => putCell 0#32 c (i * 1024 + n) (shellAt x.shell (b.rowAt 0 i) n)) b.n c) b.m []

/-- A node's bytes on a link: M x N FP32 values in row order. -/
def valBytes (m n : Nat) (c : Cells Word) : List Byte :=
  (List.range m).flatMap fun i => (List.range n).flatMap fun k => leBytes 4 (getCell 0#32 c (i * 1024 + k)).toNat

def bytesVals (m n : Nat) (l : List Byte) : Cells Word :=
  loop (fun i c => loop (fun k c => putCell 0#32 c (i * 1024 + k) (toW (leNat (sub l (4 * (i * n + k)) 4)))) n c) m []

def jobGroup (s : State) (j : Half) : Nat := ((s.job? j).map (·.group)).getD 0

/-- The send of a final node to its parent (R127). -/
def State.nodeSend (s : State) (d rd : Nat) : State :=
  let x := s.drum d
  let de := x.desc rd
  let b := x.stack rd
  match x.seq.run with
  | none => s
  | some r =>
    let flags := (List.range b.m).foldl (fun f i => f ||| (x.shell.tstatus (b.rowAt 0 i) &&& flagMask)) 0#32
    let part := if de.remote then wordCoordOf de.parent else s.pcie.coord
    let n := x.shell.nodes
    let s := s.modShell d fun h => { h with sent := ⟨n, r.job, part, de.parentDrum, de.prid, de.rid, b.senders⟩ :: h.sent, nodes := n + 1 }
    if de.remote then
      s.sendOut d (some r.job)
        { pkind := 3, group := jobGroup s r.job, dst := part, src := s.pcie.coord, dstDrum := de.parentDrum,
          srcDrum := x.logical.toNat
          spec := leBytes 1 de.prid ++ leBytes 1 b.level ++ leBytes 2 b.m ++ leBytes 2 b.n ++ leBytes 2 b.row0 ++
            leBytes 4 flags.toNat ++ leBytes 4 n
          data := valBytes b.m b.n (x.nodeVals b) }
    else match s.physOf de.parentDrum with
      | some p => { s with noc := s.noc ++ [{ src := d, dst := p, job := some r.job, group := jobGroup s r.job,
                                              from_ := s.pcie.coord, fromDrum := x.logical.toNat,
                                              body := .node de.prid b.level b.m b.n b.row0 flags (x.nodeVals b)
                                              span := (n, n) }] }
      | none => s.drumFault d 0x63

/-! ## Statistics on the tree (R140) -/

/-- The first and last serial of the nodes that a drum sent this block. Its nodes to one descriptor come in their order (R23,
R327), so the nodes between the two are of this block too. -/
def serialSpan (senders : List (Coord × Nat × Nat)) (to_ : Coord × Nat) : Nat × Nat :=
  let l := (senders.filter fun e => e.1 == to_.1 && e.2.1 == to_.2).map (·.2.2)
  (l.foldl min (l.headD 0), l.foldl max 0)

/-- One statistics packet to each drum that sent this one a node, however many of the block's nodes it sent; it names the
nodes by their serials, so that it answers those of this reduction alone (DESIGN CHOICE, log 65). -/
def State.statsDown (s : State) (d : Nat) (j : Half) (rid qid m n group : Nat) (his los : List Word)
    (senders : List (Coord × Nat × Nat)) : State :=
  (senders.map fun e => (e.1, e.2.1)).eraseDups.foldl (fun s to_ =>
    let span := serialSpan senders to_
    if to_.1 = s.pcie.coord then
      match s.physOf to_.2 with
      | some p => { s with noc := s.noc ++ [{ src := d, dst := p, job := some j, group := jobGroup s j,
                                              from_ := s.pcie.coord, fromDrum := (s.drum d).logical.toNat,
                                              body := .stats qid m n group rid his los, span := span }] }
      | none => s
    else
      s.sendOut d (some j)
        { pkind := 4, group := jobGroup s j, dst := to_.1, src := s.pcie.coord, dstDrum := to_.2,
          srcDrum := (s.drum d).logical.toNat
          spec := leBytes 1 qid ++ leBytes 1 group ++ leBytes 2 m ++ leBytes 2 n ++ leBytes 1 rid ++ leBytes 4 span.1 ++
            leBytes 4 span.2
          data := (his.zip los).flatMap fun p => leBytes 4 p.1.toNat ++ leBytes 4 p.2.toNat }) s

/-- Folds bounds of m x n values into record qid of drum d, when the record is valid for the job and of the group. -/
def Tuner.foldTree (t : Tuner) (j : Half) (qid m n : Nat) (group : Nat) (l : List (Word × Word)) : Option Tuner :=
  let q := t.recAt qid
  if q.validFor j && q.group.toNat == group then some (t.setRec qid ((q.joinAll l).addCounts 0 (m * n))) else none

/-- The root's fold and the statistics it sends down. -/
def State.rootStats (s : State) (d rd : Nat) : State :=
  let x := s.drum d
  let de := x.desc rd
  let b := x.stack rd
  match x.seq.run with
  | none => s
  | some r =>
    let q := x.tuner.recAt de.qid
    let l := groupBounds (groupSize q.group) b.n ((List.range b.m).map fun i => x.shell.rowList (b.rowAt 0 i) b.n)
    match x.tuner.foldTree r.job de.qid b.m b.n q.group.toNat l with
    | none => s.drumFault d 0x22
    | some t => (s.modTuner d fun _ => t).statsDown d r.job de.rid de.qid b.m b.n q.group.toNat (l.map (·.1)) (l.map (·.2)) b.senders

/-- A block's final node: sent, or the root's; then DONE. -/
def State.blockDone (s : State) (d rd : Nat) : State :=
  let de := (s.drum d).desc rd
  if de.tx then (s.nodeSend d rd).modDrum d (·.setDone rd)
  else
    let s := if 2 ^ 24 < de.ktot then s.modDrum d (·.slot0Flags rd flagLONG) else s
    let s := s.modDrum d (·.setDone rd)
    if de.qen then s.rootStats d rd else s

/-- own_done from a level. -/
def State.ownDone (s : State) (d rd lv : Nat) : State :=
  let (x, fin) := climbGo rd (32 - lv) lv ((s.drum d).modStack rd fun b => { b with climb := none })
  let s := s.setDrum d x
  if fin then s.blockDone d rd else s

/-- leaf_done of R124 for the leaf of local index t. -/
def State.leafDone (s : State) (d rd t : Nat) (last : Bool) : State :=
  let p := ((s.drum d).desc rd).blk
  let (x, l) := carries rd t p last p 0 ((s.drum d).modStack rd fun b => { b with level := 0 })
  if last then
    let x := foldUp rd t p p l x
    let x := x.modStack rd fun b => { b with level := p }
    let x := if (x.stack rd).misaligned then
        let x := x.slot0Flags rd flagALIGN
        { x with shell := { x.shell with aligns := x.shell.aligns + 1 } } else x
    (s.setDrum d x).ownDone d rd p
  else
    let x := if l = 0 then x.moveLeaf rd else x
    s.setDrum d (x.modStack rd fun b => { b with pend := b.pend ||| BitVec.ofNat 32 (2 ^ l) })

/-! ## Arriving nodes (R128) -/

/-- The valid descriptor of a table with this RID. -/
def findRid (c : Cells Desc) (rid : Nat) : Option Nat := (c.find? fun p => p.2.valid && p.2.rid == rid).map (·.1)

/-- Does a node of this level come to an empty receive slot that no node of the block has used? -/
def Stack.takes (b : Stack) (de : Desc) (level m n row0 : Nat) : Bool :=
  decide (level < 32) && de.bell && de.rxmask.getLsbD level && !b.seen.getLsbD level &&
    (!b.started || (b.m == m && b.n == n && b.row0 == row0))

/-- Writes a received node into its slot of a started block. -/
def Drum.placeNode (x : Drum) (rd level : Nat) (flags : Word) (vals : Cells Word) : Drum :=
  let b := x.stack rd
  let j := (x.desc rd).recvSlot level
  let h := loop (fun i h => h.nodeRow b j i level ((List.range b.n).map fun k => getCell 0#32 vals (i * 1024 + k)) flags) b.m
    x.shell
  (({ x with shell := h }).noteRows (b.rowAt j 0) b.m).modStack rd fun b =>
    { b with rcv := b.rcv ||| BitVec.ofNat 32 (2 ^ level) }

/-- A climb that waits for the node of its level, which has come, goes on (R124); with a shell row that fails its parity it
ends there (R357). -/
def State.resumeClimb (s : State) (d rd : Nat) (par : Bool := true) : State :=
  let b := (s.drum d).stack rd
  match b.climb with
  | some lv =>
    if b.rcv.getLsbD lv = false then s
    else if par then s.ownDone d rd lv
    else (s.modDrum d fun x => x.modStack rd fun b => { b with climb := none }).drumFault d 0x72
  | none => s

/-- A block takes a node in: its level has been used, its sender is noted, and before the block's first strike, which fixes
the slot's place, the node stands by. -/
def Stack.accept (b : Stack) (pk : Packet) (level : Nat) : Stack :=
  { b with seen := b.seen ||| BitVec.ofNat 32 (2 ^ level), senders := b.senders ++ [(pk.from_, pk.fromDrum, pk.span.1)]
           early := if b.started then b.early else b.early ++ [pk] }

/-- A node accepted: it stands in its receive slot, or waits for the block's first strike. Only such a node counts in
SHL_RXNODES (DESIGN CHOICE, log 65). -/
def State.takeNode (s : State) (d rd : Nat) (pk : Packet) (level : Nat) (flags : Word) (vals : Cells Word)
    (par : Bool := true) : State :=
  let s := s.modDrum d fun x => x.modStack rd (·.accept pk level)
  let s := s.modShell d fun h => { h with rxnodes := h.rxnodes + 1 }
  if ((s.drum d).stack rd).started then (s.modDrum d (·.placeNode rd level flags vals)).resumeClimb d rd par else s

/-- Early nodes of a block, looked at when its first strike is decoded: a node of another shape faults (R128). -/
def State.placeEarly (s : State) (d rd : Nat) : State :=
  let l := ((s.drum d).stack rd).early
  let s := s.modDrum d fun x => x.modStack rd fun b => { b with early := [] }
  l.foldl (fun s p => match p.body with
    | .node _ level m n row0 flags vals =>
      let b := (s.drum d).stack rd
      if b.m = m ∧ b.n = n ∧ b.row0 = row0 then s.modDrum d (·.placeNode rd level flags vals)
      else (s.modDrum d fun x => x.modStack rd fun b =>
        { b with seen := b.seen &&& ~~~BitVec.ofNat 32 (2 ^ level),
                 senders := b.senders.erase (p.from_, p.fromDrum, p.span.1) }).drumFault d 0x31
    | _ => s) s

/-! ### The saved image of a preempted task (R142, R240) -/

/-- Pad offset of the shell save area. -/
def saveBase : Nat := 0x2E0000
/-- Bytes of the save area that R240 lays out. -/
def saveSize : Nat := 0x114C00

/-- Writes a node into the save area's image of its receive slot. -/
def Drum.placeSaved (x : Drum) (v : Saved) (rd level : Nat) (flags : Word) (vals : Cells Word) : Drum :=
  let b := getCell Stack.reset v.blocks rd
  let j := (getCell Desc.reset v.descs rd).recvSlot level
  let mem := loop (fun i m =>
    let r := b.rowAt j i
    let m := loop (fun k m => putNat m (saveBase + 4096 * r + 4 * k) 4 (getCell 0#32 vals (i * 1024 + k)).toNat) b.n m
    let a := saveBase + 0x100000 + 4 * r
    putNat m a 4 (slotStatus (toW (getNat m a 4) ||| flags) level).toNat) b.m x.pad.mem
  let b := { b with rcv := b.rcv ||| BitVec.ofNat 32 (2 ^ level) }
  let at_ (w : Nat) : Bool := (List.range b.m).any fun i =>
    let r := b.rowAt j i
    decide (saveBase + 4096 * r < 16 * w + 16 ∧ 16 * w < saveBase + 4096 * r + 4 * b.n) || decide (w = (saveBase + 0x100000 + 4 * r) / 16)
  { x with pad := { x.pad with mem := mem, failed := x.pad.failed.filter fun w => !at_ w }, saved := some { v with blocks := putCell Stack.reset v.blocks rd b } }

/-- A node that arrives at drum d (R128). -/
def State.nodeArrives (s : State) (d : Nat) (pk : Packet) (prid level m n row0 : Nat) (flags : Word) (vals : Cells Word)
    (par : Bool := true) : State :=
  let x := s.drum d
  let hold := s.modPad d fun p => { p with held := p.held ++ [pk] }
  let here := if pk.job.isSome ∧ x.seq.run.map (·.job) = pk.job then findRid x.shell.descs prid else none
  match here with
  | some rd =>
    if (x.stack rd).takes (x.desc rd) level m n row0 then s.takeNode d rd pk level flags vals par
    else s.drumFault d 0x31
  | none =>
    match x.saved with
    | some v =>
      if pk.job.isSome ∧ v.seq.run.map (·.job) = pk.job then
        match findRid v.descs prid with
        | some rd =>
          let b := getCell Stack.reset v.blocks rd
          if b.takes (getCell Desc.reset v.descs rd) level m n row0 then
            let v := { v with blocks := putCell Stack.reset v.blocks rd (b.accept pk level) }
            let s := s.modShell d fun h => { h with rxnodes := h.rxnodes + 1 }
            s.modDrum d fun y => if b.started then y.placeSaved v rd level flags vals else { y with saved := some v }
          else s.arrivalFault d 0x31 pk.job
        | none => hold
      else hold
    | none => hold

end Sys2Proof.Machine
end

