-- ==== Sys2Proof/Machine/Skin.lean ====
section
/-! DEFINITION. Machine/Skin.lean: strikes: weight loads, rows, the de-quantiser (R44-R75, R114-R119, R155, R162-R168). -/

namespace Sys2Proof.Machine

/-- A command that names drum d: it stops where the part has no such drum, else it has its effect. -/
def onDrum (d : Nat) (s : State) (f : State → State) : Host.Outcome State Fault Refusal :=
  if d < 136 then .next (f s) else .fault .noSuchUnit

/-! ## Weight formats (R49) -/

def planesOf (f : BitVec 3) : Nat :=
  match f.toNat with
  | 0 => 1
  | 1 => 2
  | 2 => 2
  | 3 => 3
  | _ => 4

def isPair (f : BitVec 3) : Bool := f == 5
def nOut (f : BitVec 3) : Nat := if isPair f then 512 else 1024
/-- Bits of one code in a row source (R164). -/
def codeBits (f : BitVec 3) : Nat := if isPair f then 8 else planesOf f

/-- Two's-complement value of the low p bits of a nibble. -/
def signedBits (p v : Nat) : Int := if 2 ^ (p - 1) ≤ v % 2 ^ p then (v % 2 ^ p : Nat) - (2 ^ p : Nat) else ((v % 2 ^ p : Nat) : Int)

def cellAt (c : Cells (BitVec 4)) (k n : Nat) : Nat := (getCell 0#4 c (k * 1024 + n)).toNat

/-- w(k, n): the weight of output n at row k (R45, R62). -/
def weightAt (c : Cells (BitVec 4)) (f : BitVec 3) (k n : Nat) : Int :=
  if isPair f then (cellAt c k (2 * n) : Int) + 16 * signedBits 4 (cellAt c k (2 * n + 1))
  else if f = 0 then ((cellAt c k n % 2 : Nat) : Int)
  else signedBits (planesOf f) (cellAt c k n)

/-- Outputs of one lane, and the lane of an output. -/
def laneWidth (f : BitVec 3) : Nat := if isPair f then 8 else 16
def laneOf (f : BitVec 3) (n : Nat) : Nat := n / laneWidth f
/-- Is a lane active for N outputs (R57)? -/
def laneActive (f : BitVec 3) (n l : Nat) : Bool := decide (l * laneWidth f < n)

def Step.g (t : Step) : Nat := groupSize t.group
/-- Segments accumulated (R60). -/
def Step.segs (t : Step) : Nat := ceilDiv t.k t.g
def Step.rowBytes (t : Step) : Nat := 128 * t.a + 32 * t.zp.toNat
def Step.empty (t : Step) : Bool := t.m == 0 || t.n == 0 || t.k == 0
def Step.bell (t : Step) : Bool := decide (2 ≤ t.acc.toNat)

/-! ## Checks at decode -/

/-- The strike operand fault of R47, the conditions on the operands alone. -/
def Step.badOperands (t : Step) : Bool :=
  decide (256 < t.m) || decide (1024 < t.n) || decide (1024 < t.k) || decide (256 < t.row0 + t.m) ||
  (t.sgn && decide (t.a = 1)) || (t.sgn && t.zp) || t.group == 3 || decide (6 ≤ t.wfmt.toNat) ||
  (decide (512 < t.n) && isPair t.wfmt)

/-- The conditions of R47 on the latches, for LOADW = 0. -/
def Step.badTile (t : Step) (k : Skin) : Bool :=
  match k.tile with
  | none => true
  | some i => i.wfmt != t.wfmt || i.group != t.group || (t.zp && !i.wsum)

/-- Does the step load a tile or scales? -/
def Step.loads (t : Step) : Bool := t.loadw || t.ascl.isSome
/-- A step whose own loads write scales (R87). -/
def Step.ownScales (t : Step) : Bool := (t.loadw && (t.wscl.isSome || t.src != 0)) || t.ascl.isSome

/-- The scale-skew fault of R87. -/
def Step.skew (t : Step) (x : Drum) : Bool :=
  let u := x.tuner
  !u.fvalid || u.ftag != t.wTag || u.fgroup != t.group || u.fpair != isPair t.wfmt ||
  (!t.loadw && (match x.skin.tile with | some i => i.tag != t.wTag | none => true)) ||
  (List.range t.m).any fun r =>
    let g := u.rowTag (t.row0 + r)
    !g.valid || g.tag != t.aTag || g.group != t.group

def Step.kt (t : Step) (de : Desc) : Nat := de.kbase + t.kto

/-- The shell faults of a strike: 0x30 (R118, R125) and 0x31 (R125). -/
def Step.shellFaults (t : Step) (x : Drum) : List Nat :=
  let de := x.desc t.rd
  if de.valid = false ∨ de.bell ≠ t.bell then [0x30]
  else if t.bell = false then []
  else
    let b := x.stack t.rd
    (if 256 < t.row0 + de.depth * t.m then [0x30] else []) ++
    (if t.kt de ≠ (if b.started then b.next else de.kbase) ∨ b.ended = true ∨
        (b.started = true ∧ (b.row0 ≠ t.row0 ∨ b.m ≠ t.m ∨ b.n ≠ t.n)) then [0x31] else [])

/-- Every fault of a strike's decode, ascending (R75, R113, R146). -/
def Step.faults (t : Step) (x : Drum) : List Nat :=
  (if t.badOperands || (!t.loadw && t.badTile x.skin) then [0x10] else []) ++
  (if !t.ownScales && t.skew x then [0x20] else []) ++ t.shellFaults x

/-- The conditions of R166 on a strike and its extension word. -/
def badWalk (q : StrikeW) (e : ExtW) : Bool :=
  (q.fuse && decide (2 ≤ q.acc.toNat)) ||
  (q.ext && (!e.zeroTop || decide (6 ≤ e.order) || e.src == 3 || (e.src != 0 && (decide (e.sstr = 0) || q.zp || q.wfmt == 0)) ||
    (decide (q.acc.toNat < 2) && decide (256 < q.row0 + e.cm * e.cn * q.m)) ||
    (decide (2 ≤ q.acc.toNat) && (decide (1 < e.cm) || decide (1 < e.cn))) || decide (65535 < q.kto + e.ck - 1)))

/-- Pad bytes that the feeder reads for row r (R56, R46). -/
def Step.rowReads (t : Step) (r : Nat) : List Range :=
  ⟨t.aOff + r * t.rowBytes, t.rowBytes⟩ :: (if t.lmEn then [⟨t.lmOff + 8 * r, 8⟩] else [])

/-- Pad bytes that the loads of a step read (R164). -/
def Step.loadReads (t : Step) (x : Drum) : List Range :=
  let nb := ceilDiv (codeBits t.wfmt * t.n) 8
  let kb := ceilDiv (codeBits t.wfmt * t.k) 8
  (if t.loadw then
    match t.src.toNat with
    | 0 => ⟨t.wOff, 64 + 131072 * planesOf t.wfmt + (if t.zp then 1024 / t.g * nOut t.wfmt * 2 else 0)⟩ ::
        (match t.wscl with | some o => [⟨o, x.fileBytes o⟩] | none => [])
    | 1 => ⟨t.wOff, ceilDiv nb 64 * 64 + 64⟩ :: (List.range t.k).map fun r => ⟨t.wOff + r * t.sstr, nb⟩
    | _ => (List.range t.n).map fun r => ⟨t.wOff + r * t.sstr, ceilDiv kb 64 * 64 + 64⟩
  else []) ++
  (match t.ascl with | some o => [⟨o, 16 + (x.sclHdr o).rowBytes * t.m⟩] | none => [])

/-- Pad bytes a step reads (R154): its loads and its rows. -/
def Step.ranges (t : Step) (x : Drum) : List Range :=
  t.loadReads x ++ if t.empty then [] else (List.range t.m).flatMap t.rowReads

/-! ## Weight loads (R51-R55, R164) -/

def orCell (c : Cells (BitVec 4)) (key : Nat) (v : BitVec 4) : Cells (BitVec 4) := putCell 0#4 c key (getCell 0#4 c key ||| v)

/-- The cells of the p planes that stand in a memory from `base` on; a byte that memory does not list is zero. -/
def imageCells (m : Memory) (base p : Nat) : Cells (BitVec 4) :=
  (m.filter fun e => decide (base ≤ e.1 ∧ e.1 < base + 131072 * p)).foldl (fun c e =>
    let rel := e.1 - base
    let j := rel / 131072
    let r := rel % 131072
    loop (fun i c => if e.2.getLsbD i then orCell c (r / 128 * 1024 + 8 * (r % 128) + i) (BitVec.ofNat 4 (2 ^ j)) else c) 8 c) []

/-- The true occupancy of a tile: bit 4 * lane + plane (R51, R53). -/
def trueOcc (c : Cells (BitVec 4)) : BitVec 256 :=
  c.foldl (fun o e => o ||| BitVec.ofNat 256 (e.2.toNat * 2 ^ (4 * (e.1 % 1024 / 16)))) 0

/-- Places the code of output n at row k. -/
def placeCode (c : Cells (BitVec 4)) (f : BitVec 3) (k n code : Nat) : Cells (BitVec 4) :=
  if isPair f then putCell 0#4 (putCell 0#4 c (k * 1024 + 2 * n) (BitVec.ofNat 4 code)) (k * 1024 + 2 * n + 1) (BitVec.ofNat 4 (code / 16))
  else putCell 0#4 c (k * 1024 + n) (BitVec.ofNat 4 code)

/-- The cells of a row source (SRC 1) or a column source (SRC 2). -/
def sourceCells (x : Drum) (t : Step) : Cells (BitVec 4) :=
  let b := codeBits t.wfmt
  if t.src = 1 then
    loop (fun k c => let l := x.padBytes (t.wOff + k * t.sstr) (ceilDiv (b * t.n) 8)
                     loop (fun n c => placeCode c t.wfmt k n (bitsAt l (b * n) b)) t.n c) t.k []
  else
    loop (fun n c => let l := x.padBytes (t.wOff + n * t.sstr) (ceilDiv (b * t.k) 8)
                     loop (fun k c => placeCode c t.wfmt k n (bitsAt l (b * k) b)) t.k c) t.n []

/-- The scales of a row or column source, key s * 1024 + n. -/
def sourceScales (x : Drum) (t : Step) : List (Nat × Half) :=
  let b := codeBits t.wfmt
  let gs := 1024 / t.g
  (List.range t.n).flatMap fun n => (List.range gs).map fun i =>
    let o := if t.src = 1 then t.wOff + ceilDiv (ceilDiv (b * t.n) 8) 64 * 64 + 2 * (n / t.g)
             else t.wOff + n * t.sstr + ceilDiv (ceilDiv (b * t.k) 8) 64 * 64 + 2 * i
    (i * 1024 + n, halfAt x o)

/-- The latches empty and the scales invalid (R54, R88). -/
def Drum.noTile (x : Drum) : Drum :=
  { x with skin := { x.skin with tile := none, cells := [], sums := [] }
           tuner := { x.tuner with file := [], fvalid := false, rsb := [], rsbTag := [] } }

/-- A weight image in the pad, or the rows of a source, into the latches: the drum with the new tile and the faults it
raises (R51-R53, R164). -/
def Drum.loadTile (x : Drum) (t : Step) : Drum × List Nat :=
  if t.src = 0 then
    let p := planesOf t.wfmt
    let hdr := x.padNat (t.wOff + 32) 1
    let occ := BitVec.ofNat 256 (x.padNat t.wOff 32)
    let cells := imageCells x.pad.mem (x.abs (t.wOff + 64)) p
    let bad := decide (hdr % 8 ≠ t.wfmt.toNat) || decide (hdr / 8 % 4 ≠ t.group.toNat) || (t.zp && !bit hdr 5) ||
      (trueOcc cells &&& ~~~occ) != 0
    if bad then (x.noTile, [0x11])
    else
      let base := t.wOff + 64 + 131072 * p
      let sums := if t.zp then
          loop (fun i c => putCell 0#16 c (i / nOut t.wfmt * 1024 + i % nOut t.wfmt) (halfAt x (base + 2 * i)))
            (1024 / t.g * nOut t.wfmt) [] else []
      ({ x with skin := { x.skin with tile := some ⟨t.wfmt, t.group, t.wTag, occ, t.zp, t⟩, cells := cells, sums := sums } }, [])
  else
    let cells := sourceCells x t
    ({ x with skin := { x.skin with tile := some ⟨t.wfmt, t.group, t.wTag, trueOcc cells, false, t⟩, cells := cells,
                                    sums := [] } }, [])

/-- The scale register file that a step's load leaves; none for the scale value fault. -/
def Drum.stepFile (x : Drum) (t : Step) : Option Tuner :=
  if !t.loadw then some x.tuner
  else if t.src = 0 then
    match t.wscl with
    | some o => x.readFile o
    | none => some x.tuner
  else
    let sc := sourceScales x t
    if sc.all (fun e => scaleLegal e.2) then
      some (x.tuner.putFile (sc.foldl (fun c e => putCell 0#16 c e.1 (plainScale e.2)) []) t.wTag t.group (isPair t.wfmt))
    else none

/-- The scale loads of a step (R164). Every header and scale is checked before any scale or row is written (R85). -/
def Drum.loadScales (x : Drum) (t : Step) : Drum × List Nat :=
  match x.stepFile t with
  | none => (x, [0x21])
  | some u =>
    match t.ascl with
    | none => ({ x with tuner := u }, [])
    | some o => match { x with tuner := u }.readRows o t.row0 t.m with
      | some v => ({ x with tuner := v }, [])
      | none => (x, [0x21])

/-! ## Rows (R56-R61, R66-R69) -/

/-- Activation planes of row r, bits at or beyond K cleared (R56, R57). -/
def Drum.rowPlanes (x : Drum) (t : Step) (r : Nat) : List Nat :=
  (List.range t.a).map fun i => x.padNat (t.aOff + r * t.rowBytes + 128 * i) 128 % 2 ^ t.k

/-- a(m, k) from the planes (R45). -/
def activation (sg : Bool) (planes : List Nat) (k : Nat) : Int :=
  let c := (List.range planes.length).foldl (fun c i => c + 2 ^ i * (fld ((planes[i]?).getD 0) k 1)) 0
  if sg then signedBits planes.length c else (c : Int)

/-- The row's zero points. -/
def Drum.rowZps (x : Drum) (t : Step) (r : Nat) : List Nat :=
  if t.zp then (List.range t.segs).map fun i => x.padNat (t.aOff + r * t.rowBytes + 128 * t.a + i) 1 else []

/-- S(m, n, s) of R45. -/
def segSum (x : Drum) (t : Step) (planes : List Nat) (n i : Nat) : Int :=
  (List.range (min t.g (t.k - i * t.g))).foldl (fun a j =>
    let k := i * t.g + j
    a + activation t.sgn planes k * weightAt x.skin.cells t.wfmt k n) 0

/-- The row's timing in the recurrence of R68: finishes, Q and the stalled ac of the active lanes. `low` is the hold of R126 on
Q. A lane that is not active passes the row as it becomes available. -/
def rowTiming (k : Skin) (active : List Nat) (cost : Nat → Nat) (low : Nat) : List Nat × Nat × Nat :=
  let avail := if k.fed < 4 then 0 else (k.qs[3]?).getD 0 + 2
  let fin0 := if k.fin.isEmpty then List.replicate 64 0 else k.fin
  let (fin, d, st) := active.foldl (fun (p : List Nat × Nat × Nat) l =>
    let f := (fin0[l]?).getD 0
    let a := max f avail
    (p.1.set l (a + cost l), max p.2.1 (a + cost l), p.2.2 + (a - f))) (fin0.map (max avail), 0, 0)
  (fin, max (max d ((k.qs[0]?).getD 0 + 1)) low, st)

/-- Levels that the leaf of local index t carries through. -/
def carryLevels (t : Nat) : Nat → Nat
  | 0 => 0
  | n + 1 => if t % 2 = 1 then carryLevels (t / 2) n + 1 else 0

/-- Is the strike the last of its block (R124)? -/
def Step.lastLeaf (t : Step) (de : Desc) : Bool :=
  t.acc == 3 || decide (t.kt de + 1 = de.blockEnd) || decide (t.kt de + 1 = de.ktot)

/-- The hold that a bell leaf whose last row is final in an ac leaves on its descriptor's next leaf: from then on the carry
takes c levels of M rows, and its last level takes row m out of slot 0 in its ac m (R126). -/
def Step.holdAfter (t : Step) (de : Desc) (final : Nat) : Nat :=
  if t.lastLeaf de || decide (t.m = 0) then 0 else final + 1 + (max 1 (carryLevels (t.kt de - de.kbase) de.blk) - 1) * t.m

/-- Do a step's loads write the scale register file, or rows of the row scale buffer that the step before uses (R165)? -/
def Step.loadWaits (t : Step) (k : Skin) : Bool :=
  (t.loadw && (t.wscl.isSome || t.src != 0)) || (t.ascl.isSome && (rowMask t.row0 t.m &&& k.used) != 0)

/-- Ac that a step's loads take (R52, R165). -/
def Step.loadTime (t : Step) (x : Drum) : Nat :=
  let blk (n : Nat) : Nat := ceilDiv n 2048
  let a := match t.ascl with | some o => blk (16 + (x.sclHdr o).rowBytes * t.m) | none => 0
  let w := if t.loadw = false then 0
    else if t.src = 0 then
      max (1 + 64 * planesOf t.wfmt + (if t.zp then 1024 / t.g * nOut t.wfmt / 1024 else 0))
        (match t.wscl with | some o => blk (x.fileBytes o) | none => 0)
    else 1 + blk ((if t.src = 1 then t.k else t.n) * t.sstr)
  max a w

/-- The count of a chain's ac begins anew `gone` ac later; what is still to come goes on in the new count (R69, log 15). -/
def Skin.shift (k : Skin) (gone : Nat) : Skin :=
  { k with fin := [], qs := [], fed := 0, final := k.final - gone
           holds := k.holds.filterMap fun e => if gone < e.2 then some (e.1, e.2 - gone) else none }

/-- The first ac after the old chain's last row is taken. -/
def Skin.free (k : Skin) : Nat := match k.qs with | q :: _ => q + 1 | [] => 0

/-- The ac in which a step's loads are over: they start after the last pair of the STRIKE before, or where R165 has them wait
when its last shell row is final. -/
def Step.loaded (t : Step) (x : Drum) : Nat :=
  if t.loads then max (x.skin.fin.foldl max 0) (if t.loadWaits x.skin then x.skin.final else 0) + t.loadTime x else x.skin.free

/-- A new chain: its ac 0 lies after the step's loads, or the old chain's last row, and 4 ac of fill (R69). -/
def Skin.restart (k : Skin) (from_ : Nat) : Skin := k.shift (from_ + 4)

/-- Feeds row r of a step into the lane queues (R67): its sums, its lanes, the counters of R74. -/
def Drum.feedRow (x : Drum) (t : Step) (r : Nat) : Drum :=
  let k := x.skin
  let occ := match k.tile with | some i => i.occ | none => 0
  let planes := x.rowPlanes t r
  let p := planesOf t.wfmt
  let mask : Dword := if t.lmEn then BitVec.ofNat 64 (x.padNat (t.lmOff + 8 * r) 8) else BitVec.allOnes 64
  let active := (List.range 64).filter fun l => laneActive t.wfmt t.n l
  let na := if k.askipNow then (planes.filter (· ≠ 0)).length else t.a
  let nw (l : Nat) : Nat := if k.wskipNow then ((List.range p).filter fun j => occ.getLsbD (4 * l + j)).length else p
  let on := active.filter fun l => mask.getLsbD l
  let hold := if t.bell then getCell 0 k.holds t.rd else 0
  let (fin, q, st) := rowTiming k active (fun l => if mask.getLsbD l then max 1 (na * nw l) else 0)
    (if hold = 0 then 0 else hold + r)
  let cols := (List.range t.n).filter fun n => mask.getLsbD (laneOf t.wfmt n)
  let acc := cols.foldl (fun c n => loop (fun i c => putCell 0#24 c (i * 1024 + n) (BitVec.ofInt 24 (segSum x t planes n i)))
    t.segs c) []
  let row : SkinRow := ⟨r, t, mask, x.rowZps t r, acc⟩
  let sum (f : Nat → Nat) : Dword := BitVec.ofNat 64 (on.foldl (fun a l => a + f l) 0)
  { x with skin := { k with laneQ := k.laneQ ++ [row], fin := fin, qs := (q :: k.qs).take 4, fed := k.fed + 1,
                            final := q + 8, used := rowMask t.row0 t.m
                            nextRow := r + 1, cur := if r + 1 = t.m then none else k.cur,
                            holds := if t.bell && decide (r + 1 = t.m) then putCell 0 k.holds t.rd (t.holdAfter (x.desc t.rd) (q + 8))
                                     else k.holds
                            pairs := k.pairs + sum fun l => na * nw l, askipped := k.askipped + sum fun _ => (t.a - na) * p,
                            wskipped := k.wskipped + sum fun l => na * (p - nw l), stall := k.stall + BitVec.ofNat 64 st } }

/-! ## Steps -/

/-- The block's state at the decode of one of its strikes (R125, R130). -/
def Drum.enterBlock (x : Drum) (t : Step) : Drum :=
  let de := x.desc t.rd
  let nat := decide (t.kt de + 1 = de.blockEnd) || decide (t.kt de + 1 = de.ktot)
  let last := t.lastLeaf de
  x.modStack t.rd fun b =>
    { b with started := true, row0 := t.row0, m := t.m, n := t.n, next := t.kt de + 1, ended := last,
             misaligned := decide (de.kbase % 2 ^ de.blk ≠ 0) || (last && !nat) }

/-- The leaf of a bell strike that occupies no skin time (R48): +0 in every column below N of its rows. It stands in slot 0
once the carry before it has taken the old rows out, and its own carry holds the next leaf as any other does (R126). -/
def Drum.zeroLeaf (x : Drum) (t : Step) : Drum :=
  let rows := if t.n = 0 then 0 else t.m
  let h := loop (fun m h =>
    let r := t.row0 + m
    let old := if t.kto = 0 then 0#32 else h.tstatus r
    (h.putRow r 0 (List.replicate t.n 0#32)).setStatus r (bellStatus old 0 false)) rows x.shell
  let leaf : Leaf := ⟨t.rd, t.kt (x.desc t.rd), t.lastLeaf (x.desc t.rd), t.ord⟩
  let old := getCell 0 x.skin.holds t.rd
  let final := max x.skin.free (if old = 0 then 0 else old + (t.m - 1))
  ({ x with shell := { h with leaves := h.leaves ++ [leaf] }
            skin := { x.skin with holds := putCell 0 x.skin.holds t.rd (t.holdAfter (x.desc t.rd) final) } }).noteRows t.row0 rows

/-- The decode of a bell strike fixes the block's rows; nodes that came earlier are held to them (R125, R128). -/
def State.enterBlock (s : State) (d : Nat) (t : Step) : State :=
  if t.bell then
    let first := !((s.drum d).stack t.rd).started
    let s := s.modDrum d (·.enterBlock t)
    if first then s.placeEarly d t.rd else s
  else s

/-- A step past its checks and loads: its rows begin, or it ends at once. -/
def State.beginStep (s : State) (d : Nat) (t : Step) (cont : Bool) : State :=
  s.modDrum d fun x =>
    if t.empty then
      let x := if t.loads then { x with skin := x.skin.shift (t.loaded x) } else x
      if t.bell then x.zeroLeaf t else x
    else { x with skin := { (if cont then x.skin else x.skin.restart (t.loaded x)) with cur := some t, nextRow := 0 } }

/-- A step faults: the strike ends there, and the sequencer issues nothing further. -/
def State.stepFault (s : State) (d : Nat) (t : Step) (l : List Nat) : State :=
  (s.modSkin d fun k => { k with load := none }).unitFault d t.ord l

/-- The loads of a step have ended: R53 and R85 speak, then R87 for a step that loads scales, whose block it enters only past
that check (R113). A word that has failed since the loads began ends the strike (R235). -/
def State.loadsDone (s : State) (d : Nat) (t : Step) : State :=
  let l := t.loadReads (s.drum d)
  if (s.drum d).readFails l then (s.rereads d l).stepFault d t [0x62] else
  let (x, f1) := if t.loadw then (s.drum d).loadTile t else (s.drum d, [])
  let (y, f2) := x.loadScales t
  let z := if f1.isEmpty then y else x
  let s := s.setDrum d { z with skin := { z.skin with load := none } }
  if !(f1 ++ f2).isEmpty then s.stepFault d t (f1 ++ f2)
  else if t.ownScales && t.skew z then s.stepFault d t [0x20]
  else (if t.ownScales then s.enterBlock d t else s).beginStep d t false

def SkinJob.ext (j : SkinJob) : ExtW := match j.x with | some w => extW w | none => extNone
/-- The operands of step i of the job. -/
def SkinJob.stepAt (j : SkinJob) (i : Nat) : Step :=
  let t := walkStep (strikeW j.u.w) j.ext j.x.isSome i
  { t with lmEn := t.lmEn && !j.allLanes, ord := j.u.ord, all := j.rows }
/-- The operands of the job's next step. -/
def SkinJob.step (j : SkinJob) : Step := j.stepAt j.next

/-- Must the step wait: its loads overwrite what rows in the queues use (R88, R165), or a bell leaf that takes no skin time
follows work on its block? -/
def Step.waits (t : Step) (x : Drum) : Bool :=
  (t.loads && (!x.skin.laneQ.isEmpty)) || (t.bell && t.empty && (!x.skin.laneQ.isEmpty || x.shell.leaves.any fun l => l.rd == t.rd))

/-- The job at the front has started its step; it is kept as it stood before, for a load that is abandoned (R266). The
settings of SKN_CTRL are those in force as the STRIKE's first step starts (R73, log 25). -/
def Skin.advance (k : Skin) (t : Step) : Skin :=
  match k.jobs with
  | [] => k
  | j :: rest => { k with jobs := if t.lastStep then rest else { j with next := j.next + 1 } :: rest
                          started := some j
                          askipNow := if j.next = 0 then k.askip else k.askipNow
                          wskipNow := if j.next = 0 then k.wskip else k.wskipNow }

/-- Starts one step: its checks, then its loads or its rows (R47, R52, R87, R125, R163). A step that its checks refuse reads
nothing (R75, R113). -/
def State.startStep (s : State) (d : Nat) (t : Step) : State :=
  let x := s.drum d
  let f := t.faults x
  let s := s.modDrum d fun x => { x with skin := x.skin.advance t
                                         seq := { x.seq with walkIm := BitVec.ofNat 8 t.im, walkIn := BitVec.ofNat 8 t.in_,
                                                             walkIk := BitVec.ofNat 8 t.ik } }
  if !f.isEmpty then s.stepFault d t f
  else (if t.ownScales then s else s.enterBlock d t).readWrite d t.ord (t.loadReads x) [] fun s =>
    if t.loadw then s.modSkin d fun k => { k with load := some t, tile := none, cells := [], sums := [] }
    else if t.loads then s.loadsDone d t
    else s.beginStep d t (!x.skin.laneQ.isEmpty)

/-! ## STRIKE words -/

/-- Instructions that wait behind the one on the skin (R150: a queue of 2). -/
def Skin.queued (k : Skin) : Nat := (k.jobs.filter fun j => j.next == 0).length

/-- Shell rows that a STRIKE writes (R123, R163). -/
def StrikeW.rows (q : StrikeW) (e : ExtW) (x : Drum) : BitVec 256 :=
  if q.acc.toNat < 2 then rowMask q.row0 (min 256 (e.cm * e.cn * q.m))
  else rowMask q.row0 (min 256 ((x.desc q.rd).depth * q.m))

/-- What a strike hands to the skin: its words, and whether every lane strikes (R214). -/
def Drum.strikeJob (x : Drum) (w : Quad) : SkinJob :=
  let q := strikeW w
  let e := if q.ext then some (x.cached (x.seq.nextPc + 1)) else none
  { u := x.newJob w true, x := e, next := 0, rows := q.rows (match e with | some v => extW v | none => extNone) x
    allLanes := match x.tap.replay with | some o => q.lmEn && decide (q.lmAddr = o) | none => false }

/-- Pad bytes that the steps of a strike read. -/
def SkinJob.ranges (j : SkinJob) (x : Drum) : List Range :=
  (List.range j.ext.steps).flatMap fun i => (j.stepAt i).ranges x

/-- The first step of a STRIKE starts: its decode checks the region of the whole walk with its step (R154). -/
def State.startStrike (s : State) (d : Nat) (j : SkinJob) : State :=
  let x := s.drum d
  let f := s.regionFault d (j.ranges x)
  if f.isEmpty then s.startStep d j.step else s.stepFault d j.step (j.step.faults x ++ f)

/-! ## The de-quantiser (R64, R65) -/

/-- v of column n and segment i (R64). -/
def SkinRow.value (r : SkinRow) (x : Drum) (n i : Nat) : Word :=
  let sum := (getCell 0#24 r.acc (i * 1024 + n)).toInt
  let c := if r.step.zp then sum - ((r.z[i]?).getD 0 : Nat) * (getCell 0#16 x.skin.sums (i * 1024 + n)).toInt else sum
  dequant c 0 (x.tuner.sw i n) (x.tuner.sa (r.step.row0 + r.m) i)

/-- The additions of a column's values in ascending segment order, from segment `i0` on. -/
def addSegs (sr : Bool) (seed : Dword) (ldrum kt row n : Nat) (v : Nat → Word) (i0 segs : Nat) (start : Word) : Word :=
  (List.range (segs - i0)).foldl (fun a j => shellAdd sr (srBits seed ldrum (n / 16) kt row (n % 16) (i0 + j)) a (v (i0 + j))) start

/-- Row m enters the shell (R65, R118, R119). -/
def Drum.takeRow (x : Drum) (r : SkinRow) : Drum :=
  let t := r.step
  let de := x.desc t.rd
  let kt := t.kt de
  let row := t.row0 + r.m
  let on (n : Nat) : Bool := r.mask.getLsbD (laneOf t.wfmt n)
  let cols := (List.range t.n).filter on
  let h := x.shell
  let set := t.acc == 0 || t.bell
  let i0 := if set then 1 else 0
  let col (n : Nat) : Word := addSegs de.sr h.seed x.logical.toNat kt r.m n (r.value x n) i0 t.segs
    (if set then r.value x n 0 else shellAt h row n)
  let adds := t.segs - i0
  let sr := if de.sr && decide (0 < adds) then flagSR else 0#32
  let k : Dword := if cols.isEmpty then 0 else BitVec.ofNat 64 adds
  if t.bell then
    let vals := (List.range t.n).map fun n => if on n then col n else 0#32
    let old := if t.kto = 0 then 0#32 else h.tstatus row
    let fl := old ||| valuesFlag vals ||| (if cols.isEmpty then 0#32 else sr)
    let h := (h.putRow row 0 vals).setStatus row (bellStatus fl 0 false)
    ({ x with shell := { h with adds := h.adds + k, sradds := if de.sr then h.sradds + k else h.sradds } }).noteRows row 1
  else if cols.isEmpty then x
  else
    let vals := cols.map col
    let h := (cols.zip vals).foldl (fun h p => h.put row p.1 p.2) h
    let h := h.setStatus row (chainStatus (h.tstatus row) (t.acc == 0) de.sr t.segs (valuesFlag vals ||| sr))
    ({ x with shell := { h with adds := h.adds + k, sradds := if de.sr then h.sradds + k else h.sradds } }).noteRows row 1

/-- Takes the front row; after the last row of a bell strike its leaf is complete. -/
def Drum.dequantise (x : Drum) (r : SkinRow) (rest : List SkinRow) : Drum :=
  let t := r.step
  let y := x.takeRow r
  let y := { y with skin := { y.skin with laneQ := rest, rows := y.skin.rows + 1 } }
  if t.bell && decide (r.m + 1 = t.m) then
    let leaf : Leaf := ⟨t.rd, t.kt (x.desc t.rd), t.lastLeaf (x.desc t.rd), t.ord⟩
    { y with shell := { y.shell with leaves := y.shell.leaves ++ [leaf] } }
  else y

/-- The strike of order o meets a word that fails its parity: it ends there, with its rows that wait (R152, R357, log 25). -/
def State.strikeLost (s : State) (d o : Nat) (f : Nat) : State :=
  (s.modSkin d fun k => { k with
    cur := k.cur.filter fun t => decide (t.ord ≠ o)
    load := k.load.filter fun t => decide (t.ord ≠ o)
    laneQ := k.laneQ.filter fun r => decide (r.step.ord ≠ o) }).unitFault d o [f]

/-- The feeder reads row `nextRow` of the step and places it in the queues (R67); a word that fails ends the strike. -/
def State.feed (s : State) (d : Nat) (t : Step) : State :=
  let l := t.rowReads (s.drum d).skin.nextRow
  let s := s.access d l
  if (s.drum d).readFails l then (s.rereads d l).strikeLost d t.ord 0x62 else s.modDrum d fun x => x.feedRow t x.skin.nextRow

end Sys2Proof.Machine
end

