-- ==== Sys2Proof/Machine/Bell.lean ====
section
/-! DEFINITION. Machine/Bell.lean: the way of packets over the NoC (R23-R26, R357), and what a drum does with a complete
leaf, a node and statistics (R124, R128, R140). -/

namespace Sys2Proof.Machine

/-! ## The way over the NoC (R23-R26, R357) -/

/-- Stations of a compute die that hold drums, in raster order (R25). -/
def stations : List Nat := (List.range 72).filter fun i => !(i == 20 || i == 24 || i == 47 || i == 51)
def stationOf (d : Nat) : Nat := (stations[d % 68]?).getD 0

/-- Quadrant of a drum's station: the number of the bridge that its traffic takes (R26). -/
def quadrantOf (d : Nat) : Nat :=
  (if 5 ≤ stationOf d % 9 then 1 else 0) + (if 4 ≤ stationOf d / 9 then 2 else 0)

/-- Station of bridge Bb on its die (R24). -/
def bridgeStation (b : Nat) : Nat := if b = 0 then 20 else if b = 1 then 24 else if b = 2 then 47 else 51

/-- Stations that a packet passes from station a to station b of one die: along X to b's column, then along Y (R23). -/
def pathOf (a b : Nat) : List Nat :=
  let leg (p q : Nat) : List Nat := if p ≤ q then (List.range (q - p)).map (p + · + 1) else (List.range (p - q)).map (p - 1 - ·)
  ((leg (a % 9) (b % 9)).map fun x => a / 9 * 9 + x) ++ (leg (a / 9) (b / 9)).map fun y => y * 9 + b % 9

/-- The stations, as 72 times the die plus the station, of a packet's way from src to dst, 136 for the base die: on one die
its path, else to its bridge, over the base die, and from the bridge of the same number on (R23, R26). -/
def nocPath (src dst : Nat) : List Nat :=
  let on (d : Nat) (l : List Nat) : List Nat := l.map fun i => 72 * (d / 68) + i
  if 136 ≤ src then on dst (pathOf (bridgeStation (quadrantOf dst)) (stationOf dst))
  else if 136 ≤ dst then on src (pathOf (stationOf src) (bridgeStation (quadrantOf src)))
  else if src / 68 = dst / 68 then on src (pathOf (stationOf src) (stationOf dst))
  else on src (pathOf (stationOf src) (bridgeStation (quadrantOf src))) ++
    on dst (pathOf (bridgeStation (quadrantOf src)) (stationOf dst))

/-- Bridges, as 4 times the die plus b, that a packet from src to dst crosses (R26). -/
def bridgesOf (src dst : Nat) : List Nat :=
  if 136 ≤ src then (if 136 ≤ dst then [] else [4 * (dst / 68) + quadrantOf dst])
  else if 136 ≤ dst then [4 * (src / 68) + quadrantOf src]
  else if src / 68 = dst / 68 then []
  else [4 * (src / 68) + quadrantOf src, 4 * (dst / 68) + quadrantOf src]

/-- A packet of job j is lost at a drum's station or a bridge: the unit's fault, and the job is aborted (R357). -/
def State.packetLost (s : State) (unit sub : Nat) (j : Option Half) : State :=
  let b := s.beat
  let s := s.raiseWith { src := unit, sub := BitVec.ofNat 8 sub, job := j, run := none, inj := false }
  match j with
  | some j => s.abortJob j b
  | none => s

/-- The earliest packet of the NoC that satisfies p, and the NoC without it. -/
def takePacket (p : Packet → Bool) : List Packet → Option (Packet × List Packet)
  | [] => none
  | k :: r => if p k then some (k, r) else (takePacket p r).map fun q => (q.1, k :: q.2)

/-- Flits of 128 bytes that a station's ejection buffer holds (R234, R237). -/
def Pad.ejectFlits (p : Pad) : Nat :=
  (p.eject.map fun k => match k.body with | .send _ _ _ data => max 1 (ceilDiv data.length 128) | _ => 1).sum

/-- Is the ejection buffer of station dst full, so that the mesh holds what comes for it (R237)? -/
def State.stationFull (s : State) (dst : Nat) : Bool := decide (dst < 136 ∧ 16 ≤ (s.drum dst).pad.ejectFlits)

/-- The earliest packet on its way from src to dst, where it is of the kind and the station can take it, leaves the NoC: it
lands, or it is lost on the way; `land` hears whether the arrays that it reads pass their parity. Packets between two stations keep their order (R23), so another kind in front lets none of
this kind arrive. -/
def State.deliver (s : State) (dst src : Nat) (kind : Packet → Bool) (net : NocVerdict) (land : Bool → Packet → State → State) : State :=
  match takePacket (fun k => k.src == src && k.dst == dst) s.noc with
  | none => s
  | some (k, rest) =>
    if !kind k || s.stationFull dst then s else
    let t := { s with noc := rest }
    match net with
    | .arrives => land true k t
    | .badArray => land false k t
    | .badFlit => if dst < 136 then t.packetLost dst 0x71 k.job else s
    | .badBond b => if (bridgesOf src dst).contains b then t.packetLost (0x170 + b) 0x01 k.job else s

def Packet.isSend (k : Packet) : Bool := match k.body with | .send .. => true | .link p => p.pkind == 1 | _ => false
def Packet.isAck (k : Packet) : Bool :=
  match k.body with | .ack .. => true | .nodeRefusal => true | .link p => p.pkind == 2 | _ => false
def Packet.isNode (k : Packet) : Bool := match k.body with | .node .. => true | .link p => p.pkind == 3 | _ => false
def Packet.isStats (k : Packet) : Bool := match k.body with | .stats .. => true | .link p => p.pkind == 4 | _ => false

/-- A command that names a drum, or 136 for the base die, as the end of a packet's way. -/
def onStation (d : Nat) (s : State) (f : State → State) : Host.Outcome State Fault Refusal :=
  if d ≤ 136 then .next (f s) else .fault .noSuchUnit

/-! ## Leaves, nodes and statistics -/

/-- The shell carries the leaf that stands complete in slot 0 up the stack (R124). A shell row that fails its parity ends
the strike there (R357). -/
def State.takeLeaf (s : State) (d : Nat) (par : Bool) : State :=
  let x := s.drum d
  match x.shell.leaves with
  | [] => s
  | l :: rest =>
    let s := s.modShell d fun h => { h with leaves := rest }
    if !par && decide ((x.stack l.rd).m ≠ 0 ∧ (x.stack l.rd).n ≠ 0) then s.strikeLost d l.ord 0x72
    else s.leafDone d l.rd (l.kt - (x.desc l.rd).kbase) l.last

/-- A node lands at its drum; one whose job has ended is discarded (R128). At the base die it goes on over a link. -/
def State.landNode (s : State) (d : Nat) (par : Bool) (k : Packet) : State :=
  match k.body with
  | .node prid level m n row0 flags vals =>
    if (k.job.bind s.job?).isSome then s.nodeArrives d k prid level m n row0 flags vals par
    else s.modPad d fun p => { p with discards := p.discards + 1 }
  | .link p => s.sendPk p false
  | _ => s

/-- Did the node go to the descriptor that packet k's statistics come from? -/
def SentNode.sameWay (t : SentNode) (k : Packet) (rid : Nat) : Bool :=
  t.part == k.from_ && t.parent == k.fromDrum && t.prid == rid && k.job == some t.job

/-- Does a drum's final node answer to the statistics that packet k brings: the same parent, descriptor and job, in the
reduction that they are of? -/
def SentNode.answers (t : SentNode) (k : Packet) (rid : Nat) : Bool :=
  t.sameWay k rid && decide (k.span.1 ≤ t.serial ∧ t.serial ≤ k.span.2)

/-- Folds the statistics that drum d has received and forwards them to the senders of each node that it sent the same
parent descriptor in this reduction; those nodes, and earlier ones that went the same way, wait for no more (R140). A drum that is its own parent has folded them already (DEDUCED, log 65). A record that
fails its parity takes nothing (R357). -/
def State.statsArrive (s : State) (d : Nat) (k : Packet) (par : Bool) (qid m n group rid : Nat) (his los : List Word) :
    State :=
  match (s.drum d).shell.sent.filter (·.answers k rid) with
  | [] => s
  | t :: rest =>
    let s := if k.src = d then s else if !par then s.arrivalFault d 0x72 (some t.job) else
      match (s.drum d).tuner.foldTree t.job qid m n group (his.zip los) with
      | some u => s.modTuner d fun _ => u
      | none => s.arrivalFault d 0x22 (some t.job)
    let s := s.modShell d fun h => { h with sent := h.sent.filter fun v => !(v.sameWay k rid && decide (v.serial ≤ k.span.2)) }
    (t :: rest).foldl (fun s t => s.statsDown d t.job t.rid qid m n group his los t.senders) s

/-- Statistics land at a drum, or go on over a link. -/
def State.landStats (s : State) (d : Nat) (par : Bool) (k : Packet) : State :=
  match k.body with
  | .stats qid m n group rid his los => s.statsArrive d k par qid m n group rid his los
  | .link p => s.sendPk p false
  | _ => s

end Sys2Proof.Machine
end

