-- ==== Sys2Proof/Machine/Walks.lean ====
section
/-! DEFINITION. Machine/Walks.lean: stream records (R314), page walks (R315, R316), the chunks of a DMA transfer (R255, R271), and
the channels that class 0 has a claim on in a reserved slot (R312). -/

namespace Sys2Proof.Machine

/-! ## Stream records (R314) -/

/-- A 64-bit word of stream record v. -/
def MainMem.strWord (m : MainMem) (v : Half) (k : Nat) : Nat := (getCell 0#64 m.str (16 * v.toNat + k)).toNat
def MainMem.strValid (m : MainMem) (v : Half) : Bool := bit (m.strWord v 0) 0
def MainMem.strClass (m : MainMem) (v : Half) : Nat := fld (m.strWord v 0) 1 2
def MainMem.strPtbase (m : MainMem) (v : Half) : Nat := fld (m.strWord v 0) 32 21
def MainMem.strPtcnt (m : MainMem) (v : Half) : Nat := fld (m.strWord v 1) 0 32
def MainMem.strDeadline (m : MainMem) (v : Half) : Nat := fld (m.strWord v 1) 32 32

/-! ## Page walks (R315, R316) -/

/-- End of the LPDDR5 data range of R33. -/
def MainMem.dataRange (m : MainMem) : Nat := if m.dense16 then 0x7800000000 else 0x3C00000000

/-- The record of stream v, as a dispatch reads it. -/
def MainMem.streamUse (m : MainMem) (v : Half) : StreamUse := ⟨v, m.strValid v, m.strPtbase v, m.strPtcnt v⟩

/-- A side in the LPDDR5 data range is translated by the task's stream; host and pad addresses never are. -/
def Side.of (m : MainMem) (a : Nat) (v : Option Half) : Side := ⟨a, if a < m.dataRange then v.map m.streamUse else none, []⟩

/-- Frame of logical page p of a stream, or none for a page fault. -/
def MainMem.frameOf (m : MainMem) (u : StreamUse) (p : Nat) (write : Bool) : Option Nat :=
  if u.valid = false ∨ u.ptcnt ≤ p then none else
  let e := (getCell 0#64 m.pgt (u.ptbase + p)).toNat
  let frame := fld e 8 21
  if bit e 0 = false ∨ fld e 29 19 ≠ 0 ∨ fld e 2 6 ≠ 0 ∨ fld e 48 16 ≠ u.id.toNat ∨ m.frames ≤ frame ∨ (write && bit e 1) = true then none
  else some frame

/-- Where positions of a side lie, in address order, up to the first page fault: device address and length of each part,
the walks this takes, and the pages known after it. -/
structure Way where
  places : List (Nat × Nat)
  walks : Nat
  pages : List (Nat × Nat)
  fault : Bool
deriving DecidableEq, Repr

def Way.len (w : Way) : Nat := (w.places.map (·.2)).sum

/-- One more part of a translated side: `len` bytes at offset `off` of logical page `page`. The engine walks an entry at its
first access to the page. -/
def Way.add (w : Way) (m : MainMem) (u : StreamUse) (write : Bool) (page off len : Nat) : Way :=
  if w.fault then w else
  match w.pages.find? (·.1 == page) with
  | some f => { w with places := w.places ++ [(f.2 * 262144 + off, len)] }
  | none => match m.frameOf u page write with
    | some f => { w with places := w.places ++ [(f * 262144 + off, len)], walks := w.walks + 1, pages := (page, f) :: w.pages }
    | none => { w with walks := w.walks + 1, fault := true }

/-- The way of n bytes from position pos on. -/
def Side.way (x : Side) (m : MainMem) (write : Bool) (pos n : Nat) : Way :=
  match x.stream with
  | none => ⟨if n = 0 then [] else [(x.base + pos, n)], 0, [], false⟩
  | some u =>
    let w : Way := ⟨[], 0, x.pages, false⟩
    if n = 0 then w else (partsOf 262144 (x.base + pos) n).foldl (fun w p => w.add m u write p.1 p.2.1 p.2.2) w

/-- The first n bytes of a list of places. -/
def cutPlaces : Nat → List (Nat × Nat) → List (Nat × Nat)
  | _, [] => []
  | 0, _ => []
  | n, p :: r => (p.1, min p.2 n) :: cutPlaces (n - p.2) r

/-! ## Chunks (R255, R271) -/

/-- One chunk: from a side or from bytes at hand, to a side or only into the engine. -/
structure Chunk where
  src : Option Way
  data : List Byte
  dst : Option Way
deriving DecidableEq, Repr

/-- The bytes that come before any page fault. -/
def Chunk.len (c : Chunk) : Nat :=
  match c.src, c.dst with
  | some a, some b => min a.len b.len
  | some a, none => a.len
  | none, some b => b.len
  | none, none => 0

def Chunk.reads (c : Chunk) : List (Nat × Nat) := match c.src with | some w => cutPlaces c.len w.places | none => []
def Chunk.writes (c : Chunk) : List (Nat × Nat) := match c.dst with | some w => cutPlaces c.len w.places | none => []
def Chunk.walks (c : Chunk) : Nat := ((c.src.map (·.walks)).getD 0) + ((c.dst.map (·.walks)).getD 0)
def Chunk.faults (c : Chunk) : Bool := ((c.src.map (·.fault)).getD false) || ((c.dst.map (·.fault)).getD false)

/-- The next chunk of a transfer. An expanded image is written from byte 64 on, and its first bytes last (R198). -/
def Move.chunk (k : Move) (m : MainMem) : Chunk :=
  match k.phase with
  | .copy =>
    let a := k.src.way m false k.pos (min 2048 (k.len - k.pos))
    ⟨some a, [], some (k.dst.way m true k.pos a.len)⟩
  | .gather => ⟨some (k.src.way m false k.pos (min 2048 (k.len - k.pos))), [], none⟩
  | .body =>
    let l := (k.data.drop k.pos).take 2048
    ⟨none, l, some (k.dst.way m true (64 + k.pos) l.length)⟩
  | .head => ⟨none, k.first, some (k.dst.way m true 0 k.first.length)⟩

/-! ## Reserved slots (R312) -/

/-- Channels that a range of LPDDR5 data lies on. -/
def State.rangeChans (s : State) (a n : Nat) : List Nat :=
  if s.inMem a n && decide (n ≠ 0) then (partsOf 480 a n).map fun p => (s.mem.place p.1).1 else []

/-- Channels that the next chunk of a transfer asks for. -/
def State.moveChans (s : State) (k : Move) : List Nat :=
  let c := k.chunk s.mem
  (c.reads ++ c.writes).flatMap fun p => s.rangeChans p.1 p.2

/-- Channels with a pending class-0 request. -/
def State.liveChans (s : State) : List Nat := (s.met.moves.filter (·.live)).flatMap s.moveChans

/-- In a reserved slot a pending class-0 request goes ahead of every other request to its channel (R41, R312). -/
def State.slotTaken (s : State) (chans : List Nat) : Bool := s.reservedSlot && chans.any s.liveChans.contains

end Sys2Proof.Machine
end

