-- ==== Sys2Proof/Machine/Runs.lean ====
section
/-! DEFINITION. Machine/Runs.lean: the runs of a drum task: pattern load with its checks (R120, R121, R127, R136, R149,
R170, R249, R250), the job boundary (R244), and the end of a run (R256, R258, R259). -/

namespace Sys2Proof.Machine

/-! ## Descriptors (R120) -/

/-- Entry e of a descriptor table in its 32 bytes. -/
def descOf (l : List Byte) : Desc :=
  let b0 := leNat (sub l 0 1)
  { valid := bit b0 0, bell := bit b0 1, sr := bit b0 2, qen := bit b0 3, tx := bit b0 4, qid := fld (leNat (sub l 1 1)) 0 5,
    blk := fld (leNat (sub l 2 1)) 0 5, rid := leNat (sub l 3 1), kbase := leNat (sub l 4 4), ktot := leNat (sub l 8 4),
    rxmask := toW (leNat (sub l 12 4)), parent := toW (leNat (sub l 16 4)), prid := leNat (sub l 20 1) }

/-- The reserved bits of an entry are zero. -/
def descRsvZero (l : List Byte) : Bool :=
  decide (leNat (sub l 0 1) < 32) && decide (leNat (sub l 1 1) < 32) && decide (leNat (sub l 2 1) < 32) &&
  decide (leNat (sub l 16 4) < 2 ^ 22) && leNat (sub l 21 11) == 0

/-- The conditions of R121 on one valid entry. -/
def Desc.bad (de : Desc) (rsvZero : Bool) : Bool :=
  !rsvZero ||
  (if de.bell then
    decide (de.ktot = 0 ∨ de.ktot ≤ de.kbase) || decide (de.rxmask.toNat % 2 ^ de.blk ≠ 0) ||
      decide (32 ≤ de.blk + popBelow de.rxmask 32)
   else de.qen || de.tx || decide (de.qid ≠ 0) || decide (de.blk ≠ 0) || decide (de.ktot ≠ 0) || de.rxmask != 0 ||
      de.parent != 0 || decide (de.prid ≠ 0))

/-- Pairs of valid entries i < j that satisfy p. -/
def anyPair (l : List Desc) (p : Desc → Desc → Bool) : Bool :=
  (List.range l.length).any fun j => (List.range j).any fun i =>
    match l[i]?, l[j]? with
    | some a, some b => p a b
    | _, _ => false

/-- PARENT names this drum itself. -/
def Desc.parentHere (de : Desc) (ldrum : Nat) : Bool := de.tx && !de.remote && decide (de.parentDrum = ldrum)

/-- The stream collision of R136. -/
def collide (ldrum : Nat) (a b : Desc) : Bool :=
  let one := (a.tx && b.tx && a.parent == b.parent && a.prid == b.prid) ||
    (a.parentHere ldrum && a.prid == b.rid) || (b.parentHere ldrum && b.prid == a.rid)
  a.sr && b.sr && one && decide (a.kbase < b.kbase + 2 ^ b.blk) && decide (b.kbase < a.kbase + 2 ^ a.blk)

/-- Is a REMOTE coordinate refused (R334, R341)? -/
def State.coordRefused (s : State) (c : Coord) (group : Nat) : Bool :=
  decide (s.fab.dims.x ≤ c.x) || decide (s.fab.dims.y ≤ c.y) || decide (s.fab.dims.z ≤ c.z) || c == s.pcie.coord ||
  decide (group = 0)

/-- A PARENT that R127, R334 or R341 refuses at pattern load. -/
def State.parentRefused (s : State) (group : Nat) (de : Desc) : Bool :=
  de.bell && de.tx &&
  (if de.remote then s.coordRefused (wordCoordOf de.parent) group else decide (s.exposed ≤ de.parentDrum))

/-- The fault of a descriptor table: the first of 0x30, 0x32 and 0x63 (R121, R136, R127). -/
def State.descFault (s : State) (ldrum group : Nat) (l : List (Desc × Bool)) : Option Nat :=
  let v := (l.filter fun p => p.1.valid)
  let ds := v.map (·.1)
  if v.any (fun p => p.1.bad p.2) || anyPair ds (fun a b => a.rid == b.rid) then some 0x30
  else if anyPair ds (collide ldrum) then some 0x32
  else if ds.any (s.parentRefused group) then some 0x63
  else none

/-! ## Bucket tables (R249) -/

structure Bucket where
  ext : Nat
  addr : Nat
  rsv : Bool
  valid : Bool
deriving DecidableEq, Repr

def bucketOf (n : Nat) : Bucket := ⟨fld n 0 32, fld n 32 18, fld n 50 13 != 0, bit n 63⟩

def rising : List Nat → Bool
  | a :: b :: r => decide (a < b) && rising (b :: r)
  | _ => true

/-- The conditions of R249 on the eight entries. -/
def bucketsOk (l : List Bucket) : Bool :=
  let v := l.takeWhile (·.valid)
  !v.isEmpty && decide ((l.filter (·.valid)).length = v.length) && rising (v.map (·.ext)) && l.all fun b => !b.rsv

/-- Index and pattern address, in 16-byte units, of the first entry that holds E. -/
def pickBucket (e : Nat) (l : List Bucket) : Option (Nat × Nat) :=
  (l.zipIdx.find? fun p => p.1.valid && decide (e ≤ p.1.ext)).map fun p => (p.2, p.1.addr)

/-! ## Pattern load (R170) -/

/-- The drum loads its descriptor table and offers held nodes to it again (R128). -/
def State.loadDescs (s : State) (d : Nat) (l : List Desc) : State :=
  let cells := loop (fun e c => match l[e]? with
    | some de => if de.valid then putCell Desc.reset c e de else c
    | none => c) 16 []
  let s := s.modShell d fun h => { h with descs := cells, blocks := [], leaves := [] }
  let held := (s.drum d).pad.held
  let s := s.modPad d fun p => { p with held := [] }
  held.foldl (fun s k => match k.body with
    | .node prid level m n row0 flags vals => s.nodeArrives d k prid level m n row0 flags vals
    | _ => s) s

/-- The words that pattern load writes at the start of the region (R250). -/
def runWords (e k tile n : Nat) (t : TaskRec) : List Byte :=
  leBytes 8 (e + 2 ^ 32 * k) ++ leBytes 8 (tile % 2 ^ 32 + 2 ^ 32 * n) ++
    leBytes 8 (match t.stream with | some v => v.toNat + 2 ^ 16 | none => 0)

/-- Pattern load after the bucket has been picked: the run words, and the descriptor table before the pattern with its checks
(R120, R121, R250). -/
def State.loadTable (s : State) (d group : Nat) (seed : Dword) (tile n : Nat) (t : TaskRec) (e k a : Nat) : State :=
  let words := runWords e k tile n t
  let s := (s.access d [⟨0, words.length⟩]).modDrum d fun y => y.padPut 0 words
  let s := s.modDrum d fun y => { y with seq := { y.seq with pc := a, bucket := k }, shell := { y.shell with seed := seed } }
  let s := s.access d [⟨16 * a - 512, 512⟩]
  let y := s.drum d
  if y.readFails [⟨16 * a - 512, 512⟩] then (s.rereads d [⟨16 * a - 512, 512⟩]).drumFault d 0x62 else
  let ds := (List.range 16).map fun i =>
    let l := y.padBytes (16 * a - 512 + 32 * i) 32
    (descOf l, descRsvZero l)
  match s.descFault y.logical.toNat group ds with
  | some f => s.drumFault d f
  | none => s.loadDescs d (ds.map (·.1))

/-- The selection and the checks of pattern load on a drum whose sequencer holds the run. A word that fails its re-read is the
pad parity fault here too (R235). -/
def State.loadPattern (s : State) (d : Nat) (group : Nat) (seed : Dword) (tile n : Nat) (t : TaskRec) : State :=
  match t.body with
  | .drum _ btab e _ _ =>
    if (s.drum d).regionOk [⟨16 * btab, 64⟩] = false then s.drumFault d 0x02 else
    let s := s.access d [⟨16 * btab, 64⟩]
    let x := s.drum d
    if x.readFails [⟨16 * btab, 64⟩] then (s.rereads d [⟨16 * btab, 64⟩]).drumFault d 0x62 else
    let bs := (List.range 8).map fun k => bucketOf (x.padNat (16 * btab + 8 * k) 8)
    if bucketsOk bs = false then s.drumFault d 0x02 else
    match pickBucket e bs with
    | none => s.drumFault d 0x03
    | some (k, a) =>
      if a < 32 ∨ x.regionOk [⟨16 * a - 512, 512⟩] = false then s.drumFault d 0x02
      else s.loadTable d group seed tile n t e k a
  | _ => s

/-- The boundary at the start of a task of another job, or after another job has ended beside the one that runs (R244, log
11); a drum cleared since its last job ended needs none. -/
def State.boundary (s : State) (d : Nat) (j : Half) : State :=
  if (s.drum d).boundaryDue then s.modDrum d (·.clearBeside) else
  match (s.drum d).seq.lastJob with
  | some k => if k = j then s else s.modDrum d (·.clearBeside)
  | none => s

/-- The sequencer of drum d takes up run n of task i of job j with tile index `tile`, and loads the pattern. -/
def State.beginRun (s : State) (d : Nat) (j : Half) (i : Nat) (t : TaskRec) (tile n : Nat) : State :=
  let job := s.job? j
  let s := s.modDrum d fun x => { x with
    claim := none
    seq := { x.seq.stop with run := some ⟨j, i, n⟩, cls := t.cls, miss := t.miss, tile := tile, pc := 0, bucket := 0,
                             walkIm := 0, walkIn := 0, walkIk := 0, wrote := 0, lastJob := some j,
                             cache := if n = 0 then [] else x.seq.cache }
    tap := { x.tap with seq := if n = 0 then 0 else x.tap.seq, replay := none, serial := x.tap.loads + 1, loads := x.tap.loads + 1
                        tiles := [] }
    tuner := { x.tuner with shareOrd := if n = 0 then 0 else x.tuner.shareOrd } }
  s.loadPattern d ((job.map (·.group)).getD 0) ((job.map (·.score.seed)).getD 0) tile n t

/-! ## The end of a run -/

/-- Logical drum l has finished its share of a task (R256). -/
def State.finishShare (s : State) (d : Nat) (j : Half) (i : Nat) : State :=
  let l := (s.drum d).logical.toNat
  (s.modTask j i fun t => { t with finished := if t.finished.contains l then t.finished else l :: t.finished }).modDrum d
    fun x => { x with claim := none, seq := x.seq.stop }

/-- Address of a tile's byte in a ledger. -/
def ledgerByte (ledger tile : Nat) : Nat := ledger + tile / 8

/-- The work counter's read of the byte that a tile marks; its test-and-set is one access (R258). In a
reserved slot it leaves class 0 its channel (R312). -/
def State.ledgerRead (s : State) (ledger tile : Nat) : Fetched × State :=
  let a := ledgerByte ledger tile
  if s.heldAt a 1 || s.slotTaken (s.rangeChans a 1) then (.waits, s)
  else if s.backed a 1 = false ∨ s.inPads a 1 = true then (.error, s)
  else s.fetchDev .ledger a 1 false

/-- Tests and sets the tile's bit in its byte b. -/
def State.setLedger (s : State) (j : Half) (i : Nat) (ledger tile : Nat) (b : Byte) : State :=
  let m := BitVec.ofNat 8 (2 ^ (tile % 8))
  if b &&& m = 0 then (s.storeDev (ledgerByte ledger tile) [b ||| m] false).1
  else (s.modTask j i fun t => { t with dup := true }).modMet fun k => { k with dups := k.dups + 1 }

/-- What the ledger's byte gives a run that ends: an unbacked or pad address faults, and so does a byte that gives an error
(R271, log 62). -/
def State.markLedger (s : State) (j : Half) (i : Nat) (ledger tile : Nat) (f : Fetched) : State :=
  match f with
  | .data (b :: _) => s.setLedger j i ledger tile b
  | _ => (s.markFaulted j i).raiseJob 0x141 0x02 j none

/-- Rows of a mask, ORed. -/
def Shell.flagsOf (h : Shell) (rows : BitVec 256) : Word :=
  (List.range 256).foldl (fun f r => if rows.getLsbD r then f ||| h.tstatus r else f) 0#32

/-- A run ends: its flags, its counts and its tile's mark, then the next claim or the end of the share. -/
def State.finishRun (s : State) (d : Nat) (r : RunId) (f : Fetched) : State :=
  let x := s.drum d
  match s.task? r.job r.task with
  | none => s.modDrum d fun x => { x with seq := x.seq.stop }
  | some t =>
    let s := (s.bankRun d).modTask r.job r.task fun t =>
      { t with flags := t.flags ||| taskFlags (x.shell.flagsOf x.seq.wrote), ran := if t.ran.contains d then t.ran else d :: t.ran }
    let s := s.modDrum d (·.noteRun (jobGroup s r.job) s.beat r)
    let s := if t.trec.ledger ≠ 0 then s.markLedger r.job r.task t.trec.ledger x.seq.tile f else s
    -- a task that has faulted claims nothing further (R152)
    let open_ := ((s.task? r.job r.task).map (·.code.good)).getD false
    match t.trec.body with
    | .drum _ _ _ tiles _ =>
      if tiles = 0 || !open_ then s.finishShare d r.job r.task
      else s.modDrum d fun x => { x with claim := some ⟨r.job, r.task, r.n + 1, 0⟩, seq := x.seq.stop }
    | _ => s

/-- A run ends at END, once the byte of its ledger has been read; `t` is the state in which nothing holds the run back. -/
def State.endRun (s t : State) (d : Nat) (r : RunId) : State :=
  match s.task? r.job r.task with
  | some k =>
    if k.trec.ledger = 0 then t.finishRun d r .error else
    let q := t.ledgerRead k.trec.ledger (s.drum d).seq.tile
    match q.1 with
    -- the END's fence stays until LPDDR5 is READY or the lead has answered (R296, R306)
    | .waits => { s with pcie := q.2.pcie, fab := q.2.fab }
    | f => q.2.finishRun d r f
  | none => t.finishRun d r .error

end Sys2Proof.Machine
end

