-- ==== Sys2Proof/Machine/PadEngine.lean ====
section
/-! DEFINITION. Machine/PadEngine.lean: FILL, COPY, SEND, WAIT, FENCE and END (R159, R160, R228-R233). -/

namespace Sys2Proof.Machine

/-! ## Words -/

structure FillW where
  shell : Bool
  dst : Nat
  len : Nat
  value : Word
  rsv : Nat
deriving DecidableEq, Repr

def fillW (w : Quad) : FillW := ⟨wb w 119, wf w 118 101, wf w 100 82, BitVec.ofNat 32 (wf w 81 50), wf w 49 0⟩

structure CopyW where
  src : Nat
  dst : Nat
  len : Nat
  rows : Nat
  sstr : Nat
  dstr : Nat
  rsv : Nat
deriving DecidableEq, Repr

def copyW (w : Quad) : CopyW :=
  ⟨wf w 119 102, wf w 101 84, wf w 83 65, wf w 64 53 + 1, wf w 52 35, wf w 34 17, wf w 16 0⟩

structure SendW where
  src : Nat
  len : Nat
  dst : Nat
  mc : Bool
  ldrum : Nat
  remote : Bool
  coord : Coord
  tally : Nat
  mask : Nat
  rsv : Nat
deriving DecidableEq, Repr

def sendW (w : Quad) : SendW :=
  { src := wf w 119 102, len := wf w 101 83, dst := wf w 82 65, mc := wb w 64, ldrum := wf w 63 57, remote := wb w 56,
    coord := ⟨wf w 55 52, wf w 51 48, wf w 47 42⟩, tally := wf w 41 36, mask := wf w 35 18, rsv := wf w 17 0 }

structure WaitW where
  tally : Nat
  value : Word
  dec : Bool
  tmo : Nat
  rsv : Nat
deriving DecidableEq, Repr

def waitW (w : Quad) : WaitW := ⟨wf w 119 114, BitVec.ofNat 32 (wf w 113 82), wb w 81, wf w 80 65, wf w 64 0⟩

/-! ## FILL (R159) -/

def FillW.bad (q : FillW) : Bool :=
  decide (q.rsv ≠ 0) ||
  (if q.shell then decide (256 ≤ q.dst) || decide (512 ≤ q.len) || decide (256 < q.len) || decide (256 < q.dst + q.len)
   else decide (262144 < q.len))

def FillW.ranges (q : FillW) : List Range := if q.shell then [] else [⟨16 * q.dst, 16 * q.len⟩]

/-- Rows ROW0 to ROW0 + M - 1 take VALUE in every column; the status is zero but for INF or NAN of VALUE. -/
def Drum.fillShell (x : Drum) (q : FillW) : Drum :=
  ({ x with shell := loop (fun i h =>
      (h.putRow (q.dst + i) 0 (List.replicate 1024 q.value)).setStatus (q.dst + i) (valueFlag q.value)) q.len x.shell }).noteRows
    q.dst q.len

/-- Every aligned 4-byte word of the range takes VALUE. -/
def Drum.fillPad (x : Drum) (q : FillW) : Drum :=
  x.padPut (16 * q.dst) ((List.range (4 * q.len)).flatMap fun _ => leBytes 4 q.value.toNat)

/-- Shell rows that the FILL writes. -/
def FillW.rows (q : FillW) : BitVec 256 := if q.shell then rowMask q.dst q.len else 0

def State.startFill (s : State) (d : Nat) (j : UnitJob) : State :=
  let q := fillW j.w
  let f := s.regionFault d q.ranges
  if !f.isEmpty then s.unitFault d j.ord f
  else (s.reach d q.ranges).modDrum d fun x => if q.shell then x.fillShell q else x.fillPad q

/-! ## COPY (R228) -/

def CopyW.readRanges (q : CopyW) : List Range :=
  if q.len = 0 then [] else (List.range q.rows).map fun r => ⟨16 * (q.src + r * q.sstr), 16 * q.len⟩

def CopyW.writeRanges (q : CopyW) : List Range :=
  if q.len = 0 then [] else (List.range q.rows).map fun r => ⟨16 * (q.dst + r * q.dstr), 16 * q.len⟩

/-- Source and destination word of the i-th word of a copy. -/
def CopyW.word (q : CopyW) (i : Nat) : Nat × Nat := (q.src + i / q.len * q.sstr + i % q.len, q.dst + i / q.len * q.dstr + i % q.len)

/-- Set k of a copy: up to 64 words, read completely and then written. -/
def Drum.copySet (q : CopyW) (k : Nat) (x : Drum) : Drum :=
  let l := (List.range (min 64 (q.len * q.rows - 64 * k))).map fun i => q.word (64 * k + i)
  let base := x.abs 0 / 16
  let vals := l.map fun p => x.padBytes (16 * p.1) 16
  let x := (l.zip vals).foldl (fun x p => x.padPut (16 * p.1.2) p.2) x
  { x with pad := (x.pad.countSet (l.map fun p => base + p.1)).countSet (l.map fun p => base + p.2) }

def State.startCopy (s : State) (d : Nat) (j : UnitJob) : State :=
  let q := copyW j.w
  let f := s.regionFault d (q.readRanges ++ q.writeRanges)
  if !f.isEmpty then s.unitFault d j.ord f
  else (s.reach d q.readRanges).reading d j.ord q.readRanges fun s =>
    (s.reach d q.writeRanges).modDrum d fun x => loop (Drum.copySet q) (ceilDiv (q.len * q.rows) 64) x

/-! ## SEND (R229-R233) -/

def SendW.ranges (q : SendW) : List Range := ⟨16 * q.src, 16 * q.len⟩ :: (if q.mc then [⟨16 * q.mask, 16⟩] else [])

/-- The receivers of a SEND on this part: logical drums. -/
def SendW.receivers (q : SendW) (x : Drum) : List Nat :=
  if q.mc then maskDrums (BitVec.ofNat 128 (x.padNat (16 * q.mask) 16)) else [q.ldrum]

/-- A receiver that is not exposed, or a coordinate that R334 or R341 refuses (R233). -/
def SendW.target (q : SendW) (s : State) (x : Drum) (group : Nat) : Bool :=
  if q.remote then s.coordRefused q.coord group else (q.receivers x).any fun l => decide (s.exposed ≤ l)

/-- One SEND to one receiver leaves the station; its acknowledgement is awaited. -/
def State.sendOne (s : State) (d : Nat) (r : RunId) (serial l : Nat) (q : SendW) (data : List Byte) : State :=
  match s.holder l with
  | some p =>
    let id : SendId := ⟨d, serial, l⟩
    let s := s.modSeq d fun k => { k with outstanding := id :: k.outstanding }
    { s with noc := s.noc ++ [{ src := d, dst := p, job := some r.job, group := jobGroup s r.job, from_ := s.pcie.coord,
                                fromDrum := (s.drum d).logical.toNat, body := .send id (16 * q.dst) q.tally data }] }
  | none => s

def State.runSend (s : State) (d : Nat) (q : SendW) : State :=
  let x := s.drum d
  match x.seq.run with
  | none => s
  | some r =>
    let serial := x.seq.sendSerial
    let data := x.padBytes (16 * q.src) (16 * q.len)
    let s := s.modSeq d fun k => { k with sendSerial := serial + 1 }
    if q.remote then
      let s := s.modSeq d fun k => { k with outstanding := ⟨d, serial, 128 + q.ldrum⟩ :: k.outstanding }
      s.sendOut d (some r.job)
        { pkind := 1, group := jobGroup s r.job, dst := q.coord, src := s.pcie.coord, dstDrum := q.ldrum,
          srcDrum := x.logical.toNat, spec := leBytes 4 (16 * q.dst) ++ leBytes 1 q.tally ++ leBytes 4 serial, data := data }
    else (q.receivers x).foldl (fun s l => s.sendOne d r serial l q data) s

/-- The faults of a SEND's decode in run r and slot t, beside its encoding. -/
def SendW.faults (q : SendW) (s : State) (d : Nat) (r : RunId) (t : Slot) : List Nat :=
  let region := s.regionFault d q.ranges
  region ++ (if region.isEmpty && q.target s (s.drum d) (jobGroup s r.job) then [0x63] else []) ++
    (if t.tcnt ≤ q.tally then [0x64] else [])

def State.startSend (s : State) (d : Nat) (j : UnitJob) : State :=
  let q := sendW j.w
  match (s.drum d).seq.run, (s.drum d).slot with
  | some r, some t =>
    let f := q.faults s d r t
    if !f.isEmpty then s.unitFault d j.ord f else (s.reach d q.ranges).reading d j.ord q.ranges (·.runSend d q)
  | _, _ => s

/-! ## WAIT (R160, R232) -/

/-- The WAIT at the sequencer's position is issued: issue is held. -/
def waitRun (d : Nat) (w : Quad) (s s1 : State) : State :=
  let q := waitW w
  match (s1.drum d).slot with
  | none => s
  | some t =>
    let f := (if q.rsv ≠ 0 then [0x01] else []) ++ (if t.tcnt ≤ q.tally then [0x64] else [])
    let s := s1.took d 1 w
    if !f.isEmpty then s.drumFaults d f
    else s.modSeq d fun k => { k with waiting := some ⟨t.tbase + q.tally, q.value, q.dec, q.tmo, s.beat⟩ }

def Pad.tally (p : Pad) (t : Nat) : Word := getCell 0#32 p.tallies t
def Pad.setTally (p : Pad) (t : Nat) (v : Word) : Pad := { p with tallies := putCell 0#32 p.tallies t v }

/-- The counter has reached the VALUE of the WAIT, which completes; DEC subtracts it. -/
def State.waitDone (s : State) (d : Nat) : State :=
  let x := s.drum d
  match x.seq.waiting with
  | none => s
  | some q =>
    let c := x.pad.tally q.tally
    if q.value ≤ c then
      s.setDrum d { x with seq := { x.seq with waiting := none }
                           pad := if q.dec then x.pad.setTally q.tally (c - q.value) else x.pad }
    else s

/-- TMO us have passed since the issue of the WAIT (320 ac each), and the counter has not reached VALUE. -/
def State.waitLate (s : State) (d : Nat) : State :=
  let x := s.drum d
  match x.seq.waiting with
  | none => s
  | some q =>
    if q.tmo ≠ 0 ∧ x.pad.tally q.tally < q.value ∧ q.since.toNat + 320 * q.tmo ≤ s.beat.toNat then s.drumFault d 0x04
    else s

/-! ## FENCE and END (R160) -/

/-- The FENCE at the sequencer's position is issued: issue is held. -/
def fenceRun (d : Nat) (w : Quad) (_s s1 : State) : State :=
  let s := s1.took d 1 w
  if wf w 117 0 ≠ 0 ∨ wf w 119 118 = 0 then s.drumFaults d [0x01]
  else s.modSeq d fun k => { k with fencing := some ⟨wb w 119, wb w 118, false⟩ }

/-- Blocks of the drum that satisfy p. -/
def Shell.anyBlock (h : Shell) (p : Stack → Bool) : Bool := h.blocks.any fun b => p b.2

/-- A block that has begun and whose last leaf has not been struck. -/
def Stack.isOpen (b : Stack) : Bool := b.started && !b.ended

/-- Everything earlier instructions do on the drum has finished: the units' queues, skin work, rows of a ROLL, leaves and
carries, blocks that have ended, shared statistics. -/
def Drum.localDone (x : Drum) : Bool :=
  !x.skin.busy && x.queues.all.isEmpty && x.roll.cur.isNone && x.shell.leaves.isEmpty && x.tuner.cur.isNone &&
  x.tuner.share.isNone &&
  !x.shell.anyBlock fun b => b.started && b.ended && !b.done

def Drum.fenceDone (x : Drum) (f : Fencing) : Bool :=
  (!f.local_ || x.localDone) && (!f.remote || (x.queues.noc.isEmpty && x.seq.outstanding.isEmpty))

/-- The END at the sequencer's position is issued: the bell sequence fault of an open block that no strike on the skin will
end, else a full fence that ends the run. -/
def endRunOf (d : Nat) (w : Quad) (_s s1 : State) : State :=
  let s := s1.took d 1 w
  if wf w 119 0 ≠ 0 then s.drumFaults d [0x01]
  else if (s.drum d).skin.busy = false ∧ (s.drum d).shell.anyBlock Stack.isOpen = true then s.drumFault d 0x31
  else s.modSeq d fun k => { k with fencing := some ⟨true, true, true⟩ }

/-- What the FENCE or END waits for has finished; issue resumes, or the run ends. -/
def State.fenceDone (s : State) (d : Nat) : State :=
  let x := s.drum d
  match x.seq.fencing, x.seq.run with
  | some f, some r =>
    if x.fenceDone f = false ∨ x.seq.stopped = true ∨ x.preempting.isSome = true then s
    else if f.isEnd then
      let t := s.modSeq d fun k => { k with fencing := none }
      if x.shell.anyBlock Stack.isOpen then t.drumFault d 0x31 else s.endRun t d r
    else s.modSeq d fun k => { k with fencing := none }
  | _, _ => s

end Sys2Proof.Machine
end

