-- ==== Sys2Proof/Machine/TapPass.lean ====
section
/-! DEFINITION. Machine/TapPass.lean: the estimating TAP, its map, and the CHECK (R201-R217). -/

namespace Sys2Proof.Machine

/-! ## Ranking (R189, R205) -/

/-- Does value a at index i stand before value b at index j: larger first, NaN last, equal values by ascending index? -/
def ranksBefore (a b : Word) (i j : Nat) : Bool :=
  if (val a).isNan then (val b).isNan && decide (i < j)
  else if (val b).isNan then true
  else (val b).lt (val a) || (!(val a).lt (val b) && decide (i < j))

/-- Place of element i in its row. -/
def rankOf (l : List Word) (i : Nat) : Nat :=
  ((List.range l.length).filter fun j => ranksBefore ((l[j]?).getD 0#32) ((l[i]?).getD 0#32) j i).length

/-! ## The map (R206) -/

structure MapHdr where
  opened : Bool
  madeup : Bool
  sel : Nat
  rsv : Bool
  row0 : Nat
  m : Nat
  n : Nat
  thr : Half
  topk : Nat
  tapseq : Half
  serial : Word
  kept : Nat
  replay : Nat
  parts : Nat
deriving DecidableEq, Repr

def Drum.mapHdr (x : Drum) (mout : Nat) : MapHdr :=
  let at_ (o n : Nat) : Nat := x.padNat (mout + 2048 + o) n
  { opened := bit (at_ 0 1) 0, madeup := bit (at_ 0 1) 1, sel := fld (at_ 0 1) 2 2,
    rsv := decide (16 ≤ at_ 0 1) || decide (at_ 25 7 ≠ 0), row0 := at_ 1 1, m := at_ 2 2, n := at_ 4 2,
    thr := BitVec.ofNat 16 (at_ 6 2), topk := at_ 8 2, tapseq := BitVec.ofNat 16 (at_ 10 2), serial := toW (at_ 12 4),
    kept := at_ 16 4, replay := at_ 20 4, parts := at_ 24 1 }

def MapHdr.bytes (h : MapHdr) : List Byte :=
  leBytes 1 (h.opened.toNat + 2 * h.madeup.toNat + 4 * h.sel) ++ leBytes 1 h.row0 ++ leBytes 2 h.m ++ leBytes 2 h.n ++
  leBytes 2 h.thr.toNat ++ leBytes 2 h.topk ++ leBytes 2 h.tapseq.toNat ++ leBytes 4 h.serial.toNat ++ leBytes 4 h.kept ++
  leBytes 4 h.replay ++ leBytes 1 h.parts ++ List.replicate 7 0

/-- A(m) of R207. -/
def auditLane (seed : Dword) (ldrum tapseq row0 m : Nat) : Nat :=
  ((seed.toNat % 64 + 7 * ldrum + 13 * tapseq) % 64 + 41 * (row0 + m)) % 64

/-- The strike whose checks an estimating TAP passes (R201). -/
def TapW.step (q : TapW) : Step :=
  { m := q.m, n := q.n, k := q.k, row0 := q.row0, a := q.a, sgn := q.sgn, zp := q.zp, wfmt := q.wfmt, group := q.group,
    loadw := false, acc := 0, rd := 0, kto := 0, aTag := q.aTag, wTag := q.wTag, aOff := q.aAddr, wOff := 0, lmOff := 0,
    lmEn := false, src := 0, sstr := 0, wscl := none, ascl := none, im := 0, in_ := 0, ik := 0, lastStep := true, ord := 0,
    all := rowMask q.row0 q.m }

def halfFinite (h : Half) : Bool := (bfVal h).isFin

/-- THR and TOPK that break R205. -/
def TapW.badSelect (q : TapW) : Bool :=
  match q.sel with
  | 1 => q.thr != 0 || decide (q.topk = 0) || decide (1024 < q.topk)
  | _ => !halfFinite q.thr || decide (q.topk ≠ 0)

/-! ## The estimate (R202, R203) -/

/-- Twice T(m, n, s). -/
def tapSum2 (x : Drum) (t : Step) (planes : List Nat) (z n i : Nat) : Int :=
  let w := planesOf t.wfmt
  let top := if isPair t.wfmt then 7 else w - 1
  let pos (k : Nat) : Nat := if isPair t.wfmt then fld (cellAt x.skin.cells k (2 * n + 1)) 3 1
                             else fld (cellAt x.skin.cells k n) (w - 1) 1
  let sw : Int := if t.wfmt = 0 then 1 else -1
  (List.range (min t.g (t.k - i * t.g))).foldl (fun a j =>
    let k := i * t.g + j
    a + (activation t.sgn planes k - (if t.zp then (z : Int) else 0)) * (2 * sw * 2 ^ top * (pos k : Int) + 2 ^ top - 1)) 0

/-- Planes below a - 2 cleared. -/
def tapPlanes (a : Nat) (l : List Nat) : List Nat :=
  (List.range l.length).map fun i => if i + 2 < a then 0 else (l[i]?).getD 0

/-- Estimates row m into its shell row; the counters rise as for n_t planes against one (R209), so an empty plane has no slot,
and the settings of SKN_CTRL are those that stand written (log 25). -/
def Drum.tapRow (x : Drum) (t : Step) (cont : Bool) (m : Nat) : Drum :=
  let planes := tapPlanes t.a (x.rowPlanes t m)
  let zs := x.rowZps t m
  let row := t.row0 + m
  let h := x.shell
  let v (n i : Nat) : Word :=
    dequant (tapSum2 x t planes ((zs[i]?).getD 0) n i) (-1) (x.tuner.sw i n) (x.tuner.sa row i)
  let col (n : Nat) : Word :=
    (List.range (t.segs - (if cont then 0 else 1))).foldl (fun a j => fadd a (v n (j + if cont then 0 else 1)))
      (if cont then shellAt h row n else v n 0)
  let vals := (List.range t.n).map col
  let k := x.skin
  let occ := match k.tile with | some i => i.occ | none => 0
  let top := if isPair t.wfmt then 3 else planesOf t.wfmt - 1
  let a2 := min t.a 2
  let na := if k.askip then (planes.filter (· ≠ 0)).length else a2
  let o (l : Nat) : Nat := if k.wskip then (occ.getLsbD (4 * l + top)).toNat else 1
  let active := (List.range 64).filter fun l => laneActive t.wfmt t.n l
  let (fin, q, st) := rowTiming k active (fun l => max 1 (na * o l)) 0
  let sum (f : Nat → Nat) : Dword := BitVec.ofNat 64 (active.foldl (fun a l => a + f l) 0)
  let y := { x with skin := { k with fin := fin, qs := (q :: k.qs).take 4, fed := k.fed + 1, rows := k.rows + 1, final := q + 8, used := rowMask t.row0 t.m,
                                     pairs := k.pairs + sum fun l => na * o l,
                                     wskipped := k.wskipped + sum fun l => na * (1 - o l), stall := k.stall + BitVec.ofNat 64 st } }
  let adds := BitVec.ofNat 64 (t.segs - (if cont then 0 else 1))
  ({ y with shell := { (h.putRow row 0 vals).setStatus row (valuesFlag vals) with adds := h.adds + adds } }).noteRows row 1

/-- Outputs kept in a row of estimates (R205). -/
def keepRow (q : TapW) (l : List Word) : List Bool :=
  let thr := widen16 q.thr
  (List.range l.length).map fun n =>
    let w := (l[n]?).getD 0#32
    match q.sel with
    | 0 => (val thr).lt (val w)
    | 1 => decide (rankOf l n < q.topk)
    | _ => (val thr).lt (val w).abs

def boolBits (l : List Bool) : Nat := l.foldr (fun b n => b.toNat + 2 * n) 0

/-- The lane mask of R208. -/
def laneMask (f : BitVec 3) (n : Nat) (keep : List Bool) (audit : Nat) : Nat :=
  let kept (l : Nat) : Bool := (List.range n).any fun c => laneOf f c == l && (keep[c]?).getD false
  boolBits ((List.range 64).map fun l => kept l || (laneActive f n l && l == audit))

/-- A TAP past its checks; `pc` is its own offset. With K = 0 no segment exists: the rows stay as they are and are selected from
(log 65); with N = 0 nothing is written into a row, and its status is zero (R203). The count of TAPs wraps at 256 in PARTS (log 65). -/
def Drum.runTap (x : Drum) (q : TapW) (pc : Nat) : Drum :=
  let t := q.step
  let old := x.mapHdr q.mout
  let cont := old.opened && old.serial == x.tap.serial && old.row0 == q.row0 && old.m == q.m && old.n == q.n &&
    old.sel == q.sel && old.thr == q.thr && old.topk == q.topk
  let x := { x with skin := x.skin.restart x.skin.free }
  let x := if t.m = 0 ∨ t.k = 0 then x
    else if t.n = 0 then { x with shell := loop (fun m h => h.setStatus (t.row0 + m) 0#32) t.m x.shell }.noteRows t.row0 t.m
    else loop (fun m x => x.tapRow t cont m) q.m x
  let keeps := (List.range q.m).map fun m => keepRow q (x.shell.rowList (q.row0 + m) q.n)
  let seq := x.tap.seq
  let x := (List.range q.m).foldl (fun x m =>
    let keep := (keeps[m]?).getD []
    let mask := laneMask q.wfmt q.n keep (auditLane x.shell.seed x.logical.toNat seq.toNat q.row0 m)
    (x.padPut (q.mout + 8 * m) (leBytes 8 mask)).padPut (q.mout + 4096 + 128 * m) (leBytes 128 (boolBits keep))) x
  let kept := keeps.foldl (fun n l => n + (l.filter id).length) 0
  let h : MapHdr := { opened := true, madeup := false, sel := q.sel, rsv := false, row0 := q.row0, m := q.m, n := q.n,
                      thr := q.thr, topk := q.topk, tapseq := seq, serial := x.tap.serial, kept := kept, replay := pc + 1,
                      parts := if cont then old.parts + 1 else 1 }
  let x := x.padPut (q.mout + 2048) h.bytes
  let src := x.skin.tile.map (·.step)
  { x with tap := { x.tap with seq := seq + 1, tile := src, tiles := putCell none x.tap.tiles q.mout src } }

/-- Pad bytes of the map. -/
def TapW.mapRange (q : TapW) : Range := ⟨q.mout, 4096 + 128 * q.m⟩

/-- Pad bytes that a TAP reads: its rows and the map's header. -/
def TapW.reads (q : TapW) : List Range :=
  (if q.step.empty then [] else (List.range q.m).map fun m => ⟨q.aAddr + m * q.step.rowBytes, q.step.rowBytes⟩) ++
  [⟨q.mout + 2048, 32⟩]

/-- Pad bytes that a TAP reads or writes: its rows and its map. -/
def TapW.ranges (q : TapW) : List Range := q.reads ++ [q.mapRange]

/-- The faults of a TAP's decode on the tile, the scales and the region. -/
def TapW.faults (q : TapW) (s : State) (d : Nat) : List Nat :=
  let x := s.drum d
  (if q.step.badOperands || q.step.badTile x.skin then [0x10] else []) ++
  (if q.step.skew x then [0x20] else []) ++ (if q.badSelect then [0x50] else []) ++
  s.regionFault d q.ranges

/-- The TAP at the front of the skin's queue runs (R201-R208). -/
def State.startTap (s : State) (d : Nat) (j : SkinJob) : State :=
  let q := tapW j.u.w
  let f := q.faults s d
  let s := s.modDrum d (·.dropOrd j.u.ord)
  if !f.isEmpty then s.drumFaults d f
  else s.readWrite d j.u.ord q.reads [q.mapRange] (·.checked d j.u (!q.step.empty) (·.modDrum d (·.runTap q j.u.pc)))

/-! ## The CHECK (R211-R214) -/

/-- Fields that a CHECK does not use must be zero. -/
def TapW.badCheck (q : TapW) : Bool :=
  decide (q.k ≠ 0) || decide (q.a ≠ 1) || q.sgn || q.zp || q.wfmt != 0 || q.group != 0 || q.aTag != 0 || q.wTag != 0 ||
  decide (q.aAddr ≠ 0) || q.thr != 0 || decide (q.topk ≠ 0) || decide (256 < q.row0 + q.m)

/-- Does the range of a make-up replay hold what R214 forbids? Words from `pc` on, up to the CHECK at `stop`. -/
def replayBad (x : Drum) (stop : Nat) : Nat → Nat → Bool
  | 0, _ => false
  | n + 1, pc =>
    if stop ≤ pc then false
    else
      let w := BitVec.ofNat 128 (x.padNat (16 * pc) 16)
      let o := opcode w
      let t := tuneW w
      if o = 0x11 ∨ o = 0x50 ∨ o = 0x60 ∨ o = 0x7F then true
      else if o = 0x10 ∧ 2 ≤ (strikeW w).acc.toNat then true
      else if o = 0x20 ∧ (t.cal = true ∨ t.op = 3 ∨ t.op = 4 ∨ t.op = 7 ∨ t.op = 8) then true
      else replayBad x stop n (if o = 0x10 ∧ (strikeW w).ext = true then pc + 2 else pc + 1)

def Drum.badReplay (x : Drum) (h : MapHdr) (pc : Nat) : Bool :=
  decide (pc ≤ h.replay) || replayBad x pc (pc - h.replay) h.replay

/-- The keep bitmap of row m. -/
def Drum.keptAt (x : Drum) (mout m n : Nat) : Bool := bit (x.padNat (mout + 4096 + 128 * m) 128) n

/-- The largest excess a counter holds, in units of 2^-16 (R212). -/
def massOf (v : FV) : Nat :=
  match v with
  | .fin _ m e => let p := scaleFrac m 1 (e + 16); p.1 / p.2
  | _ => 2 ^ 64 - 1

/-- Misses and their mass in row m (R207, R212); the third component counts audited outputs. -/
def Drum.auditRow (x : Drum) (h : MapHdr) (f : BitVec 3) (mout row0 m : Nat) : Nat × Nat × Nat :=
  let vals := x.shell.rowList (row0 + m) h.n
  let kept (n : Nat) : Bool := x.keptAt mout m n
  let a := auditLane x.shell.seed x.logical.toNat h.tapseq.toNat h.row0 m
  let lane := (List.range h.n).filter fun n => laneOf f n == a
  let audited := if lane.any kept then [] else lane
  let thr := val (widen16 h.thr)
  let cut : FV := if h.sel = 1 then
      ((List.range h.n).filter kept).foldl (fun (c : FV) n =>
        let v := val ((vals[n]?).getD 0#32)
        if v.isNan then c else if v.lt c then v else c) (.inf false)
    else thr
  audited.foldl (fun (p : Nat × Nat × Nat) n =>
    let v := val ((vals[n]?).getD 0#32)
    let u := if h.sel = 2 then v.abs else v
    if cut.lt u then (p.1 + 1, p.2.1 + massOf (u.add cut.neg), p.2.2 + 1) else (p.1, p.2.1, p.2.2 + 1)) (0, 0, 0)

/-- The overwrite of R213 in row m. -/
def Drum.overwriteRow (x : Drum) (h : MapHdr) (mout row0 m : Nat) : Drum :=
  let fill := if h.sel = 1 then negInf32 else 0#32
  let g := (List.range h.n).foldl (fun (g : Shell) n => if x.keptAt mout m n then g else g.put (row0 + m) n fill) x.shell
  let vf := valuesFlag (g.rowList (row0 + m) 1024)
  ({ x with shell := g.setStatus (row0 + m) (replaceValueFlags (g.tstatus (row0 + m)) vf) }).noteRows (row0 + m) 1

def Drum.closeMap (x : Drum) (mout : Nat) (h : MapHdr) (madeup : Bool) : Drum :=
  x.padPut (mout + 2048) (leBytes 1 (2 * (h.madeup || madeup).toNat + 4 * h.sel))

/-- The load of the tile that the map's last TAP struck; where no TAP of the run has written the map, of the last TAP's
(log 18). -/
def Tap.mapTile (p : Tap) (mout : Nat) : Option Step :=
  match getCell none p.tiles mout with
  | some t => some t
  | none => p.tile

/-- The skin loads the tile again that a load brought, with the weight scales of that load (R165, R214). -/
def Drum.reload (x : Drum) (t : Step) : Drum × List Nat :=
  let (y, f1) := x.loadTile t
  match x.stepFile { t with loadw := true } with
  | some u => if f1.isEmpty then ({ y with tuner := u }, []) else (y, f1)
  | none => (x, f1 ++ [0x21])

/-- A CHECK past its checks (R212, R213). -/
def State.runCheck (s : State) (d : Nat) (q : TapW) (j : UnitJob) : State :=
  let x := s.drum d
  let h := x.mapHdr q.mout
  let tile := x.tap.mapTile q.mout
  let f := match tile with | some t => t.wfmt | none => 0
  let (miss, mass, aud) := (List.range q.m).foldl (fun (p : Nat × Nat × Nat) m =>
    let r := x.auditRow h f q.mout q.row0 m
    (p.1 + r.1, p.2.1 + r.2.1, p.2.2 + r.2.2)) (0, 0, 0)
  let s := s.modTap d fun t =>
    { t with kept := t.kept + BitVec.ofNat 64 h.kept, audited := t.audited + BitVec.ofNat 64 aud,
             misses := t.misses + BitVec.ofNat 64 miss, mass := BitVec.ofNat 64 (min (2 ^ 64 - 1) (t.mass.toNat + mass)) }
  let s := s.modSeq d fun k => { k with tapMisses := k.tapMisses + miss }
  if miss = 0 ∨ x.seq.miss = 0 then
    s.modDrum d fun x => (loop (fun m x => x.overwriteRow h q.mout q.row0 m) q.m x).closeMap q.mout h false
  else if x.seq.miss = 1 then
    let s := s.modTap d fun t => { t with replay := some q.mout, makeups := t.makeups + 1 }
    let s := s.modSeq d fun k => { k with pc := h.replay, madeup := true }
    match tile with
    | some t =>
      s.readWrite d j.ord ({ t with loadw := true, ascl := none }.loadReads (s.drum d)) [] fun s =>
        let (y, bad) := (s.drum d).reload t
        let s := s.setDrum d y
        if bad.isEmpty then s else s.unitFault d j.ord bad
    | none => s
  else s.unitFault d j.ord [0x52]

/-- The faults of a CHECK's decode at offset pc: the operands and, under MISS = make up, the replay's conditions (R214), then
the map (R211). -/
def TapW.checkFaults (q : TapW) (s : State) (d pc : Nat) : List Nat :=
  let x := s.drum d
  let h := x.mapHdr q.mout
  let region := s.regionFault d [q.mapRange]
  let map := !h.opened || h.serial != x.tap.serial || decide (q.m ≠ h.m) || decide (q.n ≠ h.n) || h.rsv
  (if q.badCheck || (region.isEmpty && decide (x.seq.miss = 1) && x.badReplay h pc) then [0x50] else []) ++
    (if region.isEmpty && map then [0x51] else []) ++ region

/-- The CHECK at the front of the skin's queue runs. -/
def State.startCheck (s : State) (d : Nat) (j : SkinJob) : State :=
  let q := tapW j.u.w
  let f := q.checkFaults s d j.u.pc
  let s := s.modDrum d (·.dropOrd j.u.ord)
  if !f.isEmpty then s.drumFaults d f
  else s.readWrite d j.u.ord [q.mapRange] [] (·.checked d j.u (decide (q.m ≠ 0 ∧ q.n ≠ 0)) (·.runCheck d q j.u))

/-- The replay has reached its CHECK, which closes the map without auditing again (R214). -/
def Drum.endReplay (x : Drum) (q : TapW) : Drum :=
  let y := x.closeMap q.mout (x.mapHdr q.mout) true
  { y with tap := { y.tap with replay := none }, seq := { y.seq with pc := y.seq.pc + 1 } }

end Sys2Proof.Machine
end

