-- ==== Sys2Proof/Machine/RollUnit.lean ====
section
/-! DEFINITION. Machine/RollUnit.lean: the functions of the roll unit (R175-R193). -/

namespace Sys2Proof.Machine

/-! ## Logical rows -/

def RollW.len (q : RollW) : Nat := q.span * q.n
/-- Shell row of segment j of logical row m (R158). -/
def RollW.rowAt (q : RollW) (m j : Nat) : Nat := q.row0 + m + j * q.rstride

/-- The elements of logical row m in order (R175). -/
def Drum.rollIn (x : Drum) (q : RollW) (m : Nat) : List Word :=
  (List.range q.span).flatMap fun j => x.shell.rowList (q.rowAt m j) q.n

def RollW.outStride (q : RollW) : Nat := ceilDiv (4 * q.len) 32 * 32

/-- Writes logical row m (R190) and counts the non-finite values. -/
def Drum.rollOut (x : Drum) (q : RollW) (m : Nat) (l : List Word) : Drum :=
  let bad := (l.filter fun w => !(val w).isFin).length
  let x := { x with roll := { x.roll with nonfin := x.roll.nonfin + BitVec.ofNat 64 bad } }
  if q.dsel then x.padPut (q.dst + m * q.outStride) (l.flatMap fun w => leBytes 4 w.toNat)
  else (List.range q.span).foldl (fun x j =>
    let part := (l.drop (j * q.n)).take q.n
    let r := q.rowAt m j
    ({ x with shell := (x.shell.putRow r 0 part).setStatus r (gainFlags (x.shell.tstatus r) (valuesFlag part)) }).noteRows r 1) x

def Drum.rollCount (x : Drum) (elems empty tails : Nat) : Drum :=
  { x with roll := { x.roll with elems := x.roll.elems + BitVec.ofNat 64 elems, empty := x.roll.empty + BitVec.ofNat 64 empty,
                                 tails := x.roll.tails + BitVec.ofNat 64 tails } }

/-! ## Lanes and folds -/

/-- The elements of lane j, ascending. -/
def laneElems {α : Type} (l : List α) (j : Nat) : List α := (List.range (ceilDiv (l.length - j) 64)).filterMap fun i => l[64 * i + j]?

/-- Folds a list of lanes pairwise, level by level. -/
def foldPairs {α : Type} (f : α → α → α) : List α → List α
  | a :: b :: r => f a b :: foldPairs f r
  | l => l

def foldLanes {α : Type} (f : α → α → α) : Nat → List α → List α
  | 0, l => l
  | n + 1, l => foldLanes f n (foldPairs f l)

/-- The sum of R181: per lane in ascending c, then six levels, each addition rounded. -/
def laneSum (l : List Word) : Word :=
  ((foldLanes fadd 6 ((List.range 64).map fun j => (laneElems l j).foldl fadd 0#32))[0]?).getD 0#32

/-! ## SOFTMAX (R179, R180) -/

def fmax (a b : Word) : Word := if (val a).lt (val b) then b else a

/-- One element of pass 1: the running maximum and sum of a lane. -/
def softStep (p : Word × Word) (y : Word) : Word × Word :=
  if (val p.1).lt (val y) then (y, fadd (fmul p.2 (fex (fsub p.1 y))) one32)
  else if y = negInf32 then p
  else (p.1, fadd p.2 (fex (fsub y p.1)))

def softFold (a b : Word × Word) : Word × Word :=
  let m := fmax a.1 b.1
  if m = negInf32 then (negInf32, 0#32)
  else (m, fadd (fmul a.2 (fex (fsub a.1 m))) (fmul b.2 (fex (fsub b.1 m))))

/-- The outputs of a row, and whether it was empty. -/
def softRow (scale : Word) (l : List Word) : List Word × Bool :=
  if l.any fun w => (val w).isNan || w == posInf32 then (l.map fun _ => nan32, false)
  else if l.all fun w => w == negInf32 then (l.map fun _ => 0#32, true)
  else
    let ys := l.map fun w => fmul w scale
    let lanes := (List.range 64).map fun j => (laneElems ys j).foldl softStep (negInf32, 0#32)
    let t := ((foldLanes softFold 6 lanes)[0]?).getD (negInf32, 0#32)
    let r := frecip t.2
    ((l.zip ys).map fun p => if p.1 = negInf32 then 0#32 else fmul (fex (fsub p.2 t.1)) r, false)

/-! ## Normalisation (R181) -/

structure NormW where
  aff : Bool
  bias : Bool
  perRow : Bool
deriving DecidableEq, Repr

def normW (a : Half) : NormW := ⟨a.getLsbD 0, a.getLsbD 1, a.getLsbD 2⟩

def Drum.gammaAt (x : Drum) (q : RollW) (m c : Nat) : Word :=
  let n := normW q.arg1
  if n.aff then widen16 (halfAt x (q.aux + (if n.perRow then 4 * q.len * m else 0) + 2 * c)) else one32

def Drum.betaAt (x : Drum) (q : RollW) (m c : Nat) : Word :=
  let n := normW q.arg1
  if n.bias then widen16 (halfAt x (q.aux + (if n.perRow then 4 * q.len * m else 0) + 2 * q.len + 2 * c)) else 0#32

def normRow (x : Drum) (q : RollW) (layer : Bool) (m : Nat) (l : List Word) : List Word × Bool :=
  let idx := List.range l.length
  if l.any fun w => !(val w).isFin then (l.map fun _ => nan32, false)
  else
    let mu := if layer then fdivNat (laneSum l) q.len else 0#32
    let sq := l.map fun w => if layer then let e := (val w).add (val mu).neg; rn (e.mul e) else fmul w w
    let v := fdivNat (laneSum sq) q.len
    let d := fadd v (widen16 q.arg0)
    if (val d).isZero then (idx.map fun c => x.betaAt q m c, true)
    else
      let r := frs d
      (idx.map fun c =>
        let w := (l[c]?).getD 0#32
        let g := x.gammaAt q m c
        let b := x.betaAt q m c
        if layer then ffma (val (fmul (fsub w mu) r)) (val g) (val b) else fadd (fmul (fmul w r) g) b, false)

/-! ## Activation tables (R182-R184) -/

structure ActTable where
  func : Nat
  deg : Nat
  nseg : Nat
  lo : Nat
  hi : Nat
  rsv : Bool
deriving DecidableEq, Repr

/-- The header of the table in its bytes. -/
def actTable (l : List Byte) : ActTable :=
  let b (i : Nat) : Nat := leNat (sub l i 1)
  { func := b 0, deg := b 1, nseg := b 2, lo := b 3 % 4, hi := fld (b 3) 2 2,
    rsv := decide (16 ≤ b 3) || decide (leNat (sub l 4 28) ≠ 0) }

def breakAt (l : List Byte) (i : Nat) : Word := toW (leNat (sub l (32 + 4 * i) 4))
def coefAt (l : List Byte) (i k : Nat) : Word := toW (leNat (sub l (320 + 32 * i + 4 * k) 4))

/-- The roll table fault of R183. -/
def actBad (l : List Byte) (func : Nat) : Bool :=
  let t := actTable l
  decide (t.func ≠ func) || decide (7 < t.deg) || decide (t.nseg = 0) || decide (64 < t.nseg) || t.lo == 3 || t.hi == 3 || t.rsv ||
  (List.range (t.nseg + 1)).any (fun i => !(val (breakAt l i)).isFin) ||
  (List.range t.nseg).any (fun i => !(val (breakAt l i)).lt (val (breakAt l (i + 1)))) ||
  (List.range t.nseg).any fun i => (List.range (t.deg + 1)).any fun k => !(val (coefAt l i k)).isFin

/-- The polynomial of segment i at w. -/
def actPoly (l : List Byte) (deg i : Nat) (w : Word) : Word :=
  let t := fsub w (breakAt l i)
  (List.range deg).foldl (fun p j => ffma (val p) (val t) (val (coefAt l i (deg - 1 - j)))) (coefAt l i deg)

/-- One element, and whether it fell to a tail (R184). -/
def actOne (l : List Byte) (t : ActTable) (w : Word) : Word × Bool :=
  if (val w).isNan then (nan32, false)
  else if (val w).lt (val (breakAt l 0)) then
    (if t.lo = 0 then 0#32 else if t.lo = 1 then w else actPoly l t.deg 0 w, true)
  else if (val w).lt (val (breakAt l t.nseg)) then
    let i := ((List.range t.nseg).filter fun i => !(val w).lt (val (breakAt l i))).length - 1
    (actPoly l t.deg i w, false)
  else (if t.hi = 0 then 0#32 else if t.hi = 1 then w else actPoly l t.deg (t.nseg - 1) w, true)

/-! ## Checks at decode (R153, R158, R177, R193) -/

def rollFuncs : List Nat := [0x01, 0x02, 0x10, 0x20, 0x21, 0x30, 0x31, 0x40, 0x50]

/-- The instruction fault: a reserved FUNC, bit or extent, or a segment row past 255. -/
def RollW.instrBad (q : RollW) : Bool :=
  !rollFuncs.contains q.func || decide (q.rsv ≠ 0) || decide (256 < q.m) || decide (1024 < q.n) ||
  (decide (q.m ≠ 0) && decide (256 < q.row0 + q.m + (q.span - 1) * q.rstride))

/-- Pairs that a ROPE rotates. -/
def RollW.pairs (q : RollW) : Nat := let r := fld q.arg1.toNat 1 11; if r = 0 then q.len / 2 else r

/-- The roll operand fault 0x40. -/
def RollW.operandBad (q : RollW) : Bool :=
  match q.func with
  | 0x02 => q.arg0.toNat % 4 == 3 && decide (4 ≤ q.arg0.toNat)
  | 0x10 => !((bfVal q.arg0).isFin && !(bfVal q.arg0).isNegative && !(bfVal q.arg0).isZero) || q.arg1 != 0
  | 0x20 | 0x21 => !(bfVal q.arg0).isFin || (bfVal q.arg0).isNegative || decide (8 ≤ q.arg1.toNat)
  | 0x30 | 0x31 => q.arg0 != 0 || q.arg1 != 0
  | 0x40 => decide (4096 ≤ q.arg1.toNat) || decide (q.len % 2 ≠ 0) || decide (q.len < 2 * fld q.arg1.toNat 1 11)
  | 0x50 => q.arg0 == 0 || decide (min q.len 1024 < q.arg0.toNat) || !q.dsel
  | _ => false

/-- Equal ranges for each of the M rows. -/
def RollW.perRow (q : RollW) (base stride len : Nat) : List Range := (List.range q.m).map fun m => ⟨base + m * stride, len⟩

/-- Pad bytes a ROLL writes. -/
def RollW.writeRanges (q : RollW) : List Range :=
  if q.m = 0 ∨ q.n = 0 then [] else
  if q.func = 0x50 then q.perRow q.dst (ceilDiv (8 * q.arg0.toNat) 32 * 32) (8 * q.arg0.toNat)
  else if q.dsel then q.perRow q.dst q.outStride (4 * q.len) else []

/-- Pad bytes a ROLL reads. -/
def RollW.readRanges (q : RollW) : List Range :=
  if q.m = 0 ∨ q.n = 0 then [] else
  let n := normW q.arg1
  match q.func with
  | 0x02 => if q.arg0.toNat % 4 = 3 then q.perRow q.aux (ceilDiv q.len 256 * 32) (ceilDiv q.len 8)
            else if q.arg0.toNat % 4 = 1 then [] else [⟨0, 8⟩]
  | 0x20 | 0x21 =>
    (if n.aff then (if n.perRow then q.perRow q.aux (4 * q.len) (2 * q.len) else [⟨q.aux, 2 * q.len⟩]) else []) ++
    (if n.bias then (if n.perRow then q.perRow (q.aux + 2 * q.len) (4 * q.len) (2 * q.len) else [⟨q.aux + 2 * q.len, 2 * q.len⟩])
     else [])
  | 0x30 | 0x31 => [⟨q.aux, 2368⟩]
  | 0x40 => q.perRow q.aux (32 * q.arg0.toNat) (4 * q.pairs)
  | _ => []

/-- Pad bytes a ROLL reads or writes. -/
def RollW.ranges (q : RollW) : List Range := q.writeRanges ++ q.readRanges

/-- The faults of a ROLL's decode beside its encoding. -/
def RollW.faults (q : RollW) (s : State) (d : Nat) : List Nat :=
  (if q.operandBad then [0x40] else []) ++ s.regionFault d q.ranges

/-- Pad bytes that logical row m of a ROLL writes. -/
def RollW.rowWrites (q : RollW) (m : Nat) : List Range :=
  if q.func = 0x50 then [⟨q.dst + m * (ceilDiv (8 * q.arg0.toNat) 32 * 32), 8 * q.arg0.toNat⟩]
  else if q.dsel then [⟨q.dst + m * q.outStride, 4 * q.len⟩] else []

/-- Pad bytes that logical row m of a ROLL reads; a GELU or SILU has read its table before its first row. -/
def RollW.rowReads (q : RollW) (m : Nat) : List Range :=
  let n := normW q.arg1
  match q.func with
  | 0x02 => if q.arg0.toNat % 4 = 3 then [⟨q.aux + m * (ceilDiv q.len 256 * 32), ceilDiv q.len 8⟩]
            else if q.arg0.toNat % 4 = 1 then [] else [⟨0, 8⟩]
  | 0x20 | 0x21 =>
    let base := q.aux + if n.perRow then 4 * q.len * m else 0
    (if n.aff then [⟨base, 2 * q.len⟩] else []) ++ if n.bias then [⟨base + 2 * q.len, 2 * q.len⟩] else []
  | 0x40 => [⟨q.aux + 32 * q.arg0.toNat * m, 4 * q.pairs⟩]
  | _ => []

/-- Pad bytes that a ROLL reads before its first row: the table of a GELU or SILU. -/
def RollW.tableReads (q : RollW) : List Range := if q.func = 0x30 ∨ q.func = 0x31 then q.readRanges else []

/-! ## Shell rows -/

/-- Shell rows of logical row m. -/
def RollW.rowsOf (q : RollW) (m : Nat) : BitVec 256 := (List.range q.span).foldl (fun r j => r ||| rowMask (q.rowAt m j) 1) 0

/-- Shell rows of the logical rows from m on. -/
def RollW.rowsFrom (q : RollW) (m : Nat) : BitVec 256 :=
  if q.n = 0 then 0 else (List.range q.span).foldl (fun r j => r ||| rowMask (q.rowAt m j) (q.m - m)) 0

/-- Shell rows that a ROLL writes. -/
def RollW.rowsWritten (q : RollW) : BitVec 256 := if q.dsel then 0 else q.rowsFrom 0

/-! ## Rows of the functions -/

/-- Is element c of row m masked (R188)? -/
def Drum.masked (x : Drum) (q : RollW) (m c : Nat) : Bool :=
  let mode := q.arg0.toNat % 4
  let kp := 64 * q.arg1.toNat + c
  let qp := 64 * (q.arg0.toNat / 4) + m
  let e := x.padNat 0 4
  match mode with
  | 0 => decide (e ≤ kp)
  | 1 => decide (qp < kp)
  | 2 => decide (e ≤ kp ∨ qp < kp)
  | _ => !bit (x.padNat (q.aux + m * (ceilDiv q.len 256 * 32) + c / 8) 1) (c % 8)

/-- cos and sin of pair i of row m (R186). -/
def Drum.ropeEntry (x : Drum) (q : RollW) (m i : Nat) : Half × Half :=
  let o := q.aux + 32 * q.arg0.toNat * m + 4 * i
  (halfAt x o, halfAt x (o + 2))

/-- The rotated row; none where a table entry is not finite. -/
def Drum.ropeRow (x : Drum) (q : RollW) (m : Nat) (l : List Word) : Option (List Word) :=
  let n := q.pairs
  if (List.range n).all fun i => halfFinite (x.ropeEntry q m i).1 && halfFinite (x.ropeEntry q m i).2 then
    some ((List.range n).foldl (fun r i =>
      let a := if q.arg1.getLsbD 0 then i else 2 * i
      let b := if q.arg1.getLsbD 0 then i + n else 2 * i + 1
      let x0 := val ((l[a]?).getD 0#32)
      let x1 := val ((l[b]?).getD 0#32)
      let c := bfVal (x.ropeEntry q m i).1
      let z := bfVal (x.ropeEntry q m i).2
      (r.set a (rn ((x0.mul c).add (x1.mul z).neg))).set b (rn ((x0.mul z).add (x1.mul c)))) l)
  else none

/-- The k entries of a row (R189). -/
def topEntries (k vbase : Nat) (l : List Word) : List Byte :=
  (List.range k).flatMap fun r => match (List.range l.length).find? fun i => rankOf l i == r with
    | some i => leBytes 4 ((l[i]?).getD 0#32).toNat ++ leBytes 4 (1024 * vbase + i)
    | none => []

/-- TOPK of row m (R189). -/
def Drum.topRow (x : Drum) (q : RollW) (m : Nat) (l : List Word) : Drum :=
  let k := q.arg0.toNat
  let top := (List.range l.length).filter fun i => decide (rankOf l i < k)
  let bad := (top.filter fun i => !(val ((l[i]?).getD 0#32)).isFin).length
  let x := x.padPut (q.dst + m * (ceilDiv (8 * k) 32 * 32)) (topEntries k q.arg1.toNat l)
  ({ x with roll := { x.roll with nonfin := x.roll.nonfin + BitVec.ofNat 64 bad } }).rollCount q.len 0 0

/-- What a function of one row gives: the outputs, the passes that R192 counts, empty rows and tail elements; none where a
rotary entry is not finite (R179-R188). -/
def Drum.rollFun (x : Drum) (q : RollW) (m : Nat) (l : List Word) : Option (List Word × Nat × Nat × Nat) :=
  match q.func with
  | 0x01 => some (l.map fun w => ffma (val w) (bfVal q.arg0) (bfVal q.arg1), 1, 0, 0)
  | 0x02 => some ((List.range l.length).map fun c => if x.masked q m c then negInf32 else (l[c]?).getD 0#32, 1, 0, 0)
  | 0x10 => let r := softRow (widen16 q.arg0) l; some (r.1, 2, r.2.toNat, 0)
  | 0x20 => let r := normRow x q false m l; some (r.1, 2, r.2.toNat, 0)
  | 0x21 => let r := normRow x q true m l; some (r.1, 3, r.2.toNat, 0)
  | 0x30 | 0x31 =>
    let r := l.map fun w => actOne x.roll.table (actTable x.roll.table) w
    some (r.map (·.1), 1, 0, (r.filter (·.2)).length)
  | 0x40 => (x.ropeRow q m l).map fun r => (r, 1, 0, 0)
  | _ => none

/-- Logical row m. -/
def Drum.rollRow (x : Drum) (q : RollW) (m : Nat) : Option Drum :=
  let l := x.rollIn q m
  if q.func = 0x50 then some (x.topRow q m l)
  else (x.rollFun q m l).map fun r => (x.rollOut q m r.1).rollCount (r.2.1 * q.len) r.2.2.1 r.2.2.2

/-! ## The unit at work -/

/-- The roll unit takes up the ROLL of a job: its decode, the table of a GELU or SILU read and checked whole (R183), and its
rows from the first on. Its sets are counted here, and each row reaches its banks when it is done. It reads shell rows, which carry parity (R357). With M = 0 or N = 0 there is no row, and it reads no
table (log 65). -/
def State.startRoll (s : State) (d : Nat) (j : UnitJob) : State :=
  let q := rollW j.w
  let f := q.faults s d
  if !f.isEmpty then s.unitFault d j.ord f
  else
    ((s.access d q.readRanges).access d q.writeRanges).reading d j.ord q.tableReads fun s =>
    let s := s.modRoll d fun r => { r with func := BitVec.ofNat 8 q.func, row := 0 }
    if q.m = 0 ∨ q.n = 0 then s.modRoll d fun r => { r with row := q.m }
    else s.checked d j true fun s =>
      if q.func = 0x30 ∨ q.func = 0x31 then
        let l := (s.drum d).padBytes q.aux 2368
        if actBad l q.func then s.unitFault d j.ord [0x41] else s.modRoll d fun r => { r with cur := some j, table := l }
      else s.modRoll d fun r => { r with cur := some j, table := [] }

/-- The ROLL in progress does its next logical row, with its accesses to the pad; a rotary entry that is not finite ends it,
and the rows before it stand (R186, R191). The row that meets it counts no element (log 65). -/
def State.nextRollRow (s : State) (d : Nat) (j : UnitJob) : State :=
  let q := rollW j.w
  let m := (s.drum d).roll.row
  s.rowAccess d j.ord (q.rowReads m) (q.rowWrites m) fun s =>
  let x := s.drum d
  match x.rollRow q x.roll.row with
  | some y => s.setDrum d { y with roll := { y.roll with row := y.roll.row + 1
                                                         cur := if y.roll.row + 1 = q.m then none else y.roll.cur } }
  | none => s.unitFault d j.ord [0x41]

end Sys2Proof.Machine
end

