-- ==== Sys2Proof/Machine/Tune.lean ====
section
/-! DEFINITION. Machine/Tune.lean: the TUNE operations (R89-R113, R436, R437). -/

namespace Sys2Proof.Machine

/-! ## Operands -/

def rndOf (away : Bool) : Rnd := if away then .away else .even

/-- Byte offset of row m. -/
def rowOff (base lay : Nat) (f : TFmt) (zp : Bool) (stride m : Nat) : Nat := base + m * rowStride lay f zp stride

/-- The FP32 word of a wide or FP8 code; exact (R76). -/
def toF32 (f : Fmt) (code : Nat) : Word := if f = fp32 then toW code else toW (fp32.round .even (f.read code))

/-- Row m of a wide source as FP32 words: shell columns or pad elements. -/
def Drum.wideRow (x : Drum) (q : TuneW) (f : TFmt) (m : Nat) : List Word :=
  if q.ssrc then x.shell.rowList (q.srcRow + m) q.n
  else
    let l := x.padBytes (rowOff q.src q.slay f false q.sstride m) (rowBytes q.slay f false q.n)
    match f.float? with
    | some u => (List.range q.n).map fun k => toF32 u (codeAt q.slay f l k)
    | none => []

def TuneW.groups (q : TuneW) : Nat := ceilDiv q.n (groupSize q.group)

/-! ## One element narrowed (R92-R94) -/

/-- A code, whether it saturated, whether the input was non-finite. -/
structure Coded where
  code : Nat
  sat : Bool
  nonfin : Bool
deriving DecidableEq, Repr

/-- round(x / s) as an integer. -/
def quotient (r : Rnd) (neg : Bool) (m : Nat) (e : Int) (s : Half) : Int :=
  let a := scaleMag s
  let p := scaleFrac m a.1 (e - a.2)
  sgn neg (roundFrac r false p.1 p.2)

def intRange (f : TFmt) (sg : Bool) : Int × Int :=
  match f with
  | .ternary => (-1, 1)
  | .int b => if sg then (-(2 ^ (b - 1) : Nat), (2 ^ (b - 1) : Nat) - 1) else (0, (2 ^ b : Nat) - 1)
  | _ => (0, 255)

def maskCode (b : Nat) (v : Int) : Nat := (v % ((2 ^ b : Nat) : Int)).toNat

/-- One element. A zero point beyond 2^b - 1, which a block's byte or INIT_ZP may hold, is cut to b bits where it is the code
itself (log 60). -/
def narrowOne (f : TFmt) (sg zp : Bool) (r : Rnd) (s : Half) (z : Nat) (w : Word) : Coded :=
  let zero := (scaleMag s).1 == 0
  match f with
  | .fp8a | .fp8b =>
    let u := if f = .fp8a then e4m3 else e5m2
    match val w with
    | .nan => ⟨u.nanCode, false, true⟩
    | .inf a => match u.infCode with
      | some c => ⟨u.sign a + c, false, true⟩
      | none => ⟨u.sign a + u.maxCode, true, true⟩
    | .fin a m e =>
      if zero then ⟨0, false, false⟩ else
      let k := u.roundMag r false m (scaleMag s).1 (e - (scaleMag s).2)
      ⟨u.packClamp a k, decide (u.maxCode < k), false⟩
  | .root8 =>
    match val w with
    | .nan => ⟨0, false, true⟩
    | .inf a => ⟨if a then 0 else 255, true, true⟩
    | .fin a m e =>
      if a && m != 0 then ⟨0, true, false⟩
      else if zero then ⟨0, false, false⟩
      else
        let c := scaleMag s
        let p := scaleFrac m (c.1 * c.1) (e - 2 * c.2)
        let k := roundFrac r true p.1 p.2
        ⟨min k 255, decide (255 < k), false⟩
  | _ =>
    let rg := intRange f sg
    let z0 : Int := if zp then z else 0
    match val w with
    | .nan => ⟨maskCode f.bits z0, false, true⟩
    | .inf a => ⟨maskCode f.bits (if a then rg.1 else rg.2), true, true⟩
    | .fin a m e =>
      if zero then ⟨maskCode f.bits z0, false, false⟩
      else
        let k := quotient r a m e s + z0
        ⟨maskCode f.bits (max rg.1 (min rg.2 k)), decide (k < rg.1 ∨ rg.2 < k), false⟩

/-! ## One element widened or converted (R95) -/

/-- An exact value rounded once to a wide or FP8 format: a finite result past the range becomes the largest one. -/
def roundTo (u : Fmt) (r : Rnd) (v : FV) : Coded :=
  match v with
  | .nan => ⟨u.nanCode, false, true⟩
  | .inf a => match u.infCode with
    | some c => ⟨u.sign a + c, false, true⟩
    | none => ⟨u.sign a + u.maxCode, true, true⟩
  | .fin a m e =>
    let k := u.roundMag r false m 1 e
    ⟨u.packClamp a k, decide (u.maxCode < k), false⟩

/-- The exact value of a narrow code under a scale and a zero point. A negative code keeps its sign under a zero scale, which
gives -0 (log 60). -/
def widenValue (f : TFmt) (sg : Bool) (s : Half) (z : Nat) (c : Nat) : FV :=
  let a := scaleMag s
  match f with
  | .fp8a | .fp8b =>
    match (if f = .fp8a then e4m3 else e5m2).read c with
    | .inf n => if a.1 = 0 then .nan else .inf n
    | .nan => .nan
    | .fin n m e => .fin n (m * a.1) (e + a.2)
  | .root8 => .fin false (c * c * a.1 * a.1) (2 * a.2)
  | _ =>
    let k := codeVal f sg c - z
    .fin (decide (k < 0)) (k.natAbs * a.1) a.2

/-! ## Counting and folding (R102, R112) -/

def Seen.add (c : Seen) (l : List Coded) : Seen :=
  { sat := c.sat + (l.filter (·.sat)).length, nonfin := c.nonfin + (l.filter (·.nonfin)).length,
    fin := c.fin + (l.filter fun k => !k.nonfin).length, elems := c.elems + l.length }

def Seen.zero : Seen := ⟨0, 0, 0, 0⟩

def Tuner.count (t : Tuner) (c : Seen) : Tuner :=
  { t with sat := t.sat + BitVec.ofNat 64 c.sat, nonfin := t.nonfin + BitVec.ofNat 64 c.nonfin,
           elems := t.elems + BitVec.ofNat 64 c.elems }

def Drum.counted (x : Drum) (l : List Coded) : Drum := { x with tuner := x.tuner.count (Seen.zero.add l) }

/-- Does a conversion fold into its record (R102)? -/
def Drum.folds (x : Drum) (q : TuneW) : Bool := x.tuner.calEn && (x.tuner.recAt q.qid).classOk x.seq.cls

/-- Folds rows of values and counts into record QID when CAL asks for it and the conversion folds. -/
def Drum.foldRows (x : Drum) (q : TuneW) (folds : Bool) (rows : List (List Word)) (c : Seen) : Drum :=
  if q.cal && folds then
    let r := x.tuner.recAt q.qid
    { x with tuner := x.tuner.setRec q.qid ((r.joinAll (groupBounds (groupSize q.group) q.n rows)).addCounts c.sat c.fin) }
  else x

/-! ## NARROW (R92, R96-R98) -/

/-- The scales and zero points that all rows of a NARROW share, per group, under SMODE 0 and 1 (R97). -/
def Drum.sharedScales (x : Drum) (q : TuneW) (f : TFmt) : List (Half × Nat) :=
  let k := x.tuner.recAt q.qid
  match q.smode with
  | 0 => (List.range q.groups).map fun s => k.delayed f s (rndOf q.away)
  | 1 => (List.range q.groups).map fun s => k.currentScale f s (rndOf q.away)
  | _ => []

/-- Scale and zero point of group s for row m, `fit` being those that the rows share; none where SMODE 3 meets an illegal scale.
A group of SMODE 2 without a finite element has free ones (log 2, log 60). -/
def Drum.narrowScale (x : Drum) (q : TuneW) (f : TFmt) (fit : List (Half × Nat)) (row : List Word) (m s : Nat) : Option (Half × Nat) :=
  let r := rndOf q.away
  match q.smode with
  | 0 | 1 => some ((fit[s]?).getD (0#16, 0))
  | 2 =>
    let p := foldList ((row.drop (s * groupSize q.group)).take (groupSize q.group))
    if emptyGroup p.1 p.2 then some (freeScale p.1 p.2, fld (Config.nanFit p.1 p.2).toNat 16 8 % 2 ^ f.bits)
    else some (fitScale f q.sgn q.zp p.1 p.2 0 r)
  | _ =>
    let h := ((x.blockRow q.scl m)[s]?).getD 0#16
    if scaleLegal h then some (plainScale h, if q.zp then x.blockZp q.scl m s else 0) else none

/-- A NARROW as it runs row by row: the drum, the rows' scales and zero points, the values, the counts, and whether it
has faulted. -/
structure NarrowRun where
  drum : Drum
  fit : List (Half × Nat)
  scales : List (List Half × List Nat)
  rows : List (List Word)
  seen : Seen
  bad : Bool

/-- Row m; its counts rise with it, so that a CNT_CLR between two rows takes those before it (R110). Under SMODE 3 the scales of the groups below ⌈N/g⌉ are checked, those beyond are not read (log 60). -/
def narrowRow (q : TuneW) (sf df : TFmt) (m : Nat) (k : NarrowRun) : NarrowRun :=
  if k.bad then k else
  let x := k.drum
  let row := x.wideRow q sf m
  let g := groupSize q.group
  let ss := (List.range q.groups).map fun s => x.narrowScale q df k.fit row m s
  if ss.any Option.isNone then { k with bad := true } else
  let ss := ss.map fun o => o.getD (0#16, 0)
  let codes := (List.range q.n).map fun n =>
    let p := (ss[n / g]?).getD (0#16, 0)
    narrowOne df q.sgn q.zp (rndOf q.away) p.1 p.2 ((row[n]?).getD 0#32)
  let scales := ss.map (·.1)
  let zs := ss.map (·.2)
  { drum := (x.counted codes).padPut (rowOff q.dst q.dlay df q.zp q.dstride m)
      (rowOut q.dlay df q.zp (codes.map (·.code)) scales zs)
    fit := k.fit, scales := k.scales ++ [(scales, zs)], rows := k.rows ++ [row], seen := k.seen.add codes, bad := false }

/-- A row scale block header (R84). -/
def rowHdr (tag : BitVec 6) (group : BitVec 2) (zp : Bool) (count : Nat) : List Byte :=
  leBytes 1 (tag.toNat + 64) ++ leBytes 1 (group.toNat + 4 * zp.toNat) ++ leBytes 2 count ++ List.replicate 12 0

/-- 32 scales as bytes, zero past the list. -/
def scaleBytes (l : List Half) : List Byte := padTo 64 (l.flatMap fun h => leBytes 2 h.toNat)

/-- The header of the scale block that a conversion reads does not fit it (R85). -/
def TuneW.hdrBad (q : TuneW) (x : Drum) : Bool :=
  let h := x.sclHdr q.scl
  !h.ok || decide (h.kind ≠ 1) || decide (h.count < q.m) || h.group != q.group || h.zp != q.zp

/-- The end of a NARROW. The rows before a scale that faults are written and counted (R112, log 60), and nothing is folded
(R102). -/
def State.endNarrow (s : State) (d : Nat) (q : TuneW) (j : UnitJob) (folds : Bool) (k : NarrowRun) : State :=
  if k.bad then (s.setDrum d k.drum).unitFault d j.ord [0x21]
  else
    let y := k.drum.foldRows q folds (if q.smode = 1 then [] else k.rows) k.seen
    let y := if q.rsb then { y with tuner := (List.range q.m).foldl (fun (t : Tuner) m =>
        t.putRow (q.drow0 + m) (((k.scales[m]?).getD ([], [])).1) q.tag q.group) y.tuner } else y
    let y := if q.sclOut then y.padPut q.scl (rowHdr q.tag q.group q.zp q.m ++ k.scales.flatMap fun p =>
        scaleBytes p.1 ++ (if q.zp then padTo 32 (p.2.map fun z => BitVec.ofNat 8 z) else [])) else y
    s.setDrum d y

/-- NARROW: every row, then its end. -/
def State.runNarrow (s : State) (d : Nat) (q : TuneW) (sf df : TFmt) (j : UnitJob) : State :=
  if q.smode = 3 ∧ q.hdrBad (s.drum d) = true then s.unitFault d j.ord [0x21]
  else s.endNarrow d q j ((s.drum d).folds q) ((List.range q.m).foldl (fun k m => narrowRow q sf df m k)
    ⟨s.drum d, (s.drum d).sharedScales q df, [], [], Seen.zero, false⟩)

/-! ## WIDEN, CONVERT (R94, R95) -/

structure WideRun where
  drum : Drum
  rows : List (List Word)
  seen : Seen
  bad : Bool

/-- Row m; the scales of the groups below ⌈N/g⌉ are checked (log 60). -/
def widenRow (q : TuneW) (sf df : TFmt) (u : Fmt) (m : Nat) (k : WideRun) : WideRun :=
  if k.bad then k else
  let x := k.drum
  let g := groupSize q.group
  let l := x.padBytes (rowOff q.src q.slay sf q.zp q.sstride m) (rowBytes q.slay sf q.zp q.n)
  let rs := decide (q.slay = 3)
  let blk := if rs then [] else x.blockRow q.scl m
  let ss := (List.range q.groups).map fun s => if rs then rowScaleAt sf l q.n s else (blk[s]?).getD 0#16
  if !(ss.all scaleLegal) then { k with bad := true } else
  let zs := (List.range q.groups).map fun s =>
    if q.zp then (if rs then rowZpAt q.slay sf l q.n s else x.blockZp q.scl m s) else 0
  let codes := (List.range q.n).map fun n =>
    roundTo u (rndOf q.away) (widenValue sf q.sgn (plainScale ((ss[n / g]?).getD 0#16)) ((zs[n / g]?).getD 0) (codeAt q.slay sf l n))
  -- a code that is finite counts as a finite input even where the scale makes nothing of it
  let codes := (codes.zip (List.range q.n)).map fun p => { p.1 with nonfin := match sf.float? with
    | some v => !(v.read (codeAt q.slay sf l p.2)).isFin
    | none => false }
  { drum := (x.counted codes).padPut (rowOff q.dst q.dlay df false q.dstride m)
      (rowOut q.dlay df false (codes.map (·.code)) [] [])
    rows := k.rows ++ [codes.map fun c => toF32 u c.code], seen := k.seen.add codes, bad := false }

/-- WIDEN; a scale that faults ends it as in NARROW. -/
def State.runWiden (s : State) (d : Nat) (q : TuneW) (sf df : TFmt) (j : UnitJob) : State :=
  let x := s.drum d
  if q.slay ≠ 3 ∧ q.hdrBad x = true then s.unitFault d j.ord [0x21]
  else
    let k := (List.range q.m).foldl (fun k m => widenRow q sf df ((df.float?).getD fp32) m k) ⟨x, [], Seen.zero, false⟩
    if k.bad then (s.setDrum d k.drum).unitFault d j.ord [0x21] else s.setDrum d (k.drum.foldRows q (x.folds q) k.rows k.seen)

def convertRow (q : TuneW) (sf df : TFmt) (u : Fmt) (m : Nat) (k : WideRun) : WideRun :=
  let x := k.drum
  let row := x.wideRow q sf m
  let codes := row.map fun w => roundTo u (rndOf q.away) (val w)
  -- a ROWSCALED destination has scales that CONVERT does not form: free values (log 2)
  let sc := if q.dlay = 3 then List.replicate 32 (freeScale negInf32 posInf32) else []
  { drum := (x.counted codes).padPut (rowOff q.dst q.dlay df false q.dstride m)
      (rowOut q.dlay df false (codes.map (·.code)) sc [])
    rows := k.rows ++ [row], seen := k.seen.add codes, bad := false }

def State.endConvert (s : State) (d : Nat) (q : TuneW) (folds : Bool) (k : WideRun) : State :=
  s.setDrum d (k.drum.foldRows q folds k.rows k.seen)

def State.runConvert (s : State) (d : Nat) (q : TuneW) (sf df : TFmt) : State :=
  s.endConvert d q ((s.drum d).folds q) ((List.range q.m).foldl (fun k m => convertRow q sf df ((df.float?).getD fp32) m k)
    ⟨s.drum d, [], Seen.zero, false⟩)

/-! ## Checks at decode (R90, R154) -/

def drumSet (s : State) (r : RunId) : Nat :=
  match s.task? r.job r.task with
  | some t => match t.trec.body with
    | .drum set .. => (maskDrums set).length
    | _ => 0
  | none => 0

/-- Conditions on a format and its layout. -/
def placeBad (lay : Nat) (f : Option TFmt) : Bool :=
  match f with
  | some v => !layoutOk lay v
  | none => true

def isWide (f : Option TFmt) : Bool := match f with | some v => v.wide | none => false
def isNarrow (f : Option TFmt) : Bool := match f with | some v => !v.wide | none => false
def isFloat (f : Option TFmt) : Bool := match f with | some v => v.float?.isSome | none => false
def signBad (f : Option TFmt) (sg zp : Bool) : Bool := match f with | some v => !signOk v sg zp | none => true

/-- The source operands of NARROW, CONVERT and AMAX. -/
def TuneW.srcBad (q : TuneW) : Bool :=
  if q.ssrc then decide (q.sfmt ≠ 0xE) || decide (256 < q.srcRow + q.m) else placeBad q.slay (tfmt q.sfmt)

/-- CAL = 1, AMAX and CLOSE: the record must be the job's, and of the TUNE's GROUP where it folds. -/
def TuneW.recBad (q : TuneW) (x : Drum) (r : RunId) (group : Bool) : Bool :=
  let k := x.tuner.recAt q.qid
  !k.validFor r.job || (group && k.group != q.group)

/-- The tune operand fault of R90. -/
def TuneW.bad (q : TuneW) (s : State) (x : Drum) (r : RunId) : Bool :=
  let sf := tfmt q.sfmt
  let df := tfmt q.dfmt
  let size := decide (256 < q.m) || decide (1024 < q.n)
  let k := x.tuner.recAt q.qid
  match q.op with
  | 0 => size || q.group == 3 || q.srcBad || !isWide sf || !isNarrow df || signBad df q.sgn q.zp || placeBad q.dlay df ||
      (q.rsb && decide (256 < q.drow0 + q.m)) ||
      (decide (q.smode < 2) && (q.recBad x r true || decide (k.fmt ≠ q.dfmt) || k.sgn != q.sgn || k.zp != q.zp)) ||
      (q.smode == 1 && k.groupsFilled.isEmpty) || (q.cal && q.recBad x r true)
  | 1 => size || q.group == 3 || q.ssrc || !isNarrow sf || !isWide df || signBad sf q.sgn q.zp || placeBad q.slay sf ||
      placeBad q.dlay df || (q.cal && q.recBad x r true)
  | 2 => size || q.srcBad || !isFloat sf || !isFloat df || q.sgn || q.zp || placeBad q.dlay df ||
      (q.cal && (q.group == 3 || q.recBad x r true))
  | 3 => size || q.group == 3 || q.srcBad || !isWide sf || q.recBad x r true || (q.share && decide (drumSet s r = 1))
  | 4 => q.recBad x r false || (q.share && decide (drumSet s r = 1))
  | 5 => false
  | 6 => decide (256 < q.m) || q.group == 3 || decide (256 < q.drow0 + q.m)
  | 7 => false
  | 8 => q.ssrc || (k.valid && k.owner != some r.job)
  | _ => true

/-- Rows of a pad operand. -/
def rowRanges (base lay : Nat) (f : Option TFmt) (zp : Bool) (stride m n : Nat) : List Range :=
  match f with
  | some v => if n = 0 then [] else (List.range m).map fun i => ⟨rowOff base lay v zp stride i, rowBytes lay v zp n⟩
  | none => []

/-- Pad bytes a TUNE reads. -/
def TuneW.readRanges (q : TuneW) (x : Drum) : List Range :=
  let sf := tfmt q.sfmt
  let none_ := decide (q.m = 0 ∨ q.n = 0)
  let src := if q.ssrc then [] else rowRanges q.src q.slay sf false q.sstride q.m q.n
  let blk : List Range := [⟨q.scl, 16 + (x.sclHdr q.scl).rowBytes * q.m⟩]
  match q.op with
  | 0 => if none_ then [] else src ++ if q.smode = 3 then blk else []
  | 1 => if none_ then [] else rowRanges q.src q.slay sf q.zp q.sstride q.m q.n ++ if q.slay = 3 then [] else blk
  | 2 | 3 => if none_ then [] else src
  | 5 => let h := x.sclHdr q.scl; [⟨q.scl, if h.ok then h.bytes else 16⟩]
  | 8 => [⟨q.src, 2368⟩]
  | _ => []

/-- Pad bytes a TUNE writes. -/
def TuneW.writeRanges (q : TuneW) : List Range :=
  let df := tfmt q.dfmt
  let none_ := decide (q.m = 0 ∨ q.n = 0)
  match q.op with
  | 0 => if none_ then [] else rowRanges q.dst q.dlay df q.zp q.dstride q.m q.n ++
      if q.sclOut then [⟨q.scl, 16 + (64 + 32 * q.zp.toNat) * q.m⟩] else []
  | 1 | 2 => if none_ then [] else rowRanges q.dst q.dlay df false q.dstride q.m q.n
  | 6 => if q.m = 0 then [] else [⟨q.scl, 16 + (64 + 32 * q.zp.toNat) * q.m⟩]
  | 7 => [⟨q.dst, 2368⟩]
  | _ => []

/-- Pad bytes a TUNE reads or writes (R154). -/
def TuneW.ranges (q : TuneW) (x : Drum) : List Range := q.readRanges x ++ q.writeRanges

/-- The faults of a TUNE's decode beside its encoding. -/
def TuneW.faults (q : TuneW) (s : State) (d : Nat) (r : RunId) : List Nat :=
  let x := s.drum d
  (if q.bad s x r then [0x22] else []) ++ s.regionFault d (q.ranges x)

/-! ## Shell rows and scales that a TUNE uses (R88, R91, R141) -/

/-- Shell rows a TUNE reads. -/
def TuneW.rowsRead (q : TuneW) : BitVec 256 :=
  if q.ssrc && (q.op == 0 || q.op == 2 || q.op == 3) && decide (q.m ≠ 0 ∧ q.n ≠ 0) then rowMask q.srcRow q.m else 0

/-- Shell rows that a TUNE reads from its row m on, and its row m alone. -/
def TuneW.rowsFrom (q : TuneW) (m : Nat) : BitVec 256 := if q.rowsRead = 0 then 0 else rowMask (q.srcRow + m) (q.m - m)
def TuneW.rowOf (q : TuneW) (m : Nat) : BitVec 256 := rowMask (q.srcRow + m) 1

/-- Does the TUNE write the scale register file? -/
def TuneW.writesFile (q : TuneW) (x : Drum) : Bool := q.op == 5 && (x.sclHdr q.scl).kind == 0

/-- Rows of the row scale buffer that the TUNE writes. -/
def TuneW.scaleRows (q : TuneW) (x : Drum) : BitVec 256 :=
  if q.op = 5 then (let h := x.sclHdr q.scl; if h.kind = 0 then 0 else rowMask q.drow0 h.count)
  else if q.op = 0 ∧ q.rsb = true ∧ q.m ≠ 0 ∧ q.n ≠ 0 then rowMask q.drow0 q.m
  else 0

/-- Does a TUNE of rows read an array under parity: shell rows, or a quantiser record (R357)? -/
def TuneW.reads (q : TuneW) : Bool := q.ssrc || q.cal || (q.op == 0 && decide (q.smode < 2)) || q.op == 3

/-! ## AMAX and CLOSE, shared or not (R102-R104) -/

def QRec.allHi (q : QRec) : List Word := (List.range 32).map q.hi
def QRec.allLo (q : QRec) : List Word := (List.range 32).map q.lo

/-- Offers the statistics of record k to the drum set. -/
def State.offer (s : State) (d : Nat) (r : RunId) (q : TuneW) (j : UnitJob) (close folds : Bool) (k : QRec) : State :=
  let x := s.drum d
  let e : ShareEntry := { job := r.job, task := r.task, ord := x.tuner.shareOrd, close := close, drum := x.logical.toNat,
                          his := k.allHi, los := k.allLo, sat := k.sat, count := k.count, faulted := false }
  (s.modMet fun m => { m with shares := m.shares ++ [e] }).modTuner d fun t =>
    { t with share := some ⟨close, q.qid, t.shareOrd, j, folds⟩, shareOrd := t.shareOrd + 1 }

/-- AMAX: the rows' bounds into the record where it folds, then the reduction when SHARE = 1. A drum that does not fold
offers its record without its rows (log 60). -/
def State.endAmax (s : State) (d : Nat) (q : TuneW) (r : RunId) (j : UnitJob) (folds : Bool) (rows : List (List Word)) : State :=
  let x := s.drum d
  let k := x.tuner.recAt q.qid
  let k := if folds then k.joinAll (groupBounds (groupSize q.group) q.n rows) else k
  let s := if folds then s.modTuner d fun t => t.setRec q.qid k else s
  if q.share then s.offer d r q j false folds k else s

def State.runAmax (s : State) (d : Nat) (q : TuneW) (r : RunId) (sf : TFmt) (j : UnitJob) : State :=
  s.endAmax d q r j ((s.drum d).folds q) ((List.range q.m).map fun m => (s.drum d).wideRow q sf m)

/-- CLOSE: the reduction when the TUNE or the record asks for it and the set has more drums than one, then the close. -/
def State.runClose (s : State) (d : Nat) (q : TuneW) (r : RunId) (j : UnitJob) : State :=
  let k := (s.drum d).tuner.recAt q.qid
  if (q.share || k.shares) && decide (1 < drumSet s r) then s.offer d r q j true true k
  else s.modTuner d fun t => t.setRec q.qid k.closeStep

/-- Joins the bounds that the drums of a set offered. -/
def joinBounds (l : List ShareEntry) : List (Word × Word) :=
  (List.range 32).map fun i => l.foldl (fun (p : Word × Word) e =>
    (boundMax p.1 ((e.his[i]?).getD negInf32), boundMin p.2 ((e.los[i]?).getD posInf32))) (negInf32, posInf32)

/-- The record with the statistics that the set holds after the reduction. -/
def QRec.reduced (k : QRec) (l : List ShareEntry) : QRec :=
  (k.clearCurrent.joinAll (joinBounds l)).addCounts (l.foldl (fun n e => n + e.sat) 0) (l.foldl (fun n e => n + e.count) 0)

/-- The reduced statistics reach drum d once every drum of the set has offered its own: every drum then holds them (R104). -/
def State.takeReduction (s : State) (d : Nat) (par : Bool) : State :=
  let x := s.drum d
  match x.tuner.share, x.seq.run with
  | some w, some r =>
    let es := s.met.shares.filter fun e => e.job == r.job && e.task == r.task && e.ord == w.ord && e.close == w.close
    if es.length = drumSet s r then
      let k := (x.tuner.recAt w.qid).reduced es
      let s := s.modTuner d fun t => { t with share := none }
      if par then s.modTuner d fun t => t.setRec w.qid (if w.close then k.closeStep else k)
      else s.unitFault d w.u.ord [0x72]
    else s
  | _, _ => s

/-! ## Scale blocks and record images (R98, R99, R437) -/

/-- LDSCALE: a scale block into the scale register file or the row scale buffer (R98). -/
def State.runLdscale (s : State) (d : Nat) (q : TuneW) (j : UnitJob) : State :=
  let x := s.drum d
  let h := x.sclHdr q.scl
  let u := if h.kind = 0 then x.readFile q.scl
           else if q.drow0 + h.count ≤ 256 then x.readRows q.scl q.drow0 h.count else none
  match u with
  | some t => s.modTuner d fun _ => t
  | none => s.unitFault d j.ord [0x21]

/-- STSCALE: row scale buffer rows as a row scale block (R437). -/
def Drum.runStscale (x : Drum) (q : TuneW) : Drum :=
  x.padPut q.scl (rowHdr q.tag q.group q.zp q.m ++ (List.range q.m).flatMap fun m =>
    let row := q.drow0 + m
    scaleBytes (if (x.tuner.rowTag row).valid then (List.range 32).map (x.tuner.sa row) else []) ++
      (if q.zp then List.replicate 32 0 else []))

/-- QSAVE: a record's image to the pad, zeros for a record that is not the job's (R437). -/
def Drum.runQsave (x : Drum) (q : TuneW) (r : RunId) : Drum :=
  let k := x.tuner.recAt q.qid
  x.padPut q.dst (if k.validFor r.job then getBytes k.img 0 2368 else List.replicate 2368 0)

/-- QLOAD: a record's image from the pad, checked; the job becomes its owner (R99, R245). -/
def State.runQload (s : State) (d : Nat) (q : TuneW) (r : RunId) (j : UnitJob) : State :=
  let k : QRec := ⟨putBytes [] 0 ((s.drum d).padBytes q.src 2368), some r.job⟩
  if k.loadFaults.isEmpty then s.modTuner d fun t => t.setRec q.qid k else s.unitFault d j.ord k.loadFaults

/-! ## The tuner runs a TUNE -/

/-- A TUNE past its checks. -/
def State.runTune (s : State) (d : Nat) (q : TuneW) (r : RunId) (j : UnitJob) : State :=
  let none_ := decide (q.m = 0 ∨ q.n = 0)
  match q.op, tfmt q.sfmt, tfmt q.dfmt with
  | 0, some sf, some df => if none_ then s else s.checked d j q.reads (·.runNarrow d q sf df j)
  | 1, some sf, some df => if none_ then s else s.checked d j q.cal (·.runWiden d q sf df j)
  | 2, some sf, some df => if none_ then s else s.checked d j q.reads (·.runConvert d q sf df)
  | 3, some sf, _ => if none_ then s else s.checked d j q.reads (·.runAmax d q r sf j)
  | 4, _, _ => s.checked d j true (·.runClose d q r j)
  | 5, _, _ => s.runLdscale d q j
  | 6, _, _ => if q.m = 0 then s else s.checked d j true (·.modDrum d (·.runStscale q))
  | 7, _, _ => s.checked d j ((s.drum d).tuner.recAt q.qid).valid (·.modDrum d (·.runQsave q r))
  | 8, _, _ => s.runQload d q r j
  | _, _, _ => s

/-- A TUNE reads its shell rows one by one from the STRIKE before it (R167). -/
def UnitJob.rowWise (j : UnitJob) : Bool := j.fused && (tuneW j.w).rowsRead != 0

/-- A row-wise TUNE past its checks begins: the scales that its rows share, and CAL_EN as it stands, hold for all of them
(R97, R110). -/
def State.beginTune (s : State) (d : Nat) (j : UnitJob) : State :=
  let q := tuneW j.w
  if q.op = 0 ∧ q.smode = 3 ∧ q.hdrBad (s.drum d) = true then s.unitFault d j.ord [0x21]
  else
    let x := s.drum d
    let fit := match q.op, tfmt q.dfmt with
      | 0, some df => x.sharedScales q df
      | _, _ => []
    s.modTuner d fun t => { t with cur := some ⟨j, 0, fit, x.folds q, [], [], Seen.zero⟩ }

/-- Pad bytes that row m of a TUNE of shell rows reads and writes. -/
def TuneW.rowReads (q : TuneW) (x : Drum) (m : Nat) : List Range :=
  if q.op = 0 ∧ q.smode = 3 then [⟨q.scl + 16 + (x.sclHdr q.scl).rowBytes * m, (x.sclHdr q.scl).rowBytes⟩] else []

def TuneW.rowWrites (q : TuneW) (m : Nat) : List Range :=
  match q.op, tfmt q.dfmt with
  | 0, some df => [⟨rowOff q.dst q.dlay df q.zp q.dstride m, rowBytes q.dlay df q.zp q.n⟩]
  | 2, some df => [⟨rowOff q.dst q.dlay df false q.dstride m, rowBytes q.dlay df false q.n⟩]
  | _, _ => []

/-- The tuner converts the next row of a row-wise TUNE; after the last one, or a scale that faults, the TUNE ends. -/
def State.tuneRow (s : State) (d : Nat) (c : TuneRun) : State :=
  let q := tuneW c.job.w
  let last := decide (q.m ≤ c.row + 1)
  let s := s.modTuner d fun t => { t with cur := none }
  let keep (x : Drum) (scales : List (List Half × List Nat)) (rows : List (List Word)) (seen : Seen) : Drum :=
    { x with tuner := { x.tuner with cur := some { c with row := c.row + 1, scales := scales, rows := rows, seen := seen } } }
  match q.op, tfmt q.sfmt, tfmt q.dfmt, (s.drum d).seq.run with
  | 0, some sf, some df, _ =>
    let k := narrowRow q sf df c.row ⟨s.drum d, c.fit, c.scales, c.rows, c.seen, false⟩
    if k.bad || last then s.endNarrow d q c.job c.folds k else s.setDrum d (keep k.drum k.scales k.rows k.seen)
  | 2, some sf, some df, _ =>
    let k := convertRow q sf df ((df.float?).getD fp32) c.row ⟨s.drum d, c.rows, c.seen, false⟩
    if last then s.endConvert d q c.folds k else s.setDrum d (keep k.drum [] k.rows k.seen)
  | 3, some sf, _, some r =>
    let rows := c.rows ++ [(s.drum d).wideRow q sf c.row]
    if last then s.endAmax d q r c.job c.folds rows else s.modDrum d fun x => keep x [] rows c.seen
  | _, _, _, _ => s

/-- The tuner takes the next row of a row-wise TUNE, with its accesses to the pad. -/
def State.nextTuneRow (s : State) (d : Nat) (c : TuneRun) : State :=
  let q := tuneW c.job.w
  s.rowAccess d c.job.ord (q.rowReads (s.drum d) c.row) (q.rowWrites c.row) (·.tuneRow d c)

/-- The tuner takes up the TUNE of a job: its decode, then its effect, or its first row. -/
def State.startTune (s : State) (d : Nat) (j : UnitJob) : State :=
  match (s.drum d).seq.run with
  | none => s
  | some r =>
    let q := tuneW j.w
    let f := q.faults s d r
    if !f.isEmpty then s.unitFault d j.ord f
    else s.readWrite d j.ord (q.readRanges (s.drum d)) q.writeRanges fun s =>
      if j.rowWise then s.checked d j q.reads (·.beginTune d j) else s.runTune d q r j

end Sys2Proof.Machine
end

