-- ==== Sys2Proof/Machine/Pads.lean ====
section
/-! DEFINITION. Machine/Pads.lean: what happens at a pad: the end of the shell clearing, arrivals and acknowledgements,
parity re-reads, bank gating (R229-R239). -/

namespace Sys2Proof.Machine

/-! ## Slots (R227, R239) -/

/-- A job's slot leaves BOUND: DAMP when it keeps a residency, else PURGE; its tallies are zeroed (R232, R253). -/
def Slot.release (t : Slot) : Slot :=
  { t with ending := false,
           state := if t.key ≠ 0 ∧ t.base < t.resv ∧ t.purgeMark = false then .damp else .purge }

def Pad.zeroTallies (p : Pad) (t : Slot) : Pad := { p with tallies := zeroRange p.tallies t.tbase (t.tbase + t.tcnt) }

/-- Every slot whose job has ended enters DAMP or PURGE. -/
def Pad.releaseEnded (p : Pad) : Pad :=
  let p := p.slots.foldl (fun p t => if t.ending then p.zeroTallies t else p) p
  { p with slots := p.slots.map fun t => if t.ending then t.release else t }

/-- SHELL_CLEAR_DONE: the clearing of R116 ends; a change of the drum map that waited for the slots applies (R368). -/
def execShellClearDone (d : Nat) (s : State) : Host.Outcome State Fault Refusal :=
  onDrum d s fun s => (s.modDrum d fun x =>
    { x with shell := { x.shell with clearing := false }, pad := x.pad.releaseEnded }).applyMap

/-! ## Arrivals (R229, R230, R237, R239) -/

/-- The acknowledgement or the refusal of a SEND goes back to its sender, over the base die to another part (R26). -/
def State.acknowledge (s : State) (d : Nat) (k : Packet) (id : SendId) (ok : Bool) : State :=
  if k.from_ = s.pcie.coord then
    { s with noc := s.noc ++ [{ src := d, dst := id.drum, job := k.job, group := k.group, from_ := s.pcie.coord,
                                fromDrum := (s.drum d).logical.toNat, body := .ack id ok }] }
  else s.sendOut d k.job (s.ackPk { k with dst := d } id.serial ok)

/-- Increments a tally counter; one that would pass 2^32 - 1 stays there and faults (R232). -/
def State.bumpTally (s : State) (d t : Nat) (job : Option Half) : State :=
  let c := (s.drum d).pad.tally t
  if c = 0xFFFFFFFF then s.arrivalFault d 0x64 job else s.modPad d fun p => p.setTally t (c + 1)

/-- Does a slot take a SEND of LEN bytes at DST with this TALLY? -/
def Slot.accepts (t : Slot) (dst tally n : Nat) : Bool := t.holds ⟨dst, n⟩ && decide (dst + n ≤ t.bytes) && decide (tally < t.tcnt)

/-- An accepted SEND: its bytes, the tally, the acknowledgement. -/
def State.landSend (s : State) (d : Nat) (k : Packet) (t : Slot) (id : SendId) (dst tally : Nat) (data : List Byte) : State :=
  let s := s.modPad d fun p => (p.reach s.beat (t.start + dst) data.length).put (t.start + dst) data
  (s.bumpTally d (t.tbase + tally) k.job).acknowledge d k id true

/-- Banks that a packet's bytes fall in and that are not awake. -/
def Pad.asleep (p : Pad) (a n : Nat) : Bool :=
  if p.banks.isEmpty || n = 0 then false else
  let hit := (List.range (min 128 ((a + n - 1) / 16 - a / 16 + 1))).map fun i => bankOf (a + 16 * i)
  p.banks.any fun b => decide (b.2 ≠ .awake) && hit.contains b.1

/-- The slot of the sender's job on the receiver, in whatever state (the job number stays in DAMP, PURGE and HELD). -/
def Pad.jobSlot (p : Pad) (j : Option Half) (st : SlotState → Bool) : Option Slot :=
  p.slots.find? fun t => some t.job == j && st t.state

/-- A SEND at its receiver: discarded and acknowledged, refused, held for a wake, or written. -/
def State.takeSend (s : State) (d : Nat) (k : Packet) (id : SendId) (dst tally : Nat) (data : List Byte) : State :=
  let p := (s.drum d).pad
  match p.jobSlot k.job (· == .bound) with
  | some t =>
    if t.accepts dst tally data.length then
      if p.asleep (t.start + dst) data.length then
        s.modPad d fun p =>
          let p := p.reach s.beat (t.start + dst) data.length
          { p with eject := p.eject ++ [k], latewr := p.latewr + 1 }
      else s.landSend d k t id dst tally data
    else s.acknowledge d k id false
  | none =>
    match p.jobSlot k.job (fun st => st == .damp || st == .purge) with
    | some _ => (s.modPad d fun p => { p with discards := p.discards + 1 }).acknowledge d k id true
    | none => s.acknowledge d k id false

/-- SEND_ARRIVAL: the earliest packet on its way from src to d, a SEND, arrives; at the base die it goes on over a link. -/
def execSendArrival (d src : Nat) (net : NocVerdict) (s : State) : Host.Outcome State Fault Refusal :=
  onStation d s fun s => s.deliver d src Packet.isSend net fun _ k s =>
    match k.body with
    | .send id dst tally data => s.takeSend d k id dst tally data
    | .link p => s.sendPk p false
    | _ => s

/-! ## Acknowledgements (R229, R230, R233, R127) -/

/-- Does the acknowledgement name this identifier? A remote one carries the serial alone. -/
def SendId.answers (a id : SendId) : Bool := a.serial == id.serial && (a.receiver == id.receiver)

/-- The sender takes an acknowledgement out of its list; a refusal raises the send target fault in the run that sent. A run
that stands in the save area takes it there. -/
def State.takeAck (s : State) (d : Nat) (id : SendId) (ok : Bool) : State :=
  let x := s.drum d
  if x.seq.outstanding.any (SendId.answers id) then
    let s := s.modSeq d fun k => { k with outstanding := k.outstanding.filter fun i => !SendId.answers id i }
    if ok then s else s.drumFault d 0x63
  else
    match x.saved with
    | some v =>
      if v.seq.outstanding.any (SendId.answers id) then
        let q := { v.seq with outstanding := v.seq.outstanding.filter fun i => !SendId.answers id i, stopped := v.seq.stopped || !ok }
        let s := s.setDrum d { x with saved := some { v with seq := q } }
        match ok, v.seq.run with
        | false, some r => (s.markFaulted r.job r.task).raiseJob d 0x63 r.job (some r)
        | _, _ => s
      else s
    | none => s

/-- SEND_ACK_ARRIVAL: the earliest packet on its way from src to d, an acknowledgement or a refusal, arrives. -/
def execSendAckArrival (d src : Nat) (net : NocVerdict) (s : State) : Host.Outcome State Fault Refusal :=
  onStation d s fun s => s.deliver d src Packet.isAck net fun _ k s =>
    match k.body with
    | .ack id ok => s.takeAck d id ok
    | .nodeRefusal => s.arrivalFault d 0x63 k.job
    | .link p => s.sendPk p false
    | _ => s

/-! ## Parity (R235) -/

/-- The rows of the activation image that a step has not fed yet. -/
def Drum.rowsToFeed (x : Drum) (t : Step) : Range :=
  ⟨t.aOff + x.skin.nextRow * t.rowBytes, (t.m - x.skin.nextRow) * t.rowBytes⟩

/-- The instruction at work on the skin that still reads an absolute byte offset: the order of its strike. -/
def Drum.skinReader (x : Drum) (a : Nat) : Option Nat :=
  let meets (r : Range) : Bool := decide (r.len ≠ 0 ∧ x.abs r.off < a + 16 ∧ a < x.abs r.off + r.len)
  match x.skin.load, x.skin.cur with
  | some t, _ => if (t.ranges x).any meets then some t.ord else none
  | none, some t => if meets (x.rowsToFeed t) then some t.ord else none
  | none, none => none

/-- The ROLL or row-wise TUNE in progress that still reads an absolute byte offset. -/
def Drum.rowReader (x : Drum) (a : Nat) : Option Nat :=
  let meets (r : Range) : Bool := decide (r.len ≠ 0 ∧ x.abs r.off < a + 16 ∧ a < x.abs r.off + r.len)
  let roll := x.roll.cur.bind fun j =>
    let q := rollW j.w
    if (List.range (q.m - x.roll.row)).any fun i => (q.rowReads (x.roll.row + i)).any meets then some j.ord else none
  let tune := x.tuner.cur.bind fun c =>
    let q := tuneW c.job.w
    if (List.range (q.m - c.row)).any fun i => (q.rowReads x (c.row + i)).any meets then some c.job.ord else none
  roll.orElse fun _ => tune

/-- The reader of a word that fails its re-read ends: a strike, a ROLL or a TUNE at work that still reads it, else the instruction
that the sequencer runs, none of which has taken effect; a reader outside the drum gets an error, and the drum's fault names
no job (log 23). -/
def State.parityFault (s : State) (d word : Nat) (outside : Bool) : State :=
  let x := s.drum d
  if outside then s.raise d 0x62
  else match x.skinReader (16 * word), x.rowReader (16 * word) with
    | some o, _ => s.strikeLost d o 0x62
    | none, some o => s.unitFault d o [0x62]
    | none, none => s.drumFault d 0x62

/-- PAD_REREAD: word `word` failed parity and is read again, for the drum or for a stick or DMA engine. A second failure is
the pad parity fault, and the word fails every read until it is written or read well (log 23). -/
def execPadReread (d word : Nat) (v : Reread) (s : State) : Host.Outcome State Fault Refusal :=
  onDrum d s fun s =>
    let s := s.modPad d fun p => { p with rereads := p.rereads + 1, failed := p.failed.filter fun w => decide (w ≠ word) }
    if v.passes || decide (262144 ≤ word) then s else
    (s.modPad d fun p => { p.markPurge (16 * word) with failed := p.failed ++ [word] }).parityFault d word v.outside

/-! ## Bank gating (R236, R237) -/

/-- BANK_GATE: bank `bank` has not been touched for IDLE us (320 ac each) and has no pending write. It enters retention, which
takes 16 nc (8 ac); a wake begins no sooner. -/
def execBankGate (d bank : Nat) (s : State) : Host.Outcome State Fault Refusal :=
  onDrum d s fun s => s.modPad d fun p =>
    if p.idle ≠ 0 ∧ p.saveEn = false ∧ bank < 64 ∧ getCell .awake p.banks bank = .awake ∧
        (getCell 0#64 p.touched bank).toNat + 320 * p.idle.toNat ≤ s.beat.toNat then
      { p with banks := putCell .awake p.banks bank .gated, wakes := putCell 0#64 p.wakes bank (s.beat + 8) } else p

/-- BANK_WAKE_END: 2 us (640 ac) after the wake began the bank is awake; arrivals held for it whose other banks are awake
too are written and tallied; one that meets a bank gated meanwhile starts its wake. -/
def execBankWakeEnd (d bank : Nat) (s : State) : Host.Outcome State Fault Refusal :=
  onDrum d s fun s =>
    if getCell .awake (s.drum d).pad.banks bank = .waking ∧
        (getCell 0#64 (s.drum d).pad.wakes bank).toNat + 640 ≤ s.beat.toNat then
      let s := s.modPad d fun p => { p with banks := putCell .awake p.banks bank .awake
                                            wakes := putCell 0#64 p.wakes bank 0 }
      let held := (s.drum d).pad.eject
      let s := s.modPad d fun p => { p with eject := [] }
      held.foldl (fun s k => match k.body with
        | .send id dst tally data =>
          match (s.drum d).pad.jobSlot k.job (· == .bound) with
          | some t =>
            if (s.drum d).pad.asleep (t.start + dst) data.length then
              s.modPad d fun p => { (p.reach s.beat (t.start + dst) data.length) with eject := p.eject ++ [k] }
            else s.landSend d k t id dst tally data
          | none => s.takeSend d k id dst tally data
        | _ => s) s
    else s

end Sys2Proof.Machine
end

