-- ==== Sys2Proof/Machine/Score.lean ====
section
/-! DEFINITION. Machine/Score.lean: a score in memory and its checks (R246-R248, R251). -/

namespace Sys2Proof.Machine

/-- Bytes n to n + w - 1 as a number. -/
def at_ (l : List Byte) (n w : Nat) : Nat := leNat (sub l n w)

/-- A score header (R246) as it stands in memory. -/
structure Header where
  ntask : Nat
  next : Nat
  seed : Dword
  ndrum : Nat
  live : Bool
  streamv : Bool
  rblk : Nat
  rres : Nat
  tcnt : Nat
  reskey : Word
  deadline : Nat
  stream : Half
  mask : BitVec 128
  rsvZero : Bool
deriving DecidableEq, Repr

def headerOf (l : List Byte) : Header :=
  { ntask := at_ l 0 4, next := at_ l 4 4, seed := BitVec.ofNat 64 (at_ l 8 8), ndrum := at_ l 16 1, live := bit (at_ l 17 1) 0,
    streamv := bit (at_ l 17 1) 1, rblk := at_ l 18 1, rres := at_ l 19 1, tcnt := at_ l 20 1, reskey := toW (at_ l 24 4),
    deadline := at_ l 28 4, stream := BitVec.ofNat 16 (at_ l 32 2), mask := BitVec.ofNat 128 (at_ l 48 16),
    rsvZero := decide (at_ l 17 1 < 4) && at_ l 21 3 == 0 && at_ l 34 14 == 0 && at_ l 64 64 == 0 }

/-- The ranges of R246. -/
def Header.ok (h : Header) : Bool :=
  h.rsvZero && decide (1 ≤ h.ntask ∧ h.ntask ≤ 262144) && decide (h.next ≤ 262144) && decide (1 ≤ h.ndrum ∧ h.ndrum ≤ 128) &&
  decide (1 ≤ h.rblk ∧ h.rblk ≤ 64) && decide (h.rres ≤ h.rblk) && decide (h.tcnt ≤ 64 ∧ h.tcnt % 8 = 0) &&
  (if h.live then decide (1 ≤ h.deadline ∧ h.deadline ≤ 4000000) else h.deadline == 0)

/-- Device address of task record i and of extension record j. -/
def recordAt (a i : Nat) : Nat := a + 128 * (1 + i)

/-- Successor words of the chain from record idx up to its end, the first `need` of them; none when a link leaves 0 to NEXT - 1,
when bits [31:18] of a word are set, or when the chain holds fewer words than the record owes or does not end (R248, R251). A
chain of more than NEXT records runs in a circle. -/
def chainSuccs (ext : Nat → List Byte) (next : Nat) : Nat → Nat → Nat → Option (List Nat)
  | 0, _, _ => none
  | n + 1, idx, need =>
    if next ≤ idx then none else
    let l := ext idx
    let ws := (List.range 31).map fun k => at_ l (4 + 4 * k) 4
    if ws.any (fun w => decide (2 ^ 18 ≤ w)) then none
    else if at_ l 0 4 = 0xFFFFFFFF then (if need ≤ 31 then some (ws.take need) else none)
    else (chainSuccs ext next n (at_ l 0 4) (need - 31)).map fun r => ws.take need ++ r

/-- The body of a record by TYPE; none for a reserved TYPE, bit or byte or a field out of range (R247). -/
def bodyOf (l : List Byte) : Option TaskBody :=
  match fld (at_ l 0 1) 0 4 with
  | 0 => if at_ l 48 4 < 2 ^ 18 then some (.drum (BitVec.ofNat 128 (at_ l 32 16)) (at_ l 48 4) (at_ l 52 4) (at_ l 56 4) (at_ l 60 4))
         else none
  | 1 => if at_ l 34 6 = 0 ∧ at_ l 56 8 = 0 then
           some (.stick (BitVec.ofNat 16 (at_ l 32 2)) (BitVec.ofNat 64 (at_ l 40 8)) (BitVec.ofNat 64 (at_ l 48 8))) else none
  | 2 => if at_ l 44 4 % 16 = 0 ∧ at_ l 48 1 < 4 ∧ at_ l 49 15 = 0 then
           some (.dma (at_ l 32 6) (at_ l 38 6) (at_ l 44 4) (bit (at_ l 48 1) 0) (bit (at_ l 48 1) 1)) else none
  | 3 => if at_ l 32 32 = 0 then some .barrier else none
  | _ => none

/-- Task record i in its 128 bytes; none where R251 refuses the record. -/
def taskOf (h : Header) (ext : Nat → List Byte) (i : Nat) (l : List Byte) : Option TaskRec :=
  let ninl := at_ l 2 1
  let nxs := at_ l 4 2
  let deltas := (List.range ninl).map fun k => at_ l (64 + k) 1
  let chain := if nxs = 0 then some [] else chainSuccs ext h.next h.next (at_ l 12 4) nxs
  match bodyOf l, chain with
  | some b, some c =>
    let succs := deltas.map (fun k => i + k) ++ c
    let miss := fld (at_ l 0 1) 6 2
    let ok := decide (miss < 3) && decide (at_ l 1 1 < 4) && decide (ninl ≤ 64) && at_ l 3 1 == 0 &&
      decide (at_ l 24 8 < 2 ^ 48) && at_ l (64 + ninl) (64 - ninl) == 0 &&
      deltas.all (fun k => decide (k ≠ 0)) && succs.all fun k => decide (i < k ∧ k < h.ntask)
    if ok then
      some { cls := fld (at_ l 0 1) 4 2, miss := miss, cmpl := bit (at_ l 1 1) 0,
             stream := if bit (at_ l 1 1) 1 then some (BitVec.ofNat 16 (at_ l 6 2)) else none,
             deps := at_ l 8 4, succs := succs, work := at_ l 16 4, utag := toW (at_ l 20 4), ledger := at_ l 24 8, body := b }
    else none
  | _, _ => none

/-- Does a record pass the rules that look at the header and the live reserve (R251, R261, R262)? -/
def TaskRec.fits (t : TaskRec) (h : Header) (reserve : BitVec 128) : Bool :=
  (match t.body with
   | .drum set .. => set != 0 && (set &&& ~~~h.mask) == 0 && (!h.live || (set &&& ~~~reserve) == 0)
   | .stick .. => !h.live
   | .dma _ _ len _ _ => !h.live || decide ((len + 199) / 200 ≤ t.work)
   | .barrier => true) &&
  (if h.live then t.cls == 0 else t.cls != 0)

/-- How often each task is named as a successor equals its DEPS. -/
def depsOk (l : List TaskRec) : Bool :=
  l.zipIdx.all fun p => decide (p.1.deps = (l.map fun t => (t.succs.filter (· == p.2)).length).foldl (· + ·) 0)

def allSome {α : Type} : List (Option α) → Option (List α)
  | [] => some []
  | some a :: r => (allSome r).map (a :: ·)
  | none :: _ => none

/-- The whole score at device address a; none where R251 refuses it. `bytes` reads 128 bytes of memory. -/
def scoreOf (bytes : Nat → List Byte) (a : Nat) (reserve : BitVec 128) : Option Score :=
  let h := headerOf (bytes a)
  if h.ok = false then none else
  let ext (k : Nat) : List Byte := bytes (recordAt a (h.ntask + k))
  match allSome ((List.range h.ntask).map fun i => taskOf h ext i (bytes (recordAt a i))) with
  | none => none
  | some l =>
    if l.all (fun t => t.fits h reserve) && depsOk l then
      some { ntask := h.ntask, seed := h.seed, ndrum := h.ndrum, live := h.live, rblk := h.rblk, rres := h.rres, tcnt := h.tcnt,
             reskey := h.reskey, deadline := h.deadline, stream := if h.streamv then some h.stream else none, mask := h.mask,
             tasks := l }
    else none

/-- Bytes of the score with this header. -/
def scoreSpan (l : List Byte) : Nat :=
  let h := headerOf l
  if h.ok then 128 * (1 + h.ntask + h.next) else 128

end Sys2Proof.Machine
end

