-- ==== Sys2Proof/Machine/Metronome.lean ====
section
/-! DEFINITION. Machine/Metronome.lean: taking entries from rings, checking, admitting and binding scores, and the events
of slots and the live reserve (R226, R227, R251-R254, R261, R264, R282, R283, R289, R293, R342, R351). -/

namespace Sys2Proof.Machine

/-! ## Entries (R282, R283) -/

structure Entry where
  op : Nat
  ordered : Bool
  job : Half
  utag : Word
  addr : Nat
  rsvZero : Bool
deriving DecidableEq, Repr

def entryOf (l : List Byte) : Entry :=
  { op := at_ l 0 1, ordered := bit (at_ l 1 1) 0, job := BitVec.ofNat 16 (at_ l 2 2), utag := toW (at_ l 4 4),
    addr := at_ l 8 8, rsvZero := decide (at_ l 1 1 < 2) && at_ l 16 48 == 0 }

/-- Device address of the entry at SQHEAD of ring q, in the host window. -/
def State.entryPlace (s : State) (q : Nat) : Nat := (s.ring q).sqbase.toNat + 64 * (s.ring q).sqhead.toNat

/-- The read of the entry at SQHEAD. -/
def State.entryRead (s : State) (q : Nat) : Fetched × State := s.hostRead (.ring q) (s.entryPlace q) 64 (s.ring q).liveNow

/-- That entry, as far as the part has read it. -/
def State.entryAt (s : State) (q : Nat) : Option Entry :=
  match (s.entryRead q).1 with
  | .data l => some (entryOf l)
  | _ => none

/-- The check of R283 on an entry with a known OP. -/
def State.entryBad (s : State) (e : Entry) : Bool :=
  !e.rsvZero || (e.op != 3 && e.job != 0) ||
  (if e.op = 1 then decide (e.addr % 128 ≠ 0) || !(decide (e.addr < s.mem.capacity) || inHost e.addr 1)
   else decide (e.addr ≠ 0))

/-- Has ring q an entry that the Metronome may take (R253, R281, R289, R361)? -/
def State.hasEntry (s : State) (q : Nat) : Bool :=
  let r := s.ring q
  s.met.en && !s.crashed && r.en && !r.err && r.head.isNone && r.sqhead != r.sqtail && decide (r.reserved < ringSize r.cqNow)

/-- A SCORE that is not taken yet: an ORDERED one behind scores of its ring that have not been recorded (R282), and one of a
group of which a job is in flight (R342). -/
def State.takeWaits (s : State) (q : Nat) (e : Entry) : Bool :=
  let g := (getCell 0#10 s.fab.groups q).toNat
  e.op == 1 && ((e.ordered && !(s.ring q).pendingScores.isEmpty) || (g != 0 && s.met.jobs.any (·.group == g)))

/-- The part admits scores: SYNCED, or a fabric of one part (R325). -/
def State.synced (s : State) : Bool := s.fab.synced || s.fab.dims == ⟨1, 1, 1⟩

/-- Does nothing but its turn hold the entry of ring q back, as far as the part has read it? -/
def State.readable (s : State) (q : Nat) : Bool :=
  s.hasEntry q && match s.entryAt q with
    | some e => e.op != 1 || s.entryBad e || (s.synced && !s.heldAt e.addr 1 && !s.takeWaits q e)
    | none => true

/-- May the Metronome take the entry at the head of ring q now? It reads rings in round-robin order (R254). -/
def State.canTake (s : State) (q : Nat) : Bool :=
  let after (r : Nat) : Nat := (r + 4095 - s.met.lastRing) % 4096
  s.hasEntry q && !s.rings.any fun p => decide (after p.1 < after q) && s.readable p.1

/-- WAITING of PCI_RQ_STAT: the entry at the head waits for slots, regions, records or ORDERED. -/
def State.headWaits (s : State) (q : Nat) : Bool :=
  let r := s.ring q
  r.head.isSome || (r.en && !r.err && r.sqhead != r.sqtail &&
    (decide (ringSize r.cqNow ≤ r.reserved) || ((s.entryAt q).map (s.takeWaits q)).getD false))

/-- The entry is taken: SQHEAD advances and one record is reserved; the next ring has its turn. -/
def State.take (s : State) (q : Nat) : State :=
  ((s.dropAsks (· == .ring q)).modMet fun m => { m with lastRing := q }).modRing q fun r =>
    { r with sqhead := if r.sqhead.toNat + 1 = ringSize r.sqNow then 0 else r.sqhead + 1,
             reserved := r.reserved + 1, taken := r.taken + 1 }

/-- The operation record of an entry that fails R283, and the fault. -/
def State.entryFault (s : State) (q : Nat) (e : Entry) (sqidx : Half) : State :=
  ((s.raise 0x150 0x01).pushRecord q (opRecord .scoreFault e.utag 0 s.beat sqidx true))

/-- The score record of a score that never got a job number (R287). -/
def State.scoreWithout (s : State) (q : Nat) (c : Code) (utag : Word) (sqidx : Half) (serial : Nat) : State :=
  s.pushRecord q { opRecord c utag 0 s.beat sqidx true with kind := 1, serial := serial }

/-! ## Task slots (R254) -/

def Job.slotsUsed (j : Job) : Nat := (j.tasks.filter fun t => t.state != .ended).length
/-- Class-0 scores that have been admitted and wait at their ring's head for records hold their slots (log 27). -/
def State.liveHeads (s : State) : List Head := (s.rings.filterMap fun p => p.2.head).filter (·.score.live)
def State.liveUsed (s : State) : Nat :=
  (s.met.jobs.filter (·.score.live)).foldl (fun a j => a + j.slotsUsed) 0 + s.liveHeads.foldl (fun a h => a + h.score.ntask) 0
def State.bulkUsed (s : State) : Nat := (s.met.jobs.filter fun j => !j.score.live).foldl (fun a j => a + j.slotsUsed) 0
/-- Slots that serve every class and are free. -/
def State.sharedFree (s : State) : Nat :=
  (262144 - s.met.lslots.toNat) - (s.bulkUsed + (s.liveUsed - s.met.lslots.toNat))
/-- Slots that class 0 may take: all that the 262,144 leave free, the reserve's and the shared ones. -/
def State.liveFree (s : State) : Nat := 262144 - (s.bulkUsed + s.liveUsed)
def State.liveScores (s : State) : Nat := (s.met.jobs.filter (·.score.live)).length + s.liveHeads.length

/-! ## Region slots (R226, R253) -/

def overlaps (a n b m : Nat) : Bool := decide (a < b + m) && decide (b < a + n)

/-- Blocks [lo, lo + n) meet no slot in use but slot `skip`. -/
def Pad.blocksFree (p : Pad) (skip lo n : Nat) : Bool :=
  p.slots.zipIdx.all fun t => t.2 == skip || t.1.state == .free || !overlaps lo n t.1.base (t.1.bound - t.1.base)

def Pad.talliesFree (p : Pad) (skip lo n : Nat) : Bool :=
  p.slots.zipIdx.all fun t => t.2 == skip || t.1.state == .free || !overlaps lo n t.1.tbase t.1.tcnt

def Pad.blockLimit (p : Pad) : Nat := if p.saveEn then 46 else 64

def Pad.lowestBlocks (p : Pad) (n : Nat) : Option Nat :=
  (List.range 65).find? fun b => decide (b + n ≤ p.blockLimit) && p.blocksFree 8 b n

def Pad.lowestTallies (p : Pad) (skip n : Nat) : Option Nat :=
  (List.range 65).find? fun b => decide (b + n ≤ 64) && p.talliesFree skip b n

/-- The HELD slot of a score's residency; one that reaches into the save area breaks R226 and is not bound again. -/
def Pad.residency (p : Pad) (sc : Score) : Option Nat :=
  if sc.reskey = 0 then none
  else p.slots.findIdx? fun t => t.state == .held && t.key == sc.reskey && t.bound - t.base == sc.rblk &&
    t.resv - t.base == sc.rres && decide (t.bound ≤ p.blockLimit)

/-- Slot and range that a score would get on a pad now: its HELD slot, else the lowest BASE and TBASE. -/
def Pad.plan (p : Pad) (sc : Score) : Option (Nat × Nat × Nat) :=
  match p.residency sc with
  | some k => (p.lowestTallies k sc.tcnt).map fun tb => (k, ((p.slots[k]?).getD Slot.reset).base, tb)
  | none =>
    match p.slots.findIdx? (·.state == .free), p.lowestBlocks sc.rblk, p.lowestTallies 8 sc.tcnt with
    | some k, some b, some tb => some (k, b, tb)
    | _, _, _ => none

/-- REGION_BIND (R226): the slot takes the job; its tally counters are zeroed. -/
def Pad.bind (p : Pad) (sc : Score) (j : Half) (k b tb : Nat) : Pad :=
  { p with slots := p.slots.set k { Slot.reset with base := b, bound := b + sc.rblk, resv := b + sc.rres, tbase := tb,
                                                    tcnt := sc.tcnt, state := .bound, job := j, key := sc.reskey }
           tallies := zeroRange p.tallies tb (tb + sc.tcnt) }

/-- Index of the HELD slot that has been held longest, but slot `keep`. -/
def Pad.oldestHeld (p : Pad) (keep : Option Nat) : Option Nat :=
  (p.slots.zipIdx.foldl (fun (b : Option (Nat × Nat)) t =>
    if t.1.state = .held ∧ some t.2 ≠ keep then
      match b with
      | some (_, h) => if t.1.heldAt < h then some (t.2, t.1.heldAt) else b
      | none => some (t.2, t.1.heldAt)
    else b) none).map (·.1)

def Pad.damping (p : Pad) : Bool := p.slots.any fun t => t.state == .damp || t.state == .purge

/-- Passes slot k to PURGE. -/
def Pad.purge (p : Pad) (k : Nat) : Pad :=
  let t := (p.slots[k]?).getD Slot.reset
  { p.zeroTallies t with slots := p.slots.set k { t with state := .purge } }

/-- Step 3 of R253 on a pad that cannot take the score now: the oldest HELD slot is released, unless a damping that may
make room is still in progress. -/
def Pad.makeRoom (p : Pad) (sc : Score) : Pad :=
  if p.damping || p.slots.any (·.ending) then p
  else match p.oldestHeld (p.residency sc) with
    | some k => p.purge k
    | none => p

/-- Physical drums of a logical mask, where each is active. -/
def State.physSet (s : State) (m : BitVec 128) : List (Option Nat) := (maskDrums m).map s.physOf

/-! ## Capability and admission (R252, R264) -/

def State.capable (s : State) (sc : Score) : Bool :=
  decide (sc.ndrum ≤ s.exposed) && (maskDrums sc.mask).all fun l => decide (l < s.exposed)

structure Admission where
  f : List Nat
  engs : List (Option Nat)
  h : Cells Nat
  b : Nat
deriving DecidableEq, Repr

/-- One task of the loop of R264 at beat t. -/
def admitTask (l : List TaskRec) (t : Nat) (a : Admission) (i : Nat) (r : TaskRec) : Admission :=
  let h (x : Nat) : Nat := getCell 0 a.h x
  let eng := match r.body with | .dma .. => some (if h 142 ≤ h 143 then 14 else 15) | _ => none
  let xs := maskDrums r.body.drumSet ++ (match eng with | some e => [128 + e] | none => [])
  let s0 := (l.zipIdx.filter fun p => p.1.succs.contains i).foldl (fun m p => max m ((a.f[p.2]?).getD 0)) t
  let f := xs.foldl (fun m x => max m (h x)) s0 + r.work + 9600
  { f := a.f ++ [f], engs := a.engs ++ [eng], h := xs.foldl (fun c x => putCell 0 c x (max (getCell 0 c x) f)) a.h, b := max a.b f }

/-- The horizons and promised finishes of a class-0 score at submission, when it is admitted. -/
def State.admission (s : State) (sc : Score) : Option Admission :=
  let t := s.beat.toNat
  let a := sc.tasks.zipIdx.foldl (fun a p => admitTask sc.tasks t a p.2 p.1) ⟨[], [], s.met.horizon, 0⟩
  let dl := match sc.stream with | some v => min sc.deadline (s.mem.strDeadline v) | none => sc.deadline
  let stream := match sc.stream with | some v => s.mem.strValid v && s.mem.strClass v == 0 | none => true
  let fit := (s.physSet sc.mask).all fun p => match p with | some p => ((s.drum p).pad.plan sc).isSome | none => false
  if stream && decide (a.b ≤ t + 320 * dl) && decide (sc.ntask ≤ s.liveFree) && s.met.liveEn &&
      decide (s.liveScores ≤ s.met.maxsc.toNat) && fit then some a else none

/-! ## Binding (R243, R253, R254) -/

/-- Numbers a new job may not take: jobs in flight and HELD slots. -/
def State.jobNumbersHeld (s : State) : List Half :=
  s.met.jobs.map (·.num) ++ s.drums.flatMap fun x => (x.pad.slots.filter (·.state == .held)).map (·.job)

def skipHeld (l : List Half) : Nat → Half → Half
  | 0, j => j
  | n + 1, j => if l.contains j then skipHeld l n (j + 1) else j

def Task.new (r : TaskRec) (finish : Option Dword) (unit : Option Nat) : Task :=
  { trec := r, remaining := r.deps, state := .waiting, started := [], finished := [], unit := unit, code := .done, flags := 0,
    madeup := false, dup := false, dropped := false, overrun := false, count := 0, finish := finish, readyAt := 0, endBeat := 0,
    ran := [] }

/-- Largest number of ready tasks seen (MET_READYMAX). -/
def State.noteReady (s : State) : State :=
  let n := s.met.jobs.foldl (fun a j => a + (j.tasks.filter fun t => t.state == .ready).length) 0
  s.modMet fun m => { m with readymax := if m.readymax.toNat < n then BitVec.ofNat 64 n else m.readymax }

def Score.cmplCount (sc : Score) : Nat := (sc.tasks.filter (·.cmpl)).length

/-- The score becomes a job: number, slots, tasks; what is ready at once, and barriers that end at once. -/
def State.makeJob (s : State) (q : Nat) (h : Head) (g : Nat) (plans : List (Nat × Nat × Nat × Nat)) : State :=
  let sc := h.score
  let num := skipHeld s.jobNumbersHeld 65536 s.met.nextJob
  let s := plans.foldl (fun s p => s.modPad p.1 fun x => x.bind sc num p.2.1 p.2.2.1 p.2.2.2) s
  let start := sc.tasks.zipIdx.map fun p =>
    Task.new p.1 ((h.finishes[p.2]?).bind fun f => if sc.live then some f else none) (((h.engs[p.2]?).getD none))
  let tasks := settleTasks s.beat start
  let job : Job := { num := num, ring := q, sqidx := h.sqidx, serial := h.serial, utag := h.utag, group := g,
                     order := if sc.live then h.order else s.met.nextOrder, score := sc, tasks := tasks, aborted := false,
                     reserved := sc.cmplCount }
  let s := s.modMet fun m => { m with jobs := m.jobs ++ [job], nextJob := num + 1, nextOrder := if sc.live then m.nextOrder else m.nextOrder + 1 }
  let s := s.modRing q fun r => { r with head := none, reserved := r.reserved + sc.cmplCount }
  ((s.pushTasks job start tasks).finishJob num).noteReady

/-- SCORE_BIND: tries to bind the score that waits at the head of ring q. -/
def State.tryBind (s : State) (q : Nat) : State :=
  let r := s.ring q
  match r.head with
  | none => s
  | some h =>
    let sc := h.score
    let g := (getCell 0#10 s.fab.groups q).toNat
    let gone (c : Code) : State := (s.modRing q fun r => { r with head := none }).scoreWithout q c h.utag h.sqidx h.serial
    if s.crashed then s
    else if s.fab.closed.contains g then gone .aborted
    else if s.capable sc = false then
      ((s.modRing q fun r => { r with head := none }).raise 0x140 0x02).scoreWithout q .scoreFault h.utag h.sqidx h.serial
    else if (h.ordered && r.pendingScores.any fun n => decide (n < h.serial)) || (g != 0 && s.met.jobs.any (·.group == g)) ||
        decide (ringSize r.cqNow < r.reserved + sc.cmplCount) ||
        (!sc.live && decide (s.sharedFree < sc.ntask)) then s
    else
      let ps := s.physSet sc.mask
      if ps.any (·.isNone) then s else
      let ds := ps.filterMap id
      let never := ds.filter fun d => decide ((s.drum d).pad.blockLimit < sc.rblk)
      if !never.isEmpty then
        (never.foldl (fun s d => s.raise d 0x65) (s.modRing q fun r => { r with head := none })).scoreWithout q .refused
          h.utag h.sqidx h.serial
      else
        let plans := ds.map fun d => (d, (s.drum d).pad.plan sc)
        if plans.all (·.2.isSome) then
          s.makeJob q h g (plans.filterMap fun p => p.2.map fun k => (p.1, k))
        else plans.foldl (fun s p => if p.2.isNone then s.modPad p.1 fun x => x.makeRoom sc else s) s

/-- SCORE_BIND. -/
def execScoreBind (q : Nat) (s : State) : Host.Outcome State Fault Refusal :=
  if q < 4096 then .next (s.tryBind q) else .fault .noSuchUnit

/-! ## SCORE (R251, R252, R264, R282, R289) -/

/-- The read of a whole score: its header, then the rest (R251). In a reserved slot one of class 1 leaves class 0 its channels
(R312). -/
def State.scoreRead (s : State) (q addr : Nat) : Fetched × State :=
  let live := (s.ring q).liveNow
  let span := if s.inMem addr 128 then scoreSpan (s.devBytes addr 128) else 128
  if s.backed addr 128 = false then (.error, s)
  else if !live && s.slotTaken (s.rangeChans addr span) then (.waits, s) else
  match s.fetchDev (.ring q) addr 128 live with
  | (.data l, t) =>
    let n := scoreSpan l
    if n = 128 then (.data l, t)
    else if s.backed addr n = false then (.error, t)
    else match t.fetchDev (.ring q) (addr + 128) (n - 128) live with
      | (.data r, u) => (.data (l ++ r), u)
      | r => r
  | r => r

/-- A class-0 score at its ring's head is refused, or admitted with its place in the order (R264, R265). -/
def State.admitLive (s : State) (q : Nat) (sc : Score) (e : Entry) (sqidx : Half) (serial : Nat) (refuse : State → State) : State :=
  match s.admission sc with
  | none => refuse s
  | some a =>
    let h : Head := ⟨sc, a.f.map (BitVec.ofNat 64), a.engs, e.utag, sqidx, serial, e.ordered, s.met.nextOrder⟩
    let s := s.modMet fun m => { m with horizon := a.h, nextOrder := m.nextOrder + 1 }
    (s.modRing q fun r => { r with head := some h }).tryBind q

/-- The checks of a score that has been taken and read, up to waiting at the ring's head. -/
def State.checkScore (s : State) (q : Nat) (e : Entry) (f : Fetched) (sqidx : Half) (serial : Nat) : State :=
  let fail (s : State) (src sub : Nat) : State := (s.raise src sub).scoreWithout q .scoreFault e.utag sqidx serial
  let refuse (s : State) : State :=
    (s.modMet fun m => { m with refused := m.refused + 1 }).scoreWithout q .refused e.utag sqidx serial
  if s.fab.closed.contains (getCell 0#10 s.fab.groups q).toNat then s.scoreWithout q .aborted e.utag sqidx serial
  else match f with
    | .data l =>
      match scoreOf (fun a => sub l (a - e.addr) 128) e.addr s.met.mask with
      | none => fail s 0x140 0x01
      | some sc =>
        if s.capable sc = false then fail s 0x140 0x02
        else if sc.live && !(s.ring q).liveNow then refuse s
        else if ringSize (s.ring q).cqNow < 1 + sc.cmplCount then fail s 0x150 0x03
        else if sc.live then s.admitLive q sc e sqidx serial refuse
        else s.modRing q fun r => { r with head := some ⟨sc, [], [], e.utag, sqidx, serial, e.ordered, 0⟩ }
    | _ => fail s 0x140 0x01

/-- The Metronome reads the entry at SQHEAD of ring q and, where its OP is the command's, handles it; a follower's read waits
for its lead. -/
def State.withEntry (s : State) (q : Nat) (op : Nat → Bool) (run : Entry → State) : State :=
  if s.canTake q = false then s else
  match s.entryRead q with
  | (.data l, _) =>
    let e := entryOf l
    if op e.op = false then s
    else if s.entryBad e then (s.take q).entryFault q e (s.ring q).sqhead
    else run e
  | (_, t) => t

/-- SCORE: the entry at SQHEAD of ring q is taken, checked, its score read, checked and, for class 0, admitted. -/
def execScore (q : Nat) (s : State) : Host.Outcome State Fault Refusal :=
  if 4096 ≤ q then .fault .noSuchUnit else .next <| s.withEntry q (· == 1) fun e =>
    let r := s.ring q
    if s.readable q = false then s else
    match s.scoreRead q e.addr with
    | (.waits, t) => t
    | (f, t) =>
      ((t.take q).modRing q fun x => { x with pendingScores := x.pendingScores ++ [r.taken] }).checkScore q e f r.sqhead r.taken

/-! ## DRAIN, KILL and entries with a reserved OP (R283, R293) -/

/-- DRAIN. -/
def execDrain (q : Nat) (s : State) : Host.Outcome State Fault Refusal :=
  if 4096 ≤ q then .fault .noSuchUnit else .next <| s.withEntry q (· == 2) fun e =>
    let r := s.ring q
    ((s.take q).modRing q fun x => { x with drains := x.drains ++ [(e.utag, r.sqhead, r.taken)] }).drained q

/-- KILL. -/
def execKill (q : Nat) (s : State) : Host.Outcome State Fault Refusal :=
  if 4096 ≤ q then .fault .noSuchUnit else .next <| s.withEntry q (· == 3) fun e =>
    let r := s.ring q
    let t := s.take q
    match t.job? e.job with
    | some j =>
      if j.ring = q then
        (t.modRing q fun x => { x with kills := x.kills ++ [(e.job, e.utag, r.sqhead)] }).abortJob e.job s.beat
      else t.pushRecord q (opRecord .refused e.utag e.job s.beat r.sqhead false)
    | none => t.pushRecord q (opRecord .refused e.utag e.job s.beat r.sqhead false)

/-- SUBMISSION_ENTRY_FAULT: an entry with a reserved OP. -/
def execSubmissionEntryFault (q : Nat) (s : State) : Host.Outcome State Fault Refusal :=
  if 4096 ≤ q then .fault .noSuchUnit else .next <|
    s.withEntry q (fun op => op == 0 || decide (3 < op)) fun e => (s.take q).entryFault q e (s.ring q).sqhead

/-! ## The damper (R227, R238, R239) -/

/-- Zeroes blocks [lo, hi) of a pad, row by row, and counts the rows; a row touches every bank. -/
def Pad.zeroBlocks (p : Pad) (beat : Dword) (lo hi : Nat) : Pad :=
  let p := if lo < hi then p.touch beat (List.range 64) else p
  { p.zero (lo * 65536) (hi * 65536) with damped := p.damped + BitVec.ofNat 64 (64 * (hi - lo)) }

/-- What the damper clears next: slots in ascending order, then the save area, as 8 (R238, R239). -/
def Pad.dampNext (p : Pad) : Nat := (p.slots.findIdx? fun t => t.state == .damp || t.state == .purge).getD 8

/-- The damper finishes slot k, or the save area (k = 8). -/
def Pad.dampSlot (p : Pad) (beat : Dword) (k serial : Nat) : Pad :=
  if k ≠ p.dampNext then p
  else if k = 8 then
    (if p.saveDirty && !p.slots.any (·.ending) then { p.zeroBlocks beat 46 64 with saveDirty := false } else p)
  else
    match p.slots[k]? with
    | none => p
    | some t =>
      match t.state with
      | .damp =>
        { p.zeroBlocks beat t.resv t.bound with
          slots := p.slots.set k (if t.base < t.resv then { t with state := .held, heldAt := serial } else Slot.reset) }
      | .purge => { p.zeroBlocks beat t.base t.bound with slots := p.slots.set k Slot.reset }
      | _ => p

/-- Tries every score that waits at a ring's head. -/
def State.retryHeads (s : State) : State :=
  ((s.rings.filter fun p => p.2.head.isSome).map (·.1)).foldl (fun s q => s.tryBind q) s

/-- DAMPER_FINISH: the damper finishes a slot (or, as slot 8, the save area); held binds are checked. -/
def execDamperFinish (d slot : Nat) (s : State) : Host.Outcome State Fault Refusal :=
  onDrum d s fun s =>
    let p := (s.drum d).pad
    let q := p.dampSlot s.beat slot (s.met.heldSerial + 1)
    if q = p then s
    else ((s.modPad d fun _ => q).modMet fun m => { m with heldSerial := m.heldSerial + 1 }).retryHeads

/-! ## Releases and the live reserve (R253, R261) -/

/-- Every HELD slot of a pad with the key, or every one for key 0, passes to PURGE. -/
def Pad.releaseKey (p : Pad) (key : Word) : Pad :=
  p.slots.zipIdx.foldl (fun p t => if t.1.state = .held ∧ (key = 0 ∨ t.1.key = key) then p.purge t.2 else p) p

def State.releaseKey (s : State) (key : Word) : State :=
  { s with drums := s.drums.map fun x => { x with pad := x.pad.releaseKey key } }

/-- MET_RELEASE: every HELD slot with the key passes to PURGE. -/
def execMetRelease (key : Word) (s : State) : Host.Outcome State Fault Refusal :=
  .next (if s.boot.bar0 && s.boot.mode != 2 then s.releaseKey key else s)

/-- Sets the reserve bit of logical drum l and PAD_SAVE.EN of its drum. -/
def State.setReserve (s : State) (l d : Nat) (on : Bool) : State :=
  let b : BitVec 128 := BitVec.ofNat 128 (2 ^ l)
  (s.modMet fun m => { m with mask := if on then m.mask ||| b else m.mask &&& ~~~b }).modDrum d fun x =>
    { x with liveHeld := none, pad := { x.pad with saveEn := on } }

/-- Slots in use that reach into the save area. -/
def Pad.overSave (p : Pad) : List Nat := (List.range 8).filter fun k =>
  let t := (p.slots[k]?).getD Slot.reset
  t.state != .free && decide (46 < t.bound)

/-- Physical drum that stands for logical drum l: the active one, or one that has been retired and still holds a job (R30). -/
def State.reserveDrum (s : State) (l : Nat) : Option Nat := (s.physOf l).or (s.holder l)

/-- A change of the reserve bit of logical drum l: held while the drum holds a job (R261). A drum that joins gives up the HELD
slots that reach into the save area, and joins once they are free (R226, log 27). -/
def State.changeReserve (s : State) (l d : Nat) (on : Bool) : State :=
  let x := s.drum d
  let high := if on then x.pad.overSave else []
  if x.hasJob || !high.isEmpty then
    (s.modDrum d fun y => { y with liveHeld := some on }).modPad d fun p => high.foldl (fun p k =>
      if ((p.slots[k]?).getD Slot.reset).state = .held then p.purge k else p) p
  else s.setReserve l d on

/-- LIVE_RESERVE_APPLY: a held change of logical drum l takes effect once nothing stands in its way. -/
def execLiveReserveApply (l : Nat) (s : State) : Host.Outcome State Fault Refusal :=
  .next <| match s.reserveDrum l with
    | some d =>
      match (s.drum d).liveHeld with
      | some on => s.changeReserve l d on
      | none => s
    | none => s

end Sys2Proof.Machine
end

