-- ==== Sys2Proof/Machine/Sound.lean ====
section
/-! DEFINITION. Machine/Sound.lean: what a sound check strikes, expects and compares (R372). -/

namespace Sys2Proof.Machine

/-! ## The tile and its load signature -/

/-- Weight plane j of the latch at row k and column c. Latches that are empty hold the check tile of alternate rows 0b0101 and
0b1010. -/
def Skin.latchBit (x : Skin) (k c j : Nat) : Nat :=
  if x.tile.isNone then (if k % 2 = 0 then 5 else 10) / 2 ^ j % 2 else cellAt x.cells k c / 2 ^ j % 2

/-- The 32 rows of signature segment u. -/
def sigRows (u : Nat) : List Nat := (List.range 32).map (32 * u + ·)

/-- The load signature: the set cells of plane j of column c in segment u, and those of them in even rows. -/
def Skin.sigAll (x : Skin) (j u c : Nat) : Nat := ((sigRows u).map fun k => x.latchBit k c j).sum
def Skin.sigEven (x : Skin) (j u c : Nat) : Nat := ((sigRows u).map fun k => if k % 2 = 0 then x.latchBit k c j else 0).sum

/-! ## Patterns -/

/-- Bit of row k of a pattern: all zero, all one, ones on even rows, ones on odd rows. -/
def checkBit (pat k : Nat) : Nat := match pat with
  | 0 => 0
  | 1 => 1
  | 2 => if k % 2 = 0 then 1 else 0
  | _ => if k % 2 = 0 then 0 else 1

/-- The n-th order of the four patterns. -/
def orderOf (n : Nat) : List Nat :=
  let a := n / 6 % 4
  let l := [0, 1, 2, 3].filter (· ≠ a)
  let b := (l[n / 2 % 3]?).getD 0
  let m := l.filter (· ≠ b)
  a :: b :: (if n % 2 = 0 then m else m.reverse)

/-- The pattern that activation plane p of check row r carries: over rows 0-3, and over rows 4-7, every plane carries each of
the four, in an order that R372 leaves open (log 14). -/
def checkPattern (r p : Nat) : Nat := ((orderOf (Config.checkOrder (8 * (r / 4) + p)))[r % 4]?).getD 0

/-- Pairs that count where plane p's pattern meets the weight plane: what the strike counts, and what the signature says. -/
def Skin.struck (x : Skin) (pat j u c : Nat) : Nat := ((sigRows u).map fun k => checkBit pat k * x.latchBit k c j).sum
def Skin.foretold (x : Skin) (pat j u c : Nat) : Nat := match pat with
  | 0 => 0
  | 1 => x.sigAll j u c
  | 2 => x.sigEven j u c
  | _ => x.sigAll j u c - x.sigEven j u c

/-! ## Segments -/

/-- Column pairs are accumulated: rows 4-7 in variants 1 and 3. -/
def checkPair (v r : Nat) : Bool := decide (4 ≤ r) && v % 2 == 1
/-- Rows of a segment: modes A and B. The rows of a segment of column pairs R372 does not give (log 14). -/
def checkGroup (v r : Nat) : Nat := if v % 2 = 1 then 64 else if r < 4 then 32 else 128
def checkCols (v r : Nat) : Nat := if checkPair v r then 512 else 1024

/-- Weight of activation plane p; whether the codes are signed R372 leaves open (log 14). -/
def actWeight (p : Nat) : Int := if Config.checkSigned && p == 7 then -128 else (2 ^ p : Nat)
/-- Weight of plane j of a signed or an unsigned nibble (R45, R62). -/
def nibbleWeight (signed : Bool) (j : Nat) : Int := if signed && j == 3 then -8 else (2 ^ j : Nat)

/-- A column's integer over the 32 rows of segment u, from the counts of its pairs. -/
def columnInt (cnt : Nat → Nat → Nat → Nat → Nat) (signed : Bool) (r u c : Nat) : Int :=
  ((List.range 8).flatMap fun p => (List.range 4).map fun j =>
    actWeight p * nibbleWeight signed j * (cnt (checkPattern r p) j u c : Int)).sum

/-- The segment integer of output n (R60-R62). -/
def segmentInt (cnt : Nat → Nat → Nat → Nat → Nat) (v r n i : Nat) : Int :=
  let k := checkGroup v r / 32
  ((List.range k).map fun h =>
    let u := k * i + h
    if checkPair v r then columnInt cnt false r u (2 * n) + 16 * columnInt cnt true r u (2 * n + 1) else columnInt cnt true r u n).sum

/-! ## The stages behind, for row 0 -/

/-- Row 0's integers, de-quantised with both scales at 1.0 and added in the shell in their order (R64, R65, R117). -/
def checkShell (ints : Nat → Int) (segs : Nat) : Word :=
  (List.range (segs - 1)).foldl (fun a i => shellAdd false 0 a (dequant (ints (i + 1)) 0 0x3F80#16 0x3F80#16))
    (dequant (ints 0) 0 0x3F80#16 0x3F80#16)

/-- The check row's value, its SCALE by 1.0, and the INT8 code of its NARROW at scale 1.0 (the operands are the model's, log 14). -/
def checkStage (w : Word) (k : Nat) : Word := match k with
  | 0 => w
  | 1 => ffma (val w) (bfVal 0x3F80#16) (bfVal 0#16)
  | _ => toW (narrowOne (.int 8) true false .even 0x3F80#16 0 w).code

/-! ## The compares -/

/-- What the flaws of a run add to a segment integer, and what they turn over in a stage's bits. -/
def flawInt (l : List Flaw) (r n i : Nat) : Int := (l.map fun f => match f with
  | .segment r' n' i' d => if r' = r ∧ n' = n ∧ i' = i then d else 0
  | .stage .. => 0).sum
def flawBits (l : List Flaw) (k n : Nat) : Word := l.foldl (fun w f => match f with
  | .segment .. => w
  | .stage k' n' b => if k' = k ∧ n' = n then w ^^^ b else w) 0

/-- The integer that a run with flaws forms. -/
def Skin.checkInt (x : Skin) (v : Nat) (l : List Flaw) (r n i : Nat) : Int := segmentInt x.struck v r n i + flawInt l r n i

/-- The check row's value of column n in such a run. -/
def Skin.checkValue (x : Skin) (v : Nat) (l : List Flaw) (n : Nat) : Word :=
  checkShell (x.checkInt v l 0 n) (1024 / checkGroup v 0) ^^^ flawBits l 0 n

/-- Every compare of a run holds: each segment integer is the one that the signature foretells, and so is each stage's result of
row 0. -/
def Skin.checkPasses (x : Skin) (v : Nat) (l : List Flaw) : Bool :=
  ((List.range 8).all fun r => (List.range (checkCols v r)).all fun n => (List.range (1024 / checkGroup v r)).all fun i =>
    x.checkInt v l r n i == segmentInt x.foretold v r n i) &&
  (List.range 1024).all fun n => (List.range 3).all fun k =>
    checkStage (x.checkValue v l n) k ^^^ (if k = 0 then 0 else flawBits l k n) ==
      checkStage (checkShell (segmentInt x.foretold v 0 n) (1024 / checkGroup v 0)) k

end Sys2Proof.Machine
end

