-- ==== Sys2Proof/Machine/FaultOps.lean ====
section
/-! DEFINITION. Machine/FaultOps.lean: the commands on fault sets (R359, R362, R363, R378, R379), drum retirement (R367-R369)
and the sound check (R371-R374). -/

namespace Sys2Proof.Machine

/-! ## Fault sets -/

/-- GRACE_EXPIRE: the record of source src climbs one level. -/
def execGraceExpire (src : Nat) (s : State) : Host.Outcome State Fault Refusal :=
  if isSource src then .next (if (s.fault src).expired s.power.ac then s.escalate src [] else s) else .fault .noSuchUnit

/-- FAULTN_PULSE_END: the pin follows HOLD. -/
def execFaultnPulseEnd (s : State) : Host.Outcome State Fault Refusal :=
  .next <| if s.power.faultnPulse then
      (s.modPower fun p => { p with faultnPulse := false }).emit (.faultN s.power.faultnHold)
    else s

/-- A cleared record (R359): its settings stay, and the faults of the tick that the block is in. -/
def FaultSet.cleared (f : FaultSet) : FaultSet := { FaultSet.reset with ien := f.ien, vec := f.vec, grace := f.grace, recent := f.recent, tick := f.tick }

/-- Does the window of a source answer in recovery (R391)? -/
def State.windowOpen (s : State) (src : Nat) : Bool :=
  s.boot.bar0 && (s.boot.mode != 2 || src == 0x161 || decide (0x170 ≤ src))

/-- The faults that the block has raised in the present control tick. -/
def State.tickFaults (s : State) (src : Nat) : List (Dword × Raised) :=
  let f := s.fault src
  if f.tick = s.power.controlTick then f.recent else []

/-- The record is cleared; faults of the same control tick come after the clear, as new records at notice (R359). -/
def State.clearRecord (s : State) (src : Nat) : State :=
  (s.tickFaults src).foldl (fun s e => s.latchFault e.2 e.1) (s.modFault src (·.cleared))

/-- A write of VALID = 1 to a fault set. An escalation that is due in the tick takes effect first; a record that the same tick
has latched stands, since the clear comes before it (R359). -/
def State.clearFault (s : State) (src : Nat) : State :=
  let f := s.fault src
  if f.valid = false ∨ (s.tickFaults src).any (fun e => e.1 == f.stamp) = true then s
  else (if f.expired s.power.ac then s.escalate src [] else s).clearRecord src

/-- FAULT_CLEAR. -/
def execFaultClear (src : Nat) (s : State) : Host.Outcome State Fault Refusal :=
  if isSource src then .next (if s.windowOpen src then s.clearFault src else s) else .fault .noSuchUnit

/-- A write to FLT_INJ: GO in [31], JOBV in [25], JOB in [24:9], SUB in [7:0]; factory test mode only. -/
def State.injectFault (s : State) (src : Nat) (v : Nat) : State :=
  if s.boot.mode ≠ 1 then s.badacc
  else if bit v 31 then
    s.raiseWith { src := src, sub := BitVec.ofNat 8 v, run := none, inj := true,
                  job := if bit v 25 then some (BitVec.ofNat 16 (fld v 9 16)) else none }
  else s

/-- FAULT_INJECT. In recovery, as in every mode but factory test, the write counts, its window being closed or not. -/
def execFaultInject (src : Nat) (value : Word) (s : State) : Host.Outcome State Fault Refusal :=
  if isSource src then .next (if s.boot.bar0 then s.injectFault src value.toNat else s) else .fault .noSuchUnit

/-! ## Retirement (R367-R369) -/

/-- Physical drums that hold logical numbers 120 to 127, lowest number first. -/
def State.topDrums (s : State) : List Nat := (List.range 8).filterMap fun i =>
  (List.range 136).find? fun p => (s.drum p).logical.toNat == 120 + i

/-- Withdrawal of logical drums 120 to 127 for failed drum d: the jobs that need them, d's number, and 7 new spares. -/
def State.withdraw (s : State) (d : Nat) : State :=
  let js := (s.met.jobs.filter fun j => decide (2 ^ 120 ≤ j.score.mask.toNat)).map (·.num)
  let s := js.foldl (fun s j => s.abortJob j s.beat) s
  let l := (s.drum d).logical
  let en := (s.drum d).pad.saveEn
  let top := s.topDrums.filter (· ≠ d)
  let heir := if l.toNat < 120 then
      match top.find? fun q => decide (q / 68 = d / 68) with
      | some q => some q
      | none => top.head?
    else none
  let s := s.modDrum d fun x => { x with logical := 0xFF, pad := { x.pad with saveEn := false } }
  top.foldl (fun s q => s.modDrum q fun x =>
    if some q = heir then { x with logical := l, pad := { x.pad with saveEn := en } }
    else { x with logical := 0xFF, pad := { x.pad with saveEn := false }, status := if x.status = .retired then .retired else .spare }) s

/-- Drum d is retired: STATE at once, the jobs that hold a BOUND slot aborted, HELD slots lost (R227: to PURGE), and its number to a spare,
at once or when the slots are free; with no spare left the part withdraws eight drums or exposes none. -/
def State.retireDrum (s : State) (d : Nat) : State :=
  let x := s.drum d
  if x.status = .retired then s else
  let s := s.modDrum d fun y => { y with status := .retired }
  let js := ((x.pad.slots.filter fun t => t.state == .bound && !t.ending).map (·.job)).eraseDups
  let s := js.foldl (fun s j => s.abortJob j s.beat) s
  let s := s.modPad d fun p => (List.range 8).foldl (fun p k =>
    if ((p.slots[k]?).getD Slot.reset).state = .held then p.purge k else p) p
  let out := s.leaving
  let s := if s.spares.length < out.length ∧ ((List.range 136).filter fun p => (s.drum p).logical ≠ 0xFF).length = 128 then
      s.withdraw (if out.contains d then d else (out.getLast?).getD d)
    else s
  s.applyMap

/-- A drum that R369 withdrew: a spare of a part that exposes fewer than 128. -/
def State.withdrawn (s : State) (d : Nat) : Bool := (s.drum d).status == .spare && s.exposed != 128

/-- DRM_RETIRE. -/
def execDrmRetire (d : Nat) (value : Word) (s : State) : Host.Outcome State Fault Refusal :=
  if d < 136 then
    .next (if s.windowOpen d && value.getLsbD 0 && !s.withdrawn d then s.retireDrum d else s)
  else .fault .noSuchUnit

/-! ## The sound check (R371-R374) -/

/-- Is a check of drum p due at a beat? -/
def soundDue (p : Nat) (beat : Dword) : Bool := decide (beat.toNat % 80000 = 588 * p)

def soundVariant (p : Nat) (beat : Dword) : BitVec 2 := BitVec.ofNat 2 ((beat.toNat - 588 * p) / 80000)

/-- A check passes: the last two starts, and the runs that a later failure can still reach. -/
def Sound.pass (x : Sound) (beat : Dword) : Sound :=
  let prev := if x.passes = 0 then none else some x.lastPass
  { x with lastPass := beat, prevPass := prev, passes := x.passes + 1
           ran := x.ran.filter fun r => match prev with | some b => decide (b.toNat ≤ r.ended.toNat) | none => true }

/-- Jobs that ran a task on the drum since the older of its last two passing checks, with their groups. -/
def Sound.suspects (x : Sound) : List (Half × Nat) :=
  ((x.ran.filter fun r => match x.prevPass with | some b => decide (b.toNat ≤ r.ended.toNat) | none => true).map fun r =>
    (r.job, r.group)).eraseDups

/-- The ac after a rerun that has failed: the fault, the running task aborted, the suspects aborted, the drum retired. -/
def State.soundFail (s : State) (d : Nat) : State :=
  let x := s.drum d
  let s := (s.modDrum d fun y => { y with sound := { y.sound with fail := true, failIn := 0 } }).raise d 0x70
  let s := match x.ownTask with
    | some (j, i) => ((s.bankRun d).modDrum d fun y => { y with seq := y.seq.stop, claim := none }).endTask j i .aborted
    | none => s
  let js := ((x.ownTask.map fun p => (p.1, s.groupOf p.1)).toList ++ x.sound.suspects).eraseDups
  (js.foldl (fun s j => s.abortOf j.1 j.2 s.beat) s).retireDrum d

/-- An ac of the checks that fail twice: the last one of the rerun brings its effects (R374). -/
def State.soundTick (s : State) : State :=
  (List.range 136).foldl (fun s d => match (s.drum d).sound.failIn with
    | 0 => s
    | 1 => s.soundFail d
    | n + 1 => s.modDrum d fun x => { x with sound := { x.sound with failIn := n } }) s

/-- The shell's check row takes row 0's values. -/
def Drum.checkRow (x : Drum) (v : Nat) (l : List Flaw) : Drum :=
  { x with shell := { x.shell with check := loop (fun n c => putCell 0#32 c n (x.skin.checkValue v l n)) 1024 [] } }

/-- SOUND_CHECK: the check starts; the flaws that the arithmetic path shows in it, and in its rerun, decide how they end (R372). A
failure of both comes 512 ac later. -/
def execSoundCheck (d : Nat) (flaws1 flaws2 : List Flaw) (s : State) : Host.Outcome State Fault Refusal :=
  if 136 ≤ d then .fault .noSuchUnit else .next <|
    if (s.drum d).status = .retired ∨ soundDue d s.beat = false ∨ s.power.locked = false then s else
    let v := soundVariant d s.beat
    let pass1 := (s.drum d).skin.checkPasses v.toNat flaws1
    let pass2 := (s.drum d).skin.checkPasses v.toNat flaws2
    let s := s.modDrum d fun x =>
      let y := x.checkRow v.toNat (if pass1 then flaws1 else flaws2)
      { y with sound := { y.sound with variant := v, runs := y.sound.runs + 1,
                                       reruns := if !pass1 && pass2 then y.sound.reruns + 1 else y.sound.reruns, again := !pass1 } }
    if pass1 || pass2 then s.modDrum d fun x => { x with sound := x.sound.pass s.beat }
    else s.modDrum d fun x => { x with sound := { x.sound with failIn := 512 } }

end Sys2Proof.Machine
end

