-- ==== Sys2Proof/Machine/Hash.lean ====
section
/-! DEFINITION. Machine/Hash.lean: SHA-512, HMAC-SHA-512, HKDF-SHA-512 and SHAKE256, which R382 to R388 name: FIPS 180-4, RFC 2104,
RFC 5869 and FIPS 202 lay them down. A digest stands as a bit vector whose lowest byte is the digest's first. -/

namespace Sys2Proof.Machine

/-! ## SHA-512 -/

/-- Round constants 0 to 39 of FIPS 180-4. -/
def shaLow : List Dword :=
  [0x428a2f98d728ae22, 0x7137449123ef65cd, 0xb5c0fbcfec4d3b2f, 0xe9b5dba58189dbbc, 0x3956c25bf348b538] ++
  [0x59f111f1b605d019, 0x923f82a4af194f9b, 0xab1c5ed5da6d8118, 0xd807aa98a3030242, 0x12835b0145706fbe] ++
  [0x243185be4ee4b28c, 0x550c7dc3d5ffb4e2, 0x72be5d74f27b896f, 0x80deb1fe3b1696b1, 0x9bdc06a725c71235] ++
  [0xc19bf174cf692694, 0xe49b69c19ef14ad2, 0xefbe4786384f25e3, 0x0fc19dc68b8cd5b5, 0x240ca1cc77ac9c65] ++
  [0x2de92c6f592b0275, 0x4a7484aa6ea6e483, 0x5cb0a9dcbd41fbd4, 0x76f988da831153b5, 0x983e5152ee66dfab] ++
  [0xa831c66d2db43210, 0xb00327c898fb213f, 0xbf597fc7beef0ee4, 0xc6e00bf33da88fc2, 0xd5a79147930aa725] ++
  [0x06ca6351e003826f, 0x142929670a0e6e70, 0x27b70a8546d22ffc, 0x2e1b21385c26c926, 0x4d2c6dfc5ac42aed] ++
  [0x53380d139d95b3df, 0x650a73548baf63de, 0x766a0abb3c77b2a8, 0x81c2c92e47edaee6, 0x92722c851482353b]

/-- Round constants 40 to 79. -/
def shaHigh : List Dword :=
  [0xa2bfe8a14cf10364, 0xa81a664bbc423001, 0xc24b8b70d0f89791, 0xc76c51a30654be30, 0xd192e819d6ef5218] ++
  [0xd69906245565a910, 0xf40e35855771202a, 0x106aa07032bbd1b8, 0x19a4c116b8d2d0c8, 0x1e376c085141ab53] ++
  [0x2748774cdf8eeb99, 0x34b0bcb5e19b48a8, 0x391c0cb3c5c95a63, 0x4ed8aa4ae3418acb, 0x5b9cca4f7763e373] ++
  [0x682e6ff3d6b2b8a3, 0x748f82ee5defb2fc, 0x78a5636f43172f60, 0x84c87814a1f0ab72, 0x8cc702081a6439ec] ++
  [0x90befffa23631e28, 0xa4506cebde82bde9, 0xbef9a3f7b2c67915, 0xc67178f2e372532b, 0xca273eceea26619c] ++
  [0xd186b8c721c0c207, 0xeada7dd6cde0eb1e, 0xf57d4f7fee6ed178, 0x06f067aa72176fba, 0x0a637dc5a2c898a6] ++
  [0x113f9804bef90dae, 0x1b710b35131c471b, 0x28db77f523047d84, 0x32caab7b40c72493, 0x3c9ebe0a15c9bebc] ++
  [0x431d67c49c100d4c, 0x4cc5d4becb3e42b6, 0x597f299cfc657e2a, 0x5fcb6fab3ad6faec, 0x6c44198c4a475817]

/-- The eight working words a to h. -/
structure ShaWords where
  a : Dword
  b : Dword
  c : Dword
  d : Dword
  e : Dword
  f : Dword
  g : Dword
  h : Dword
deriving DecidableEq, Repr

def ShaWords.start : ShaWords :=
  ⟨0x6a09e667f3bcc908, 0xbb67ae8584caa73b, 0x3c6ef372fe94f82b, 0xa54ff53a5f1d36f1,
   0x510e527fade682d1, 0x9b05688c2b3e6c1f, 0x1f83d9abfb41bd6b, 0x5be0cd19137e2179⟩

def ShaWords.add (x y : ShaWords) : ShaWords :=
  ⟨x.a + y.a, x.b + y.b, x.c + y.c, x.d + y.d, x.e + y.e, x.f + y.f, x.g + y.g, x.h + y.h⟩

def ShaWords.list (x : ShaWords) : List Dword := [x.a, x.b, x.c, x.d, x.e, x.f, x.g, x.h]

/-- One round with its constant and its schedule word. -/
def ShaWords.round (x : ShaWords) (k : Dword × Dword) : ShaWords :=
  let s1 := x.e.rotateRight 14 ^^^ x.e.rotateRight 18 ^^^ x.e.rotateRight 41
  let ch := (x.e &&& x.f) ^^^ (~~~x.e &&& x.g)
  let t := x.h + s1 + ch + k.1 + k.2
  let s0 := x.a.rotateRight 28 ^^^ x.a.rotateRight 34 ^^^ x.a.rotateRight 39
  let maj := (x.a &&& x.b) ^^^ (x.a &&& x.c) ^^^ (x.b &&& x.c)
  ⟨t + (s0 + maj), x.a, x.b, x.c, x.d + t, x.e, x.f, x.g⟩

/-- The next schedule word, from the words so far, the newest first. -/
def shaNext (l : List Dword) : Dword :=
  let w (i : Nat) : Dword := (l[i]?).getD 0
  let s0 := (w 14).rotateRight 1 ^^^ (w 14).rotateRight 8 ^^^ (w 14) >>> 7
  let s1 := (w 1).rotateRight 19 ^^^ (w 1).rotateRight 61 ^^^ (w 1) >>> 6
  w 15 + s0 + w 6 + s1

/-- Eight bytes as a word, the first the highest. -/
def beWord (l : List Byte) : Dword := BitVec.ofNat 64 (l.foldl (fun n b => 256 * n + b.toNat) 0)
/-- The bytes of a word, the highest first. -/
def beBytes (w : Dword) : List Byte := (leBytes 8 w.toNat).reverse

/-- The 80 schedule words of a block of 128 bytes. -/
def shaSchedule (l : List Byte) : List Dword :=
  let w := (List.range 16).map fun i => beWord ((l.drop (8 * i)).take 8)
  (loop (fun _ t => shaNext t :: t) 64 w.reverse).reverse

def shaBlock (x : ShaWords) (l : List Byte) : ShaWords :=
  x.add (((shaLow ++ shaHigh).zip (shaSchedule l)).foldl ShaWords.round x)

/-- The message with its padding: one bit, zeros, and the length in bits in 16 bytes. -/
def shaPad (l : List Byte) : List Byte :=
  l ++ [0x80] ++ List.replicate ((239 - l.length % 128) % 128) 0 ++ (leBytes 16 (8 * l.length)).reverse

/-- The digest's 64 bytes. -/
def sha512Bytes (l : List Byte) : List Byte :=
  let m := shaPad l
  (((List.range (m.length / 128)).map fun i => (m.drop (128 * i)).take 128).foldl shaBlock ShaWords.start).list.flatMap beBytes

def sha512 (l : List Byte) : BitVec 512 := BitVec.ofNat 512 (leNat (sha512Bytes l))

/-! ## HMAC and HKDF -/

def hmacSha512 (key msg : List Byte) : List Byte :=
  let k := if 128 < key.length then sha512Bytes key else key
  let k := k ++ List.replicate (128 - k.length) 0
  sha512Bytes (k.map (· ^^^ 0x5C) ++ sha512Bytes (k.map (· ^^^ 0x36) ++ msg))

/-- 32 bytes of HKDF-SHA-512 with no salt. -/
def hkdfSha512 (secret info : List Byte) : List Byte :=
  (hmacSha512 (hmacSha512 (List.replicate 64 0) secret) (info ++ [1])).take 32

/-! ## SHAKE256 -/

/-- Rotations of the 25 lanes, lane x + 5 y. -/
def keccakRot : List Nat := [0, 1, 62, 28, 27, 36, 44, 6, 55, 20, 3, 10, 43, 25, 39, 41, 45, 15, 21, 8, 18, 2, 61, 56, 14]

/-- Round constants of FIPS 202. -/
def keccakRc : List Dword :=
  [0x0000000000000001, 0x0000000000008082, 0x800000000000808a, 0x8000000080008000] ++
  [0x000000000000808b, 0x0000000080000001, 0x8000000080008081, 0x8000000000008009] ++
  [0x000000000000008a, 0x0000000000000088, 0x0000000080008009, 0x000000008000000a] ++
  [0x000000008000808b, 0x800000000000008b, 0x8000000000008089, 0x8000000000008003] ++
  [0x8000000000008002, 0x8000000000000080, 0x000000000000800a, 0x800000008000000a] ++
  [0x8000000080008081, 0x8000000000008080, 0x0000000080000001, 0x8000000080008008]

/-- One round of Keccak-f[1600] on its 25 lanes. -/
def keccakRound (l : List Dword) (rc : Dword) : List Dword :=
  let a (x y : Nat) : Dword := (l[x % 5 + 5 * (y % 5)]?).getD 0
  let cs := (List.range 5).map fun x => a x 0 ^^^ a x 1 ^^^ a x 2 ^^^ a x 3 ^^^ a x 4
  let col (x : Nat) : Dword := (cs[x % 5]?).getD 0
  let t := l.zipIdx.map fun p => p.1 ^^^ (col (p.2 + 4) ^^^ (col (p.2 + 1)).rotateLeft 1)
  let b := (List.range 25).map fun i =>
    -- lane (x, y) takes lane (x + 3 y, x) rotated
    let j := 5 * (i % 5) + (i % 5 + 3 * (i / 5)) % 5
    BitVec.rotateLeft ((t[j]?).getD 0) ((keccakRot[j]?).getD 0)
  let lane (x y : Nat) : Dword := (b[x % 5 + 5 * y]?).getD 0
  let r := (List.range 25).map fun i => lane (i % 5) (i / 5) ^^^ (~~~lane (i % 5 + 1) (i / 5) &&& lane (i % 5 + 2) (i / 5))
  match r with
  | [] => []
  | h :: k => (h ^^^ rc) :: k

/-- A block of 136 bytes is taken up. -/
def keccakBlock (l : List Dword) (m : List Byte) : List Dword :=
  keccakRc.foldl keccakRound (l.zipIdx.map fun p => p.1 ^^^ BitVec.ofNat 64 (leNat ((m.drop (8 * p.2)).take 8)))

/-- The message with the padding of SHAKE. -/
def shakePad (l : List Byte) : List Byte :=
  let n := 136 - l.length % 136
  l ++ (if n = 1 then [0x9F] else [0x1F] ++ List.replicate (n - 2) 0 ++ [0x80])

/-- SHAKE256 with a 64-byte output. -/
def shake256 (l : List Byte) : BitVec 512 :=
  let m := shakePad l
  let z := ((List.range (m.length / 136)).map fun i => (m.drop (136 * i)).take 136).foldl keccakBlock (List.replicate 25 0)
  BitVec.ofNat 512 (leNat ((z.take 8).flatMap fun w => leBytes 8 w.toNat))

end Sys2Proof.Machine
end

