-- ==== Sys2Proof/Machine/PowerOps.lean ====
section
/-! DEFINITION. Machine/PowerOps.lean: power-up, resets and clocks (R398-R409), the boot ROM's work at cold reset (R383, R387,
R389), idle strike slots (R410, R411), thermal limits (R412) and the faults of R420. -/

namespace Sys2Proof.Machine

/-! ## Idle strike slots (R263, R410) -/

/-- Is ac j of a frame an idle strike slot under duty d? -/
def idleSlot (d j : Nat) : Bool := decide (j * (64 - d) / 64 < (j + 1) * (64 - d) / 64)

/-- Does a class-0 task that the drum has started still run, between two of its tiles as well (R263)? -/
def State.liveOn (s : State) (l : Nat) : Bool :=
  s.met.jobs.any fun j => j.tasks.any fun t => t.trec.cls == 0 && t.state == .running && t.isDrum && t.started.contains l

/-- Is drum p exempt: a class-0 task runs on it or has asked for preemption (R263), or a sound check, or its rerun,
runs, whose ac are no inserted slots (R373)? -/
def State.exempt (s : State) (p : Nat) : Bool :=
  s.liveOn (s.drum p).logical.toNat || (s.drum p).preempting.isSome ||
  decide ((s.beat.toNat + 80000 - 588 * p) % 80000 < if (s.drum p).sound.again then 512 else 256)

/-- Drums that an idle strike slot of this ac reaches. -/
def State.governed (s : State) : List Nat :=
  (List.range 136).filter fun p => (s.drum p).status == .active && !s.exempt p

/-- IDLE_STRIKE_SLOT. The skins pause; nothing but the count depends on it (R72). -/
def execIdleStrikeSlot (s : State) : Host.Outcome State Fault Refusal :=
  .next <| if s.power.locked && idleSlot s.power.duty.toNat (s.beat.toNat % 64) then
      s.modPower fun p => { p with idleSlots := p.idleSlots + BitVec.ofNat 64 s.governed.length }
    else s

/-! ## Duty (R411, R419) -/

/-- The thermal condition of R412 starts, or ends. -/
def Power.noteHot (p : Power) : Power :=
  { p with hotSince := if 110 ≤ p.tmax ∧ p.dtherm = 8 then p.hotSince.or (some p.ac) else none }

/-- Is every sensor of one die faulty (R420)? -/
def Power.blindDie (p : Power) : Bool :=
  (List.range 3).any fun k => ((p.temps.drop (8 * k)).take 8).all (·.1)

/-- The 10 us update; est is in 0.125 W units, a cap in 5 W units. -/
def Power.update (p : Power) (est : Nat) : Power :=
  let cap := min p.cap.toNat p.bmcCap.toNat
  let dcap := if 40 * cap < est ∧ 8 < p.dcap then p.dcap - 1 else if est + 40 < 40 * cap ∧ p.dcap < 64 then p.dcap + 1 else p.dcap
  let dtherm := if 100 ≤ p.tmax ∧ 8 < p.dtherm then p.dtherm - 1 else if p.tmax < 98 ∧ p.dtherm < 64 then p.dtherm + 1 else p.dtherm
  let dtherm := if p.blindDie then 8 else dtherm
  let p := { p with fastdNow := p.fastd, alertNow := p.alert, dcap := dcap, dtherm := dtherm,
                    est := BitVec.ofNat 16 est }
  ({ p with shownD := p.duty, shownTmax := p.tmax, shownSensor := p.tsensor, capped := decide (dcap < 64), hot := decide (dtherm < 64), fast := !p.pwrcapN
            floor := decide (p.limit = 8) && decide (40 * cap < est)
            capTime := if dcap < 64 then p.capTime + 1 else p.capTime
            hotTime := if dtherm < 64 then p.hotTime + 1 else p.hotTime }).noteHot

/-- DUTY_UPDATE with the estimate of the last 10 us. -/
def execDutyUpdate (est : Nat) (s : State) : Host.Outcome State Fault Refusal :=
  .next (if s.power.locked then s.modPower fun p => p.update (min est 65535) else s)

/-- PWRCAP_ASSERT: the falling edge. -/
def execPwrcapAssert (s : State) : Host.Outcome State Fault Refusal :=
  .next <| if s.power.pwrcapN then s.modPower fun p => { p with pwrcapN := false, fastSince := some p.ac } else s

/-- PWRCAP_RELEASE. -/
def execPwrcapRelease (s : State) : Host.Outcome State Fault Refusal :=
  .next (s.modPower fun p => { p with pwrcapN := true, fastSince := none })

/-! ## Sensors (R412) -/

/-- A reading outside the range of a sensor. -/
def outOfRange (t : Int) : Bool := decide (t < -40) || decide (150 < t)

/-- Sensor i differs by more than 10 deg C from the mean of the other good sensors of its die. -/
def strays (good : List Bool) (temps : List Int) (i : Nat) : Bool :=
  let others := (List.range 24).filter fun k => k / 8 == i / 8 && k != i && (good[k]?).getD false
  let sum := others.foldl (fun a k => a + (temps[k]?).getD 0) 0
  let n : Int := others.length
  let diff := n * (temps[i]?).getD 0 - sum
  decide (0 < n) && (decide (10 * n < diff) || decide (diff < -(10 * n)))

/-- FAULTY bits after a sample; a marked sensor stays marked until reset (log 30). -/
def Power.faulty (p : Power) (temps : List Int) : List Bool :=
  let old := p.temps.map (·.1)
  let good := (List.range 24).map fun i => !(old[i]?).getD false && !outOfRange ((temps[i]?).getD 0)
  (List.range 24).map fun i => !(good[i]?).getD false || strays good temps i

/-- Index and temperature of the hottest good sensor, the lowest index first. -/
def hottest (faulty : List Bool) (temps : List Int) : Option (Nat × Int) :=
  (List.range 24).foldl (fun o i =>
    let t := (temps[i]?).getD 0
    if (faulty[i]?).getD true then o else
    match o with
    | some (_, m) => if m < t then some (i, t) else o
    | none => some (i, t)) none

/-- Tmax, THERM_N and the trip after a sample. -/
def Power.sample (p : Power) (temps : List Int) : Power :=
  let f := p.faulty temps
  let p := { p with temps := (List.range 24).map fun i => ((f[i]?).getD true, (temps[i]?).getD 0) }
  let p := match hottest f temps with
    | some (i, t) => { p with tmax := t, tsensor := BitVec.ofNat 5 i }
    | none => p
  let alert : Int := p.alertNow.toNat
  let p := { p with thermN := if alert ≤ p.tmax then true else if p.tmax ≤ alert - 3 then false else p.thermN }
  let p := if p.blindDie then { p with dtherm := 8 } else p
  let p := p.noteHot
  if 115 ≤ p.tmax then { p with tripped := true, thermN := true } else p

/-- The trip: every clock but the reference stops and FAULT_N and THERM_N are held low until PWROK falls. Nothing of the part can
be read or do anything before that, and then it is lost: it is dropped at once (log 30). -/
def State.trip (s : State) : State :=
  let p := s.power
  ((s.coldReset).modPower fun q => { q with tripped := true, thermN := true, temps := p.temps, tmax := p.tmax, tsensor := p.tsensor }).emit
    (.faultN true)

/-- SENSOR_SAMPLE of the 24 junction sensors. -/
def execSensorSample (readings : List Int) (s : State) : Host.Outcome State Fault Refusal :=
  .next <| if !s.power.locked || s.power.tripped then s else
    let q := s.power.sample readings
    let new := (List.range 24).filter fun i => (((q.temps[i]?).map (·.1)).getD false) && !(((s.power.temps[i]?).map (·.1)).getD false)
    let s := s.modPower fun _ => q
    let s := new.foldl (fun s _ => s.raise 0x160 0x02) s
    if q.tripped then s.trip else s

/-- THERMAL_FAULT: 1 ms (320,000 ac) at 110 deg C with Dtherm = 8; another ms raises it again. -/
def execThermalFault (s : State) : Host.Outcome State Fault Refusal :=
  .next <| match s.power.hotSince with
    | some b => if b.toNat + 320000 ≤ s.power.ac.toNat then
        (s.modPower fun p => { p with hotSince := some p.ac }).raise 0x160 0x01 else s
    | none => s

/-- RAIL_FAULT of one of the 12 sense pairs. -/
def execRailFault (pair : Nat) (s : State) : Host.Outcome State Fault Refusal :=
  if pair < 12 then .next (if s.power.locked then s.raise 0x160 0x03 else s) else .fault .noSuchUnit

/-! ## Placement and the repair map at cold reset (R324, R334, R387) -/

/-- The neighbour that a direction names on the torus. -/
def neighbour (dims c : Coord) (dir : Nat) : Coord :=
  match dir with
  | 0 => { c with x := (c.x + 1) % dims.x }
  | 1 => { c with x := (c.x + dims.x - 1) % dims.x }
  | 2 => { c with y := (c.y + 1) % dims.y }
  | 3 => { c with y := (c.y + dims.y - 1) % dims.y }
  | 4 => { c with z := (c.z + 1) % dims.z }
  | 5 => { c with z := (c.z + dims.z - 1) % dims.z }
  | _ => ⟨0, 0, 0⟩

structure Place where
  role : BitVec 2
  coord : Coord
  dims : Coord
  dir : Nat → BitVec 3

/-- The placement in force; standalone 1 x 1 x 1 without a record. -/
def placeOf : Option (List Byte) → Place
  | none => ⟨0, ⟨0, 0, 0⟩, ⟨1, 1, 1⟩, fun _ => 6⟩
  | some l =>
    let c := Config.placeCoord l
    let d := Config.placeDims l
    ⟨Config.placeRole l, ⟨c.1.toNat, c.2.1.toNat, c.2.2.toNat⟩, ⟨d.1.toNat + 1, d.2.1.toNat + 1, d.2.2.toNat⟩, Config.placeDir l⟩

/-- Followers of a lead: the other parts of its chassis that the dimensions leave (R296, R334). -/
def followers (p : Place) : Nat :=
  if p.role = 1 then min 4 (p.dims.x - p.coord.x) * min 4 (p.dims.y - p.coord.y) * min 4 (p.dims.z - p.coord.z) - 1 else 0

/-- Units of a kind that the repair map in force names: 1 drums, 2 channels, 3 lanes, 4 ports. -/
def Boot.listed (b : Boot) (kind unit : Nat) : Bool := b.inForce.contains (BitVec.ofNat 32 (kind + 256 * unit))

/-- A port at its first release: a wired port starts training on the lanes that the repair map leaves (R325). -/
def Port.start (p : Port) (b : Boot) (pl : Place) (i : Nat) : Port :=
  let dir := pl.dir i
  let lanes := (List.range 8).foldl (fun (m : Byte) l => if b.listed 3 (8 * i + l) then m else m ||| BitVec.ofNat 8 (2 ^ l)) 0
  { p with dir := dir, peer := if dir.toNat ≤ 5 then neighbour pl.dims pl.coord dir.toNat else ⟨0, 0, 0⟩
           lanes := if dir.toNat ≤ 5 then lanes else 0
           state := if 6 ≤ dir.toNat then .down else if b.listed 4 i then .retired else .training }

/-- A port as the boot releases the link ports (R389): one in service stays so (R406), one that a recovery set down trains again
on the lanes it has left, and one that has never run starts. -/
def Port.release (p : Port) (b : Boot) (pl : Place) (i : Nat) : Port :=
  if p.state ≠ .down then p
  else if p.lanes = 0 then p.start b pl i
  else { Port.reset with dir := p.dir, peer := p.peer, lanes := p.lanes, counters := p.counters, state := .training }

def State.releasePorts (s : State) : State :=
  s.modFab fun f => { f with ports := f.ports.zipIdx.map fun q => q.1.release s.boot (placeOf s.boot.placeNow) q.2 }

/-! ## Records (R387) -/

/-- Does a record verify: both signatures, and for a field record a counter value of at most the present counter? -/
def FlashRecord.verifies (r : FlashRecord) (counter : Half) : Bool :=
  r.sigEd && r.sigMldsa && (r.kind == .factory || decide (r.counter.toNat ≤ counter.toNat))

/-- The records that take effect: those that stood at the last cold reset (R394) and verify. -/
def Boot.goodRecords (b : Boot) : List FlashRecord := b.coldRecords.filter (·.verifies b.counter)

/-- The words of a repair body. -/
def repairWords (l : List Byte) : List Word := (List.range (l.length / 4)).map fun i => toW (leNat (sub l (4 * i) 4))

/-- Repair entries of the factory map and of the field records that verify. -/
def Boot.repairMap (b : Boot) : List Word :=
  (b.goodRecords.filter (·.kind != .place)).flatMap fun r => repairWords r.body

/-- Body of the newest placement record that verifies. -/
def Boot.newestPlace (b : Boot) : Option (List Byte) := ((b.goodRecords.filter (·.kind == .place)).getLast?).map (·.body)

/-- The records published (R387, R389): the counter value in force, and at the first boot since the cold reset what they fix: the
repair map, the placement and the drum map. Records written since take effect at the next cold reset (R394). -/
def State.publish (s : State) : State :=
  let s := s.modBoot fun b => { b with floor := b.counter }
  if s.boot.published then s else
  let s := s.modBoot fun b => { b with inForce := b.repairMap, placeNow := b.newestPlace, published := true }
  let pl := placeOf s.boot.placeNow
  let s := s.modPcie fun p => { p with role := pl.role, coord := pl.coord, nfol := BitVec.ofNat 6 (followers pl) }
  let s := s.modFab fun f => { f with dims := pl.dims, root := decide (pl.coord = ⟨0, 0, 0⟩) }
  ((List.range 136).filter (s.boot.listed 1)).foldl (fun s d => s.retireDrum d) s

/-! ## Power-up and resets (R400, R403-R409) -/

/-- POWER_ON: PWROK rises and the PLL starts. -/
def execPowerOn (s : State) : Host.Outcome State Fault Refusal :=
  .next <| if s.power.pwrok then s else
    s.coldReset.modPower fun p => { p with pwrok := true, rstcause := p.rstcause ||| 1 }

/-- The info strings of R383, "konik-" and the rest. -/
def konikInfo (l : List Byte) : List Byte := [0x6B, 0x6F, 0x6E, 0x69, 0x6B, 0x2D] ++ l

/-- A 32-byte value derived from the device secret under an info string (R383). -/
def derived (secret : BitVec 256) (info : List Byte) : BitVec 256 :=
  BitVec.ofNat 256 (leNat (hkdfSha512 (leBytes 32 secret.toNat) (konikInfo info)))

/-- The key store (R383): "konik-ed", "konik-mldsa", "konik-rpmc". -/
def KeyStore.of (secret : BitVec 256) : KeyStore :=
  { secret := secret, ed := derived secret [0x65, 0x64], mldsa := derived secret [0x6D, 0x6C, 0x64, 0x73, 0x61],
    rpmc := derived secret [0x72, 0x70, 0x6D, 0x63] }

/-- The device ID: the first 16 bytes of SHA-512 over the two public keys (R383). -/
def KeyStore.deviceId (k : KeyStore) : BitVec 128 :=
  (sha512 (Config.publicKey k.ed 0 ++ Config.publicKey k.mldsa 1)).setWidth 128

/-- A fault of source 0x161 raised by a step of the boot, latched with the beat at which it is raised (R392). A further one of
the same step joins it (R397); whether one of another step falls on the same beat no command states: a free value decides
(R358, log 2). -/
def State.bootFault (s : State) (same : Bool) (sub : Nat) : State :=
  let f := s.fault 0x161
  let x : Raised := ⟨0x161, BitVec.ofNat 8 sub, none, none, false⟩
  if f.valid = false then (s.setFault 0x161 (f.latch x s.beat (s.timerFrom 0x161))).interrupt 0x161
  else if f.frozen then s.setFault 0x161 f.late
  else if same then s.setFault 0x161 (f.join x)
  else
    let r := s.draw
    if r.1.getLsbD 0 then r.2.setFault 0x161 (f.join x) else (r.2.setFault 0x161 f.late).escalate 0x161 []

/-- PLL_LOCK: the beat counter starts at 0 and the boot ROM and the memory controllers are released. `pufOk` says whether the PUF
array gives the secret; bit c of `trained` whether channel c trains. -/
def execPllLock (pufOk : Bool) (trained : Dword) (s : State) : Host.Outcome State Fault Refusal :=
  .next <| if !s.power.pwrok || s.power.locked || s.power.tripped then s else
    let s := { s with beat := 0 }.modPower fun p => { p with ac := 0, locked := true, refOk := true }
    let s := s.modBoot fun b =>
      let k := if pufOk then some (KeyStore.of (Config.pufSecret b.helper)) else none
      { b with booting := true, pufOk := pufOk, coldRecords := b.records, keys := k, devid := match k with | some x => x.deviceId | none => 0 }
    let s := s.modFab fun f => { f with lockBeat := some 0 }
    let s := if pufOk then s else s.bootFault false 0x04
    s.trainMem trained false

/-- A cold reset lets go of FAULT_N. -/
def State.dropPower (s : State) : State := if s.power.faultLow then s.coldReset.emit (.faultN false) else s.coldReset

/-- PLL_LOCK_LOSS: an internal cold reset. -/
def execPllLockLoss (s : State) : Host.Outcome State Fault Refusal :=
  .next <| if s.power.locked then s.dropPower.modPower fun p => { p with rstcause := p.rstcause ||| 16 } else s

/-- RESET_N_ASSERT: RESET_N low for 1 us. -/
def execResetnAssert (s : State) : Host.Outcome State Fault Refusal :=
  .next <| if s.power.locked && s.power.resetN then (s.warmReset 1).modPower fun p => { p with resetN := false } else s

/-- RESET_N_RELEASE: the controllers train again, with the outcome `trained`, and the boot ROM runs. -/
def execResetnRelease (trained : Dword) (s : State) : Host.Outcome State Fault Refusal :=
  .next <| if s.power.resetN then s else
    let s := s.modPower fun p => { p with resetN := true }
    if s.power.locked then s.trainMem trained true else s

/-- A write to PWR_RST: the key starts a warm reset. -/
def State.writeRst (s : State) (v : Nat) : State := if v = 0x5741524D then s.warmReset 2 else s.badacc

/-- PWR_RST. -/
def execPwrRst (value : Word) (s : State) : Host.Outcome State Fault Refusal :=
  .next (if s.windowOpen 0x160 then s.writeRst value.toNat else s)

/-- POWER_DOWN: PWROK falls; the outputs float and everything volatile is lost. -/
def execPowerDown (s : State) : Host.Outcome State Fault Refusal :=
  .next (s.dropPower.modPower fun p => { p with pwrok := false, rstcause := 0 })

end Sys2Proof.Machine
end

