-- ==== Sys2Proof/Machine/BootOps.lean ====
section
/-! DEFINITION. Machine/BootOps.lean: the end of the boot (R384-R392), updates and records (R394, R397), attestation (R395,
R396), diagnostic mode (R433). -/

namespace Sys2Proof.Machine

/-! ## Slots (R386, R390) -/

def Boot.slotAt (b : Boot) (k : Bool) : FlashSlot := if k then b.slotB else b.slotA
def Boot.setSlot (b : Boot) (k : Bool) (x : FlashSlot) : Boot := if k then { b with slotB := x } else { b with slotA := x }

/-- Flash offset of a slot, as the header gives it, and its size (R381). -/
def Boot.slotBase (b : Boot) (k : Bool) : Nat := (b.areas[if k then 4 else 3]?).getD 0
def slotSize : Nat := 0x2000000

/-- The bytes of a section of the slot at flash offset `base`. -/
def FlashSlot.sectionBytes (x : FlashSlot) (base : Nat) (e : ImageSection) : List Byte := sub x.bytes (e.off - base) e.len

/-- A section lies inside the slot and hashes to its digest (R386). -/
def FlashSlot.sectionOk (x : FlashSlot) (base : Nat) (e : ImageSection) : Bool :=
  decide (base ≤ e.off ∧ e.off + e.len ≤ base + slotSize) && sha512 (x.sectionBytes base e) == e.digest

/-- Both keys of the manifest have the digests that the ROM holds (R382). -/
def Boot.keysMatch (b : Boot) (x : FlashSlot) : Bool :=
  sha512 x.keyEd == sha512 b.rootEd && sha512 x.keyMldsa == sha512 b.rootMldsa

/-- What R385 and R386 ask of slot k but its SVN. -/
def Boot.intact (b : Boot) (k : Bool) : Bool :=
  let x := b.slotAt k
  x.present && x.magic && x.flagsOk && x.sigEd && x.sigMldsa && b.keysMatch x && (!x.devbind || x.devid == b.devid) &&
    (!x.factory || x.devbind) && decide (x.sections.length ≤ 64) && x.sections.all (x.sectionOk (b.slotBase k))

/-- The verdict of R386. -/
def Boot.verdict (b : Boot) (k : Bool) : SlotVerdict :=
  if !b.intact k then .badVerify else if (b.slotAt k).svn.toNat < b.counter.toNat then .rollback else .bootable

/-- Sub-source of a slot that is refused. -/
def verdictFault : SlotVerdict → Option Nat
  | .bootable => none
  | .badVerify => some 0x01
  | .rollback => some 0x02

/-- The first slot tried: TRIAL when it is set and TRIED is clear, otherwise ACTIVE. -/
def Boot.firstSlot (b : Boot) : Bool := match b.trialSlot with
  | some k => if b.tried then b.active else k
  | none => b.active

/-! ## Measurements (R388) -/

def bothHashes (l : List Byte) : BitVec 512 × BitVec 512 := (sha512 l, shake256 l)

def placeBytes (b : Boot) : List Byte := b.placeNow.getD []

/-- Measurement 7: the mode, and whether diagnostic mode has been entered. -/
def Boot.meas7 (b : Boot) : BitVec 512 × BitVec 512 :=
  bothHashes (Config.measured 7 [b.mode.setWidth 8, BitVec.ofNat 8 b.entered.toNat])

/-- The seven measurements of a boot from a slot at flash offset `base`: its manifest and its sections as they stand, and the
model's bytes of the others. -/
def Boot.measure (b : Boot) (x : FlashSlot) (base : Nat) : List (BitVec 512 × BitVec 512) :=
  [bothHashes (Config.measured 1 []), bothHashes (x.bytes.take (Config.manifestSize x.bytes)),
   bothHashes (x.sections.flatMap (x.sectionBytes base)),
   bothHashes (Config.measured 4 (b.inForce.flatMap fun w => leBytes 4 w.toNat)), bothHashes (Config.measured 5 (placeBytes b)),
   bothHashes (Config.measured 6 (leBytes 2 b.counter.toNat ++ leBytes 2 x.svn.toNat)), b.meas7]

def Boot.refresh7 (b : Boot) : Boot := { b with meas := b.meas.take 6 ++ [b.meas7] }

/-- The measurements as an alias certificate holds them. -/
def Boot.measBytes (b : Boot) : List Byte := b.meas.flatMap fun m => leBytes 64 m.1.toNat ++ leBytes 64 m.2.toNat

/-- The alias seeds, the two halves of HMAC-SHA-512 over the device secret and measurement 2, and the alias certificates, each
signed by the device key of its algorithm (R384). -/
def Boot.certify (b : Boot) : Boot := match b.keys with
  | none => { b with aliasEd := 0, aliasMldsa := 0, aliasCertEd := [], aliasCertMldsa := [] }
  | some k =>
    let m2 : BitVec 512 × BitVec 512 := (b.meas[1]?).getD (0, 0)
    let h := hmacSha512 (leBytes 32 k.secret.toNat) (leBytes 64 m2.1.toNat)
    let ed := BitVec.ofNat 256 (leNat (h.take 32))
    let ml := BitVec.ofNat 256 (leNat (h.drop 32))
    { b with aliasEd := ed, aliasMldsa := ml, aliasCertEd := Config.aliasCert k.ed (Config.publicKey ed 0) b.measBytes 0
             aliasCertMldsa := Config.aliasCert k.mldsa (Config.publicKey ml 1) b.measBytes 1 }

/-! ## The end of the boot (R389-R392) -/

/-- BAR0 is enabled, with the memory map built: the timers of source 0x161 start now (R392), but never in recovery. -/
def State.enableBar0 (s : State) : State :=
  let s := s.bringMem.modBoot fun b => { b with bar0 := true, booting := false }
  let f := s.fault 0x161
  if f.valid && !f.frozen && decide (f.level ≠ 3) && s.boot.mode != 2 then s.setFault 0x161 { f with origin := some s.power.ac } else s

/-- Recovery: MET_CTRL.EN is held at 0 and the link ports stay down. -/
def State.recover (s : State) : State :=
  let s := s.modBoot fun b => { b with mode := 2, trial := false, slot := b.active, svn := 0, imgver := 0 }
  let s := s.modBoot fun b => ({ b with meas := b.measure FlashSlot.empty 0 }).certify
  let s := s.modMet fun m => { m with en := false }
  let s := s.modFab fun f => { f with ports := f.ports.map fun p => { p with state := if p.state = .retired then .retired else .down } }
  s.enableBar0

/-- The booted slot: its identity, the alias keys and the measurements; the link ports are released. -/
def State.bootFrom (s : State) (k : Bool) : State :=
  let x := s.boot.slotAt k
  let s := s.modBoot fun b => { b with mode := if x.factory then 1 else 0, trial := decide (b.trialSlot = some k), slot := k,
                                       svn := x.svn, imgver := x.imgver }
  let s := s.modBoot fun b => ({ b with meas := b.measure x (b.slotBase k) }).certify
  s.releasePorts.enableBar0

def State.slotFault (s : State) (v : SlotVerdict) : State := match verdictFault v with
  | some n => s.bootFault false n
  | none => s

/-- The records are read: each that fails R387 raises the record fault and is ignored. -/
def State.checkRecords (s : State) : State :=
  (s.boot.records.filter fun r => !r.verifies s.boot.counter).zipIdx.foldl (fun s r => s.bootFault (decide (r.2 ≠ 0)) 0x07) s

/-- TRIED is set before a TRIAL slot is read (R390). -/
def State.markTried (s : State) : State :=
  if s.boot.trialSlot.isSome && !s.boot.tried then s.modBoot fun b => { b with tried := true } else s

/-- Tries the first slot, then the other. -/
def State.bootSlots (s : State) : State :=
  let k := s.boot.firstSlot
  let s := s.markTried
  let v := s.boot.verdict k
  if v = .bootable then s.bootFrom k else
  let s := s.slotFault v
  let w := s.boot.verdict (!k)
  if w = .bootable then s.bootFrom (!k) else
    let t := (s.slotFault w).bootFault false 0x03
    -- a record that these faults have driven to gong stands frozen: the boot that the gong starts goes on from there (R392)
    if (t.fault 0x161).frozen && !(s.fault 0x161).frozen then t else t.recover

/-- A boot whose flash fails: at a read before the counter's; after it, when the records have been published and TRIED is set; or
at the other slot, when the first one has been refused. No command states which: a free value (log 2). -/
def State.flashFails (s : State) (counterOk : Bool) : State :=
  let r := s.draw
  if r.1.getLsbD 0 then (r.2.bootFault false 0x05).recover
  else if !counterOk then (r.2.bootFault false 0x06).recover
  else
    let t := r.2.checkRecords.publish
    let v := t.boot.verdict t.boot.firstSlot
    let t := t.markTried
    ((if r.1.getLsbD 1 then t.slotFault v else t).bootFault false 0x05).recover

/-- BOOT_COMPLETE: `flashOk` and `counterOk` say whether the flash and the counter answered. What the records fix is published
only where the PUF, the flash and the counter are good (R389, R391). -/
def execBootComplete (flashOk counterOk : Bool) (s : State) : Host.Outcome State Fault Refusal :=
  .next <| if !s.boot.booting || !s.power.resetN || !s.power.locked then s
    else if !s.boot.pufOk then s.recover
    else if !flashOk then s.flashFails counterOk
    else if !counterOk then (s.bootFault false 0x06).recover
    else s.checkRecords.publish.bootSlots

/-! ## Updates (R394) -/

/-- Records area: 256 KiB (R381). -/
def recordArea : Nat := 262144

/-- A request is malformed: the update request fault and RESULT 1. -/
def State.badUpdate (s : State) : State := (s.modBoot fun b => { b with result := 1 }).raise 0x161 0x08

/-- Does the data of an operation lie in LPDDR5 or the host window? -/
def State.updData (s : State) (len : Nat) : Bool :=
  s.inMem s.boot.updAddr.toNat len || inHost s.boot.updAddr.toNat len

/-- LEN of the request is a multiple of 4 and at most 32 MiB. -/
def lenOk (len : Nat) : Bool := len % 4 == 0 && decide (len ≤ 33554432)

/-- A request to the engine. The boot window answers in every mode. -/
def State.request (s : State) (op : UpdateOp) (len : Nat) (allowed : Bool) : State :=
  if !s.boot.bar0 then s
  else if s.boot.busy.isSome then s.badacc
  else if !lenOk len || !allowed then s.badUpdate
  else s.modBoot fun b => { b with busy := some op }

/-- WRITE_IMAGE. -/
def execWriteImage (len : Nat) (s : State) : Host.Outcome State Fault Refusal := .next (s.request (.writeImage len) len (s.updData len))
/-- COMMIT: only when the booted slot is TRIAL. -/
def execCommit (len : Nat) (s : State) : Host.Outcome State Fault Refusal := .next (s.request .commit len (s.boot.trialSlot == some s.boot.slot && s.boot.trial))
/-- ABANDON. -/
def execAbandon (len : Nat) (s : State) : Host.Outcome State Fault Refusal := .next (s.request .abandon len true)
/-- WRITE_REPAIR. -/
def execWriteRepair (len : Nat) (s : State) : Host.Outcome State Fault Refusal := .next (s.request (.writeRepair len) len (s.updData len))
/-- WRITE_PLACE. -/
def execWritePlace (len : Nat) (s : State) : Host.Outcome State Fault Refusal := .next (s.request (.writePlace len) len (s.updData len))

/-- A slot as the bytes in it describe it. -/
def slotOf (l : List Byte) : FlashSlot :=
  { present := true, magic := Config.imageMagic l, svn := BitVec.ofNat 16 (Config.imageSvn l),
    imgver := BitVec.ofNat 48 (Config.imageVer l), factory := Config.imageFactory l, devbind := Config.imageDevBind l,
    flagsOk := Config.imageFlags l, devid := Config.imageDevid l, subsystem := Config.imageSubsystem l,
    sections := (Config.imageSections l).map fun e => ⟨e.1, e.2.1, e.2.2⟩, keyEd := Config.imageKey l 0,
    keyMldsa := Config.imageKey l 1, sigEd := Config.imageSigned l 0, sigMldsa := Config.imageSigned l 1, bytes := l }

def State.setResult (s : State) (r : BitVec 4) : State := s.modBoot fun b => { b with result := r, busy := none }

/-- The data of an operation; none while they wait for READY (R306) or for the lead (R296). What the engine takes where
LPDDR5 gives it an error the spec leaves open: free bytes (log 62). -/
def State.updFetch (s : State) (len : Nat) : Option (List Byte) × State :=
  let a := s.boot.updAddr.toNat
  if s.heldAt a len || s.slotTaken (s.rangeChans a len) then (none, s) else
  match s.fetchDev .boot a len false with
  | (.data l, t) => (some l, t.dropAsks (· == .boot))
  | (.error, t) =>
    let n := (len + 7) / 8
    (some (((List.range n).flatMap fun i => leBytes 8 (Config.freeValue (t.free + i)).toNat).take len), { t with free := t.free + n })
  | (.waits, t) => (none, t)

/-- The end of WRITE_IMAGE: LEN bytes of the slot that is not booted are written, the slot is checked, and put on trial or not. -/
def State.endImage (s : State) (l : List Byte) : State :=
  let k := !s.boot.slot
  let s := s.modBoot fun b => b.setSlot k (slotOf (l ++ (b.slotAt k).bytes.drop l.length))
  match s.boot.verdict k with
  | .bootable => (s.modBoot fun b => { b with trialSlot := some k, tried := false }).setResult 0
  | v => ((s.modBoot fun b => { b with trialSlot := if b.trialSlot = some k then none else b.trialSlot }).setResult 2).raise 0x161
      ((verdictFault v).getD 0x01)

/-- The end of COMMIT: counter first, then header. -/
def State.endCommit (s : State) (flashOk counterOk : Bool) : State :=
  if !counterOk then (s.setResult 4).raise 0x161 0x06 else
  let s := s.modBoot fun b =>
    let v := (b.slotAt b.slot).svn
    if b.counter.toNat < v.toNat then { b with counter := v, floor := v } else b
  if !flashOk then (s.setResult 3).raise 0x161 0x05
  else (s.modBoot fun b => { b with active := b.slot, trialSlot := none, tried := false, trial := false }).setResult 0

/-- Bytes that the records take. -/
def Boot.recordBytes (b : Boot) : Nat := b.records.foldl (fun n r => n + Config.recordSize r.body.length) 0

/-- The end of a record write: the record carries the counter value and is signed by the device keys; a part without them
cannot sign it, and it does not verify (log 44). RESULT 5 when the area is full. -/
def State.endRecord (s : State) (kind : RecordKind) (l : List Byte) : State :=
  let b := s.boot
  if recordArea < b.recordBytes + Config.recordSize l.length then s.setResult 5
  else (s.modBoot fun b => { b with records := b.records ++ [⟨kind, l, b.counter, b.keys.isSome, b.keys.isSome⟩] }).setResult 0

/-- The end of an operation that takes data, once they are at hand. -/
def State.withData (s : State) (len : Nat) (f : State → List Byte → State) : State :=
  match s.updFetch len with
  | (some l, t) => f t l
  | (none, t) => t

/-- The effect of an operation as it ends. -/
def State.endUpdate (s : State) (flashOk counterOk : Bool) : State :=
  match s.boot.busy with
  | none => s
  | some .commit => s.endCommit flashOk counterOk
  | some op =>
    if !flashOk then (s.setResult 3).raise 0x161 0x05 else
    match op with
    | .writeImage len => s.withData len (·.endImage ·)
    | .abandon => (s.modBoot fun b => { b with trialSlot := none, trial := false }).setResult 0
    | .writeRepair len => s.withData len (·.endRecord .repair ·)
    | .writePlace len => s.withData len (·.endRecord .place ·)
    | .commit => s

/-! ## Attestation (R395, R396) -/

/-- The part answers SPDM requests once it has booted with an identity. -/
def State.attests (s : State) : Bool := s.boot.bar0 && s.boot.keys.isSome && s.pcie.role != 2 && !s.pcie.perst

/-- The certificate chain of slot 0 (kind 0), and that of ML-DSA-65 (kind 1): root, intermediate and device certificate from the
flash, then the alias certificate. -/
def Boot.chainOf (b : Boot) (kind : Nat) : List Byte :=
  if kind = 0 then b.certEd ++ b.aliasCertEd else b.certMldsa ++ b.aliasCertMldsa

/-- The bytes of a request whose fields the command gives one by one. -/
def requestOf (code : Nat) (fields : List Byte) : List Byte := Config.spdmBytes (0x80 + code) [] fields

/-- Parts of the transcript: version to algorithms, certificates, measurements. -/
inductive Part where
  | start | vca | cert | meas
deriving DecidableEq, Repr

/-- A message joins its part of the transcript; what it makes stale is dropped (R396, log 45). -/
def Boot.noteMsg (b : Boot) (p : Part) (l : List Byte) : Boot :=
  let b := { b with signedHash := none }
  match p with
  | .start => { b with vca := l, certMsgs := [], measMsgs := [] }
  | .vca => { b with vca := b.vca ++ l, measMsgs := [] }
  | .cert => { b with certMsgs := b.certMsgs ++ l, measMsgs := [] }
  | .meas => { b with measMsgs := b.measMsgs ++ l, certMsgs := [] }

/-- An unsigned answer: the request and the response join the transcript. -/
def State.spdmAnswer (s : State) (p : Part) (code : Nat) (req content : List Byte) : State :=
  let r := Config.spdmBytes code req content
  (s.modBoot (·.noteMsg p (req ++ r))).answer r

/-- A signed answer: the Ed25519 alias signature over the transcript, which starts anew behind it; PQSIG may follow. -/
def State.spdmSigned (s : State) (code : Nat) (before req content : List Byte) : State :=
  let r := Config.spdmBytes code req content
  let t := s.boot.vca ++ before ++ req ++ r
  (s.modBoot fun b => { b with certMsgs := [], measMsgs := [], signedHash := some (sha512 t) }).answer
    (r ++ Config.sign s.boot.aliasEd 0 t)

/-- An SPDM error response with an error code; 0x04 is UnexpectedRequest. -/
def State.spdmError (s : State) (code : Nat) : State :=
  (s.modBoot fun b => { b with signedHash := none }).answer (Config.spdmBytes 0x7F [] (leBytes 1 code))

/-- A vendor-defined answer: the PCI-SIG standard ID, Odzel's Vendor ID, and the payload with its length (R395; the layout is that
of SPDM, PRESUMED, log 45). -/
def vendorDefined (payload : List Byte) : List Byte :=
  Config.spdmBytes 0x7E [] (leBytes 2 3 ++ [2] ++ leBytes 2 Config.vendorId.toNat ++ leBytes 2 payload.length ++ payload)

/-- Content of a measurement index: 1-7 SHA-512, 17-23 SHAKE256, 0xFF all of them, 0 how many there are. -/
def Boot.measOf (b : Boot) (i : Nat) : Option (List Byte) :=
  let at_ (k : Nat) : BitVec 512 × BitVec 512 := (b.meas[k]?).getD (0, 0)
  if i = 0 then some [14]
  else if i = 0xFF then some ((List.range 7).flatMap (fun k => leBytes 64 (at_ k).1.toNat) ++ (List.range 7).flatMap fun k => leBytes 64 (at_ k).2.toNat)
  else if 1 ≤ i ∧ i ≤ 7 then some (leBytes 64 (at_ (i - 1)).1.toNat)
  else if 17 ≤ i ∧ i ≤ 23 then some (leBytes 64 (at_ (i - 17)).2.toNat)
  else none

/-- One request answered. The contents of VERSION, CAPABILITIES and ALGORITHMS name what R395 offers: versions 1.2 and 1.3;
certificates, challenges and signed measurements, no key exchange; Ed25519 and SHA-512 (bits of SPDM, PRESUMED, log 45). -/
def State.spdm (s : State) (i : Instr) : State :=
  if !s.attests then s else
  match i with
  | .getVersion req => s.spdmAnswer .start 0x04 req [0x12, 0x13]
  | .getCapabilities req => s.spdmAnswer .vca 0x61 req [0x16]
  | .negotiateAlgorithms req => s.spdmAnswer .vca 0x63 req (leBytes 4 0x400 ++ leBytes 4 4)
  | .getDigests req => s.spdmAnswer .cert 0x01 req (leBytes 64 (sha512 (s.boot.chainOf 0)).toNat)
  | .getCertificate slot off len =>
    if slot ≠ 0 then s.spdmError 0x01
    else s.spdmAnswer .cert 0x02 (requestOf 0x02 ([0] ++ leBytes 2 off ++ leBytes 2 len)) (sub (s.boot.chainOf 0) off len)
  | .challenge nonce =>
    s.spdmSigned 0x03 s.boot.certMsgs (requestOf 0x03 ([0] ++ nonce)) (leBytes 64 (sha512 (s.boot.chainOf 0)).toNat)
  | .getMeasurements n signed nonce =>
    match s.boot.measOf n with
    | none => s.spdmError 0x01
    | some l =>
      let req := requestOf 0x60 ([BitVec.ofNat 8 signed.toNat, BitVec.ofNat 8 n] ++ nonce)
      if signed then s.spdmSigned 0x60 s.boot.measMsgs req l else s.spdmAnswer .meas 0x60 req l
  | .pqsig =>
    match s.boot.signedHash with
    | some h => (s.modBoot fun b => { b with signedHash := none }).answer
        (vendorDefined (Config.sign s.boot.aliasMldsa 1 (leBytes 64 h.toNat)))
    | none => s.spdmError 0x04
  | .pqchain off len => (s.modBoot fun b => { b with signedHash := none }).answer
      (vendorDefined (sub (s.boot.chainOf 1) off (min len 4096)))
  | _ => s

/-- A request now, or once the flash operation has ended. -/
def State.spdmRequest (s : State) (i : Instr) : State :=
  if s.boot.busy.isSome then s.modBoot fun b => { b with spdmWait := b.spdmWait ++ [i] } else s.spdm i

/-- UPDATE_OP_COMPLETE: the operation ends, and the requests that waited are answered. It goes on while its data wait. -/
def execUpdateOpComplete (flashOk counterOk : Bool) (s : State) : Host.Outcome State Fault Refusal :=
  .next <| if s.boot.busy.isNone then s else
    let s := s.endUpdate flashOk counterOk
    if s.boot.busy.isSome then s else
    let w := s.boot.spdmWait
    w.foldl (fun s i => s.spdm i) (s.modBoot fun b => { b with spdmWait := [] })

/-- The data object that DOE Discovery lists at an index, and the next index: DOE Discovery and CMA/SPDM of the PCI-SIG, and behind
the last none (R395; the layout and the numbers are the PCI Express base specification's, PRESUMED, log 45). -/
def doeObject (index : Nat) : List Byte :=
  leBytes 2 1 ++ [0, 0] ++ leBytes 4 3 ++
    (if index = 0 then leBytes 2 1 ++ [0, 1] else if index = 1 then leBytes 2 1 ++ [1, 0] else leBytes 2 0xFFFF ++ [0, 0])

/-- DOE_DISCOVERY. -/
def execDoeDiscovery (index : Nat) (s : State) : Host.Outcome State Fault Refusal :=
  .next (if s.boot.bar0 && s.pcie.role != 2 && !s.pcie.perst then s.answer (doeObject index) else s)
def execGetVersion (request : List Byte) (s : State) : Host.Outcome State Fault Refusal := .next (s.spdmRequest (.getVersion request))
def execGetCapabilities (request : List Byte) (s : State) : Host.Outcome State Fault Refusal := .next (s.spdmRequest (.getCapabilities request))
def execNegotiateAlgorithms (request : List Byte) (s : State) : Host.Outcome State Fault Refusal := .next (s.spdmRequest (.negotiateAlgorithms request))
def execGetDigests (request : List Byte) (s : State) : Host.Outcome State Fault Refusal := .next (s.spdmRequest (.getDigests request))
def execGetCertificate (slot offset length : Nat) (s : State) : Host.Outcome State Fault Refusal := .next (s.spdmRequest (.getCertificate slot offset length))
def execChallenge (nonce : List Byte) (s : State) : Host.Outcome State Fault Refusal := .next (s.spdmRequest (.challenge nonce))
def execGetMeasurements (index : Nat) (signed : Bool) (nonce : List Byte) (s : State) : Host.Outcome State Fault Refusal :=
  .next (s.spdmRequest (.getMeasurements index signed nonce))
def execPqsig (s : State) : Host.Outcome State Fault Refusal := .next (s.spdmRequest .pqsig)
def execPqchain (offset length : Nat) (s : State) : Host.Outcome State Fault Refusal := .next (s.spdmRequest (.pqchain offset length))

/-! ## Diagnostic mode (R433) -/

/-- A write to DIAG_MODE_KEY. -/
def State.writeDiagKey (s : State) (v : Nat) : State :=
  if v = 0x44494147 then s.modBoot fun b => Boot.refresh7 { b with diag := true, entered := true }
  else if v = 0x4E4F524D then s.modBoot fun b => { b with diag := false }
  else s.badacc

/-- DIAG_MODE_ENTER. -/
def execDiagModeEnter (s : State) : Host.Outcome State Fault Refusal := .next (if s.boot.bar0 then s.writeDiagKey 0x44494147 else s)
/-- DIAG_MODE_LEAVE. -/
def execDiagModeLeave (s : State) : Host.Outcome State Fault Refusal := .next (if s.boot.bar0 then s.writeDiagKey 0x4E4F524D else s)

end Sys2Proof.Machine
end

