-- ==== Sys2Proof/Machine/Units.lean ====
section
/-! DEFINITION. Machine/Units.lean: the units of a drum at work on their queues: what each instruction waits for (R88, R91,
R141, R151, R165, R167, R210) and what every unit does next (R150). -/

namespace Sys2Proof.Machine

/-! ## Shell rows that earlier instructions use -/

def orRows (l : List (BitVec 256)) : BitVec 256 := l.foldl (· ||| ·) 0

/-- Steps on the skin: loading, feeding, or with rows in the lane queues. -/
def Skin.steps (k : Skin) : List Step := k.load.toList ++ k.cur.toList ++ k.laneQ.map (·.step)

/-- Shell rows of a block's slots. -/
def Drum.blockRows (x : Drum) (rd : Nat) : BitVec 256 := rowMask (x.stack rd).row0 ((x.desc rd).depth * (x.stack rd).m)

/-- Shell rows that STRIKEs, TAPs and CHECKs issued before order o still write, carries of their leaves among them. -/
def Drum.skinWrites (x : Drum) (o : Nat) : BitVec 256 :=
  orRows ((x.skin.steps.filter fun t => decide (t.ord < o)).map (·.all)) |||
  orRows ((x.skin.jobs.filter fun j => decide (j.u.ord < o)).map (·.rows)) |||
  orRows ((x.shell.leaves.filter fun l => decide (l.ord < o)).map fun l => x.blockRows l.rd)

/-- Shell rows that the STRIKE of order o has not made final: those it still feeds or has in the lane queues (R167). -/
def Drum.unwritten (x : Drum) (o : Nat) : BitVec 256 :=
  orRows ((x.skin.jobs.filter fun j => decide (j.u.ord = o)).map (·.rows)) |||
  orRows ((x.skin.load.toList.filter fun t => decide (t.ord = o)).map (·.all)) |||
  orRows ((x.skin.cur.toList.filter fun t => decide (t.ord = o)).map fun t =>
    rowMask (t.row0 + x.skin.nextRow) (t.m - x.skin.nextRow)) |||
  orRows ((x.skin.laneQ.filter fun r => decide (r.step.ord = o)).map fun r => rowMask (r.step.row0 + r.m) 1)

/-- ROLLs issued before order o and not finished. -/
def Drum.rollsBefore (x : Drum) (o : Nat) : List UnitJob := (x.roll.cur.toList ++ x.queues.roll).filter fun j => decide (j.ord < o)

/-- Is the word a FILL of shell rows? -/
def isFill (w : Quad) : Bool := opcode w == 0x40

/-- Shell rows that ROLLs and FILLs issued before order o still write. -/
def Drum.unitWrites (x : Drum) (o : Nat) : BitVec 256 :=
  orRows ((x.rollsBefore o).map fun j => (rollW j.w).rowsWritten) |||
  orRows ((x.queues.pad.filter fun j => decide (j.ord < o) && isFill j.w).map fun j => (fillW j.w).rows)

/-- TUNEs that the tuner has not finished. -/
def Drum.tunes (x : Drum) : List UnitJob := x.tuner.cur.toList.map (·.job) ++ x.queues.tuner

/-- Shell rows that TUNEs and ROLLs issued before order o still read. -/
def Drum.unitReads (x : Drum) (o : Nat) : BitVec 256 :=
  orRows ((x.queues.tuner.filter fun j => decide (j.ord < o)).map fun j => (tuneW j.w).rowsRead) |||
  orRows ((x.tuner.cur.toList.filter fun c => decide (c.job.ord < o)).map fun c => (tuneW c.job.w).rowsFrom c.row) |||
  orRows ((x.rollsBefore o).map fun j =>
    (rollW j.w).rowsFrom (if x.roll.cur = some j then x.roll.row else 0))

/-- Is some row of the mask still to be written by what stands before order o? With `fused`, the rows of the STRIKE just
before are held only while they are not final. -/
def Drum.rowsHeld (x : Drum) (o : Nat) (fused : Bool) (rows : BitVec 256) : Bool :=
  rows != 0 &&
  ((((if fused then x.skinWrites (o - 1) ||| x.unwritten (o - 1) else x.skinWrites o) ||| x.unitWrites o) &&& rows) != 0 ||
    x.shell.openRow rows)

/-! ## A CHECK and what follows it (R210) -/

def SkinJob.isTap (j : SkinJob) : Bool := opcode j.u.w == 0x11

def Range.meets (a b : Range) : Bool :=
  decide (a.len ≠ 0 ∧ b.len ≠ 0 ∧ a.off < b.off + b.len ∧ b.off < a.off + a.len)

/-- Does an instruction of order o that writes these shell rows and pad ranges wait for an earlier CHECK? -/
def Drum.checkHolds (x : Drum) (o : Nat) (rows : BitVec 256) (ranges : Unit → List Range) : Bool :=
  x.skin.jobs.any fun j => decide (j.u.ord < o) && j.isCheck &&
    ((rows &&& j.rows) != 0 || (ranges ()).any (tapW j.u.w).mapRange.meets)

/-! ## The skin -/

/-- Rows of the row scale buffer that a step uses. -/
def Step.scaleRows (t : Step) : BitVec 256 := if t.bell then rowMask t.row0 t.m else t.all

def SkinJob.scaleRows (j : SkinJob) : BitVec 256 := if j.isTap then j.rows else j.step.scaleRows

/-- Does an earlier TUNE write the scales that the job uses (R88)? -/
def Drum.scalesPending (x : Drum) (j : SkinJob) : Bool :=
  x.tunes.any fun u => decide (u.ord < j.u.ord) &&
    ((tuneW u.w).writesFile x || ((tuneW u.w).scaleRows x &&& j.scaleRows) != 0)

/-- Does the skin's next job wait? -/
def Drum.skinHeld (x : Drum) (j : SkinJob) : Bool :=
  if j.isTap then
    !x.skin.laneQ.isEmpty || (x.unitReads j.u.ord &&& j.rows) != 0 ||
    (if j.isCheck then x.rowsHeld j.u.ord false j.rows else x.scalesPending j)
  else
    j.step.waits x || (j.next == 0 && ((x.unitReads j.u.ord &&& j.rows) != 0 || x.scalesPending j))

def State.startSkin (s : State) (d : Nat) (j : SkinJob) : State :=
  if j.isCheck then s.startCheck d j
  else if j.isTap then s.startTap d j
  else if j.next = 0 then s.startStrike d j
  else s.startStep d j.step

/-- What the skin does next: it feeds a row while a queue entry is free, or starts a step. A step does not start while a
preemption waits for its strike boundary (R266). -/
def State.skinStep (s : State) (d : Nat) : Option State :=
  let x := s.drum d
  match x.skin.cur with
  | some t => if x.skin.laneQ.length < 4 then some (s.feed d t) else none
  | none =>
    if x.skin.load.isSome || x.preempting.isSome then none else
    match x.skin.jobs with
    | [] => none
    | j :: _ => if x.skinHeld j then none else some (s.startSkin d j)

/-! ## The tuner -/

/-- Does a skin job or step issued before order o use the scales that a TUNE writes (R88)? -/
def Drum.scalesUsed (x : Drum) (o : Nat) (q : TuneW) : Bool :=
  let file := q.writesFile x
  let rows := q.scaleRows x
  (file || rows != 0) &&
  ((x.skin.steps.any fun t => decide (t.ord < o) && (file || (rows &&& t.scaleRows) != 0)) ||
   x.skin.jobs.any fun j => decide (j.u.ord < o) && !j.isCheck && (file || (rows &&& j.scaleRows) != 0))

/-- Do shell rows hold back a TUNE? One that follows a STRIKE with FUSE = 1 is taken up once the first row that it reads is
final and only the last step's rows are not (R167). It waits for no ROLL that writes pad rows (R151, log 22). -/
def Drum.tuneRowsHeld (x : Drum) (j : UnitJob) : Bool :=
  let q := tuneW j.w
  if j.fused && q.rowsRead != 0 then
    (x.skin.jobs.any fun k => decide (k.u.ord + 1 = j.ord)) || (x.skin.load.any fun t => decide (t.ord + 1 = j.ord)) ||
    (((x.skinWrites (j.ord - 1) ||| x.unitWrites j.ord) &&& q.rowsRead) != 0) || x.shell.openRow q.rowsRead ||
    ((x.unwritten (j.ord - 1) &&& q.rowOf 0) != 0)
  else x.rowsHeld j.ord false q.rowsRead

def Drum.tuneHeld (x : Drum) (j : UnitJob) : Bool :=
  let q := tuneW j.w
  x.tuner.share.isSome || x.tuneRowsHeld j || x.scalesUsed j.ord q || x.checkHolds j.ord 0 fun _ => q.writeRanges

/-- The front of a unit's queue, where the unit may take it up: no preemption waits, and nothing holds it. -/
def Drum.front (x : Drum) (u : UnitId) (held : UnitJob → Bool) : Option UnitJob :=
  if x.preempting.isSome then none else
  match x.queues.get u with
  | [] => none
  | j :: _ => if held j then none else some j

/-- The unit takes the front of its queue. -/
def State.takeFront (s : State) (d : Nat) (u : UnitId) : State := s.modDrum d fun x => x.setQueue u (x.queues.get u).tail

/-- The tuner takes the next row of a TUNE that follows its STRIKE row by row (R167), or the next TUNE. -/
def State.tunerStep (s : State) (d : Nat) : Option State :=
  let x := s.drum d
  match x.tuner.cur with
  | some c =>
    if (x.unwritten (c.job.ord - 1) &&& (tuneW c.job.w).rowOf c.row) != 0 then none else some (s.nextTuneRow d c)
  | none => (x.front .tuner x.tuneHeld).map fun j => (s.takeFront d .tuner).startTune d j

/-! ## The roll unit -/

/-- Does the ROLL wait to be taken up? A fused one starts, and its rows wait (R167). -/
def Drum.rollHeld (x : Drum) (j : UnitJob) : Bool :=
  let q := rollW j.w
  (!j.fused && x.rowsHeld j.ord false (q.rowsFrom 0)) ||
    x.checkHolds j.ord q.rowsWritten fun _ => q.writeRanges

/-- Does the next row of a fused ROLL wait for its STRIKE? -/
def Drum.rollRowHeld (x : Drum) (j : UnitJob) : Bool := j.fused && x.rowsHeld j.ord true ((rollW j.w).rowsOf x.roll.row)

/-- Is the drum's run one that a class-0 task may preempt (R266)? Its ROLLs do a row in each idle ac, so that a preemption
can fall between two rows; other ROLLs run on at once (log 58). -/
def Drum.preemptible (x : Drum) : Bool := x.pad.saveEn && decide (x.seq.cls ≠ 0)

def State.rollStep (s : State) (d : Nat) : Option State :=
  let x := s.drum d
  match x.roll.cur with
  | some j => if x.preemptible || x.preempting.isSome || x.rollRowHeld j then none else some (s.nextRollRow d j)
  | none =>
    -- decode overlaps the wait for the rows (R176), so its faults do not wait
    (x.front .roll fun j => ((rollW j.w).faults s d).isEmpty && x.rollHeld j).map fun j => (s.takeFront d .roll).startRoll d j

/-- A row of a ROLL that may be preempted. -/
def State.rollTick (s : State) (d : Nat) : State :=
  let x := s.drum d
  match x.roll.cur with
  | some j => if x.preempting.isSome || x.rollRowHeld j then s else s.nextRollRow d j
  | none => s

/-! ## The pad engine and the NoC port -/

def Drum.padHeld (x : Drum) (j : UnitJob) : Bool :=
  if isFill j.w then
    let q := fillW j.w
    (q.rows &&& x.unitReads j.ord) != 0 || x.checkHolds j.ord q.rows fun _ => q.ranges
  else x.checkHolds j.ord 0 fun _ => (copyW j.w).writeRanges

def State.padStep (s : State) (d : Nat) : Option State :=
  ((s.drum d).front .pad (s.drum d).padHeld).map fun j =>
    let t := s.takeFront d .pad
    if isFill j.w then t.startFill d j else t.startCopy d j

/-- The NoC port waits for nothing: a SEND to the drum itself that lies over a map arrives as a packet, and the CHECK of the map
does not hold it (R210, log 18). -/
def State.nocStep (s : State) (d : Nat) : Option State :=
  ((s.drum d).front .noc fun _ => false).map fun j => (s.takeFront d .noc).startSend d j

/-! ## All units -/

/-- The next thing that a unit of the drum does, in a fixed order of the units; none when all of them wait. -/
def State.unitStep (s : State) (d : Nat) : Option State :=
  match s.skinStep d with
  | some t => some t
  | none => match s.tunerStep d with
    | some t => some t
    | none => match s.rollStep d with
      | some t => some t
      | none => match s.padStep d with
        | some t => some t
        | none => s.nocStep d

def unitsGo (d : Nat) : Nat → State → State
  | 0, s => s
  | n + 1, s => match s.unitStep d with
    | some t => unitsGo d n t
    | none => s

/-- A bound on what the units of a drum have to do: steps, rows of ROLLs, queued instructions, rows to feed. -/
def Drum.workLeft (x : Drum) : Nat :=
  x.skin.jobs.foldl (fun a j => a + (j.ext.steps - j.next)) 0 + 257 * (x.queues.roll.length + 1) + 257 * (x.queues.tuner.length + 1) +
  x.queues.all.length + x.skin.jobs.length + 8

/-- The units of drum d run until each of them waits. -/
def State.unitsRun (s : State) (d : Nat) : State := unitsGo d (s.drum d).workLeft s

/-- Does some unit of the drum hold an instruction? -/
def Drum.hasWork (x : Drum) : Bool := x.roll.cur.isSome || x.tuner.cur.isSome || !x.queues.all.isEmpty || !x.skin.jobs.isEmpty

/-- What passes when no command waits: the beat counter counts where the clock runs (R355, R403), and every ROLL that may be
preempted does a row (log 1, log 58). -/
def State.idle (s : State) : State :=
  let t := s.tick
  if s.power.locked && !s.power.tripped then
    loop (fun d t => if (t.drum d).hasWork then (t.rollTick d).unitsRun d else t) 136 t
  else t

/-! ## Issue to a unit -/

/-- The sequencer hands the instruction to the queue of its unit (R150); a full queue holds issue. A word that breaks its
encoding faults at once, with whatever else its decode finds. -/
def issueTo (d : Nat) (u : UnitId) (par : Bool) (bad : Quad → Bool) (more : State → UnitJob → List Nat) (w : Quad)
    (s s1 : State) : State :=
  let x := s1.drum d
  if 2 ≤ (x.queues.get u).length then s
  else
    let j := x.newJob w par
    let t := s1.took d 1 w
    if bad w then t.drumFaults d (0x01 :: more t j)
    else (t.modDrum d fun y => y.setQueue u (y.queues.get u ++ [j])).unitsRun d

def State.queueSkin (s : State) (d : Nat) (j : SkinJob) : State := s.modSkin d fun k => { k with jobs := k.jobs ++ [j] }

def strikeRun (d : Nat) (w : Quad) (s s1 : State) : State :=
  let q := strikeW w
  let pc := (s1.drum d).seq.nextPc
  if 2 ≤ (s1.drum d).skin.queued then s
  else if q.ext && !(s1.drum d).fetchOk (pc + 1) then s1.drumFault d 0x02
  else if q.ext && (s1.drum d).lineFails (pc + 1) then (s1.rereads d [⟨64 * ((pc + 1) / 4), 64⟩]).drumFault d 0x62
  else
    let s1 := if q.ext then s1.modDrum d fun y => y.fillLine s.beat (pc + 1) else s1
    let j := (s1.drum d).strikeJob w
    let t := (s1.took d (if q.ext then 2 else 1) w).modSeq d fun k => { k with fuse := q.fuse }
    if badWalk q j.ext then t.drumFaults d (0x01 :: (j.step.faults (t.drum d) ++ t.regionFault d (j.ranges (t.drum d))))
    else (t.queueSkin d j).unitsRun d

/-- What a TAP or CHECK hands to the skin. -/
def Drum.tapJob (x : Drum) (w : Quad) (par : Bool) : SkinJob :=
  { u := x.newJob w par, x := none, next := 0, rows := rowMask (tapW w).row0 (min 256 (tapW w).m), allLanes := false }

def tapRun (d : Nat) (par : Bool) (w : Quad) (s s1 : State) : State :=
  let q := tapW w
  if 2 ≤ (s1.drum d).skin.queued then s
  else
    let j := (s1.drum d).tapJob w par
    let t := s1.took d 1 w
    if q.rsv ≠ 0 then t.drumFaults d (0x01 :: q.faults t d) else (t.queueSkin d j).unitsRun d

/-- A CHECK goes to the skin's queue; the one that a replay comes back to completes as soon as the skin has run what stands
before it (R214). -/
def checkRun (d : Nat) (par : Bool) (w : Quad) (s s1 : State) : State :=
  let x := s1.drum d
  let q := tapW w
  let j := x.tapJob w par
  let now := x.skin.jobs.isEmpty && x.skin.load.isNone && x.skin.cur.isNone && !x.skinHeld j
  if x.tap.replay.isSome then (if now then s1.modDrum d (·.endReplay q) else s)
  else if 2 ≤ x.skin.queued then s
  else
    let t := s1.took d 1 w
    if q.rsv ≠ 0 then t.drumFaults d (0x01 :: q.checkFaults t d j.u.pc) else (t.queueSkin d j).unitsRun d

/-- A TUNE of operation op, or of a reserved OP, which faults (R90). -/
def State.tune (s : State) (d op : Nat) (par : Bool) : State :=
  s.issue d 0x20 (fun w => (tuneW w).op == op || decide (8 < (tuneW w).op))
    (issueTo d .tuner par (fun w => (tuneW w).rsv) fun t j =>
      match (t.drum d).seq.run with
      | some r => (tuneW j.w).faults t d r
      | none => [])

/-- A ROLL of one function, or of a reserved FUNC, which faults. -/
def State.roll (s : State) (d func : Nat) (par : Bool) : State :=
  s.issue d 0x30 (fun w => (rollW w).func == func || !rollFuncs.contains (rollW w).func)
    (issueTo d .roll par (fun w => (rollW w).instrBad) fun t j => (rollW j.w).faults t d)

/-- A SEND's decode beside its encoding. -/
def sendMore (d : Nat) (t : State) (j : UnitJob) : List Nat :=
  match (t.drum d).seq.run, (t.drum d).slot with
  | some r, some b => (sendW j.w).faults t d r b
  | _, _ => []

end Sys2Proof.Machine
end

