-- ==== Sys2Proof/Machine/DrumOps.lean ====
section
/-! DEFINITION. Machine/DrumOps.lean: the meanings of the drum's instructions and of the events of its units (R45-R75,
R89-R104, R124-R140, R155-R160, R175-R193, R201-R214, R228-R233, R436, R437). An instruction is issued to the queue of its
unit; the units then run on (Machine/Units.lean). -/

namespace Sys2Proof.Machine

/-! ## Skin, shell and bell tree -/

/-- STRIKE: handed to the skin (R47, R155, R162, R166). -/
def execStrike (d : Nat) (s : State) : Host.Outcome State Fault Refusal :=
  onDrum d s fun s => s.issue d 0x10 (fun _ => true) (strikeRun d)

/-- WEIGHT_LOAD_END: the load ends, the skin compares the occupancy map, and the step strikes or faults (R53). A load that a
preemption abandons does not end (R266). -/
def execWeightLoadEnd (d : Nat) (s : State) : Host.Outcome State Fault Refusal :=
  onDrum d s fun s =>
    match (s.drum d).skin.load with
    | some t => if (s.drum d).preempting.isSome then s else (s.loadsDone d t).unitsRun d
    | none => s

/-- DEQUANTISE_ROW: the de-quantiser takes the row that stands first in the queues. A row of a block whose last leaf still
stands in slot 0 is held (R126). A lane queue, a scale or a shell row that fails its parity ends the strike (R357). -/
def execDequantiseRow (d : Nat) (par : Bool) (s : State) : Host.Outcome State Fault Refusal :=
  onDrum d s fun s =>
    let x := s.drum d
    match x.skin.laneQ with
    | [] => s
    | r :: rest =>
      if r.step.bell && x.shell.leaves.any (fun l => l.rd == r.step.rd) then s
      else (if par then s.setDrum d (x.dequantise r rest) else s.strikeLost d r.step.ord 0x72).unitsRun d

/-- LEAF_DONE: the shell carries the leaf that stands complete in slot 0 up the stack (R124). -/
def execLeafDone (d : Nat) (par : Bool) (s : State) : Host.Outcome State Fault Refusal :=
  onDrum d s fun s => (s.takeLeaf d par).unitsRun d

/-- NODE_ARRIVAL: the earliest packet on its way from src to d, a bell node, arrives (R128). -/
def execNodeArrival (d src : Nat) (net : NocVerdict) (s : State) : Host.Outcome State Fault Refusal :=
  onStation d s fun s => (s.deliver d src Packet.isNode net fun par k s => s.landNode d par k).unitsRun d

/-- BELL_STATS_ARRIVAL: the earliest packet on its way from src to d, statistics, arrives (R140). -/
def execBellStatsArrival (d src : Nat) (net : NocVerdict) (s : State) : Host.Outcome State Fault Refusal :=
  onStation d s fun s => s.deliver d src Packet.isStats net fun par k s => s.landStats d par k

/-! ## Tap -/

/-- TAP: an estimating TAP of SEL 0b00, 0b01 or 0b10 (R201-R208). -/
def execTap (d : Nat) (par : Bool) (s : State) : Host.Outcome State Fault Refusal :=
  onDrum d s fun s => s.issue d 0x11 (fun w => (tapW w).sel != 3) (tapRun d par)

/-- CHECK: the TAP of SEL 0b11, under the MISS policy of the task (R211-R214). -/
def execCheck (d : Nat) (par : Bool) (s : State) : Host.Outcome State Fault Refusal :=
  onDrum d s fun s => s.issue d 0x11 (fun w => (tapW w).sel == 3) (checkRun d par)

/-! ## Tuner -/

/-- NARROW: wide rows to narrow codes with scales (R92-R98). -/
def execNarrow (d : Nat) (par : Bool) (s : State) : Host.Outcome State Fault Refusal := onDrum d s fun s => s.tune d 0 par

/-- WIDEN: narrow codes with scales to wide rows (R95). -/
def execWiden (d : Nat) (par : Bool) (s : State) : Host.Outcome State Fault Refusal := onDrum d s fun s => s.tune d 1 par

/-- CONVERT: one rounding between float formats (R94, R95). -/
def execConvert (d : Nat) (par : Bool) (s : State) : Host.Outcome State Fault Refusal := onDrum d s fun s => s.tune d 2 par

/-- AMAX: folds group statistics of rows into a record (R102, R104). -/
def execAmax (d : Nat) (par : Bool) (s : State) : Host.Outcome State Fault Refusal := onDrum d s fun s => s.tune d 3 par

/-- CLOSE: ends the step of a record (R103). -/
def execClose (d : Nat) (par : Bool) (s : State) : Host.Outcome State Fault Refusal := onDrum d s fun s => s.tune d 4 par

/-- LDSCALE: a scale block into the scale register file or the row scale buffer (R98). -/
def execLdscale (d : Nat) (s : State) : Host.Outcome State Fault Refusal := onDrum d s fun s => s.tune d 5 true

/-- STSCALE: row scale buffer rows as a row scale block (R437). -/
def execStscale (d : Nat) (par : Bool) (s : State) : Host.Outcome State Fault Refusal := onDrum d s fun s => s.tune d 6 par

/-- QSAVE: a record's image to the pad (R437). -/
def execQsave (d : Nat) (par : Bool) (s : State) : Host.Outcome State Fault Refusal := onDrum d s fun s => s.tune d 7 par

/-- QLOAD: a record's image from the pad (R99, R245). -/
def execQload (d : Nat) (s : State) : Host.Outcome State Fault Refusal := onDrum d s fun s => s.tune d 8 true

/-- SHARE_REDUCTION_DONE: the reduced statistics reach drum d (R104). -/
def execShareReductionDone (d : Nat) (par : Bool) (s : State) : Host.Outcome State Fault Refusal :=
  onDrum d s fun s => (s.takeReduction d par).unitsRun d

/-! ## Roll unit -/

/-- SCALE (R187). -/
def execRollScale (d : Nat) (par : Bool) (s : State) : Host.Outcome State Fault Refusal := onDrum d s fun s => s.roll d 0x01 par

/-- MASK (R188). -/
def execRollMask (d : Nat) (par : Bool) (s : State) : Host.Outcome State Fault Refusal := onDrum d s fun s => s.roll d 0x02 par

/-- SOFTMAX (R179, R180). -/
def execSoftmax (d : Nat) (par : Bool) (s : State) : Host.Outcome State Fault Refusal := onDrum d s fun s => s.roll d 0x10 par

/-- RMSNORM (R181). -/
def execRmsnorm (d : Nat) (par : Bool) (s : State) : Host.Outcome State Fault Refusal := onDrum d s fun s => s.roll d 0x20 par

/-- LAYERNORM (R181). -/
def execLayernorm (d : Nat) (par : Bool) (s : State) : Host.Outcome State Fault Refusal := onDrum d s fun s => s.roll d 0x21 par

/-- GELU (R182-R185). -/
def execGelu (d : Nat) (par : Bool) (s : State) : Host.Outcome State Fault Refusal := onDrum d s fun s => s.roll d 0x30 par

/-- SILU (R182-R185). -/
def execSilu (d : Nat) (par : Bool) (s : State) : Host.Outcome State Fault Refusal := onDrum d s fun s => s.roll d 0x31 par

/-- ROPE (R186): rows before a bad entry stand. -/
def execRope (d : Nat) (par : Bool) (s : State) : Host.Outcome State Fault Refusal := onDrum d s fun s => s.roll d 0x40 par

/-- TOPK (R189). -/
def execTopk (d : Nat) (par : Bool) (s : State) : Host.Outcome State Fault Refusal := onDrum d s fun s => s.roll d 0x50 par

/-! ## Pad engine, NoC port, sequencer -/

/-- FILL (R159). -/
def execFill (d : Nat) (s : State) : Host.Outcome State Fault Refusal :=
  onDrum d s fun s => s.issue d 0x40 (fun _ => true)
    (issueTo d .pad true (fun w => (fillW w).bad) fun t j => t.regionFault d (fillW j.w).ranges)

/-- COPY (R228). -/
def execCopy (d : Nat) (s : State) : Host.Outcome State Fault Refusal :=
  onDrum d s fun s => s.issue d 0x41 (fun _ => true)
    (issueTo d .pad true (fun w => (copyW w).rsv != 0) fun t j =>
      t.regionFault d ((copyW j.w).readRanges ++ (copyW j.w).writeRanges))

/-- SEND (R229-R233). -/
def execSend (d : Nat) (s : State) : Host.Outcome State Fault Refusal :=
  onDrum d s fun s => s.issue d 0x50 (fun _ => true)
    (issueTo d .noc true (fun w => (sendW w).rsv != 0 || ((sendW w).mc && (sendW w).remote)) (sendMore d))

/-- WAIT (R160, R232): issue is held. -/
def execWait (d : Nat) (s : State) : Host.Outcome State Fault Refusal :=
  onDrum d s fun s => s.issue d 0x60 (fun _ => true) (waitRun d)

/-- WAIT_COMPLETE (R160). -/
def execWaitComplete (d : Nat) (s : State) : Host.Outcome State Fault Refusal := onDrum d s fun s => s.waitDone d

/-- WAIT_TIMEOUT (R160). -/
def execWaitTimeout (d : Nat) (s : State) : Host.Outcome State Fault Refusal := onDrum d s fun s => s.waitLate d

/-- FENCE (R160): issue is held. -/
def execFence (d : Nat) (s : State) : Host.Outcome State Fault Refusal :=
  onDrum d s fun s => s.issue d 0x61 (fun _ => true) (fenceRun d)

/-- END (R160). -/
def execEndRun (d : Nat) (s : State) : Host.Outcome State Fault Refusal :=
  onDrum d s fun s => s.issue d 0x7F (fun _ => true) (endRunOf d)

/-- FENCE_COMPLETE (R160). -/
def execFenceComplete (d : Nat) (s : State) : Host.Outcome State Fault Refusal := onDrum d s fun s => s.fenceDone d

end Sys2Proof.Machine
end

