-- ==== Sys2Proof/Machine/Dma.lean ====
section
/-! DEFINITION. Machine/Dma.lean: what the DMA engines move: copies in 2 KiB chunks (R255, R260), and the expansion of sparse
containers (R194-R199). -/

namespace Sys2Proof.Machine

/-! ## Chunks moved (R255, R271) -/

/-- The walks of a chunk, done. -/
def Move.walked (k : Move) (c : Chunk) : Move :=
  { k with src := { k.src with pages := (c.src.map (·.pages)).getD k.src.pages }
           dst := { k.dst with pages := (c.dst.map (·.pages)).getD k.dst.pages } }

/-- What became of a chunk. -/
inductive ChunkEnd where
  | waits
  | fault (sub : Nat)
  | done (l : List Byte)
deriving DecidableEq, Repr

/-- Reads of an engine, in order, up to the first that gives an error or waits. -/
def State.fetchPlaces (e : Nat) (live : Bool) : List (Nat × Nat) → State → Fetched × State
  | [], s => (.data [], s)
  | p :: r, s =>
    let a := s.fetchDev (.engine e) p.1 p.2 live
    match a.1 with
    | .data l =>
      let b := State.fetchPlaces e live r a.2
      match b.1 with
      | .data t => (.data (l ++ t), b.2)
      | x => (x, b.2)
    | x => (x, a.2)

/-- Writes at places, in order; false when one of them is refused. -/
def State.storePlaces (live : Bool) : List (Nat × Nat) → List Byte → State → State × Bool
  | [], _, s => (s, true)
  | p :: r, l, s =>
    let a := s.storeDev p.1 (l.take p.2) live
    if a.2 then State.storePlaces live r (l.drop p.2) a.1 else (a.1, false)

/-- The drums whose pads an access reaches, each by a way of its own. -/
def State.padDrums (s : State) (a n : Nat) : List Nat :=
  if !s.inPads a n || n = 0 then [] else (partsOf padSize (a - padSpace) n).filterMap fun p => s.holder p.1

/-- Is a way between the base die and one of the drums lost on the mesh or at a bridge (R26, R357)? -/
def wayLost (ds : List Nat) (net : NocVerdict) : Option (Nat × Nat) :=
  match net with
  | .badFlit => ds.head?.map fun d => (d, 0x71)
  | .badBond b => if ds.any fun d => (bridgesOf d 136).contains b then some (0x170 + b, 0x01) else none
  | _ => none

def State.padPathLost (s : State) (a n : Nat) (net : NocVerdict) : Option (Nat × Nat) := wayLost (s.padDrums a n) net

/-- The first of some ways to drums that is lost, as the environment has it (R26, R357). -/
def lostWay : List Nat → State → Option (Nat × Nat) × State
  | [], s => (none, s)
  | d :: r, s =>
    let v := s.nextMesh
    match wayLost [d] v.1 with
    | some f => (some f, v.2)
    | none => lostWay r v.2

/-- The first of some pad accesses that is lost on its way. -/
def State.lostPlace (l : List (Nat × Nat)) (s : State) : Option (Nat × Nat) × State :=
  lostWay (l.flatMap fun p => s.padDrums p.1 p.2) s

/-- Moves one chunk. A walk waits while the page table is being cleared (R320), and a request to LPDDR5 waits for READY
(R306). An address fault, a refusal of R225 or an error moves nothing of the chunk (R271); a page fault lets the bytes of
earlier pages stand (R316). -/
def State.moveChunk (s : State) (k : Move) (c : Chunk) : State × ChunkEnd :=
  if decide (c.walks ≠ 0) && s.mem.pgtBusy then (s, .waits) else
  let places := c.reads ++ c.writes
  let t := s.modMem fun m => { m with walks := m.walks + BitVec.ofNat 64 c.walks }
  if places.any fun p => !s.backed p.1 p.2 || s.padRefused k.job p.1 p.2 then (t, .fault 0x04)
  else if places.any fun p => s.heldAt p.1 p.2 then (s, .waits)
  else match State.lostPlace places t with
  -- the packet's job is aborted, and the transfer with it
  | (some f, t) => (t.packetLost f.1 f.2 (some k.job), .waits)
  | (none, t) =>
    let r := State.fetchPlaces k.engine k.live c.reads t
    match r.1 with
    | .waits => (r.2.modMem fun m => { m with walks := s.mem.walks }, .waits)
    | .error => (r.2, .fault 0x04)
    | .data l =>
      let l := if c.src.isSome then l else c.data.take c.len
      let w := State.storePlaces k.live c.writes l (r.2.dropAsks (· == .engine k.engine))
      if !w.2 then (w.1, .fault 0x04)
      else if c.faults then (w.1.modMem fun m => { m with faults := m.faults + 1 }, .fault 0x06)
      else (w.1, .done l)

/-! ## Containers (R194-R199) -/

structure Container where
  kind : Nat
  wfmt : BitVec 3
  group : BitVec 2
  wsum : Bool
  k : Nat
  nout : Nat
  nnz : Nat
  rsvZero : Bool
deriving DecidableEq, Repr

def containerOf (l : List Byte) : Container :=
  { kind := fld (at_ l 0 1) 0 2, wfmt := BitVec.ofNat 3 (at_ l 1 1), group := BitVec.ofNat 2 (at_ l 1 1 / 8), wsum := bit (at_ l 1 1) 5,
    k := at_ l 2 2, nout := at_ l 4 2, nnz := at_ l 8 4,
    rsvZero := decide (at_ l 0 1 < 4) && decide (at_ l 1 1 < 64) && at_ l 6 2 == 0 && at_ l 12 52 == 0 }

def Container.headOk (c : Container) : Bool :=
  c.rsvZero && c.kind != 3 && decide (c.wfmt.toNat < 6) && c.group != 3 && decide (1 ≤ c.k ∧ c.k ≤ 1024) &&
  decide (c.nout = nOut c.wfmt)

/-- What the expander has found so far. -/
structure Expand where
  cells : Cells (BitVec 4)
  found : Nat              -- non-zero codes, or bits of the bitmap
  beyond : Nat             -- of these, at or beyond K
  disorder : Bool
deriving DecidableEq, Repr

/-- S24 and S14: element e of the codes at its row and output. -/
def Container.quads (c : Container) (l : List Byte) (slots : Nat) : Expand :=
  let b := codeBits c.wfmt
  let count := 256 * c.nout * slots
  let idx := sub l (64 + ceilDiv (ceilDiv (b * count) 8) 64 * 64) (count / 4)
  let code (e : Nat) : Nat := bitsAt (l.drop 64) (b * e) b
  let row (e : Nat) : Nat := 4 * (e / slots % 256) + bitsAt idx (2 * e) 2
  loop (fun e x =>
    let v := code e
    let x := if slots = 2 ∧ e % 2 = 1 ∧ row e ≤ row (e - 1) then { x with disorder := true } else x
    if v = 0 then x
    else if c.k ≤ row e then { x with found := x.found + 1, beyond := x.beyond + 1 }
    else { x with found := x.found + 1, cells := placeCode x.cells c.wfmt (row e) (e / slots / 256) v }) count ⟨[], 0, 0, false⟩

/-- BLOCK: the stored blocks in ascending order of their bits; the first number counts the blocks stored so far. A bit whose
block lies beyond NOUT is a set bit with a stored block, of which nothing is kept (DESIGN CHOICE, log 65). -/
def Container.blocks (c : Container) (l : List Byte) : Expand :=
  let b := codeBits c.wfmt
  let map := at_ l 64 128
  (loop (fun i (q : Nat × Expand) =>
    if bit map i = false then q else
    let x := { q.2 with found := q.2.found + 1 }
    let kb := i % 32
    let nb := i / 32
    if c.k ≤ 32 * kb then (q.1 + 1, { x with beyond := x.beyond + 1 })
    else if c.nout ≤ 32 * nb then (q.1 + 1, x)
    else
      let body := l.drop (192 + q.1 * (32 * 32 * b / 8))
      let cells := loop (fun e cs =>
        if 32 * kb + e / 32 < c.k then placeCode cs c.wfmt (32 * kb + e / 32) (32 * nb + e % 32) (bitsAt body (b * e) b) else cs)
        1024 x.cells
      (q.1 + 1, { x with cells := cells })) 1024 (0, ⟨[], 0, 0, false⟩)).2

def Container.expand (c : Container) (l : List Byte) : Expand :=
  match c.kind with
  | 0 => c.quads l 2
  | 1 => c.quads l 1
  | _ => c.blocks l

/-- Plane j of a tile: 1,024 rows of 128 bytes. -/
def planeBytes (c : Cells (BitVec 4)) (j : Nat) : List Byte :=
  (List.range 1024).flatMap fun k =>
    leBytes 128 (packCodes 1 ((List.range 1024).map fun n => cellAt c k n / 2 ^ j))

/-- Group weight sums of a tile as s16 (R51). -/
def sumBytes (c : Cells (BitVec 4)) (f : BitVec 3) (g : Nat) : List Byte :=
  (List.range (1024 / g)).flatMap fun s => (List.range (nOut f)).flatMap fun n =>
    leBytes 2 ((((List.range g).foldl (fun a i => a + weightAt c f (g * s + i) n) (0 : Int)) % 65536).toNat)

/-- The planes and the sums of the image; the first 64 bytes come last. -/
def Container.body (c : Container) (x : Expand) : List Byte :=
  ((List.range (planesOf c.wfmt)).flatMap fun j => planeBytes x.cells j) ++
  (if c.wsum then sumBytes x.cells c.wfmt (groupSize c.group) else [])

def Container.head (c : Container) (x : Expand) : List Byte :=
  leBytes 32 (trueOcc x.cells).toNat ++ leBytes 1 (c.wfmt.toNat + 8 * c.group.toNat + 32 * c.wsum.toNat) ++ leBytes 31 0

/-- The first bytes of an image after a metadata fault (R198). -/
def spoiltHead : List Byte := leBytes 32 0 ++ leBytes 1 6

/-- Does the container pass R198? -/
def Container.sound (c : Container) (x : Expand) (fallback : Bool) : Bool :=
  !x.disorder && x.found == c.nnz && (fallback || x.beyond == 0)

/-! ## DMA tasks -/

/-- The container has been read: the image, or what stands of it after a metadata fault. How many bytes of the planes that is
the spec leaves open: a free number (log 2). Bytes of the container beyond LEN read as zero (log 29). -/
def Move.opened (k : Move) (free : Dword) : Move :=
  let l := padTo 64 k.data ++ k.data.drop 64
  let c := containerOf l
  if c.headOk = false then { k with phase := .head, pos := 0, data := [], first := spoiltHead, spoilt := true } else
  let x := c.expand l
  let body := c.body x
  let ok := c.sound x k.fallback
  let kept := if ok then body else body.take (free.toNat % (body.length + 1))
  { k with phase := if kept.isEmpty then .head else .body, pos := 0, data := kept, first := if ok then c.head x else spoiltHead
           spoilt := !ok, beyond := if k.fallback then x.beyond else 0 }

/-- The transfer after a chunk; none when it was the last. -/
def Move.next (k : Move) (l : List Byte) (free : Dword) : Option Move :=
  let pos := k.pos + l.length
  match k.phase with
  | .copy => if k.len ≤ pos then none else some { k with pos := pos }
  | .gather =>
    let k := { k with pos := pos, data := k.data ++ l }
    some (if k.len ≤ pos then k.opened free else k)
  | .body => some (if k.data.length ≤ pos then { k with phase := .head, pos := 0 } else { k with pos := pos })
  | .head => none

/-- Does the next chunk end the reading of a container? -/
def Move.opens (k : Move) : Bool := k.phase == .gather && decide (k.len ≤ k.pos + 2048)

def State.dropMove (s : State) (e : Nat) : State :=
  (s.dropAsks (· == .engine e)).modMet fun m => { m with moves := m.moves.filter (·.engine ≠ e) }

def State.setMove (s : State) (k : Move) : State :=
  s.modMet fun m => { m with moves := m.moves.map fun x => if x.engine = k.engine then k else x }

/-- The engine has done its work: its task ends next. -/
def State.moveOver (s : State) (k : Move) : State :=
  (s.dropMove k.engine).modTask k.job k.task fun t =>
    { t with finished := [k.engine] }

/-- A DMA task ends its transfer with faults of the Metronome. -/
def State.moveFault (s : State) (k : Move) (subs : List Nat) : State :=
  subs.foldl (fun s sub => s.raiseJob 0x140 sub k.job (some ⟨k.job, k.task, 0⟩))
    (((s.dropMove k.engine).modTask k.job k.task fun t => { t with finished := [k.engine] }).markFaulted k.job k.task)

/-- The indices that the fall-back dropped go into the task's status word, however the task ends (R199, R259). -/
def State.noteDrops (s : State) (k : Move) : State :=
  if k.beyond = 0 then s else s.modTask k.job k.task fun t => { t with count := k.beyond, dropped := true }

/-- One chunk of the transfer of an engine. A metadata fault is raised once the image's first bytes say so (R198). -/
def State.moveOn (s : State) (k : Move) : State :=
  let c := k.chunk s.mem
  let r := s.moveChunk k c
  let spoilt : List Nat := if k.spoilt && k.phase == .head then [0x03] else []
  match r.2 with
  | .waits => r.1
  | .fault sub => r.1.moveFault k (spoilt ++ [sub])
  | .done l =>
    let (free, s) := if k.opens then r.1.draw else (0, r.1)
    match (k.walked c).next l free with
    | some n => (s.setMove n).noteDrops n
    | none => if spoilt.isEmpty then s.moveOver k else s.moveFault k spoilt

/-- One chunk of every transfer: class 0 first, and in a reserved slot the others leave it its channels. -/
def State.runMoves (s : State) : State :=
  let taken := if s.reservedSlot then s.liveChans else []
  let rest := (s.met.moves.filter fun k => !k.live && !(s.moveChans k).any taken.contains)
  ((s.met.moves.filter (·.live)) ++ rest).foldl (fun s k => if s.met.moves.contains k then s.moveOn k else s) s

/-- What a DMA task does once an engine has taken it; a copy of no bytes is over at once. -/
def State.runDma (s : State) (j : Half) (i : Nat) (e : Nat) (t : TaskRec) : State :=
  match t.body with
  | .dma src dst len expand fallback =>
    let k : Move := { engine := e, job := j, task := i, live := t.cls == 0, src := Side.of s.mem src t.stream
                      dst := Side.of s.mem dst t.stream, len := len, expand := expand, fallback := fallback
                      phase := if expand then .gather else .copy, pos := 0, data := [], first := [], spoilt := false, beyond := 0 }
    if len = 0 ∧ expand = false then s.moveOver k else s.modMet fun m => { m with moves := m.moves ++ [k] }
  | _ => s

end Sys2Proof.Machine
end

