-- ==== Sys2Proof/Machine/WorkCounter.lean ====
section
/-! DEFINITION. Machine/WorkCounter.lean: the claims of tiles (R256, R257). -/

namespace Sys2Proof.Machine

def State.counter? (s : State) (j : Half) (i : Nat) : Option Counter :=
  s.met.counters.find? fun c => c.job == j && c.task == i

/-- The work counter answers claim (l, n): the stored answer of a repeated claim ID, else fetch_add and store. The stored
pair of drum l is kept as (n + 1, answer). -/
def Counter.answer (c : Counter) (l n : Nat) : Nat × Bool × Counter :=
  let p := getCell (0, 0) c.stored l
  if p.1 = n + 1 then (p.2, true, c)
  else (c.value, false, { c with value := c.value + 1, stored := putCell (0, 0) c.stored l (n + 1, c.value) })

/-- The work counter answers the claim c of drum d, for task t; an answer that arrives intact starts the drum's next run when
it lies below TILES, and ends the drum's share otherwise. -/
def State.answerClaim (s : State) (d : Nat) (c : Claim) (k : Counter) (t : Task) (delivered : Bool) : State :=
  let (a, again, k') := k.answer (s.drum d).logical.toNat c.seq
  let s := s.modMet fun m => { m with
    counters := m.counters.map fun y => if y.job = c.job ∧ y.task = c.task then k' else y
    claims := m.claims + 1, retries := if again then m.retries + 1 else m.retries }
  if delivered = false then s else
  match t.trec.body with
  | .drum _ _ _ tiles tile0 =>
    if a < tiles then s.beginRun d c.job c.task t.trec (tile0 + a) c.seq
    else s.finishShare d c.job c.task
  | _ => s

/-- WORK_CLAIM: the claim that drum d waits on reaches the work counter, and its answer comes back: `reply.net` says whether a flit
is lost at the drum's station or at a bridge of their way (R357), `reply.delivered` whether they pass the checks of the base die. A
task that has faulted claims nothing further (R152). -/
def execWorkClaim (d : Nat) (reply : ClaimReply) (s : State) : Host.Outcome State Fault Refusal :=
  onDrum d s fun s =>
    let x := s.drum d
    match x.claim with
    | none => s
    | some c =>
      match s.counter? c.job c.task, s.task? c.job c.task with
      | some k, some t =>
        if x.preempting.isSome ∨ x.shell.clearing = true then s
        else if t.code.good = false then s.finishShare d c.job c.task
        else match reply.net with
          | .arrives | .badArray => s.answerClaim d c k t reply.delivered
          | .badFlit => s.packetLost d 0x71 (some c.job)
          | .badBond b => if (bridgesOf d 136).contains b then s.packetLost (0x170 + b) 0x01 (some c.job) else s
      | _, _ => s

/-- CLAIM_RETRY: no valid answer came within 2 us; the fourth failure raises the claim path fault and the task ends faulted. -/
def execClaimRetry (d : Nat) (s : State) : Host.Outcome State Fault Refusal :=
  onDrum d s fun s =>
    match (s.drum d).claim with
    | none => s
    | some c =>
      if 3 ≤ c.fails then
        (((s.modDrum d fun x => { x with claim := none }).markFaulted c.job c.task).raiseJob 0x141 0x01 c.job none).finishShare
          d c.job c.task
      else s.modDrum d fun x => { x with claim := some { c with fails := c.fails + 1 } }

end Sys2Proof.Machine
end

