-- ==== Sys2Proof/Machine/Tasks.lean ====
section
/-! DEFINITION. Machine/Tasks.lean: dispatch, preemption and the end of tasks (R255, R259, R264-R266), and the tasks of
sticks. -/

namespace Sys2Proof.Machine

/-! ## Who runs next (R255, R265) -/

/-- Does task t want unit `target`: a logical drum, a stick or an engine, by its type? -/
def Task.wants (t : Task) (target : Nat) : Bool :=
  match t.trec.body with
  | .drum set .. => set.getLsbD target && decide (target < 128) && !t.started.contains target
  | .stick mask _ _ => mask.getLsbD target && decide (target < 16)
  | .dma .. => if t.trec.cls = 0 then t.unit == some target else decide (target < 14)
  | .barrier => false

/-- The same kind of unit. -/
def TaskRec.sameKind (a b : TaskRec) : Bool :=
  match a.body, b.body with
  | .drum .., .drum .. => true
  | .stick .., .stick .. => true
  | .dma .., .dma .. => true
  | _, _ => false

/-- A task that may still be handed to units: ready, or a drum task running on some of its drums without a fault. -/
def Task.open_ (t : Task) : Bool := t.state == .ready || (t.isDrum && t.state == .running && t.code.good)

/-- All tasks with their job and place, in order of class, admission and index. -/
def State.tasksByOrder (s : State) (c : Nat) : List (Job × Nat × Task) :=
  s.met.jobs.flatMap fun j => (j.tasks.zipIdx.filter fun p => p.1.trec.cls == c).map fun p => (j, p.2, p.1)

/-- Drums and engines that the tasks of an admitted score at its ring's head will use. -/
def Head.units (h : Head) : List Nat :=
  (h.score.tasks.flatMap fun t => maskDrums t.body.drumSet) ++ (h.engs.filterMap id).map (128 + ·)

/-- Has every earlier-admitted class-0 task on the drums or the engine of task i of job j ended (R265)? The tasks of a score
that has been admitted and still waits at its ring's head are among them. -/
def State.liveTurn (s : State) (j : Job) (i : Nat) (t : Task) : Bool :=
  t.trec.cls != 0 ||
  (((s.tasksByOrder 0).all fun p =>
      !(decide (p.1.order < j.order) || (p.1.order == j.order && decide (p.2.1 < i))) || p.2.2.state == .ended ||
      !p.2.2.units.any fun u => t.units.contains u) &&
   s.liveHeads.all fun h => decide (j.order ≤ h.order) || !h.units.any fun u => t.units.contains u)

/-- May the task be dispatched at all? -/
def State.dispatchable (s : State) (j : Job) (i : Nat) (t : Task) : Bool := t.open_ && s.liveTurn j i t

/-- Does another task for this unit come first? -/
def State.outrun (s : State) (j : Job) (i : Nat) (t : Task) (target : Nat) : Bool :=
  (List.range (t.trec.cls + 1)).any fun c => (s.tasksByOrder c).any fun p =>
    (decide (c < t.trec.cls) || decide (p.1.order < j.order) || (p.1.order == j.order && decide (p.2.1 < i))) &&
    t.trec.sameKind p.2.2.trec && p.2.2.wants target && s.dispatchable p.1 p.2.1 p.2.2

/-- A block whose record has reached stroke takes no task until the record is cleared (R361). -/
def State.halted (s : State) (src : Nat) : Bool := (s.fault src).valid && ((s.fault src).level != 0 || (s.fault src).struck)

def State.stickFree (s : State) (k : Nat) : Bool := (getCell none s.met.sticks k).isNone && !s.halted (0xA0 + k)
def State.engineFree (s : State) (e : Nat) : Bool := (getCell none s.met.engines e).isNone

/-! ## Dispatch to a drum -/

/-- A drum that holds no run, no claim and no preemption, and no saved task unless the new one is class 0. -/
def Drum.idleFor (x : Drum) (c : Nat) : Bool :=
  x.seq.run.isNone && x.claim.isNone && x.preempting.isNone && (x.saved.isNone || c == 0)

/-- The Metronome hands task i of job j to drum d: counts, latency, and the first run or claim. -/
def State.startOn (s : State) (d : Nat) (j : Half) (i : Nat) (t : Task) : State :=
  let l := (s.drum d).logical.toNat
  let wait := s.beat - t.readyAt
  let s := s.modMet fun m => { m with
    dispatched := m.dispatched + 1
    startmax := if t.trec.cls = 0 ∧ m.startmax < wait then wait else m.startmax }
  let s := s.modTask j i fun t => { t with state := .running, started := l :: t.started }
  match t.trec.body with
  | .drum set _ e tiles tile0 =>
    if e = 0 then
      let s := s.modTask j i fun t => if t.code = .done then { t with code := .doneEmpty } else t
      -- E is tested at pattern load, which TASKSER counts (R170, R206, R249)
      let s := s.modTask j i fun t => { t with ran := if t.ran.contains d then t.ran else d :: t.ran }
      (s.modDrum d fun x => { x.noteRun (jobGroup s j) s.beat ⟨j, i, 0⟩ with
                                     seq := { x.seq with lastJob := some j }
                                     tap := { x.tap with loads := x.tap.loads + 1 } }).finishShare d j i
    else if tiles = 0 then s.beginRun d j i t.trec (tile0 + ((List.range l).filter fun k => set.getLsbD k).length) 0
    else
      let s := if (s.counter? j i).isSome then s
               else s.modMet fun m => { m with counters := m.counters ++ [⟨j, i, 0, []⟩] }
      s.modDrum d fun x => { x with claim := some ⟨j, i, 0, 0⟩, seq := { x.seq.stop with lastJob := some j, cache := [] } }
  | _ => s

/-- Instructions in the order of their issue. -/
def byOrder (l : List UnitJob) : List UnitJob :=
  l.foldr (fun j r => r.takeWhile (fun k => decide (k.ord < j.ord)) ++ j :: r.dropWhile (fun k => decide (k.ord < j.ord))) []

/-- A weight load in progress is abandoned: the job stands as before the step that began it (R266). -/
def Skin.abandonLoad (k : Skin) : Skin :=
  match k.load, k.started with
  | some _, some j => { k with load := none, jobs := j :: k.jobs.filter fun y => decide (y.u.ord ≠ j.u.ord) }
  | _, _ => k

/-- Instructions that have been issued and not started. -/
def Drum.unstarted (x : Drum) : List UnitJob := x.queues.all ++ (x.skin.jobs.filter fun j => j.next == 0).map (·.u)

/-- The block of an abandoned load's strike stands as before its decode (R125, R266). -/
def Drum.abandonLoad (x : Drum) : Drum :=
  let y := match x.skin.load with
    | some t => if t.bell && !t.ownScales then x.modStack t.rd fun b => { b with next := t.kt (x.desc t.rd), ended := false } else x
    | none => x
  { y with skin := y.skin.abandonLoad }

def UnitJob.withdrawn (j : UnitJob) : Withdrawn := ⟨j.pc, j.ord, j.fused⟩

/-- PREEMPT_REQUEST (R266): the sequencer stops. Instructions that have not started, and a WAIT or FENCE that waits, are
withdrawn; they will be issued again in their order. -/
def Drum.preempt (x : Drum) (j : Half) (i : Nat) : Drum :=
  let x := x.abandonLoad
  let waits := x.seq.waiting.isSome || x.seq.fencing.isSome
  { x with
    preempting := some (j, i)
    queues := Queues.reset
    skin := { x.skin with jobs := x.skin.jobs.filter fun k => k.next != 0 }
    seq := { x.seq with waiting := none, fencing := none
                        reissue := (byOrder x.unstarted).map UnitJob.withdrawn ++
                          (if waits then [⟨x.seq.lastPc, x.seq.ord, false⟩] else []) ++ x.seq.reissue } }

def State.dispatchDrum (s : State) (l : Nat) (j : Job) (i : Nat) (t : Task) : State :=
  match s.physOf l with
  | none => s
  | some d =>
    let x := s.drum d
    if (x.pad.slotOf j.num).isNone || s.halted d then s
    else if x.idleFor t.trec.cls then (s.boundary d j.num).startOn d j.num i t
    else if t.trec.cls = 0 ∧ x.pad.saveEn = true ∧ x.seq.run.isSome = true ∧ x.seq.cls ≠ 0 ∧ x.preempting.isNone = true ∧
        x.saved.isNone = true then
      (s.modMet fun m => { m with preempts := m.preempts + 1 }).modDrum d fun x => x.preempt j.num i
    else s

/-! ## Dispatch to sticks and engines -/

/-- The task of stick k raises a fault of the stick and ends faulted (R357). -/
def State.stickFault (s : State) (k sub : Nat) : State :=
  match getCell none s.met.sticks k with
  | some (j, i) => ((s.raiseJob (0xA0 + k) sub j none).endTask j i .faulted).noteReady
  | none => s

/-- Integer register n; x0 reads zero. -/
def StickCore.reg (c : StickCore) (n : Nat) : Dword := if n = 0 then 0 else getCell 0 c.x n

/-- The hart starts a task at ENTRY with ARG in a0 and the job number in a1 (R255); its other registers stay. -/
def StickCore.start (c : StickCore) (entry arg job : Dword) : StickCore :=
  { c with pc := entry, x := putCell 0 (putCell 0 c.x 10 arg) 11 job }

def Met.core (m : Met) (k : Nat) : StickCore := getCell StickCore.reset m.cores k

/-- The lowest free stick of STICKS takes the task: it starts at ENTRY with ARG in a0 and the job number in a1 (R255). An
ENTRY that is unbacked, or lies in a pad outside the job's slot, is the stick access fault of its first fetch (R37, R225). -/
def State.dispatchStick (s : State) (k : Nat) (mask : Half) (entry arg : Dword) (j : Job) (i : Nat) : State :=
  if s.stickFree k = false ∨ (List.range k).any (fun m => mask.getLsbD m && s.stickFree m) then s
  else
    let s := s.modMet fun m => { m with
      dispatched := m.dispatched + 1, sticks := putCell none m.sticks k (some (j.num, i))
      cores := putCell StickCore.reset m.cores k ((m.core k).start entry arg (j.num.zeroExtend 64)) }
    let s := s.modTask j.num i fun t => { t with state := .running, unit := some k }
    if s.backed entry.toNat 4 = false ∨ s.padRefused j.num entry.toNat 4 = true then s.stickFault k 0x01 else s

/-- A DMA engine takes the task. It reads the record of the task's stream, which waits while the stream table is being
cleared (R316, R320). -/
def State.dispatchDma (s : State) (e : Nat) (j : Job) (i : Nat) (t : Task) : State :=
  if s.engineFree e = false ∨ (t.trec.stream.isSome && s.mem.strBusy) = true then s
  else
    let wait := s.beat - t.readyAt
    let s := s.modMet fun m => { m with
      dispatched := m.dispatched + 1, engines := putCell none m.engines e (some (j.num, i))
      startmax := if t.trec.cls = 0 ∧ m.startmax < wait then wait else m.startmax }
    (s.modTask j.num i fun t => { t with state := .running, unit := some e }).runDma j.num i e t.trec

/-- TASK_DISPATCH: task `task` of job `job` goes to unit `target`, when it is next for that unit and the unit is free: a
logical drum, a stick or a DMA engine by the task's type. Pending changes of the drum map come first (R28). -/
def execTaskDispatch (job : Half) (task target : Nat) (s : State) : Host.Outcome State Fault Refusal :=
  .next <|
    let m := s.applyMap
    match m.job? job with
    | none => s
    | some j =>
      match j.tasks[task]? with
      | none => s
      | some t =>
        if m.crashed || !t.wants target || !m.dispatchable j task t || m.outrun j task t target then s
        else match t.trec.body with
          | .drum .. => m.dispatchDrum target j task t
          | .stick mask entry arg => m.dispatchStick target mask entry arg j task
          | .dma .. => m.dispatchDma target j task t
          | .barrier => s

/-! ## Preemption (R142, R168, R240, R266) -/

/-- An entry of the descriptor table (R120). -/
def Desc.bytes (e : Desc) : List Byte :=
  leBytes 1 (e.valid.toNat + 2 * e.bell.toNat + 4 * e.sr.toNat + 8 * e.qen.toNat + 16 * e.tx.toNat) ++
  leBytes 1 e.qid ++ leBytes 1 e.blk ++ leBytes 1 e.rid ++ leBytes 4 e.kbase ++ leBytes 4 e.ktot ++ leBytes 4 e.rxmask.toNat ++
  leBytes 4 e.parent.toNat ++ leBytes 1 e.prid ++ leBytes 11 0

/-- Writes rows, statuses, the descriptor table and the scales into the save area (R240): each scale as the 2-byte word that
a scale block holds, segment by segment in the file and row by row in the buffer (log 32). -/
def Drum.saveBytes (x : Drum) : Memory :=
  let m := loop (fun r m => loop (fun c m => putNat m (saveBase + 4096 * r + 4 * c) 4 (shellAt x.shell r c).toNat) 1024 m) 256 x.pad.mem
  let m := loop (fun r m => putNat m (saveBase + 0x100000 + 4 * r) 4 (x.shell.tstatus r).toNat) 256 m
  let m := loop (fun e m => putBytes m (saveBase + 0x100400 + 32 * e) (x.desc e).bytes) 16 m
  let m := loop (fun i m => putNat m (saveBase + 0x100800 + 2 * i) 2 (getCell 0#16 x.tuner.file i).toNat) 32768 m
  loop (fun i m => putNat m (saveBase + 0x110800 + 2 * i) 2 (getCell 0#16 x.tuner.rsb i).toNat) 8192 m

/-- The stack states and the sequencer's position go to the save area in a form that R240 leaves open: free bytes (log 32). -/
def State.saveOpen (s : State) (d : Nat) : State :=
  let bytes (at_ n : Nat) : List Byte := (List.range n).flatMap fun i => leBytes 8 (Config.freeValue (s.free + at_ + i)).toNat
  ({ s with free := s.free + 192 }).modPad d fun p =>
    { p with mem := putBytes (putBytes p.mem (saveBase + 0x100600) (bytes 0 64)) (saveBase + 0x114800) (bytes 64 128) }

/-- Every unit has stopped: the strike boundary, the drain, carries and the tuner's TUNE. -/
def Drum.stoppedUnits (x : Drum) : Bool :=
  x.skin.cur.isNone && x.skin.laneQ.isEmpty && x.shell.leaves.isEmpty && x.tuner.cur.isNone && x.tuner.share.isNone

/-- A preempted walk shows its next step (R168, R173). -/
def Drum.walkNext (x : Drum) : Seq :=
  match x.skin.jobs with
  | j :: _ => { x.seq with walkIm := BitVec.ofNat 8 j.step.im, walkIn := BitVec.ofNat 8 j.step.in_, walkIk := BitVec.ofNat 8 j.step.ik }
  | [] => x.seq

def Drum.toSaved (x : Drum) : Saved :=
  { descs := x.shell.descs, blocks := x.shell.blocks, leaves := x.shell.leaves, seed := x.shell.seed, file := x.tuner.file,
    fvalid := x.tuner.fvalid, ftag := x.tuner.ftag, fgroup := x.tuner.fgroup, fpair := x.tuner.fpair, rsb := x.tuner.rsb,
    rsbTag := x.tuner.rsbTag, seq := x.walkNext, tapSeq := x.tap.seq, serial := x.tap.serial, replay := x.tap.replay,
    tapTile := x.tap.tile, tapTiles := x.tap.tiles, tile := x.skin.tile, jobs := x.skin.jobs, askipNow := x.skin.askipNow,
    wskipNow := x.skin.wskipNow, rollCur := x.roll.cur,
    rollTable := x.roll.table, rollFunc := x.roll.func, rollRow := x.roll.row, shareOrd := x.tuner.shareOrd }

/-- The shell save and the restore reach every bank, one pad row per nc (R220). -/
def State.touchAll (s : State) (d : Nat) : State := s.modPad d fun p => p.touch s.beat (List.range 64)

/-- The save: the shell is cleared as it is saved, the latches are empty and the scales invalid. -/
def Drum.save (x : Drum) : Drum :=
  { x with
    saved := some x.toSaved, preempting := none
    pad := { x.pad with mem := x.saveBytes, saveHeld := true
                        failed := x.pad.failed.filter fun w => decide (16 * w < saveBase ∨ saveBase + saveSize ≤ 16 * w) }
    shell := { x.shell with rows := [], tstat := [], descs := [], blocks := [], leaves := [] }
    skin := { x.skin with tile := none, cells := [], sums := [], load := none, jobs := [], started := none, holds := [],
                          fin := [], qs := [], fed := 0, final := 0, used := 0 }
    roll := { x.roll with cur := none, table := [], row := 0 }
    tap := { x.tap with replay := none }
    tuner := { x.tuner with file := [], fvalid := false, rsb := [], rsbTag := [] }
    seq := { x.walkNext.stop with lastJob := none } }

/-- PREEMPT_SAVE: the state is saved and the class-0 task starts. A shell row that fails its parity as the save reads it is
the drum's array parity fault, and nothing is saved: the run that was to be preempted ends (R152, R357; DEDUCED, log 57). -/
def execPreemptSave (d : Nat) (s : State) : Host.Outcome State Fault Refusal :=
  onDrum d s fun s =>
    let x := s.drum d
    match x.preempting with
    | none => s
    | some (j, i) =>
      if x.stoppedUnits = false then s
      else match s.nextArray with
      | (false, s) => (s.modDrum d fun x => { x with preempting := none }).drumFault d 0x72
      | (true, s) =>
        let s := ((s.setDrum d x.save).saveOpen d).touchAll d
        match s.task? j i with
        | some t => s.startOn d j i t
        | none => s

/-- The shell as the save area holds it. -/
def Drum.restoreShell (x : Drum) (v : Saved) : Shell :=
  let h := loop (fun r h => loop (fun c h => h.put r c (toW (getNat x.pad.mem (saveBase + 4096 * r + 4 * c) 4))) 1024 h) 256
    { x.shell with rows := [], tstat := [], descs := v.descs, blocks := v.blocks, leaves := v.leaves, seed := v.seed }
  loop (fun r h => h.setStatus r (toW (getNat x.pad.mem (saveBase + 0x100000 + 4 * r) 4))) 256 h

/-- The sequencer takes up the preempted task again. The pattern cache stays empty, and the counters go on: they count over all
tasks and classes (R148, R173). -/
def Seq.resume (q v : Seq) : Seq :=
  { v with cache := [], issued := q.issued, misses := q.misses, sendSerial := q.sendSerial }

def Drum.restore (x : Drum) (v : Saved) : Drum :=
  { x with
    saved := none, seq := x.seq.resume v.seq, shell := x.restoreShell v
    pad := { x.pad with saveHeld := false }
    skin := { x.skin with jobs := v.jobs, askipNow := v.askipNow, wskipNow := v.wskipNow }
    roll := { x.roll with cur := v.rollCur, table := v.rollTable, func := v.rollFunc, row := v.rollRow }
    tuner := { x.tuner with file := v.file, fvalid := v.fvalid, ftag := v.ftag, fgroup := v.fgroup, fpair := v.fpair,
                            rsb := v.rsb, rsbTag := v.rsbTag, shareOrd := v.shareOrd }
    tap := { x.tap with seq := v.tapSeq, serial := v.serial, replay := v.replay, tile := v.tapTile, tiles := v.tapTiles } }

/-- Is a class-0 task ready for logical drum l? -/
def State.liveReadyFor (s : State) (l : Nat) : Bool :=
  (s.tasksByOrder 0).any fun p => p.2.2.wants l && s.dispatchable p.1 p.2.1 p.2.2

/-- Nodes held at the station are offered to the descriptors again. -/
def State.retryHeld (s : State) (d : Nat) : State :=
  let held := (s.drum d).pad.held
  held.foldl (fun s k => match k.body with
    | .node prid level m n row0 flags vals => s.nodeArrives d k prid level m n row0 flags vals
    | _ => s) (s.modPad d fun p => { p with held := [] })

/-- Climbs that waited for a node which came while the block stood in the save area go on (R124, R142); each reads shell rows,
which pass their parity as the environment has it (R357). -/
def State.resumeClimbs (s : State) (d : Nat) : State :=
  (List.range 16).foldl (fun s rd =>
    let b := (s.drum d).stack rd
    match b.climb with
    | some lv =>
      if b.rcv.getLsbD lv then
        let q := s.nextArray
        q.2.resumeClimb d rd q.1
      else s
    | none => s) s

/-- The tile that the preempted task last loaded is loaded again, from the same source and address (R168). A word that fails
its re-read ends the task (R235). -/
def State.reload (s : State) (d : Nat) (tile : Option Tile) : State :=
  match tile with
  | none => s
  | some t =>
    let l := { t.step with loadw := true, wscl := none, ascl := none }.loadReads (s.drum d)
    let s := s.access d l
    let x := s.drum d
    if x.readFails l then (s.rereads d l).drumFaults d [0x62]
    else
      let (y, bad) := x.loadTile t.step
      if bad.isEmpty then s.setDrum d { y with tuner := x.tuner } else (s.setDrum d y).drumFaults d bad

/-- Does a class-0 task that has run on logical drum l go on, be it on other drums (R256, R266)? -/
def State.liveStill (s : State) (l : Nat) : Bool :=
  (s.tasksByOrder 0).any fun p => p.2.2.state == .running && p.2.2.started.contains l

/-- The restore meets a word of the save area that fails its re-read: nothing of what it reads comes back, and the task that was
to go on ends with the pad parity fault (R235, R242). -/
def State.restoreLost (s : State) (d : Nat) (v : Saved) : State :=
  (s.modDrum d fun x => { x with saved := none, seq := x.seq.resume v.seq
                                 pad := { (x.pad.reread saveBase saveSize) with saveHeld := false } }).drumFaults d [0x62]

/-- The saved state comes back, and the tile is loaded again. -/
def State.restore (s : State) (d : Nat) (v : Saved) : State :=
  let s := s.touchAll d
  if (s.drum d).pad.anyFailed saveBase saveSize then s.restoreLost d v
  else ((((s.modDrum d (·.restore v)).reload d v.tile).resumeClimbs d).retryHeld d).unitsRun d

/-- PREEMPT_RESTORE: when the class-0 task has ended, on every drum, and none is ready for the drum, the saved state comes back,
the tile is loaded again and the task goes on. -/
def execPreemptRestore (d : Nat) (s : State) : Host.Outcome State Fault Refusal :=
  onDrum d s fun s =>
    let x := s.drum d
    match x.saved with
    | none => s
    | some v =>
      if x.idleFor 0 = false ∨ x.shell.clearing = true ∨ s.halted d = true ∨
          s.liveReadyFor x.logical.toNat = true ∨ s.liveStill x.logical.toNat = true then s
      else s.restore d v

/-! ## The end of a task (R259) -/

/-- Every instruction that has been issued has run (R152): the units and their queues, drains and carries, shared statistics,
and blocks whose final node waits for a sibling. -/
def Drum.allRan (x : Drum) : Bool :=
  !x.skin.busy && x.queues.all.isEmpty && x.roll.cur.isNone && x.tuner.cur.isNone && x.tuner.share.isNone &&
  x.shell.leaves.isEmpty &&
  !x.shell.anyBlock fun b => b.climb.isSome

/-- Has drum l finished its share of the task, or stopped at a fault with everything issued done? -/
def State.shareOver (s : State) (j : Half) (i : Nat) (t : Task) (l : Nat) : Bool :=
  t.finished.contains l ||
  match s.holder l with
  | some d =>
    let x := s.drum d
    match x.seq.run with
    | some r => r.job == j && r.task == i && x.seq.stopped && x.allRan
    | none => x.claim.isNone && x.saved.isNone
  | none => true

/-- A stopped run leaves its drum. -/
def State.leaveDrum (s : State) (j : Half) (i l : Nat) : State :=
  match s.holder l with
  | some d => match (s.drum d).seq.run with
    | some r => if r.job = j ∧ r.task = i then
        (s.bankRun d).modDrum d fun x => { (x.noteRun (jobGroup s r.job) s.beat r) with claim := none, seq := x.seq.stop } else s
    | none => s
  | none => s

/-- TASK_END: a task all of whose shares are over, or whose stick or engine has done its work, ends with its status word. -/
def execTaskEnd (job : Half) (task : Nat) (s : State) : Host.Outcome State Fault Refusal :=
  .next <| match s.task? job task with
    | none => s
    | some t =>
      if t.state ≠ .running then s else
      match t.trec.body with
      | .drum set .. =>
        let l := if t.code.good then maskDrums set else t.started
        if (if t.code.good then l.all t.finished.contains else l.all (s.shareOver job task t)) then
          (((l.foldl (fun s k => s.leaveDrum job task k) s).endTask job task t.code).noteReady).applyMap
        else s
      | _ => if t.finished.isEmpty then s else (s.endTask job task t.code).noteReady.applyMap

/-- LIVE_OVERRUN: a class-0 task has not ended at its promised finish (R265). -/
def execLiveOverrun (job : Half) (task : Nat) (s : State) : Host.Outcome State Fault Refusal :=
  .next <| match s.task? job task with
    | none => s
    | some t =>
      match t.finish with
      | none => s
      | some f =>
        if t.state = .ended ∨ t.overrun = true ∨ s.beat < f then s
        else ((s.modTask job task fun t => { t with overrun := true }).modMet fun m =>
          { m with overruns := m.overruns + 1 }).raiseJob 0x140 0x05 job (some ⟨job, task, 0⟩)

/-- GROUP_HOLD_EXPIRE: records of ring q whose hold has ended are written, done or aborted (R352, R376). -/
def execGroupHoldExpire (q : Nat) (s : State) : Host.Outcome State Fault Refusal :=
  if q < 4096 then .next s.flushAll else .fault .noSuchUnit

/-! ## Sticks (R255, R432) -/

/-- The task that stick k runs. -/
def State.stickTask (s : State) (k : Nat) : Option (Half × Nat) := getCell none s.met.sticks k

/-- The stick task of stick k ends with a code and a count (R432). -/
def State.stickDone (s : State) (k : Nat) (c : Code) (count : Nat) : State :=
  match s.stickTask k with
  | some (j, i) => ((s.modTask j i fun t => { t with count := count }).endTask j i c).noteReady
  | none => s

/-- A write by stick k to its MET_STKDONE: CODE in [3:0], COUNT in [31:16]; a CODE above 0x2 is the stick trap fault. -/
def State.writeStkdone (s : State) (k value : Nat) : State :=
  let n := fld value 16 16
  match fld value 0 4 with
  | 0 => s.stickDone k .done n
  | 1 => s.stickDone k .doneEmpty n
  | 2 => s.stickDone k .faulted n
  | _ => match s.stickTask k with
    | some (j, _) => (s.raiseJob (0xA0 + k) 0x03 j none).stickDone k .faulted n
    | none => s

/-- MET_STKDONE. -/
def execMetStkdone (k : Nat) (value : Word) (s : State) : Host.Outcome State Fault Refusal :=
  if 16 ≤ k then .fault .noSuchUnit else .next (s.writeStkdone k value.toNat)

/-- STICK_TRAP: the task of stick k raises a RISC-V exception other than an environment call. -/
def execStickTrap (k : Nat) (s : State) : Host.Outcome State Fault Refusal :=
  if 16 ≤ k then .fault .noSuchUnit else .next (s.stickFault k 0x03)

/-- A line that is used stands first, and the one used longest ago goes when the cache is full. -/
def useLine (lines : Nat) (l : List Nat) (a : Nat) : List Nat := (a :: l.erase a).take lines

/-- The 64-byte lines of a range. -/
def linesOf (a n : Nat) : List Nat := (partsOf 64 a n).map (·.1)

/-- An access of stick k to LPDDR5 leaves its lines in the stick's private cache of 2 MiB and in the shared one of 16 MiB; pads
and the host's memory are not cached (log 69). -/
def State.fillCaches (s : State) (k a n : Nat) : State :=
  if s.inMem a n then
    { s with caches := (linesOf a n).foldl (fun c i =>
        ⟨putCell [] c.own k (useLine 32768 (getCell [] c.own k) i), useLine 262144 c.shared i⟩) s.caches }
  else s

/-- The access of stick k at a device address, once nothing refuses it. A store that LPDDR5 refuses is its channel's fault
only: the stick's error is of loads and fetches (R309, R357). -/
def State.stickReach (s : State) (k addr : Nat) (write : Bool) (data : List Byte) (live : Bool) : State :=
  if write then (s.storeDev addr data live).1.fillCaches k addr data.length
  else
    let r := s.fetchDev (.stick k) addr data.length live
    match r.1 with
    | .data l => ((r.2.dropAsks (· == .stick k)).fillCaches k addr data.length).answer l
    | .error => r.2.stickFault k 0x02
    | .waits => r.2

/-- STICK_DEVICE_ACCESS: a load of as many bytes as `data` holds, or a store of them, at a device physical address. An
address fault or a refusal of R225 is the stick access fault; a load that meets an error, or a cache word that its SECDED
code cannot correct (`path.cache` false), is the stick memory error. It waits for READY (R306), and in a reserved slot for class 0
(R312). -/
def execStickDeviceAccess (k addr : Nat) (write : Bool) (data : List Byte) (path : StickPath) (s : State) :
    Host.Outcome State Fault Refusal :=
  if 16 ≤ k then .fault .noSuchUnit else .next <|
    match s.stickTask k with
    | none => s
    | some (j, i) =>
      let n := data.length
      let live := ((s.task? j i).map fun t => t.trec.cls == 0).getD false
      if s.backed addr n = false ∨ s.padRefused j addr n = true then s.stickFault k 0x01
      else if !path.cache then s.stickFault k 0x02
      else if s.heldAt addr n || (!live && s.slotTaken (s.rangeChans addr n)) then s
      else match s.padPathLost addr n path.net with
        | some f => s.packetLost f.1 f.2 (some j)
        | none => s.stickReach k addr write data live

end Sys2Proof.Machine
end

