-- ==== Sys2Proof/Machine/HostIf.lean ====
section
/-! DEFINITION. Machine/HostIf.lean: rings, doorbells, interrupts, followers and the PCIe endpoint (R272-R300, R408). -/

namespace Sys2Proof.Machine

/-! ## Ring configuration (R280, R281, PCI_RQ_CFG) -/

/-- Does nothing of the ring remain to be written (QUIESCED)? -/
def State.quiesced (s : State) (q : Nat) : Bool :=
  let r := s.ring q
  !r.en && r.out.isEmpty && r.head.isNone && r.drains.isEmpty && r.kills.isEmpty && r.pendingScores.isEmpty &&
    !s.met.jobs.any fun j => j.ring == q

/-- The fields of PCI_RQ_CFG but EN. -/
def Ring.cfg (r : Ring) (v : Nat) : Ring := { r with sqsz := BitVec.ofNat 4 (v / 16), cqsz := BitVec.ofNat 4 (v / 256), live := bit v 12 }

/-- The checks at an EN write of 1 (PCI_RQ_CFG, R342). -/
def Ring.cfgOk (r : Ring) (group : Nat) : Bool :=
  decide (r.sqsz.toNat ≤ 10) && decide (r.cqsz.toNat ≤ 10) && decide (r.sqbase.toNat + 64 * ringSize r.sqsz ≤ 2 ^ 47) &&
  decide (r.cqbase.toNat + 32 * ringSize r.cqsz ≤ 2 ^ 47) && !(r.live && decide (group ≠ 0))

/-- The ring starts afresh, with the sizes and LIVE that stand in PCI_RQ_CFG: indices 0, PHASE 1, ERR clear. -/
def Ring.start (r : Ring) : Ring :=
  { r with en := true, cqNow := r.cqsz, sqNow := r.sqsz, liveNow := r.live, err := false, sqhead := 0, sqtail := 0, cqhead := 0, cqtail := 0, phase := true,
           reserved := r.reserved - r.unreleased, unreleased := 0, count := 0, oldest := none }

/-- Sends the message of a vector that is pending and no longer masked, while MSI-X is enabled, the link is up and
the silence of R275 is over. -/
def State.releaseVector (s : State) (v : Nat) : State :=
  if getCell false s.pcie.pba v && !s.vectorMasked v && s.pcie.msixEn && s.pcie.linkUp && !s.pcie.quiet then
    (s.modPcie fun p => { p with pba := putCell false p.pba v false }).sendVector v
  else s

/-- Sends what the pending bits hold, as far as it may go. -/
def State.releasePending (s : State) : State := (s.pcie.pba.map (·.1)).foldl (fun s v => s.releaseVector v) s

/-- A ring is enabled with the link up, or by a follower: the silence of R275 ends, and what has become pending in it may go
(R294). -/
def State.endQuiet (s : State) : State :=
  if s.pcie.quiet && (s.pcie.linkUp || s.pcie.role == 2) then (s.modPcie fun p => { p with quiet := false }).releasePending else s

/-- A write to PCI_RQ_CFG sets its fields (R17). EN set on a disabled ring has them checked and read; on an enabled ring it
starts nothing anew, and the ring goes on with those that it has read (R280; DEDUCED, log 34). -/
def State.writeRqCfg (s : State) (q : Nat) (v : Nat) : State :=
  let was := (s.ring q).en
  let r := (s.ring q).cfg v
  if bit v 0 then
    if was then s.setRing q r
    else if r.cfgOk (getCell 0#10 s.fab.groups q).toNat then ((s.dropAsks (· == .ring q)).setRing q r.start).endQuiet
    else (s.setRing q r).raise 0x150 0x07
  else (if was then s.dropAsks (· == .ring q) else s).setRing q { r with en := false }

/-- RING_ENABLE: an EN write of 1. -/
def execRingEnable (q : Nat) (value : Word) (s : State) : Host.Outcome State Fault Refusal :=
  if 4096 ≤ q then .fault .noSuchUnit
  else if s.boot.bar0 && s.boot.mode != 2 then .next (s.writeRqCfg q (value.toNat / 2 * 2 + 1)) else .next s

/-- RING_DISABLE: an EN write of 0. -/
def execRingDisable (q : Nat) (value : Word) (s : State) : Host.Outcome State Fault Refusal :=
  if 4096 ≤ q then .fault .noSuchUnit
  else if s.boot.bar0 && s.boot.mode != 2 then .next (s.writeRqCfg q (value.toNat / 2 * 2)) else .next s

/-! ## Doorbells (R284, R289, R298) -/

/-- A fault disables ring q; what it asked its lead for goes (R281, R296). -/
def State.disableRing (s : State) (q : Nat) : State :=
  (s.dropAsks (· == .ring q)).modRing q fun r => { r with en := false, err := true }

/-- The doorbell fault: the ring is disabled. -/
def State.doorbellFault (s : State) (q : Nat) : State := (s.disableRing q).raise 0x150 0x02

/-- SQTAIL of a ring of this part. -/
def State.ringTail (s : State) (q v : Nat) : State :=
  let r := s.ring q
  if !r.en || r.err || !s.boot.bar0 then s.modPcie fun p => { p with dbdrop := p.dbdrop + 1 }
  else if ringSize r.sqNow ≤ v then s.doorbellFault q
  else s.setRing q { r with sqtail := BitVec.ofNat 16 v }

/-- CQHEAD of a ring of this part: records released, and their reservations. -/
def State.ringHead (s : State) (q v : Nat) : State :=
  let r := s.ring q
  let n := ringSize r.cqNow
  let k := (v + n - r.cqhead.toNat) % n
  if !r.en || r.err || !s.boot.bar0 then s.modPcie fun p => { p with dbdrop := p.dbdrop + 1 }
  else if n ≤ v ∨ r.unreleased < k then s.doorbellFault q
  else s.setRing q { r with cqhead := BitVec.ofNat 16 v, reserved := r.reserved - k, unreleased := r.unreleased - k }

/-- PCI_DBMAP of a page: its own number at reset. -/
def State.dbmapOf (s : State) (page : Nat) : Word := getCell (toW page) s.dbmap page

/-- A doorbell of another part travels as a forwarded access; the offsets of its pages follow BAR0's (log 16). -/
def doorbellOff (ring reg : Nat) : Nat := 0x10000000 + 0x1000 * ring + reg

def State.forwardPk (s : State) (dst : Coord) (off width : Nat) (write : Bool) (data : Dword) : State :=
  s.sendPk { pkind := 9, group := 0, dst := dst, src := s.pcie.coord, dstDrum := 255, srcDrum := 255,
             spec := leBytes 4 off ++ leBytes 1 (width + 16 * write.toNat) ++ leBytes 8 data.toNat, data := [] } false

/-- A coordinate of another part of this chassis. -/
def State.inChassis (s : State) (c : Coord) : Bool := leadOf c == leadOf s.pcie.coord && c != s.pcie.coord

/-- A doorbell write to a page, register 0 (SQTAIL) or 4 (CQHEAD). Before BAR0 it is dropped and counted (R407); one to a
coordinate outside the chassis is dropped as a forwarded write is (R297, DEDUCED, log 16). -/
def State.doorbell (s : State) (page reg : Nat) (value : Word) : State :=
  let m := (s.dbmapOf page).toNat
  let ring := fld m 0 12
  let v := fld value.toNat 0 16
  if bit m 31 && s.pcie.role == 1 then
    let c : Coord := ⟨fld m 16 4, fld m 20 4, fld m 24 6⟩
    if !s.boot.bar0 then s.modPcie fun p => { p with dbdrop := p.dbdrop + 1 }
    else if !s.inChassis c then s.badacc
    else s.forwardPk c (doorbellOff ring reg) 4 true (value.setWidth 64)
  else if reg = 0 then s.ringTail ring v else s.ringHead ring v

/-- The two registers of a ring's doorbell page, as it reads (R284). -/
def State.pageWord (s : State) (q o : Nat) : Nat :=
  let r := s.ring q
  if o = 0 then r.sqhead.toNat + 65536 * r.sqtail.toNat
  else if o = 4 then r.cqtail.toNat + 65536 * r.cqhead.toNat
  else 0

/-- A read in a ring's doorbell page, one aligned word at a time; zero where no register stands. -/
def State.pageRead (s : State) (q o len : Nat) : List Byte :=
  let l := (List.range ((o + len + 3) / 4 - o / 4)).flatMap fun i => leBytes 4 (s.pageWord q (o / 4 * 4 + 4 * i))
  sub l (o % 4) len

/-- DOORBELL_SQTAIL. -/
def execDoorbellSqtail (page : Nat) (value : Word) (s : State) : Host.Outcome State Fault Refusal :=
  if page < 4096 then .next (s.doorbell page 0 value) else .fault .noSuchUnit

/-- DOORBELL_CQHEAD. -/
def execDoorbellCqhead (page : Nat) (value : Word) (s : State) : Host.Outcome State Fault Refusal :=
  if page < 4096 then .next (s.doorbell page 4 value) else .fault .noSuchUnit

/-! ## Interrupts (R294, R295) -/

/-- IRQ_TIMER_EXPIRE: the oldest counted record has waited TIME us. The message covers several records; it travels in the live
class when the ring is one that may carry class-0 scores (log 48). -/
def execIrqTimerExpire (q : Nat) (s : State) : Host.Outcome State Fault Refusal :=
  if 4096 ≤ q then .fault .noSuchUnit else .next <|
    let r := s.ring q
    match r.oldest with
    | some b => if r.time ≠ 0 ∧ b.toNat + 320 * r.time.toNat ≤ s.beat.toNat then s.ringIrq q r.liveNow else s
    | none => s

/-- Writes the mask bit of a vector's table entry. -/
def State.setVectorMask (s : State) (v : Nat) (on : Bool) : State :=
  (s.modPcie fun p => { p with table := putCell MsixEntry.reset p.table v { getCell MsixEntry.reset p.table v with masked := on } }).releaseVector v

/-- MSIX_VECTOR_UNMASK. -/
def execMsixVectorUnmask (v : Nat) (s : State) : Host.Outcome State Fault Refusal :=
  if v < 2048 then .next (s.setVectorMask v false) else .fault .noSuchUnit

/-! ## Lead and followers (R296, R297) -/

/-- Does a forwarded access enable a ring of the follower: a write of EN = 1 to its PCI_RQ_CFG? -/
def enablesRing (off width : Nat) (write : Bool) (data : Dword) : Bool :=
  write && decide (width = 4 ∧ 0x5100000 ≤ off ∧ off < 0x5140000 ∧ off % 0x40 = 0x10) && data.getLsbD 0

/-- An access is forwarded to a follower; a read waits for its answer. A ring of the chassis that is enabled so ends its lead's
silence as well (R275, DEDUCED, log 33). -/
def State.forward (s : State) (dst : Coord) (off width : Nat) (write : Bool) (data : Dword) : State :=
  let s := if enablesRing off width write data then s.endQuiet else s
  let s := s.forwardPk dst off width write data
  if write then s else s.modPcie fun p => { p with fwdReads := p.fwdReads ++ [⟨dst, off, width, s.power.ac⟩] }

/-- An access at an offset of the follower window. -/
def State.forwardAccess (s : State) (off width : Nat) (write : Bool) (data : Dword) : State :=
  if s.boot.mode = 2 then (if write then s else s.answer (leBytes width 0))
  else if s.pcie.role ≠ 1 ∨ s.pcie.fwdValid = false ∨ s.inChassis s.pcie.fwdSel = false then
    if write then s.badacc else s.answer (leBytes width 0)
  else s.forward s.pcie.fwdSel (off % 0x8000000) width write data

/-- FORWARDED_ACCESS. -/
def execForwardedAccess (off width : Nat) (write : Bool) (data : Dword) (s : State) : Host.Outcome State Fault Refusal :=
  .next (if s.boot.bar0 then s.forwardAccess off width write data else s)

/-- FORWARD_TIMEOUT: the oldest forwarded read got no answer within 100 us, 32,000 ac. -/
def execForwardTimeout (s : State) : Host.Outcome State Fault Refusal :=
  .next <| match s.pcie.fwdReads with
    | [] => s
    | k :: r =>
      if s.power.ac.toNat < k.since.toNat + 32000 then s
      else ((s.modPcie fun p => { p with fwdReads := r, fwdtmo := p.fwdtmo + 1 }).answer (List.replicate k.width 0xFF)).raise 0x150 0x06

/-- A host read in a doorbell page: of the ring that the page acts on, forwarded where that is a follower's; zero
where the coordinate lies outside the chassis (R297, R298). -/
def State.readPage (s : State) (page o len : Nat) : State :=
  let m := (s.dbmapOf page).toNat
  if bit m 31 && s.pcie.role == 1 then
    let c : Coord := ⟨fld m 16 4, fld m 20 4, fld m 24 6⟩
    if s.inChassis c then s.forward c (doorbellOff (fld m 0 12) o) len false 0 else s.answer (leBytes len 0)
  else s.answer (s.pageRead (fld m 0 12) o len)

/-- A host write in a doorbell page: an aligned 32-bit write of a register, or dropped and counted (R284). -/
def State.writePage (s : State) (page o len : Nat) (value : Word) : State :=
  if len = 4 ∧ (o = 0 ∨ o = 4) then s.doorbell page o value else s.badacc

/-- A lead sends a request for a follower at once while fewer than 512 are outstanding (R272). -/
def State.askHost (s : State) (f : Fetch) : State :=
  let s := if s.pcie.fetches.length < 512 then s.emit (.hostRead f.src f.addr f.len) else s
  s.modPcie fun p => { p with fetches := p.fetches ++ [f] }

/-- Does the completion of n bytes at an address bring the last bytes of the request? -/
def Fetch.ends (f : Fetch) (src : Coord) (addr n : Nat) : Bool :=
  f.src == src && decide (addr < f.addr + f.len ∧ f.addr + f.len ≤ addr + n)

/-- The host's completion ends the request that it answers, and one that waits may go. -/
def State.hostAnswered (s : State) (src : Coord) (addr n : Nat) : State :=
  match (s.pcie.fetches.take 512).findIdx? (·.ends src addr n) with
  | none => s
  | some i =>
    let t := s.modPcie fun p => { p with fetches := p.fetches.eraseIdx i }
    match s.pcie.fetches[512]? with
    | some f => t.emit (.hostRead f.src f.addr f.len)
    | none => t

/-- A follower's host traffic at its lead: 5 a write, 6 a read request, which goes on in pieces no longer than the Max read
request size (R272), 7 a read completion that goes back. With the link down nothing reaches the host, and no write does
until a ring is enabled again (R275). -/
def State.followerTraffic (s : State) (src : Coord) (pkind : Nat) (live : Bool) (addr : Nat) (data : List Byte) : State :=
  if s.pcie.role ≠ 1 then s
  else if pkind = 5 then (if s.pcie.linkUp && !s.pcie.quiet then s.issueWrite addr data false else s)
  else if pkind = 6 then
    if s.pcie.linkUp then (cutRead s.maxRead (data.length + 1) addr data.length).foldl (fun s p => s.askHost ⟨src, p.1, p.2⟩) s else s
  else if pkind = 7 then
    (s.hostAnswered src addr data.length).sendPk
      { pkind := 7, group := 0, dst := src, src := s.pcie.coord, dstDrum := 255, srcDrum := 255,
        spec := hostSpec addr data.length, data := data } live
  else s

/-- A data packet that is thrown away and counted in LNK_NOGRP. -/
def State.noGroup (s : State) : State := s.modFab fun f => { f with nogrp := f.nogrp + 1 }

/-- Does the part take no data packet: it boots (R406) or has crashed (R361)? -/
def State.deaf (s : State) : Bool := s.crashed || s.boot.booting

/-- FOLLOWER_HOST_TRAFFIC: a follower's packet, which a lead that boots or has crashed discards and counts, or the host's
completion. -/
def execFollowerHostTraffic (src : Coord) (pkind : Nat) (live : Bool) (addr : Nat) (data : List Byte) (s : State) :
    Host.Outcome State Fault Refusal :=
  .next (if s.deaf && pkind != 7 then s.noGroup else s.followerTraffic src pkind live addr data)

/-- FOLLOWER_MSIX_REQUEST: the lead issues the message. -/
def execFollowerMsixRequest (_src : Coord) (vec : Nat) (s : State) : Host.Outcome State Fault Refusal :=
  .next (if s.deaf then s.noGroup else if s.pcie.role = 1 then s.issueVector vec else s)

/-! ## The endpoint (R273-R275, R408) -/

/-- Every job is aborted and no record or message of it is written. -/
def State.abortQuiet (s : State) : State :=
  let t := s.abortAll s.beat
  { t with hostMem := s.hostMem, sent := s.sent, pcie := { s.pcie with asks := t.pcie.asks }, rings := s.rings }

/-- MSI-X state at reset. -/
def State.msixReset (s : State) : State := s.modPcie fun p => { p with table := [], pba := [], funcMask := false, msixEn := false }

def State.anyRing (s : State) : Bool := s.rings.any fun p => p.2.en

/-- A ring that loses the link: what it has not written goes, and an enabled one is disabled by the fault (R300). Its
configuration and its indices stay. -/
def Ring.dropped (r : Ring) : Ring :=
  { r with en := false, err := r.err || r.en, count := 0, oldest := none, head := none, reserved := r.unreleased,
           out := [], drains := [], kills := [], pendingScores := [] }

def State.dropRings (s : State) : State :=
  let s := s.dropAsks fun w => match w with | .ring _ => true | _ => false
  { s with rings := (s.rings.map fun p => (p.1, p.2.dropped)).filter fun p => decide (p.2 ≠ Ring.reset) }

/-- Every ring at its reset value, and what the rings asked for gone. -/
def State.resetRings (s : State) : State := { s.dropRings with rings := [] }

/-- FUNCTION_LEVEL_RESET: jobs aborted, rings and MSI-X at reset values (R274). A lead's reset aborts the jobs of its chassis:
each follower takes the command for its own jobs and rings (log 33). -/
def execFunctionLevelReset (s : State) : Host.Outcome State Fault Refusal :=
  .next (s.abortQuiet.resetRings.msixReset.modPcie fun p => { p with config := [] })

/-- The jobs and the records of the part's rings are lost with the link; it writes and requests nothing more (R275). -/
def State.silence (s : State) : State := s.abortQuiet.dropRings.modPcie fun p => { p with quiet := true }

/-- The link leaves L0 while a ring is enabled (R275). -/
def State.linkLost (s : State) : State :=
  let was := s.anyRing
  let s := s.modPcie fun p => { p with linkUp := false, width := 0, speed := 0, fetches := [] }
  if was then s.silence.raise 0x150 0x05 else s

/-- PERST_ASSERT. A follower ignores the pin. -/
def execPerstAssert (s : State) : Host.Outcome State Fault Refusal :=
  .next <| if s.pcie.role = 2 then s else
    let s := s.linkLost
    s.resetRings.msixReset.modPcie fun p => { p with config := [], perst := true }

/-- PERST_RELEASE. -/
def execPerstRelease (s : State) : Host.Outcome State Fault Refusal :=
  .next <| if s.pcie.role = 2 then s else s.modPcie fun p => { p with perst := false }

/-- LINK_DOWN. A follower has no link: the command tells it of its lead's, on which every job of the chassis is aborted
(log 33). -/
def execLinkDown (s : State) : Host.Outcome State Fault Refusal :=
  .next (if s.pcie.role ≠ 2 then s.linkLost else if s.anyRing then s.silence else s)

/-- Widths and speeds that the endpoint supports (R272). -/
def linkOk (width speed : Nat) : Bool := [1, 4, 8, 16].contains width && decide (1 ≤ speed ∧ speed ≤ 5)

/-- PCIE_LINK_UP: the link trains to L0, from the PCIe reference that is then present. The endpoint trains to no width or speed
that R272 does not list. -/
def execPcieLinkUp (width speed : Nat) (s : State) : Host.Outcome State Fault Refusal :=
  .next <| if s.pcie.role = 2 ∨ s.pcie.perst = true ∨ linkOk width speed = false then s
    else ((s.modPcie fun p => { p with linkUp := true, width := BitVec.ofNat 6 width, speed := BitVec.ofNat 4 speed }).modPower
      fun p => { p with pcieRef := true }).releasePending

/-! ## Configuration space (R2, R272, R273) -/

/-- The booted slot. -/
def Boot.booted (b : Boot) : FlashSlot := if b.slot then b.slotB else b.slotA

/-- The words of configuration space that this manual gives. -/
def State.configId (s : State) (off : Nat) : Option Word :=
  match off with
  | 0x00 => some (0x4B010000#32 ||| Config.vendorId.setWidth 32)
  | 0x08 => some 0x120000A1#32
  | 0x2C => some s.boot.booted.subsystem
  | _ => none

/-- A dword of a base address register (R276): its writable bits, which give the size, and its fixed ones, which say 64-bit
and, for BAR4, prefetchable. -/
def barWord (off : Nat) : Option (Word × Word) :=
  match off with
  | 0x10 => some (0xF0000000, 0x4)
  | 0x18 => some (0xFF000000, 0x4)
  | 0x20 => some (0xC0000000, 0xC)
  | 0x14 | 0x1C | 0x24 => some (0xFFFFFFFF, 0)
  | _ => none

/-- Fields that give what R272 lists, in the places of the base specification: an MSI-X table of 2,048 entries, 512 B of payload,
10-bit tags. The mask of the field and its value. -/
def capField (off : Nat) : Word × Word :=
  if off = Config.msixCap then (0x07FF0000, 0x07FF0000)
  else if off + 4 = Config.devCtl then (0x7, 0x2)
  else if off = Config.devCtl + 0x1C then (0x30000, 0x30000)
  else (0, 0)

/-- What a dword of configuration space holds while nothing has been written to it: an address register is zero. -/
def configBlank (off : Nat) : Word := if (barWord off).isSome then 0 else Config.configSpace off

def State.configRead (s : State) (off : Nat) : Word :=
  match s.configId off with
  | some w => w
  | none =>
    let w := getCell (configBlank off) s.pcie.config off
    match barWord off with
    | some b => (w &&& b.1) ||| b.2
    | none => (w &&& ~~~(capField off).1) ||| (capField off).2

/-- A write stores the word; the dword of the MSI-X message control holds MSI-X Enable, its bit 31, and the function mask, its
bit 30 (R294). -/
def State.configWrite (s : State) (off : Nat) (data : Word) : State :=
  match s.configId off with
  | some _ => s
  | none =>
    let s := s.modPcie fun p => { p with config := putCell (configBlank off) p.config off data }
    if off = Config.msixCap then
      loop (fun v s => s.releaseVector v) 2048
        (s.modPcie fun p => { p with msixEn := data.getLsbD 31, funcMask := data.getLsbD 30 })
    else s

/-- CONFIGURATION_REQUEST at a dword offset: Request Retry Status until BAR0 is enabled. -/
def execConfigurationRequest (off : Nat) (write : Bool) (data : Word) (s : State) : Host.Outcome State Fault Refusal :=
  .next <|
    let off := off / 4 * 4
    if s.pcie.role = 2 ∨ s.pcie.perst = true then s
    else if s.boot.bar0 = false then s.emit .retry
    else if write then s.configWrite off data
    else s.answer (leBytes 4 (s.configRead off).toNat)

/-! ## Reads of host memory that fail (R272, R300) -/

/-- COMPLETION_TIMEOUT: a read of DMA engine `dma`, else of the entry at the head of ring q, else of that entry's score. -/
def execCompletionTimeout (q : Nat) (score : Bool) (dma : Option Nat) (s : State) : Host.Outcome State Fault Refusal :=
  if 4096 ≤ q then .fault .noSuchUnit else .next <|
    match dma with
    | some e =>
      match s.met.moves.find? (·.engine == e) with
      | some k => s.moveFault k [0x04]
      | none => s
    | none =>
      if s.canTake q = false then s
      else if score then
        let r := s.ring q
        match s.entryAt q with
        | none => s
        | some e =>
          if e.op ≠ 1 ∨ inHost e.addr 1 = false ∨ s.entryBad e = true then s
          else (((s.take q).modRing q fun x => { x with pendingScores := x.pendingScores ++ [r.taken] }).raise 0x150 0x04).scoreWithout
            q .scoreFault e.utag r.sqhead r.taken
      else (s.disableRing q).raise 0x150 0x04

end Sys2Proof.Machine
end

