-- ==== Sys2Proof/Machine/Links.lean ====
section
/-! DEFINITION. Machine/Links.lean: the link ports (R322-R333, R353, R355), beat alignment (R346-R349, R404) and aborts across
parts (R350, R351). -/

namespace Sys2Proof.Machine

/-! ## Counters and faults of a port -/

/-- Counters by their place in the register tables of a port. -/
inductive LinkCount where
  | txFlits | rxFlits | crcErr | resends | reorder | dups | fecCorr | fecUnc | retrains | impEvents | credWait | liveFlits
deriving DecidableEq, Repr

def LinkCount.key : LinkCount → Nat
  | .txFlits => 0 | .rxFlits => 1 | .crcErr => 2 | .resends => 3 | .reorder => 4 | .dups => 5
  | .fecCorr => 6 | .fecUnc => 7 | .retrains => 8 | .impEvents => 9 | .credWait => 10 | .liveFlits => 11

def Port.bump (p : Port) (k : LinkCount) : Port := { p with counters := putCell 0 p.counters k.key (getCell 0#64 p.counters k.key + 1) }

def onPort (p : Nat) (s : State) (f : State → State) : Host.Outcome State Fault Refusal :=
  if p < 20 then .next (f s) else .fault .noSuchUnit

def State.portFault (s : State) (p sub : Nat) : State := s.raise (0x100 + p) sub

/-! ## Lanes (R323) -/

def popByte (b : Byte) : Nat := ((List.range 8).filter fun i => b.getLsbD i).length

/-- Lanes in service, ascending. -/
def Port.laneList (p : Port) : List Nat := (List.range 8).filter fun l => p.lanes.getLsbD l

/-- The lane that carries the n-th 257-bit transcoded block of the port's byte stream: round-robin over the lanes in service,
each of which runs its own FEC codewords (R323). -/
def Port.blockLane (p : Port) (n : Nat) : Option Nat := p.laneList[n % p.laneList.length]?

/-! ## Sending (R327, R328, R331-R333, R353) -/

/-- Has channel vc a flit ready? Behind a packet that it has begun and whose next flit has not come, no other begins (R337). -/
def Port.ready (p : Port) (vc : Nat) : Bool := match ((p.txq[vc]?).getD []).head? with
  | some q => !(q.first && (p.midTx[vc]?).getD false)
  | none => false

/-- Has channel vc a flit ready and a credit? -/
def Port.canSend (p : Port) (vc : Nat) : Bool := p.ready vc && decide (0 < (p.credits[vc]?).getD 0)

/-- Of two channels of a class, the one whose turn it is, else the other. -/
def Port.pickPair (p : Port) (a : Nat) (turnB : Bool) : Option Nat :=
  let first := if turnB then a + 1 else a
  let other := if turnB then a else a + 1
  if p.canSend first then some first else if p.canSend other then some other else none

/-- The channel of the next flit: CTL, LIVE, RSP, REQ. -/
def Port.pick (p : Port) : Option Nat :=
  if 512 ≤ p.replay.length then none
  else if p.canSend 0 then some 0
  else (p.pickPair 1 p.altLive).or ((p.pickPair 5 p.altRsp).or (p.pickPair 3 p.altReq))

/-- After a flit of channel vc its class gives the other subchannel the turn. -/
def Port.turn (p : Port) (vc : Nat) : Port :=
  match vc with
  | 1 => { p with altLive := true } | 2 => { p with altLive := false }
  | 3 => { p with altReq := true } | 4 => { p with altReq := false }
  | 5 => { p with altRsp := true } | 6 => { p with altRsp := false }
  | _ => p

/-- Channel whose credits the next flit returns, and how many. -/
def Port.creditTurn (p : Port) : Nat × Nat :=
  match (List.range 7).find? fun v => decide (0 < (p.owed[v]?).getD 0) with
  | some v => (v, min ((p.owed[v]?).getD 0) 255)
  | none => (0, 0)

/-- Writes the acknowledgement and the credits of the moment into a flit and seals it. -/
def Port.finish (p : Port) (f : Flit) (ack : Nat) : Flit :=
  let c := p.creditTurn
  sealFlit { f with ackseq := (p.rxSeq + 4095) % 4096, acktype := ack, cvc := c.1, ccnt := c.2 }

def Port.returned (p : Port) : Port :=
  let c := p.creditTurn
  { p with owed := modAt p.owed c.1 (· - c.2) }

/-- An idle flit: the last SEQ sent, an ack or a nak, and credits (R327). -/
def Port.idleFlit (p : Port) (ack : Nat) : Flit :=
  p.finish { kind := 0, vc := 0, last := false, half := false, seq := (p.txSeq + 4095) % 4096, ackseq := 0, acktype := 0, cvc := 0,
             ccnt := 0, payload := [], crc := 0 } ack

/-- The event that impairment draws for a flit (R353). -/
inductive Impair where
  | none | drop | corrupt (bit : Nat) | reorder
deriving DecidableEq, Repr

/-- One draw of the LFSR against a rate: 1 in 2^r, off at 0. -/
def hit (rate : BitVec 5) (v : Word) : Bool := rate != 0 && v.toNat % 2 ^ rate.toNat == 0

/-- Draws for a flit, in the order DROP, CORRUPT, REORDER. -/
def Port.impair (p : Port) (vc : Nat) : Impair × Port :=
  if !p.impEn || (decide (vc = 0) && !p.impCtl) then (.none, p) else
  let a := Config.lfsrNext p.lfsr
  let b := Config.lfsrNext a
  let c := Config.lfsrNext b
  let d := Config.lfsrNext c
  let e := if hit p.impDrop a then Impair.drop else if hit p.impCorrupt b then .corrupt (d.toNat % 2048)
    else if hit p.impReorder c then .reorder else .none
  let p := { p with lfsr := d }
  (e, if e = .none then p else p.bump .impEvents)

/-- Payload bit n inverted. -/
def flipBit (l : List Byte) (n : Nat) : List Byte := modAt (padTo 256 l) (n / 8) fun b => b ^^^ BitVec.ofNat 8 (2 ^ (n % 8))

/-- The 272 bytes of a flit on the wire (R327). -/
def flitWire (f : Flit) : List Byte := flitBytes f ++ leBytes 8 f.crc.toNat

/-- Bytes join the port's stream: the blocks of 256 bits that they complete, 257 when transcoded, go out on their lanes (R323). -/
def Port.stripe (x : Port) (l : List Byte) : List (Nat × List Byte) × Port :=
  let l := x.txTail ++ l
  let n := l.length / 32
  ((List.range n).map fun i => ((x.blockLane (x.txBlocks + i)).getD 0, sub l (32 * i) 32),
   { x with txTail := l.drop (32 * n), txBlocks := x.txBlocks + n })

/-- A flit leaves over the lanes. -/
def State.wire (s : State) (p : Nat) (f : Flit) : State :=
  let r := (s.port p).stripe (flitWire f)
  (s.emit (.flit p f r.1)).modPort p fun _ => r.2

/-- A flit leaves, and those that REORDER holds follow it: each goes after the flit that came next. -/
def State.putFlit (s : State) (p : Nat) (f : Flit) : State :=
  ((f :: (s.port p).heldFlits).foldl (fun s g => s.wire p g) s).modPort p fun x => { x with heldFlits := [] }

/-- Transmits a sequenced flit under impairment. -/
def State.transmit (s : State) (p : Nat) (f : Flit) : State :=
  let r := (s.port p).impair f.vc
  let s := s.modPort p fun _ => r.2
  match r.1 with
  | .drop => s
  | .corrupt n => (s.modPort p (·.bump .txFlits)).putFlit p { f with payload := flipBit f.payload n }
  | .reorder => s.modPort p fun x => { x.bump .txFlits with heldFlits := f :: x.heldFlits }
  | .none => (s.modPort p (·.bump .txFlits)).putFlit p f

/-- The payload of a control flit as it is transmitted: an alignment packet carries the sender's beat of that moment and
NOTSYNC (R340, R347). -/
def State.stamped (s : State) (f : Flit) : Flit :=
  if f.kind = 2 ∧ leNat (sub f.payload 0 1) = 0x11 then
    { f with payload := f.payload.take 16 ++ leBytes 8 s.beat.toNat ++ leBytes 1 (!s.fab.synced).toNat ++ f.payload.drop 25 }
  else f

/-- The next flit of channel vc is sent: SEQ, ack and credits, and a place in the replay buffer. One in transit leaves the receive
buffer that it came to (R331). -/
def State.sendNew (s : State) (p vc : Nat) : State :=
  let x := s.port p
  match (x.txq[vc]?).getD [] with
  | [] => s
  | q :: rest =>
    let f := x.finish { s.stamped q.flit with seq := x.txSeq, vc := vc } 1
    let x := (x.returned).turn vc
    let x := { x with txq := x.txq.set vc rest, txSeq := (x.txSeq + 1) % 4096, replay := x.replay ++ [{ q with flit := f, owes := none }]
                      credits := modAt x.credits vc (· - 1), midTx := x.midTx.set vc (!f.last) }
    let x := if vc = 1 ∨ vc = 2 then x.bump .liveFlits else x
    ((s.modPort p fun _ => x).transmit p f).modFab (·.leave q.owes)

/-- A flit is sent again, with the acknowledgement of the moment. It returns the credits that it returned before: a receiver
that has them discards it as a duplicate (R328). -/
def State.sendAgain (s : State) (p : Nat) : State :=
  let x := s.port p
  match x.resend with
  | [] => s
  | q :: rest =>
    let f := sealFlit { s.stamped q.flit with ackseq := (x.rxSeq + 4095) % 4096, acktype := 1 }
    (s.modPort p fun x => { x with resend := rest }.bump .resends).transmit p f

/-- FLIT_SEND: one flit of a port: a resend, else the highest channel that may send, else an idle flit. -/
def execFlitSend (p : Nat) (s : State) : Host.Outcome State Fault Refusal :=
  onPort p s fun s =>
    let x := s.port p
    if x.state ≠ .up then s
    else if !x.resend.isEmpty then s.sendAgain p
    else match x.pick with
      | some vc => s.sendNew p vc
      | none => (s.modPort p (·.returned)).putFlit p (x.idleFlit 1)

/-- REPLAY_TIMEOUT: resends from the oldest unacknowledged flit. -/
def execReplayTimeout (p : Nat) (s : State) : Host.Outcome State Fault Refusal :=
  onPort p s fun s =>
    let x := s.port p
    if x.state = .up ∧ x.replay.isEmpty = false then
      s.modPort p fun x => { x with resend := x.replay, noProgress := x.noProgress + 1 } else s

/-! ## Retraining and retirement (R329, R330, R339) -/

def Port.startRetrain (p : Port) : Port :=
  if p.state = .up then { p with state := .retraining, noProgress := 0, fecAt := Port.reset.fecAt }.bump .retrains else p

/-- A port retrains after 16 resends without progress, or for its FEC error rate: a lane carries some 390,000 codewords in
10 ms (3,200,000 ac), so that one uncorrectable codeword in them exceeds 1 in 10^6 (R322, R329). -/
def Port.retrainDue (p : Port) (ac : Dword) : Bool :=
  decide (16 ≤ p.noProgress) || p.fecAt.any fun t => match t with
    | some b => decide (ac.toNat ≤ b.toNat + 3200000)
    | none => false

/-- LINK_RETRAIN: a retrain that is due starts, or one that the other end starts, as both ends train together. -/
def execLinkRetrain (r : RetrainStart) (s : State) : Host.Outcome State Fault Refusal :=
  onPort r.port s fun s =>
    if r.peer || (s.port r.port).retrainDue s.power.ac then s.modPort r.port (·.startRetrain) else s

/-- A write of RETRAIN: no effect on a port that is unwired or retired; the retired port's dropped write counts (R430). -/
def State.writeRetrain (s : State) (p : Nat) : State :=
  if (s.port p).state = .retired then s.badacc else s.modPort p (·.startRetrain)

/-- LNK_RETRAIN_WRITE. -/
def execLnkRetrainWrite (p : Nat) (s : State) : Host.Outcome State Fault Refusal :=
  onPort p s fun s => if s.windowOpen (0x100 + p) then s.writeRetrain p else s

/-- The packets that a channel's flits make up. -/
def packetsOf : List Queued → List (List Queued)
  | [] => []
  | q :: r => match packetsOf r with
    | [] => [[q]]
    | g :: t => if (g.head?.map (·.first)).getD true then [q] :: g :: t else (q :: g) :: t

/-- Is subchannel b of a class the channel? -/
def isSubB (vc : Nat) : Bool := vc != 0 && vc % 2 == 0

/-- Had the packet on channel vc of a port of direction dir taken subchannel b before this part's hop (R336)? -/
def cameOnB (dims cur : Coord) (dir vc : Nat) : Bool := isSubB vc && !crosses dims cur dir

/-- Channel of a moved flit on a port of direction d (R336, R339). -/
def movedVc (dims cur : Coord) (dir d vc : Nat) : Nat :=
  if vc = 0 ∨ d = dir then vc
  else (if isSubB vc then vc - 1 else vc) + (cameOnB dims cur dir vc || crosses dims cur d).toNat

/-- The port and channel to which a flit of a retired port of direction dir goes. -/
def Fabric.movesTo (f : Fabric) (cur : Coord) (dir : Nat) (pair : Pair) (vc : Nat) : Option (Nat × Nat) :=
  (choosePort f.ports pair dir).map fun r => (r.1, movedVc f.dims cur dir r.2 vc)

/-- Puts the flits of a retired port of direction dir on the ports that their pairs now use, in their order, ahead of what has
not been begun there. -/
def Fabric.moveFlits (f : Fabric) (cur : Coord) (dir : Nat) (l : List Queued) : Fabric :=
  let to_ (q : Queued) : Option (Nat × Nat) := f.movesTo cur dir q.pair q.flit.vc
  let put (x : Port) (i vc : Nat) : Port :=
    x.insert vc ((l.filter fun q => to_ q == some (i, vc)).map fun q => { q with flit := { q.flit with vc := vc } })
  let f := { f with ports := f.ports.zipIdx.map fun (x : Port × Nat) => (List.range 7).foldl (fun y vc => put y x.2 vc) x.1 }
  f.dropFlits (l.filter fun q => (to_ q).isNone)

/-- The rest of packets in transit that left by a retired port follows them; `l` is what moves. -/
def Fabric.turnWays (f : Fabric) (cur : Coord) (p dir : Nat) (l : List Queued) : Fabric :=
  f.mapWays fun w => match w.out with
    | some (i, vc) => if i = p then
        { w with out := f.movesTo cur dir w.pair vc, fresh := !l.any fun q => q.tag == some w.tag && !q.flit.last } else w
    | none => w

/-- Has a dimension no port any more? One that still trains may come up. -/
def State.lostDimension (s : State) (dir : Nat) : Bool :=
  s.fab.ports.all fun x => !((x.inService || x.state == .training) && (x.dir.toNat == dir || x.dir.toNat == otherWay dir))

/-- Was a packet of a queue moved from another port? -/
def headMoved (g : List Queued) : Bool := (g.head?.map (·.moved)).getD false

/-- The first of some flits begins what goes on elsewhere. -/
def markFirst : List Queued → List Queued
  | [] => []
  | q :: r => { q with first := true } :: r

/-- What a retired port leaves: flits sent and not acknowledged, the rest of packets begun and packets moved to it before, which
move, channel by channel. -/
def Port.moving (x : Port) : List Queued :=
  ((List.range 7).flatMap fun v =>
    let c := cutFirst ((x.txq[v]?).getD [])
    markFirst ((x.replay.filter fun q => q.flit.vc == v) ++ c.1 ++ ((packetsOf c.2).filter headMoved).flatten)).map
      fun q => { q with moved := true }

/-- Packets of channels 1 to 6 that have not been begun, which are routed anew. -/
def Port.unsent (x : Port) (dims cur : Coord) : List WaitTx :=
  ((List.range 7).drop 1).flatMap fun v =>
    ((packetsOf (cutFirst ((x.txq[v]?).getD [])).2).filter fun g => !headMoved g).map fun g =>
      ⟨v == 1 || v == 2, cameOnB dims cur x.dir.toNat v, some (otherWay x.dir.toNat), g, !((g.getLast?.map (·.flit.last)).getD true)⟩

/-- Routes a packet that has waited. -/
def State.routeWaiting (s : State) (w : WaitTx) : State :=
  match Pk.ofBytes (w.flits.flatMap fun q => flitPayload q.flit) with
  | some p => s.modFab fun f => (f.routeFrom s.pcie.coord p w).1
  | none => s.modFab (·.dropFlits w.flits)

/-- The next flit of a packet in transit goes the way of the packet (R337). -/
def State.follow (s : State) (w : Onward) (f : Flit) (owes : Option (Nat × Nat)) : State :=
  let q (vc : Nat) : Queued := ⟨{ f with vc := vc }, w.pair, false, false, some w.tag, owes⟩
  match w.out with
  | some (i, vc) => (s.modPort i (·.extend vc (q vc) w.fresh)).modFab (·.setWay (some w.tag) w.out false)
  | none =>
    if w.waits then
      let join (u : WaitTx) : WaitTx :=
        if u.more && (u.flits.head?.bind (·.tag)) == some w.tag then { u with flits := u.flits ++ [q f.vc], more := !f.last } else u
      s.modFab fun fb => { fb with waitingTx := fb.waitingTx.map join }
    else s.modFab (·.leave owes)

/-- An empty flit that ends a packet whose rest will not come (DESIGN CHOICE, log 46). -/
def endFlit (vc : Nat) : Flit :=
  { kind := 1, vc := vc, last := true, half := true, seq := 0, ackseq := 0, acktype := 0, cvc := 0, ccnt := 0, payload := [], crc := 0 }

/-- Packets that have arrived in part on a retired port: their rest comes on the port that their pair now uses (R330, log 46). Of a
packet in transit whose pair uses another direction, what has gone on is ended. -/
def State.keepCut (s : State) (x : Port) : State :=
  let dir := x.dir.toNat
  let l := x.cutRx ++ (x.rxPart.zipIdx.filter fun r => !r.1.isEmpty).map fun r => (r.2, r.1)
  let s := l.foldl (fun s r => match (Pk.ofBytes r.2).bind fun k => choosePort s.fab.ports k.pair dir with
    | some (i, d) => if d = dir then s.modPort i fun y => { y with cutRx := y.cutRx ++ [r] } else s
    | none => s) s
  (x.cutWays ++ x.ways.zipIdx.filterMap fun r => r.1.map fun w => (r.2, w)).foldl (fun s c =>
    match choosePort s.fab.ports c.2.pair dir with
    | some (i, d) => if d = dir then s.modPort i fun y => { y with cutWays := y.cutWays ++ [c] } else s.follow c.2 (endFlit c.1) none
    | none => s.follow c.2 (endFlit c.1) none) s

/-- A part whose parent's port is retired looks to the next port that leads to its parent. -/
def State.newParent (s : State) (p : Nat) : State :=
  if s.fab.synced && !s.fab.root && s.fab.parent.toNat == p then
    match (List.range 20).find? fun q => (s.port q).inService && (s.port q).peer == (s.port p).peer with
    | some q => s.modFab fun f => { f with parent := BitVec.ofNat 5 q }
    | none => s
  else s

/-- A root that finds no SYNCED peer once every wired port has ended its bring-up is SYNCED on its own count. -/
def Fabric.rootSync (f : Fabric) : Fabric :=
  if f.root && !f.synced && f.ports.all (fun p => p.state != .training) && f.ports.all (fun p => !(p.inService && p.peerSynced)) then
    { f with synced := true, depth := 0, offset := 0 } else f

/-- Port p is retired: its flits go to other ports, and a dimension without ports aborts every grouped job. `lanes` says
whether a lane was retired in the same cycle. -/
def State.retirePort (s : State) (p : Nat) (lanes : Bool) : State :=
  let x := s.port p
  let dir := x.dir.toNat
  let s := s.modPort p fun x => { x with state := .retired, replay := [], resend := [], txq := Port.reset.txq, midTx := Port.reset.midTx,
                                         heldFlits := [], rxPart := Port.reset.rxPart, cutRx := []
                                         through := Port.reset.through }
  let s := s.modFab fun f => (f.turnWays s.pcie.coord p dir x.moving).moveFlits s.pcie.coord dir x.moving
  let y := s.port p
  let s := (s.modPort p fun y => { y with ways := Port.reset.ways, cutWays := [] }).keepCut { x with ways := y.ways, cutWays := y.cutWays }
  let s := (x.unsent s.fab.dims s.pcie.coord).foldl (fun s w => s.routeWaiting w) s
  let s := (s.newParent p).portFault p 0x01
  let s := if lanes then s.portFault p 0x02 else s
  let s := s.modFab (·.rootSync)
  if s.lostDimension dir then
    let s := s.portFault p 0x03
    ((s.met.jobs.filter fun j => decide (j.group ≠ 0)).map (·.num)).foldl (fun s j => s.abortJob j s.beat) s
  else s

/-- RETRAIN_END: the lanes that failed at either end, and whether the retrain succeeded; a retrain that fails starts again. The
blocks of the stream then go round the lanes left from the lowest on. -/
def execRetrainEnd (p : Nat) (failedLanes : Byte) (ok : Bool) (s : State) : Host.Outcome State Fault Refusal :=
  onPort p s fun s =>
    let x := s.port p
    if x.state ≠ .retraining then s else
    let lost := decide (x.lanes &&& failedLanes ≠ 0)
    let left := x.lanes &&& ~~~failedLanes
    let fails := if ok then 0 else x.failedRetrains + 1
    let s := s.modPort p fun x => { x with lanes := left, failedRetrains := fails, txTail := [], txBlocks := 0 }
    if popByte left < 6 ∨ 3 ≤ fails then s.retirePort p lost
    else
      let s := s.modPort p fun x => if ok then { x with state := .up } else x.bump .retrains
      if lost then s.portFault p 0x02 else s

/-! ## Handshake (R325, R326, R349) -/

/-- This part's word in the handshake of port p. -/
def State.hello (s : State) (p : Nat) : Hello :=
  { coord := s.pcie.coord, dims := s.fab.dims, dir := (s.port p).dir, floor := s.boot.floor.toNat, synced := s.fab.synced }

/-- LINK_HANDSHAKE: lanes that failed their training are retired; with fewer than 6 left the port is. It sends its own word, and
with the peer's it comes up with full credits, or stays down with the wiring fault. The link's delay is measured, and no
command states it (log 2). -/
def execLinkHandshake (p : Nat) (r : Trained) (s : State) : Host.Outcome State Fault Refusal :=
  onPort p s fun s =>
    if (s.port p).state ≠ .training then s
    else
      let s := s.modPort p fun x => { x with lanes := x.lanes &&& ~~~r.failedLanes }
      if popByte (s.port p).lanes < 6 then s.retirePort p false
      else
        let s := s.emit (.hello p (s.hello p))
        if r.peer.coord ≠ (s.port p).peer ∨ r.peer.dims ≠ s.fab.dims ∨ r.peer.floor ≠ s.boot.floor.toNat then
          ((s.modPort p fun x => { x with state := .wiringFault }).portFault p 0x05).modFab (·.rootSync)
        else
          let v := s.draw
          (v.2.modPort p fun x => { x with state := .up, credits := Port.reset.credits, owed := Port.reset.owed, through := Port.reset.through
                                           peerSynced := r.peer.synced, delay := v.1.toNat }).modFab
            fun f => { f with rejoin := f.rejoin || (r.peer.synced && !f.synced) }.rootSync

/-! ## Beat alignment (R346-R349, R404) -/

/-- The ports in service towards the parent, the first neighbour on the route to the root: those of its direction, else those of
the other way round (R339). -/
def State.parentPorts (s : State) : List Nat :=
  match nextDir s.fab.dims s.pcie.coord ⟨0, 0, 0⟩ with
  | some dir =>
    let l := portsToward s.fab.ports dir
    if l.isEmpty then portsToward s.fab.ports (otherWay dir) else l
  | none => []

/-- The port towards the parent: the lowest of them. -/
def State.parentPort (s : State) : Option Nat := s.parentPorts.head?

/-- The port that a part which is not SYNCED takes its beat from: its parent's, and where the part rejoins a running fabric and
that one is not SYNCED, or it is the root, the lowest with a SYNCED peer (R347, R349). -/
def State.sourcePort (s : State) : Option Nat :=
  let good (p : Nat) : Bool := (s.port p).inService && (s.port p).peerSynced
  match s.parentPorts.find? good with
  | some p => some p
  | none => if s.fab.rejoin then (List.range 20).find? good else none

def ringHops (n c : Nat) : Nat := min c (n - c)
/-- Hops from the root (DEPTH). -/
def hopsToRoot (dims c : Coord) : Nat := ringHops dims.x c.x + ringHops dims.y c.y + ringHops dims.z c.z

/-- ALIGNMENT_SEND: one alignment packet leaves port p. -/
def execAlignmentSend (p : Nat) (s : State) : Host.Outcome State Fault Refusal :=
  onPort p s fun s =>
    if (s.port p).inService then
      let pk : Pk := { pkind := 0x11, group := 0, dst := (s.port p).peer, src := s.pcie.coord, dstDrum := 255, srcDrum := 255,
                       spec := leBytes 8 s.beat.toNat ++ leBytes 1 (!s.fab.synced).toNat, data := [] }
      s.modFab fun f => { f with ports := queueFlits f.ports p 0 (pk.queued 0) }
    else s

/-- OFFSET after a packet from the parent; the sixteenth in a row beyond 4 ticks is the beat sync fault, under the port that
carries the parent. -/
def State.noteOffset (s : State) (off : Int) : State :=
  let out := decide (4 < off) || decide (off < -4)
  let n := if out then s.fab.outOfStep + 1 else 0
  let s := s.modFab fun f => { f with offset := off, outOfStep := n }
  if n = 16 then s.portFault s.fab.parent.toNat 0x04 else s

/-- An alignment packet at port p. The beat counter is set once, before SYNCED, and is compared from then on with the packets
of the parent, on whichever port they come (R346-R348). -/
def State.align (s : State) (p : Nat) (beat : Dword) (notSynced : Bool) : State :=
  if !(s.port p).inService then s else
  let s := s.modPort p fun x => { x with peerSynced := !notSynced }
  if notSynced then s
  else
    let b := beat.toNat + (s.port p).delay
    if s.fab.synced then
      if !s.fab.root && decide ((s.port p).peer = (s.port s.fab.parent.toNat).peer) then s.noteOffset ((b : Int) - s.beat.toNat) else s
    else if s.sourcePort = some p then
      { s with beat := BitVec.ofNat 64 b }.modFab fun f =>
        { f with synced := true, parent := BitVec.ofNat 5 ((s.parentPort).getD p), offset := 0, outOfStep := 0
                 depth := BitVec.ofNat 6 (hopsToRoot f.dims s.pcie.coord) }
    else s

/-- ALIGNMENT_RECEIVE. -/
def execAlignmentReceive (p : Nat) (beat : Dword) (notSynced : Bool) (s : State) : Host.Outcome State Fault Refusal :=
  onPort p s fun s => s.align p beat notSynced

/-- SYNC_IN_EDGE: the first edge after the lock, on a part that is not standalone; a SYNCED part keeps its beat (R349). -/
def execSyncInEdge (s : State) : Host.Outcome State Fault Refusal :=
  .next <| if s.power.locked && s.fab.lockBeat.isSome && s.pcie.role != 0 then
      { s with beat := if s.fab.synced then s.beat else 0 }.modFab fun f => { f with lockBeat := none } else s

/-- SYNC_OUT_PULSE of a lead: once, 20 ms (6,400,000 ac) after its lock (R403). -/
def execSyncOutPulse (s : State) : Host.Outcome State Fault Refusal :=
  .next (if s.power.locked && s.pcie.role == 1 && !s.fab.pulsed && decide (6400000 ≤ s.power.ac.toNat) then
      (s.modFab fun f => { f with pulsed := true }).emit .syncOut else s)

/-- Is the sync fault of R404 due, no edge having come? A part that rejoins and is SYNCED within 500 ms (160,000,000 ac) of the
lock raises none (R349). Any other raises it from 50 ms (16,000,000 ac) on, once none of its ports trains any more, so that no
handshake can show it to rejoin (DEDUCED, log 68). -/
def State.syncDue (s : State) : Bool :=
  let settled := s.fab.ports.all fun p => p.state != .training
  (decide (16000000 ≤ s.power.ac.toNat) && !s.fab.rejoin && settled) ||
  (decide (160000000 ≤ s.power.ac.toNat) && !(s.fab.rejoin && s.fab.synced))

/-- SYNC_IN_TIMEOUT: the sync fault, once. -/
def execSyncInTimeout (s : State) : Host.Outcome State Fault Refusal :=
  .next <| if s.power.locked && s.fab.lockBeat.isSome && s.pcie.role != 0 && !s.fab.late && s.syncDue then
      (s.modFab fun f => { f with late := true }).raise 0x160 0x04 else s

/-! ## Aborts (R350, R351) -/

/-- An abort packet arrives at port p. What the ports hold for the group is refused or discarded as they drain (R343). -/
def State.takeAbort (s : State) (p g : Nat) (id : AbortId) (stamp : Dword) : State :=
  if !(s.port p).inService || s.fab.seen.contains id then s else
  let s := s.modFab fun f => { f with seen := (id :: f.seen).take 4096, abortRx := f.abortRx + 1, aborts := (g, stamp) :: f.aborts
                                      closed := if g = 0 ∨ f.closed.contains g then f.closed else g :: f.closed }
  let s := s.spreadAbort g id stamp (some p)
  let js := (s.met.jobs.map (fun j => (j.num, j.group)) ++ s.recordJobs).filter fun j => decide (j.2 = g ∧ g ≠ 0)
  (js.map (·.1)).eraseDups.foldl (fun s j => (s.abortTasks j).abortRecords j) s

/-- ABORT_RECEIVE. -/
def execAbortReceive (p group : Nat) (origin : Coord) (serial : Half) (stamp : Dword) (s : State) : Host.Outcome State Fault Refusal :=
  onPort p s fun s => s.takeAbort p group ⟨origin, serial⟩ stamp

/-- A write to LNK_FAB_REOPEN: the group opens, and its earlier aborts no longer bear on records. -/
def State.reopen (s : State) (g : Nat) : State :=
  if g = 0 then s else
  s.modFab fun f => { f with closed := f.closed.filter (· ≠ g), aborts := f.aborts.filter fun a => decide (a.1 ≠ g) }

/-- GROUP_REOPEN. -/
def execGroupReopen (value : Word) (s : State) : Host.Outcome State Fault Refusal :=
  .next (if s.windowOpen 0x100 then s.reopen (fld value.toNat 0 10) else s)

end Sys2Proof.Machine
end

