-- ==== Sys2Proof/Machine/Memory.lean ====
section
/-! DEFINITION. Machine/Memory.lean: the LPDDR5 controllers' commands (R301-R313), bring-up (R306-R308), and access to the page
table (R315-R320). -/

namespace Sys2Proof.Machine

/-! ## Blocks (R302, R309, R312) -/

/-- MEMORY_READ of block blk: the 480 data bytes, or none with an error. In a reserved slot another class waits for the class-0
requests of its channel. -/
def execMemoryRead (ch blk cls : Nat) (linkErrs : List Nat) (ecc : EccVerdict) (s : State) : Host.Outcome State Fault Refusal :=
  if 64 ≤ ch then .fault .noSuchUnit else .next <|
    match s.mem.blockAddr ch blk with
    | none => s
    | some a =>
      if s.mem.up = false ∨ (cls != 0 && s.slotTaken [ch]) = true then s else
      let r := s.readBlock ch blk a linkErrs ecc (cls == 0)
      r.1.answer (if r.2 then getBytes s.mem.data a 480 else [])

/-- MEMORY_WRITE of bytes lo onward of block blk: a whole block, or a read-modify-write. -/
def execMemoryWrite (ch blk lo cls : Nat) (linkErrs : List Nat) (data : List Byte) (ecc : EccVerdict) (s : State) :
    Host.Outcome State Fault Refusal :=
  if 64 ≤ ch then .fault .noSuchUnit else .next <|
    match s.mem.blockAddr ch blk with
    | none => s
    | some a =>
      if s.mem.up = false ∨ data.isEmpty = true ∨ 480 < lo + data.length ∨ (cls != 0 && s.slotTaken [ch]) = true then s
      else (s.writeBlock ch blk a lo linkErrs data ecc (cls == 0)).1

/-- A corrected block is written back. The link may fail the write as it may any other (R309); the block then still waits. -/
def State.writeBack (s : State) (ch blk : Nat) : State :=
  let t := s.nextBlock
  let r := (t.2.chan ch).checkWrite blk ((t.2.mem.blockAddr ch blk).getD 0) t.1.errs
  (t.2.putChan ch (if r.2 = .good then r.1.rewritten blk else r.1)).noteFound ch r.2

/-- ECC_WRITEBACK: the corrected block is written back, unless a write came first. -/
def execEccWriteback (ch blk : Nat) (s : State) : Host.Outcome State Fault Refusal :=
  if 64 ≤ ch then .fault .noSuchUnit
  else .next (if (s.chan ch).fix.contains blk then s.writeBack ch blk else s)

/-- Does some engine's next chunk ask for the channel? -/
def State.chanWanted (s : State) (ch : Nat) : Bool := s.met.moves.any fun k => (s.moveChans k).contains ch

/-- PATROL_SCRUB: the scrubber reads a block in a slot that nobody wants and that is not reserved; `single` says whether it finds
a single-bit error (R310), and the next of the environment's outcomes what else the read meets (log 62). -/
def execPatrolScrub (ch blk : Nat) (single : Bool) (s : State) : Host.Outcome State Fault Refusal :=
  if 64 ≤ ch then .fault .noSuchUnit else .next <|
    match s.mem.blockAddr ch blk with
    | none => s
    | some a =>
      let c := s.chan ch
      if s.mem.up = false ∨ c.patrol = 0 ∨ s.reservedSlot = true ∨ s.chanWanted ch = true then s else
      let t := s.nextBlock
      let r := Channel.check { c with scrubbed := c.scrubbed + 1, rdblk := c.rdblk + 1 } blk a t.1.errs
        (if single then .corrected 1 else t.1.ecc) 0x01
      (t.2.putChan ch r.1).noteFound ch r.2

/-- MR4_POLL: the device's temperature in deg C; above 85 the refresh rate doubles (R310, R319). -/
def execMr4Poll (ch : Nat) (temp : Int) (s : State) : Host.Outcome State Fault Refusal :=
  if 64 ≤ ch then .fault .noSuchUnit
  else .next (s.modChan ch fun c => { c with temp := temp, fastRefresh := decide (85 < temp) })

/-! ## Bring-up (R306-R308) -/

/-- A bring-up after a warm reset builds its map without the boot, which publishes no new repair map there (R308, R394). -/
def State.mapBuilt (s : State) : State := match s.mem.training with
  | some (_, true) => s.bringMem
  | _ => s

/-- READY sets on every channel in service. -/
def State.setReady (s : State) : State :=
  if s.memHeld then
    s.modMem fun m => { m with up := true
                               chans := m.chans.zipIdx.map fun p => { p.1 with ready := m.map.contains p.2 } }
  else s

/-- MEMORY_READY: the bring-up ends. -/
def execMemoryReady (s : State) : Host.Outcome State Fault Refusal := .next s.mapBuilt.setReady

/-! ## The page table (R315, R317, R320) -/

/-- IDX and AUTOINC of an agent: a stick below 16, the host otherwise (R431). -/
def MainMem.agentIdx (m : MainMem) (agent : Nat) : Bool × BitVec 21 :=
  if agent < 16 then getCell (false, 0) m.stickIdx agent else (m.autoinc, m.idx)

def MainMem.setIdx (m : MainMem) (agent : Nat) (x : Bool × BitVec 21) : MainMem :=
  if agent < 16 then { m with stickIdx := putCell (false, 0) m.stickIdx agent x } else { m with autoinc := x.1, idx := x.2 }

/-- IDX advances after an access while AUTOINC is set. -/
def MainMem.stepIdx (m : MainMem) (agent : Nat) : MainMem :=
  let x := m.agentIdx agent
  if x.1 then m.setIdx agent (true, x.2 + 1) else m

/-- The entry that an agent's PGT_DATA reads. -/
def MainMem.pgtRead (m : MainMem) (agent : Nat) : Dword := getCell 0 m.pgt (m.agentIdx agent).2.toNat

/-- A read of PGT_DATA: the entry, or zero while the table is being cleared, which is a dropped access. -/
def State.pgtReadData (s : State) (agent width : Nat) : State :=
  if s.mem.pgtBusy then (s.badacc).answer (leBytes width 0)
  else (s.modMem fun m => m.stepIdx agent).answer (leBytes width (s.mem.pgtRead agent).toNat)

/-- A write of PGT_DATA: 64 bits only. -/
def State.pgtWriteData (s : State) (agent width : Nat) (data : Dword) : State :=
  if s.mem.pgtBusy || width != 8 then s.badacc
  else s.modMem fun m => ({ m with pgt := putCell 0 m.pgt (m.agentIdx agent).2.toNat data }).stepIdx agent

/-- Does the Metronome window answer (R391)? -/
def State.metOpen (s : State) : Bool := s.boot.bar0 && s.boot.mode != 2

/-- PGT_DATA_ACCESS by a stick (agent 0-15) or the host (16). -/
def execPgtDataAccess (agent width : Nat) (write : Bool) (data : Dword) (s : State) : Host.Outcome State Fault Refusal :=
  .next (if !s.metOpen then s else if write then s.pgtWriteData agent width data else s.pgtReadData agent width)

/-- PAGE_TABLE_CLEAR: PGT_CTRL.CLR; BUSY until the clear ends. -/
def State.clearPages (s : State) : State := s.modMem fun m => { m with pgt := [], pgtBusy := true }
/-- STREAM_TABLE_CLEAR: PGT_CTRL.SCLR; SBUSY until the clear ends. -/
def State.clearStreams (s : State) : State := s.modMem fun m => { m with str := [], strBusy := true }

def execPageTableClear (s : State) : Host.Outcome State Fault Refusal :=
  .next (if s.metOpen then s.clearPages else s)
def execStreamTableClear (s : State) : Host.Outcome State Fault Refusal :=
  .next (if s.metOpen then s.clearStreams else s)

/-- TABLE_CLEAR_DONE. -/
def execTableClearDone (stream : Bool) (s : State) : Host.Outcome State Fault Refusal :=
  .next (s.modMem fun m => if stream then { m with strBusy := false } else { m with pgtBusy := false })

end Sys2Proof.Machine
end

