-- ==== Sys2Proof/Machine/Regs.lean ====
section
/-! DEFINITION. Machine/Regs.lean: BAR0 (R15-R20, R277, R421-R432) and BAR4 (R278, R434, R435): the registers of every
window, what a read returns and what a write does, unicast and broadcast. -/

namespace Sys2Proof.Machine

/-! ## Register values -/

/-- A register: offset in its window, width in bits, and the value a read returns. -/
structure Reg where
  off : Nat
  bits : Nat
  val : Nat
deriving DecidableEq, Repr

/-- A value from (lowest bit, field) pairs. -/
def pack (l : List (Nat × Nat)) : Nat := l.foldl (fun a p => a + p.2 * 2 ^ p.1) 0

/-- Two's complement of width w. -/
def twos (w : Nat) (i : Int) : Nat := (i % (2 ^ w : Nat)).toNat

/-- The fault set of a source at an offset (R356). -/
def State.faultRegs (s : State) (src base : Nat) : List Reg :=
  let f := s.fault src
  [⟨base, 64, pack [(63, f.valid.toNat), (62, f.ovf.toNat), (61, f.inj.toNat), (60, f.real.toNat), (58, f.level.toNat),
      (56, f.jobv.toNat), (40, f.job.toNat), (32, f.sub.toNat), (23, src), (0, f.nlate.toNat)]⟩,
   ⟨base + 0x08, 64, f.stamp.toNat⟩,
   ⟨base + 0x10, 32, pack [(25, f.ien.toNat), (14, f.vec.toNat), (0, f.grace.toNat)]⟩,
   ⟨base + 0x18, 32, 0⟩]

/-- 64-bit counters from an offset on. -/
def counterRegs (base : Nat) (l : List Dword) : List Reg := l.zipIdx.map fun p => ⟨base + 8 * p.2, 64, p.1.toNat⟩

def DrumState.num : DrumState → Nat
  | .active => 0 | .spare => 1 | .retired => 2

def SlotState.num : SlotState → Nat
  | .free => 0 | .bound => 1 | .held => 2 | .damp => 3 | .purge => 4

def Slot.reg (t : Slot) : Nat :=
  pack [(39, t.job.toNat), (36, t.state.num), (29, t.tcnt), (23, t.tbase), (16, t.resv), (6, t.bound), (0, t.base)]

/-- State of bank k at a beat: one whose wake waits for its retention to be complete is gated until then (R236). -/
def Pad.bankAt (p : Pad) (beat : Dword) (k : Nat) : Bank :=
  match getCell .awake p.banks k with
  | .waking => if beat < getCell 0#64 p.wakes k then .gated else .waking
  | b => b

def Drum.bankMask (x : Drum) (beat : Dword) (b : Bank) : Nat :=
  pack ((List.range 64).map fun k => (k, (decide (x.pad.bankAt beat k = b)).toNat))

/-- SKN_*. GROUP, W_FMT, WSUM and SKN_OCC read zero while no tile is loaded; R54 calls them valid with WLOADED = 1 only (log
25). -/
def Drum.skinRegs (x : Drum) : List Reg :=
  let t := x.skin.tile
  [⟨0x100, 32, pack [(1, x.skin.askip.toNat), (0, x.skin.wskip.toNat)]⟩,
   ⟨0x104, 32, pack [(7, ((t.map (·.wsum)).getD false).toNat), (5, ((t.map (·.group.toNat)).getD 0)), (2, ((t.map (·.wfmt.toNat)).getD 0)),
      (1, t.isSome.toNat), (0, x.skin.busy.toNat)]⟩] ++
  (List.range 8).map (fun n => ⟨0x110 + 4 * n, 32, fld ((t.map (·.occ.toNat)).getD 0) (32 * n) 32⟩) ++
  counterRegs 0x140 [x.skin.pairs, x.skin.wskipped, x.skin.askipped, x.skin.stall, x.skin.rows]

def Drum.tuneRegs (x : Drum) : List Reg :=
  let u := x.tuner
  let img := (getCell ⟨[], none⟩ u.recs u.qsel.toNat).img
  [⟨0x200, 32, u.calEn.toNat⟩,
   ⟨0x204, 32, pack [(11, (u.share.isSome || u.cur.isSome).toNat), (10, u.fpair.toNat), (8, u.fgroup.toNat), (2, u.ftag.toNat), (0, u.fvalid.toNat)]⟩,
   ⟨0x208, 32, u.qsel.toNat⟩] ++
  (List.range 16).map (fun n => ⟨0x240 + 4 * n, 32, getNat img (4 * n) 4⟩) ++ counterRegs 0x280 [u.sat, u.nonfin, u.elems]

def Drum.shellRegs (x : Drum) : List Reg :=
  let h := x.shell
  [⟨0x300, 32, 0⟩,
   ⟨0x304, 32, pack ([(2, x.saved.isSome.toNat), (1, h.clearing.toNat), (0, (!h.leaves.isEmpty).toNat)] ++
      (List.range 16).map fun e => (3 + e, (getCell Desc.reset h.descs e).valid.toNat))⟩,
   ⟨0x308, 64, h.seed.toNat⟩] ++
  counterRegs 0x340 [h.adds, h.sradds, h.rxnodes, h.aligns] ++
  (List.range 256).map fun r => ⟨0x400 + 4 * r, 32, (getCell 0#32 h.tstat r).toNat⟩

/-- DRM_SEQ_*. With no step running WALK keeps the last one's indices, and with no task loaded PC and BUCKET keep the last
task's values, to the next pattern load (log 58). -/
def Drum.seqRegs (x : Drum) : List Reg :=
  let q := x.seq
  [⟨0x10, 32, pack [(24, q.lastop.toNat), (6, q.nextPc % 2 ^ 18), (3, q.bucket), (2, q.fencing.isSome.toNat), (1, q.waiting.isSome.toNat),
      (0, q.run.isSome.toNat)]⟩,
   ⟨0x14, 32, pack [(16, q.walkIk.toNat), (8, q.walkIn.toNat), (0, q.walkIm.toNat)]⟩,
   ⟨0x18, 32, 0⟩] ++ counterRegs 0x40 [q.issued, q.misses]

/-- The ROLL that a preempted task has left between two of its rows (R191): its FUNC and its next row. -/
def Drum.parkedRoll (x : Drum) : Option (Byte × Nat) :=
  x.saved.bind fun v => v.rollCur.map fun _ => (v.rollFunc, v.rollRow)

/-- ROL_*. FUNC and ROW are those of the ROLL in progress, else of the parked one, else of the last (log 58). -/
def Drum.rollRegs (x : Drum) : List Reg :=
  let r := x.roll
  let shown := if r.cur.isSome then (r.func, r.row) else (x.parkedRoll).getD (r.func, r.row)
  [⟨0x800, 32, 0⟩,
   ⟨0x804, 32, pack [(24, shown.1.toNat), (15, shown.2), (1, x.parkedRoll.isSome.toNat), (0, r.cur.isSome.toNat)]⟩] ++
  counterRegs 0x840 [r.elems, r.nonfin, r.empty, r.tails]

/-- Is a TAP or CHECK in the skin's queue, at work or waiting, or a CHECK's replay in progress (BUSY; DESIGN CHOICE,
log 65)? -/
def Drum.tapBusy (x : Drum) : Bool := x.tap.replay.isSome || x.skin.jobs.any (·.isTap)

def Drum.tapRegs (x : Drum) : List Reg :=
  let t := x.tap
  [⟨0x900, 32, 0⟩, ⟨0x904, 32, pack [(2, t.seq.toNat), (1, t.replay.isSome.toNat), (0, x.tapBusy.toNat)]⟩,
   ⟨0x908, 32, t.serial.toNat⟩] ++ counterRegs 0x940 [t.kept, t.audited, t.misses, t.mass, t.makeups]

/-- PAD_*. ENGINE is 1 from the issue of a FILL or COPY until it is done (log 23). -/
def Drum.padRegs (x : Drum) (beat : Dword) : List Reg :=
  let p := x.pad
  [⟨0xA00, 32, pack [(4, p.idle.toNat)]⟩,
   ⟨0xA04, 32, pack [(3, min 255 p.eject.length), (2, (decide (x.bankMask beat .waking ≠ 0)).toNat),
      (1, (p.saveDirty || p.slots.any fun t => t.state == .damp || t.state == .purge).toNat), (0, (!x.queues.pad.isEmpty).toNat)]⟩,
   ⟨0xA08, 32, pack [(1, p.saveHeld.toNat), (0, p.saveEn.toNat)]⟩,
   ⟨0xA10, 64, x.bankMask beat .gated⟩] ++
  p.slots.zipIdx.map (fun t => ⟨0xA40 + 8 * t.2, 64, t.1.reg⟩) ++
  counterRegs 0xB00 [p.rereads, p.conflicts, p.arbwait, p.latewr, p.discards, p.damped] ++
  counterRegs 0xC00 ((List.range 64).map fun k => getCell 0#64 p.conf k) ++
  (List.range 64).map fun t => ⟨0xE00 + 4 * t, 32, (getCell 0#32 p.tallies t).toNat⟩

def Drum.soundRegs (x : Drum) (d : Nat) : List Reg :=
  [⟨0xF40, 32, pack [(30, x.sound.variant.toNat), (29, x.sound.fail.toNat), (0, 588 * d)]⟩] ++
  counterRegs 0xF48 [x.sound.lastPass, x.sound.runs, x.sound.reruns] ++ [⟨0xF60, 32, 0⟩]

/-- The window of drum d (R424). -/
def State.drumRegs (s : State) (d : Nat) : List Reg :=
  let x := s.drum d
  [⟨0, 32, pack [(18, x.logical.toNat), (16, x.status.num), (15, d / 68), (12, stationOf d / 9), (8, stationOf d % 9), (0, d)]⟩] ++
  x.seqRegs ++ x.skinRegs ++ x.tuneRegs ++ x.shellRegs ++ x.rollRegs ++ x.tapRegs ++ x.padRegs s.beat ++ x.soundRegs d ++ s.faultRegs d 0xF00

/-- The window of channel c (R425). -/
def State.chanRegs (s : State) (c : Nat) : List Reg :=
  let x := s.chan c
  [⟨0, 32, pack [(16, x.patrol.toNat), (8, x.ueThr.toNat)]⟩,
   ⟨4, 32, pack [(12, x.trainfails.toNat), (11, x.retire.toNat), (10, x.retired.toNat),
      (8, if x.trained then (if s.mem.dense16 then 2 else 1) else 0), (1, x.trained.toNat), (0, x.ready.toNat)]⟩,
   ⟨8, 64, pack [(63, x.ueValid.toNat), (0, x.ueAddr.toNat)]⟩,
   ⟨0x10, 32, pack [(8, s.mem.frames), (4, s.mem.period)]⟩,
   ⟨0x14, 32, s.mem.map.length⟩] ++
  counterRegs 0x40 [x.rdblk, x.wrblk, x.rmw, x.ce, x.ue, x.reread, x.linkretry, x.liveblk, x.bkpress, x.scrubbed] ++
  s.faultRegs (0xC0 + c) 0xF00

def PortState.num : PortState → Nat
  | .down => 0 | .training => 1 | .up => 2 | .retraining => 3 | .retired => 4 | .wiringFault => 5

def Port.impVal (p : Port) : Nat :=
  pack [(32, p.impSeed.toNat), (21, p.impCtl.toNat), (16, p.impReorder.toNat), (11, p.impCorrupt.toNat), (6, p.impDrop.toNat), (0, p.impEn.toNat)]

/-- The window of port p (R425). -/
def State.portRegs (s : State) (p : Nat) : List Reg :=
  let x := s.port p
  [⟨0, 32, 0⟩, ⟨4, 32, pack [(16, coordWord x.peer), (13, x.dir.toNat), (5, x.lanes.toNat), (0, x.state.num)]⟩,
   ⟨0x10, 64, x.impVal⟩] ++
  counterRegs 0x40 ((List.range 12).map fun k => getCell 0#64 x.counters k) ++ s.faultRegs (0x100 + p) 0xF00

/-- The fabric window below LNK_RGRP. -/
def State.fabricRegs (s : State) : List Reg :=
  let f := s.fab
  let off : Int := max (-255) (min 255 f.offset)
  [⟨0, 32, pack [(8, f.dims.z), (4, f.dims.y - 1), (0, f.dims.x - 1)]⟩,
   ⟨4, 32, pack [(16, f.depth.toNat), (11, f.parent.toNat), (10, f.root.toNat), (9, f.synced.toNat), (0, twos 9 off)]⟩,
   ⟨8, 32, 0⟩] ++ counterRegs 0x40 [f.abortTx, f.abortRx, f.nogrp, f.badpkt]

/-- The registers of the Metronome window but the page table's and the stream records (R426). -/
def State.metRegs (s : State) : List Reg :=
  let m := s.met
  [⟨0, 32, m.en.toNat⟩, ⟨4, 32, pack [(21, s.liveScores), (0, s.liveUsed + s.bulkUsed)]⟩,
   ⟨8, 32, pack [(7, m.lslots.toNat), (1, m.maxsc.toNat), (0, m.liveEn.toNat)]⟩] ++
  (List.range 4).map (fun n => ⟨0x10 + 4 * n, 32, fld m.mask.toNat (32 * n) 32⟩) ++
  [⟨0x20, 32, 0⟩, ⟨0x30, 32, m.hold.toNat⟩] ++
  counterRegs 0x100 [m.dispatched, m.refused, m.preempts, m.overruns, m.startmax, m.readymax, m.ringwait] ++
  [⟨0x1000, 32, 0⟩] ++ counterRegs 0x1040 [m.claims, m.retries, m.dups] ++
  [⟨0x2010, 32, pack [(3, s.mem.strBusy.toNat), (1, s.mem.pgtBusy.toNat)]⟩] ++ counterRegs 0x2040 [s.mem.walks, s.mem.faults] ++
  s.faultRegs 0x140 0x3000 ++ s.faultRegs 0x141 0x3040 ++
  (List.range 16).flatMap (fun k => s.faultRegs (0xA0 + k) (0x3200 + 0x40 * k)) ++
  (List.range 16).map fun k => ⟨0x4000 + 0x40 * k, 32, 0⟩

/-- PGT_IDX and PGT_DATA as an agent sees them. -/
def State.pgtRegs (s : State) (agent : Nat) : List Reg :=
  let x := s.mem.agentIdx agent
  [⟨0x2000, 32, pack [(31, x.1.toNat), (0, x.2.toNat)]⟩, ⟨0x2008, 64, (s.mem.pgtRead agent).toNat⟩]

def State.ringRegs (s : State) (q base : Nat) : List Reg :=
  let r := s.ring q
  [⟨base, 64, r.sqbase.toNat⟩, ⟨base + 8, 64, r.cqbase.toNat⟩,
   ⟨base + 0x10, 32, pack [(12, r.live.toNat), (8, r.cqsz.toNat), (4, r.sqsz.toNat), (0, r.en.toNat)]⟩,
   ⟨base + 0x14, 32, pack [(31, r.urg.toNat), (21, r.time.toNat), (13, r.cnt.toNat), (0, r.vec.toNat)]⟩,
   ⟨base + 0x18, 32, pack [(3, r.err.toNat), (2, (s.quiesced q).toNat), (1, (s.headWaits q).toNat), (0, (r.en && !r.err).toNat)]⟩,
   ⟨base + 0x20, 64, pack [(48, r.cqhead.toNat), (32, r.cqtail.toNat), (16, r.sqtail.toNat), (0, r.sqhead.toNat)]⟩]

/-- The PCIe window below the rings. -/
def State.pcieRegs (s : State) : List Reg :=
  let p := s.pcie
  [⟨0, 32, pack [(1, p.splitph.toNat), (0, p.roEn.toNat)]⟩,
   ⟨4, 32, pack [(10, p.linkUp.toNat), (4, p.width.toNat), (0, p.speed.toNat)]⟩,
   ⟨8, 32, pack [(22, p.nfol.toNat), (16, p.coord.z), (12, p.coord.y), (8, p.coord.x), (0, p.role.toNat)]⟩,
   ⟨0x10, 32, pack [(31, p.fwdValid.toNat), (24, p.fwdSel.z), (20, p.fwdSel.y), (16, p.fwdSel.x)]⟩] ++
  counterRegs 0x100 [p.badacc, p.dbdrop, p.cplwr, p.msixCount, p.fwdtmo] ++ s.faultRegs 0x150 0xF00

/-- A dword of the MSI-X table: address, data and vector control of a vector. -/
def MsixEntry.dword (e : MsixEntry) (k : Nat) : Nat :=
  match k with
  | 0 => fld e.addr.toNat 0 32
  | 1 => fld e.addr.toNat 32 32
  | 2 => e.data.toNat
  | _ => e.masked.toNat

def Power.statusVal (p : Power) : Nat :=
  pack [(24, p.shownSensor.toNat), (16, twos 8 p.shownTmax), (11, p.floor.toNat), (10, p.fast.toNat), (9, p.hot.toNat), (8, p.capped.toNat), (0, p.shownD.toNat)]

def State.clockRegs (s : State) : List Reg :=
  let p := s.power
  [⟨0, 32, pack [(2, p.pcieRef.toNat), (1, p.refOk.toNat), (0, p.locked.toNat)]⟩, ⟨0x20, 32, p.rstcause.toNat⟩, ⟨0x24, 32, 0⟩,
   ⟨0x100, 32, pack [(16, p.bmcCap.toNat), (8, p.fastd.toNat), (0, p.cap.toNat)]⟩, ⟨0x104, 32, p.statusVal⟩, ⟨0x108, 32, p.est.toNat⟩,
   ⟨0x110, 32, p.alert.toNat⟩] ++
  p.temps.zipIdx.map (fun t => ⟨0x140 + 4 * t.2, 32, pack [(31, t.1.1.toNat), (0, twos 9 t.1.2)]⟩) ++
  [⟨0x200, 32, pack [(16, ((p.gpioOut &&& p.gpioOe) ||| (p.gpioIn &&& ~~~p.gpioOe)).toNat), (8, p.gpioOe.toNat), (0, p.gpioOut.toNat)]⟩] ++
  counterRegs 0x300 [p.idleSlots, p.capTime, p.hotTime] ++ s.faultRegs 0x160 0xF00 ++
  [⟨0xF40, 32, pack [(1, (!p.faultLow).toNat), (0, p.faultnHold.toNat)]⟩,
   ⟨0xF48, 32, pack [(31, p.gongValid.toNat), (16, p.gongSource.toNat), (8, p.gongSub.toNat), (0, p.gongCount.toNat)]⟩]

/-- DIAG_FLT_PENDi: VALID of 64 sources. -/
def State.pend (s : State) (i : Nat) : Nat :=
  pack ((List.range 64).map fun b => (b, (s.fault (64 * i + b)).valid.toNat))

def State.bootRegs (s : State) : List Reg :=
  let b := s.boot
  [⟨0, 32, pack [(18, b.mode.toNat), (17, b.trial.toNat), (16, b.slot.toNat), (0, b.floor.toNat)]⟩,
   ⟨8, 64, pack [(48, b.svn.toNat), (0, b.imgver.toNat)]⟩, ⟨0x10, 64, fld b.devid.toNat 0 64⟩, ⟨0x18, 64, fld b.devid.toNat 64 64⟩] ++
  counterRegs 0x100 ((List.range 8).map fun i => BitVec.ofNat 64 (s.pend i)) ++
  [⟨0x200, 64, b.updAddr.toNat⟩, ⟨0x208, 32, 0⟩,
   ⟨0x20C, 32, pack [(4, b.result.toNat), (1, b.trialSlot.isSome.toNat), (0, b.busy.isSome.toNat)]⟩,
   ⟨0x400, 32, 0⟩, ⟨0x404, 32, pack [(1, b.entered.toNat), (0, b.diag.toNat)]⟩, ⟨0x408, 32, b.lpbase.toNat⟩, ⟨0x410, 64, b.winerr.toNat⟩] ++
  s.faultRegs 0x161 0xF00 ++ (List.range 8).flatMap fun n => s.faultRegs (0x170 + n) (0x1000 + 0x40 * n)

/-- Link lanes and ports in service. -/
def State.lanesUp (s : State) : Nat := (s.fab.ports.filter (·.inService)).foldl (fun a p => a + popByte p.lanes) 0
def State.portsUp (s : State) : Nat := (s.fab.ports.filter (·.inService)).length

def State.globalRegs (s : State) : List Reg :=
  [⟨0, 32, 0x4B01A101⟩, ⟨8, 64, 0x0800642548108088⟩,
   ⟨0x10, 64, pack [(40, if s.mem.up then (if s.mem.dense16 then 2 else 1) else 0), (32, s.lanesUp), (27, s.portsUp),
      (20, s.mem.map.length), (12, ((List.range 136).filter fun p => (s.drum p).status == .retired).length), (8, s.sparesFree),
      (0, s.exposed)]⟩,
   ⟨0x18, 64, s.beat.toNat⟩, ⟨0x100, 32, s.boot.bcastMask.toNat⟩, ⟨0x108, 32, s.boot.bcastDiff.toNat⟩]

/-! ## Windows (R421) -/

inductive Win where
  | globalW | drumB | drum (d : Nat) | chanB | chan (c : Nat) | portB | port (p : Nat)
  | fabric | met | pcie | clock | boot | follower
deriving DecidableEq, Repr

def winOf (off : Nat) : Option (Win × Nat) :=
  let i := off / 0x10000
  let o := off % 0x10000
  if off < 0x100000 then some (.globalW, off)
  else if i = 0xF0 then some (.drumB, o)
  else if 0x100 ≤ i ∧ i < 0x188 then some (.drum (i - 0x100), o)
  else if i = 0x1F0 then some (.chanB, o)
  else if 0x200 ≤ i ∧ i < 0x240 then some (.chan (i - 0x200), o)
  else if i = 0x2F0 then some (.portB, o)
  else if 0x300 ≤ i ∧ i < 0x314 then some (.port (i - 0x300), o)
  else if i = 0x320 then some (.fabric, o)
  else if 0x400 ≤ i ∧ i < 0x500 then some (.met, off - 0x4000000)
  else if 0x500 ≤ i ∧ i < 0x600 then some (.pcie, off - 0x5000000)
  else if i = 0x600 then some (.clock, o)
  else if i = 0x700 then some (.boot, o)
  else if 0x8000000 ≤ off ∧ off < 0x10000000 then some (.follower, off - 0x8000000)
  else none

/-- Does the window answer (R391)? -/
def State.winOpen (s : State) (w : Win) : Bool := s.boot.mode != 2 || w == .globalW || w == .boot

def findReg (l : List Reg) (off : Nat) : Option Reg := l.find? fun r => r.off == off

/-- A 32-bit register whose dwords are addressed one by one. -/
def dwordReg (off val : Nat) : Option Reg := if off % 4 = 0 then some ⟨off, 32, val⟩ else none

/-- The register at an offset of a window, as an agent sees it; broadcast windows have the registers of their units. -/
def State.regAt (s : State) (agent : Nat) (w : Win) (o : Nat) : Option Reg :=
  match w with
  | .globalW => findReg s.globalRegs o
  | .drum d => findReg (s.drumRegs d) o
  | .drumB => findReg (s.drumRegs 0) o
  | .chan c => findReg (s.chanRegs c) o
  | .chanB => findReg (s.chanRegs 0) o
  | .port p => findReg (s.portRegs p) o
  | .portB => findReg (s.portRegs 0) o
  | .fabric =>
    if 0x1000 ≤ o ∧ o < 0x5000 then
      let g := (getCell 0#10 s.fab.groups ((o - 0x1000) / 4)).toNat
      dwordReg o (pack [(31, (s.fab.closed.contains g).toNat), (0, g)])
    else findReg s.fabricRegs o
  | .met =>
    if 0x800000 ≤ o then
      if o % 8 = 0 then some ⟨o, 64, (getCell 0#64 s.mem.str ((o - 0x800000) / 8)).toNat⟩ else none
    else if 0x2000 ≤ o ∧ o < 0x2010 then findReg (s.pgtRegs agent) o
    else findReg s.metRegs o
  | .pcie =>
    if 0x100000 ≤ o ∧ o < 0x140000 then findReg (s.ringRegs ((o - 0x100000) / 0x40) (o / 0x40 * 0x40)) o
    else if 0x200000 ≤ o ∧ o < 0x204000 then dwordReg o (s.dbmapOf ((o - 0x200000) / 4)).toNat
    else if 0x300000 ≤ o ∧ o < 0x308000 then
      dwordReg o ((getCell MsixEntry.reset s.pcie.table ((o - 0x300000) / 16)).dword ((o - 0x300000) / 4 % 4))
    else if 0x308000 ≤ o ∧ o < 0x308100 then
      if o % 8 = 0 then some ⟨o, 64, pack ((List.range 64).map fun b => (b, (getCell false s.pcie.pba (8 * (o - 0x308000) + b)).toNat))⟩
      else none
    else findReg s.pcieRegs o
  | .clock => findReg s.clockRegs o
  | .boot => findReg s.bootRegs o
  | .follower => none

/-! ## Broadcast (R428, R429) -/

/-- Units that a broadcast window reaches, ascending. -/
def State.unitsOf (s : State) (w : Win) : List Win :=
  match w with
  | .drumB => ((List.range 136).filter fun d => (s.drum d).status != .retired && s.boot.bcastMask.getLsbD (d / 17)).map .drum
  | .chanB => ((List.range 64).filter fun c => !(s.chan c).retired).map .chan
  | .portB => ((List.range 20).filter fun p => (s.port p).state != .retired).map .port
  | _ => []

def Win.bcastBit : Win → Option Nat
  | .drumB => some 0
  | .chanB => some 1
  | .portB => some 2
  | _ => none

/-- Bits of the readable fields whose B column is Y. -/
def bcastBits (w : Win) (o : Nat) : Nat :=
  match w, o with
  | .drumB, 0x100 => 3
  | .drumB, 0x200 => 1
  | .drumB, 0x208 => 0x1F
  | .drumB, 0xA00 => 0xFF0
  | .chanB, 0 => 0xFFFF00
  | .portB, 0x10 => 0xFFFFFFFF003FFFC1
  | .drumB, 0xF10 | .chanB, 0xF10 | .portB, 0xF10 => 0x3FFFFFF
  | _, _ => 0

/-- The register of the lowest unit reached, and whether a B field differs among the units. -/
def State.bcastRead (s : State) (w : Win) (o : Nat) : Nat × Bool :=
  let vs := (s.unitsOf w).filterMap fun u => (s.regAt 16 u o).map (·.val)
  let m := bcastBits w o
  match vs with
  | [] => (0, false)
  | v :: r => (v, r.any fun x => Nat.land x m != Nat.land v m)

/-! ## Reads (R277, R422) -/

/-- A register read whole: its value, and the state after (AUTOINC, a table that is being cleared, a B field found to differ
through a broadcast window). -/
def State.readReg (s : State) (agent : Nat) (w : Win) (r : Reg) : Nat × State :=
  match w.bcastBit with
  | some b =>
    let x := s.bcastRead w r.off
    let m : BitVec 3 := BitVec.ofNat 3 (2 ^ b)
    (x.1, if x.2 then s.modBoot fun t => { t with bcastDiff := t.bcastDiff ||| m } else s)
  | none =>
    if w = .met ∧ r.off = 0x2008 then
      if s.mem.pgtBusy then (0, s.badacc) else (r.val, s.modMem fun m => m.stepIdx agent)
    else if w = .met ∧ 0x800000 ≤ r.off ∧ s.mem.strBusy = true then (0, s.badacc)
    else (r.val, s)

/-- One aligned 32-bit word: a 32-bit register or half of a 64-bit one; zero where no register stands. -/
def State.readWord (s : State) (agent : Nat) (w : Win) (o : Nat) : Nat × State :=
  match s.regAt agent w o with
  | some r => let x := s.readReg agent w r; (x.1 % 2 ^ 32, x.2)
  | none =>
    match (if o % 8 = 4 then s.regAt agent w (o - 4) else none) with
    | some r => if r.bits = 64 then let x := s.readReg agent w r; (x.1 / 2 ^ 32, x.2) else (0, s)
    | none => (0, s)

/-- Words from o on, each read once, lowest first. -/
def State.readWords (s : State) (agent : Nat) (w : Win) (o : Nat) : Nat → List Byte × State
  | 0 => ([], s)
  | n + 1 =>
    let x := s.readWord agent w o
    let y := x.2.readWords agent w (o + 4) n
    (leBytes 4 x.1 ++ y.1, y.2)

/-- A read through a broadcast window clears its bit of DIAG_BCAST until a B field is found to differ (R429). -/
def State.clearDiff (s : State) (w : Win) : State :=
  match w.bcastBit with
  | some b => s.modBoot fun t => { t with bcastDiff := t.bcastDiff &&& ~~~BitVec.ofNat 3 (2 ^ b) }
  | none => s

/-- A read of `len` bytes at an offset of a window. -/
def State.readWin (s : State) (agent : Nat) (w : Win) (o len : Nat) : List Byte × State :=
  let s := s.clearDiff w
  match (if o % len = 0 then s.regAt agent w o else none) with
  | some r =>
    if r.bits = 8 * len then let x := s.readReg agent w r; (leBytes len x.1, x.2)
    else let x := s.readWords agent w (o / 4 * 4) ((o + len + 3) / 4 - o / 4); (sub x.1 (o % 4) len, x.2)
  | none => let x := s.readWords agent w (o / 4 * 4) ((o + len + 3) / 4 - o / 4); (sub x.1 (o % 4) len, x.2)

/-- A read that is no aligned one of 4 or 8 bytes counts as an odd-sized access in PCI_BADACC (log 47). -/
def State.noteOdd (s : State) (off len : Nat) : State :=
  if (len = 4 ∨ len = 8) ∧ off % len = 0 then s else s.badacc

/-- A BAR0 read by the host. -/
def State.busRead (s : State) (off len : Nat) : List Byte × State :=
  let s := s.noteOdd off len
  match winOf off with
  | none => (leBytes len 0, s)
  | some (w, o) => if s.winOpen w then s.readWin 16 w o len else (leBytes len 0, s)

/-! ## Counters cleared (CNT_CLR) -/

def State.clearSkin (s : State) (d : Nat) : State :=
  s.modSkin d fun k => { k with pairs := 0, wskipped := 0, askipped := 0, stall := 0, rows := 0 }
def State.clearTuner (s : State) (d : Nat) : State := s.modTuner d fun k => { k with sat := 0, nonfin := 0, elems := 0 }
def State.clearShell (s : State) (d : Nat) : State := s.modShell d fun k => { k with adds := 0, sradds := 0, rxnodes := 0, aligns := 0 }
def State.clearSeq (s : State) (d : Nat) : State := s.modSeq d fun k => { k with issued := 0, misses := 0 }
def State.clearRoll (s : State) (d : Nat) : State := s.modRoll d fun k => { k with elems := 0, nonfin := 0, empty := 0, tails := 0 }
def State.clearTap (s : State) (d : Nat) : State :=
  s.modTap d fun k => { k with kept := 0, audited := 0, misses := 0, mass := 0, makeups := 0 }
def State.clearPad (s : State) (d : Nat) : State :=
  s.modPad d fun k => { k with rereads := 0, conflicts := 0, arbwait := 0, latewr := 0, discards := 0, damped := 0, conf := [] }
def State.clearMet (s : State) : State :=
  s.modMet fun m => { m with dispatched := 0, refused := 0, preempts := 0, overruns := 0, startmax := 0, readymax := 0, ringwait := 0 }
def State.clearWkc (s : State) : State := s.modMet fun m => { m with claims := 0, retries := 0, dups := 0 }
def State.clearPci (s : State) : State :=
  s.modPcie fun p => { p with badacc := 0, dbdrop := 0, cplwr := 0, msixCount := 0, fwdtmo := 0 }
def State.clearChan (s : State) (c : Nat) : State :=
  s.modChan c fun x => { x with rdblk := 0, wrblk := 0, rmw := 0, ce := 0, ue := 0, reread := 0, linkretry := 0, liveblk := 0,
                                bkpress := 0, scrubbed := 0 }
/-- The counters at 0x0040-0x0090; LNK_LIVEFLITS at 0x0098 stays. -/
def State.clearPort (s : State) (p : Nat) : State := s.modPort p fun x => { x with counters := x.counters.filter fun k => k.1 == 11 }

/-! ## Writes -/

def clampN (lo hi v : Nat) : Nat := max lo (min hi v)

/-- FLT_CTRL: IEN, VEC and GRACE. -/
def State.writeFltCtrl (s : State) (src v : Nat) : State :=
  s.modFault src fun f => { f with ien := bit v 25, vec := BitVec.ofNat 11 (fld v 14 11), grace := BitVec.ofNat 14 (clampN 10 10000 (fld v 0 14)) }

/-- A write to register k (offset from the base) of a fault set; broadcast writes reach FLT_CTRL only. -/
def State.writeFault (s : State) (src k v : Nat) (bc : Bool) : State :=
  match k with
  | 0x00 => if !bc && bit v 63 then s.clearFault src else s
  | 0x10 => s.writeFltCtrl src v
  | 0x18 => if bc then s else s.injectFault src v
  | _ => s

/-- A write in the window of drum d. -/
def State.writeDrum (s : State) (d o v : Nat) (bc : Bool) : State :=
  match o with
  | 0x18 => if bit v 0 then s.clearSeq d else s
  | 0x100 =>
    let s := s.modSkin d fun k => { k with askip := bit v 1, wskip := bit v 0 }
    if bit v 2 then s.clearSkin d else s
  | 0x200 =>
    let s := s.modTuner d fun k => { k with calEn := bit v 0 }
    if bit v 1 then s.clearTuner d else s
  | 0x208 => s.modTuner d fun k => { k with qsel := BitVec.ofNat 5 v }
  | 0x300 => if bit v 0 then s.clearShell d else s
  | 0x800 => if bit v 0 then s.clearRoll d else s
  | 0x900 => if bit v 0 then s.clearTap d else s
  | 0xA00 =>
    let s := s.modPad d fun k => { k with idle := BitVec.ofNat 8 (v / 16) }
    if bit v 0 then s.clearPad d else s
  | 0xF60 => if !bc && bit v 0 && !s.withdrawn d then s.retireDrum d else s
  | _ => if 0xF00 ≤ o ∧ o < 0xF20 then s.writeFault d (o - 0xF00) v bc else s

/-- A write in the window of channel c. -/
def State.writeChan (s : State) (c o v : Nat) (bc : Bool) : State :=
  match o with
  | 0x00 =>
    let s := s.modChan c fun x => { x with patrol := BitVec.ofNat 8 (v / 2 ^ 16), ueThr := BitVec.ofNat 8 (v / 2 ^ 8) }
    if bit v 0 then s.clearChan c else s
  | 0x04 => if bc then s else s.modChan c fun x => { x with retire := bit v 11 }
  | 0x08 => if !bc && bit v 63 then s.modChan c fun x => { x with ueValid := false } else s
  | _ => if 0xF00 ≤ o then s.writeFault (0xC0 + c) (o - 0xF00) v bc else s

/-- A rate of R353 as stored: 1 to 3 act as 4, 31 as 30. -/
def rateOf (v : Nat) : BitVec 5 := BitVec.ofNat 5 (if v = 0 then 0 else clampN 4 30 v)

/-- LNK_IMP; an EN write of 1 seeds the LFSR. -/
def Port.writeImp (p : Port) (v : Nat) : Port :=
  let seed := toW (fld v 32 32)
  { p with impSeed := seed, impCtl := bit v 21, impReorder := rateOf (fld v 16 5), impCorrupt := rateOf (fld v 11 5)
           impDrop := rateOf (fld v 6 5), impEn := bit v 0, lfsr := if bit v 0 then (if seed = 0 then 1 else seed) else p.lfsr }

/-- A write in the window of port p. -/
def State.writePort (s : State) (p o v : Nat) (bc : Bool) : State :=
  match o with
  | 0x00 =>
    let s := if bit v 0 then s.clearPort p else s
    if bit v 1 then s.writeRetrain p else s
  | 0x10 => s.modPort p (·.writeImp v)
  | _ => if 0xF00 ≤ o then s.writeFault (0x100 + p) (o - 0xF00) v bc else s

/-- LNK_RGRPq: dropped while the ring is enabled. -/
def State.writeGroup (s : State) (q v : Nat) : State :=
  if (s.ring q).en then s.badacc else s.modFab fun f => { f with groups := putCell 0 f.groups q (BitVec.ofNat 10 v) }

def State.writeFabric (s : State) (o v : Nat) : State :=
  if 0x1000 ≤ o then s.writeGroup ((o - 0x1000) / 4) v else if o = 8 then s.reopen (fld v 0 10) else s

/-- MET_LIVE_DRUMn: each changed bit now, or held until nothing on its drum stands in its way (R261). -/
def State.writeReserve (s : State) (n v : Nat) : State :=
  loop (fun b s =>
    let l := 32 * n + b
    let on := bit v b
    match s.reserveDrum l with
    | some d =>
      if s.met.mask.getLsbD l = on then s.modDrum d fun x => { x with liveHeld := none }
      else s.changeReserve l d on
    | none =>
      let m : BitVec 128 := BitVec.ofNat 128 (2 ^ l)
      s.modMet fun k => { k with mask := if on then k.mask ||| m else k.mask &&& ~~~m }) 32 s

/-- MET_SAFE.HOLD (R376): cleared, it lets go of every record. -/
def State.writeSafe (s : State) (v : Nat) : State :=
  if bit v 0 then
    if s.met.liveEn || decide (s.liveScores ≠ 0) then s.badacc else s.modMet fun m => { m with hold := true }
  else
    let s := s.modMet fun m => { m with hold := false }
    let free (r : Ring) : Ring := { r with out := r.out.map fun x => { x with sound := [] } }
    { s with rings := s.rings.map fun (p : Nat × Ring) => (p.1, free p.2) }.flushAll

def State.writeLiveCfg (s : State) (v : Nat) : State :=
  if bit v 0 && s.met.hold then s.badacc
  else s.modMet fun m => { m with lslots := BitVec.ofNat 13 (fld v 7 13), maxsc := BitVec.ofNat 6 (fld v 1 6), liveEn := bit v 0 }

/-- A write in the Metronome window below the stream records. -/
def State.writeMet (s : State) (agent o v : Nat) : State :=
  match o with
  | 0x00 =>
    let s := s.modMet fun m => { m with en := bit v 0 }
    if bit v 1 then s.clearMet else s
  | 0x08 => s.writeLiveCfg v
  | 0x10 => s.writeReserve 0 v
  | 0x14 => s.writeReserve 1 v
  | 0x18 => s.writeReserve 2 v
  | 0x1C => s.writeReserve 3 v
  | 0x20 => s.releaseKey (toW v)
  | 0x30 => s.writeSafe v
  | 0x1000 => if bit v 0 then s.clearWkc else s
  | 0x2000 => s.modMem fun m => m.setIdx agent (bit v 31, BitVec.ofNat 21 v)
  | 0x2008 => s.pgtWriteData agent 8 (BitVec.ofNat 64 v)
  | 0x2010 =>
    let s := if bit v 0 then s.clearPages else s
    if bit v 2 then s.clearStreams else s
  | _ =>
    if 0x4000 ≤ o then s.badacc
    else if 0x3200 ≤ o then s.writeFault (0xA0 + (o - 0x3200) / 0x40) (o % 0x40) v false
    else if 0x3040 ≤ o then s.writeFault 0x141 (o - 0x3040) v false
    else if 0x3000 ≤ o then s.writeFault 0x140 (o - 0x3000) v false
    else s

/-- The fields of word k of a stream record that are not reserved (R18, R314): word 0 holds VALID, CLASS and PTBASE. -/
def streamMask (k : Nat) : Dword := if k % 16 = 0 then 0x001FFFFF00000007 else 0xFFFFFFFFFFFFFFFF

/-- A write of 4 or 8 bytes to the stream records (R317). -/
def State.writeStream (s : State) (o width v : Nat) : State :=
  if s.mem.strBusy then s.badacc else
  let k := (o - 0x800000) / 8
  let old := (getCell 0#64 s.mem.str k).toNat
  let new := if width = 8 then v else if o % 8 = 0 then old / 2 ^ 32 * 2 ^ 32 + v else old % 2 ^ 32 + v * 2 ^ 32
  s.modMem fun m => { m with str := putCell 0 m.str k (BitVec.ofNat 64 new &&& streamMask k) }

def State.writeRing (s : State) (q k v : Nat) : State :=
  let base : Dword := BitVec.ofNat 64 (fld v 12 35 * 4096)
  if (s.ring q).en && (k == 0x00 || k == 0x08 || k == 0x14) then s.badacc else
  match k with
  | 0x00 => s.modRing q fun r => { r with sqbase := base }
  | 0x08 => s.modRing q fun r => { r with cqbase := base }
  | 0x10 => s.writeRqCfg q v
  | 0x14 => s.modRing q fun r => { r with urg := bit v 31, time := BitVec.ofNat 10 (fld v 21 10), cnt := BitVec.ofNat 8 (fld v 13 8), vec := BitVec.ofNat 11 v }
  | _ => s

/-- A dword of the MSI-X table. -/
def State.writeMsix (s : State) (n k v : Nat) : State :=
  let e := getCell MsixEntry.reset s.pcie.table n
  let put (e : MsixEntry) : State := s.modPcie fun p => { p with table := putCell MsixEntry.reset p.table n e }
  match k with
  | 0 => put { e with addr := BitVec.ofNat 64 (e.addr.toNat / 2 ^ 32 * 2 ^ 32 + v / 4 * 4) }
  | 1 => put { e with addr := BitVec.ofNat 64 (e.addr.toNat % 2 ^ 32 + v * 2 ^ 32) }
  | 2 => put { e with data := toW v }
  | _ => s.setVectorMask n (bit v 0)

def State.writePcie (s : State) (o v : Nat) : State :=
  if 0x300000 ≤ o ∧ o < 0x308000 then s.writeMsix ((o - 0x300000) / 16) ((o - 0x300000) / 4 % 4) v
  else if 0x200000 ≤ o ∧ o < 0x204000 then
    let q := (o - 0x200000) / 4
    { s with dbmap := putCell (toW q) s.dbmap q (toW (pack [(31, fld v 31 1), (16, fld v 16 14), (0, fld v 0 12)])) }
  else if 0x100000 ≤ o ∧ o < 0x140000 then s.writeRing ((o - 0x100000) / 0x40) (o % 0x40) v
  else if o = 0 then
    let s := s.modPcie fun p => { p with splitph := bit v 1, roEn := bit v 0 }
    if bit v 2 then s.clearPci else s
  else if o = 0x10 then s.modPcie fun p => { p with fwdValid := bit v 31, fwdSel := ⟨fld v 16 4, fld v 20 4, fld v 24 6⟩ }
  else if 0xF00 ≤ o ∧ o < 0xF20 then s.writeFault 0x150 (o - 0xF00) v false
  else s

/-- HOLD of PWR_FAULTN: the pin follows. -/
def State.writeFaultn (s : State) (v : Nat) : State :=
  let was := s.power.faultLow
  let s := s.modPower fun p => { p with faultnHold := bit v 0 }
  if s.power.faultLow = was then s else s.emit (.faultN (!was))

def fastdOf (v : Nat) : BitVec 6 := BitVec.ofNat 6 (if v = 0 then 0 else max 8 v)

def State.writeClock (s : State) (o v : Nat) : State :=
  match o with
  | 0x20 => s.modPower fun p => { p with rstcause := p.rstcause &&& ~~~(BitVec.ofNat 5 v) }
  | 0x24 => s.writeRst v
  | 0x100 => s.modPower fun p => { p with fastd := fastdOf (fld v 8 6), cap := BitVec.ofNat 7 (clampN 50 120 (fld v 0 7)) }
  | 0x110 => s.modPower fun p => { p with alert := BitVec.ofNat 7 (clampN 90 110 (fld v 0 7)) }
  | 0x200 => s.modPower fun p => { p with gpioOe := BitVec.ofNat 8 (v / 256), gpioOut := BitVec.ofNat 8 v }
  | 0xF40 => s.writeFaultn v
  | 0xF48 => if bit v 31 then s.modPower fun p => { p with gongValid := false } else s
  | _ => if 0xF00 ≤ o ∧ o < 0xF20 then s.writeFault 0x160 (o - 0xF00) v false else s

/-- BOOT_UPD_CTRL: OP in [31:29], LEN in [25:0]; a reserved OP is malformed. -/
def State.writeUpd (s : State) (v : Nat) : State :=
  let len := fld v 0 26
  match fld v 29 3 with
  | 1 => s.request (.writeImage len) len (s.updData len)
  | 2 => s.request .commit len (s.boot.trialSlot == some s.boot.slot && s.boot.trial)
  | 3 => s.request .abandon len true
  | 4 => s.request (.writeRepair len) len (s.updData len)
  | 5 => s.request (.writePlace len) len (s.updData len)
  | _ => s.request .abandon len false

def State.writeBoot (s : State) (o v : Nat) : State :=
  match o with
  | 0x200 => s.modBoot fun b => { b with updAddr := BitVec.ofNat 64 (fld v 4 44 * 16) }
  | 0x208 => s.writeUpd v
  | 0x400 => s.writeDiagKey v
  | 0x408 => s.modBoot fun b => { b with lpbase := BitVec.ofNat 11 v }
  | _ =>
    if 0x1000 ≤ o then s.writeFault (0x170 + (o - 0x1000) / 0x40) (o % 0x40) v false
    else if 0xF00 ≤ o then s.writeFault 0x161 (o - 0xF00) v false
    else s

def State.writeGlobal (s : State) (o v : Nat) : State :=
  if o = 0x100 then s.modBoot fun b => { b with bcastMask := BitVec.ofNat 8 v } else s

/-- May a retired unit's window take a write at this offset (R430)? -/
def State.unitTakes (s : State) (w : Win) (o : Nat) : Bool :=
  match w with
  | .drum d => (s.drum d).status != .retired || decide (0xF00 ≤ o ∧ o < 0xF20) || o == 0xF60
  | .chan c => !(s.chan c).retired || decide (0xF00 ≤ o)
  | .port p => (s.port p).state != .retired || decide (0xF00 ≤ o)
  | _ => true

/-- A write of a register of its own width; `bc` through a broadcast window. -/
def State.writeReg (s : State) (agent : Nat) (w : Win) (o v : Nat) (bc : Bool) : State :=
  if !s.unitTakes w o then s.badacc else
  match w with
  | .globalW => s.writeGlobal o v
  | .drum d => s.writeDrum d o v bc
  | .chan c => s.writeChan c o v bc
  | .port p => s.writePort p o v bc
  | .fabric => s.writeFabric o v
  | .met => s.writeMet agent o v
  | .pcie => s.writePcie o v
  | .clock => s.writeClock o v
  | .boot => s.writeBoot o v
  | _ => s

/-- A write of `width` bytes at an offset of a window: a register of that width, or dropped and counted (R277, R422). -/
def State.writeWin (s : State) (agent : Nat) (w : Win) (o width v : Nat) : State :=
  if (width ≠ 4 ∧ width ≠ 8) ∨ o % width ≠ 0 then s.badacc
  else if w = .met ∧ 0x800000 ≤ o then s.writeStream o width v
  else if w = .pcie ∧ 0x300000 ≤ o ∧ o < 0x308000 ∧ width = 8 then
    (s.writeReg agent w o (v % 2 ^ 32) false).writeReg agent w (o + 4) (v / 2 ^ 32) false
  else
    match s.regAt agent w o with
    | none => s.badacc
    | some r =>
      if r.bits ≠ 8 * width then s.badacc
      else if w.bcastBit.isSome then (s.unitsOf w).foldl (fun s u => s.writeReg agent u o v true) s
      else s.writeReg agent w o v false

/-- Is the offset an FLT_INJ register of a window that recovery closes? -/
def injectsAt (w : Win) (o : Nat) : Bool :=
  match w with
  | .drum _ | .chan _ | .port _ | .pcie | .clock => o == 0xF18
  | .met => o == 0x3018 || o == 0x3058 || (decide (0x3200 ≤ o ∧ o < 0x3600) && o % 0x40 == 0x18)
  | _ => false

/-- A BAR0 write by the host, at an offset outside the follower window of a lead. In recovery closed windows drop writes
(R391), and a write to an FLT_INJ register counts (R378). -/
def State.busWrite (s : State) (off width v : Nat) : State :=
  match winOf off with
  | none => s.badacc
  | some (w, o) => if s.winOpen w then s.writeWin 16 w o width v else if injectsAt w o then s.badacc else s

/-- A value of `width` bytes. -/
def lowBytes (width : Nat) (data : Dword) : Nat := data.toNat % 2 ^ (8 * width)

/-- Doorbell page and offset in it of an offset of this command: the pages of BAR2 follow BAR0's 256 MiB (log 16). -/
def pageOf (off : Nat) : Option (Nat × Nat) :=
  if 0x10000000 ≤ off ∧ off < 0x11000000 then some (fld off 12 12, off % 4096) else none

/-- A host write at an offset: a BAR2 page, the follower window (R297), or a register of this part. -/
def State.hostStore (s : State) (off width : Nat) (data : Dword) : State :=
  match pageOf off with
  | some p => s.writePage p.1 p.2 width (data.setWidth 32)
  | none =>
    if 0x8000000 ≤ off ∧ off < 0x10000000 then s.forwardAccess (off - 0x8000000) width true data
    else s.busWrite off width (lowBytes width data)

/-- A host read at an offset (R277, R284, R297). -/
def State.hostLoad (s : State) (off width : Nat) : State :=
  match pageOf off with
  | some p => (s.noteOdd p.2 width).readPage p.1 p.2 width
  | none =>
    if 0x8000000 ≤ off ∧ off < 0x10000000 then s.forwardAccess (off - 0x8000000) width false 0
    else let r := s.busRead off width; r.2.answer r.1

/-- A doorbell write that comes before BAR0 is enabled is dropped and counted (R407). -/
def State.earlyDoorbell (s : State) (off width : Nat) (data : Dword) : State :=
  match pageOf off with
  | some p => if width = 4 ∧ (p.2 = 0 ∨ p.2 = 4) then s.doorbell p.1 p.2 (data.setWidth 32) else s
  | none => s

/-- REGISTER_WRITE. -/
def execRegisterWrite (off width : Nat) (data : Dword) (s : State) : Host.Outcome State Fault Refusal :=
  .next (if s.boot.bar0 then s.hostStore off width data else s.earlyDoorbell off width data)

/-- Is the offset in a broadcast window? -/
def isBcast (off : Nat) : Bool := match winOf off with
  | some (w, _) => w.bcastBit.isSome
  | none => false

/-- BROADCAST_WRITE at a BAR0 offset in a broadcast window. -/
def execBroadcastWrite (off width : Nat) (data : Dword) (s : State) : Host.Outcome State Fault Refusal :=
  .next (if s.boot.bar0 && isBcast off then s.busWrite off width (lowBytes width data) else s)

/-- BROADCAST_READ (R429). The table has no row for a host read at another offset: this command serves it too (log 16). -/
def execBroadcastRead (off width : Nat) (s : State) : Host.Outcome State Fault Refusal :=
  .next (if s.boot.bar0 then s.hostLoad off width else s)

/-! ## CNT_CLR by itself -/

/-- A CNT_CLR write to a unit's window: dropped and counted on a retired unit, dropped in recovery. -/
def State.cntClr (s : State) (w : Win) (o : Nat) (f : State → State) : State :=
  if !s.boot.bar0 || !s.winOpen w then s else if s.unitTakes w o then f s else s.badacc

def onDrumClr (d o : Nat) (s : State) (f : State → State) : Host.Outcome State Fault Refusal :=
  if d < 136 then .next (s.cntClr (.drum d) o f) else .fault .noSuchUnit

def execSknCntClr (d : Nat) (s : State) : Host.Outcome State Fault Refusal := onDrumClr d 0x100 s fun s => s.clearSkin d
def execTunCntClr (d : Nat) (s : State) : Host.Outcome State Fault Refusal := onDrumClr d 0x200 s fun s => s.clearTuner d
def execShlCntClr (d : Nat) (s : State) : Host.Outcome State Fault Refusal := onDrumClr d 0x300 s fun s => s.clearShell d
def execSeqCntClr (d : Nat) (s : State) : Host.Outcome State Fault Refusal := onDrumClr d 0x18 s fun s => s.clearSeq d
def execRolCntClr (d : Nat) (s : State) : Host.Outcome State Fault Refusal := onDrumClr d 0x800 s fun s => s.clearRoll d
def execTapCntClr (d : Nat) (s : State) : Host.Outcome State Fault Refusal := onDrumClr d 0x900 s fun s => s.clearTap d
def execPadCntClr (d : Nat) (s : State) : Host.Outcome State Fault Refusal := onDrumClr d 0xA00 s fun s => s.clearPad d
def execMetCntClr (s : State) : Host.Outcome State Fault Refusal := .next (s.cntClr .met 0 (·.clearMet))
def execWkcCntClr (s : State) : Host.Outcome State Fault Refusal := .next (s.cntClr .met 0x1000 (·.clearWkc))
def execPciCntClr (s : State) : Host.Outcome State Fault Refusal := .next (s.cntClr .pcie 0 (·.clearPci))
def execMchCntClr (ch : Nat) (s : State) : Host.Outcome State Fault Refusal :=
  if ch < 64 then .next (s.cntClr (.chan ch) 0 fun s => s.clearChan ch) else .fault .noSuchUnit
def execLnkCntClr (p : Nat) (s : State) : Host.Outcome State Fault Refusal :=
  if p < 20 then .next (s.cntClr (.port p) 0 fun s => s.clearPort p) else .fault .noSuchUnit

/-! ## The stick aperture (R431) -/

/-- May stick k make this access? -/
def apertureOk (k off width : Nat) (write : Bool) : Bool :=
  (width == 4 || width == 8) && off % width == 0 &&
  ((!write && decide (off + width ≤ 0x20)) ||
   decide (0x4002000 ≤ off ∧ off + width ≤ 0x4002050) ||
   (write && off == 0x4004000 + 0x40 * k && width == 4) ||
   decide (0x4800000 ≤ off ∧ off + width ≤ 0x5000000))

/-- STICK_APERTURE_ACCESS. -/
def execStickApertureAccess (k off width : Nat) (write : Bool) (data : Dword) (s : State) : Host.Outcome State Fault Refusal :=
  if 16 ≤ k then .fault .noSuchUnit else .next <|
    if !apertureOk k off width write then
      (if (getCell none s.met.sticks k).isSome then s.stickFault k 0x01 else s.raise (0xA0 + k) 0x01)
    else match winOf off with
      | none => s
      | some (w, o) =>
        if write then
          if w = .met ∧ o = 0x4000 + 0x40 * k then s.writeStkdone k (lowBytes 4 data)
          else s.writeWin k w o width (lowBytes width data)
        else let r := s.readWin k w o width; r.2.answer r.1

/-! ## BAR4 (R278, R434, R435) -/

/-- What the LPDDR5 aperture reads: device address, or none at or beyond the usable capacity. -/
def State.apertureAt (s : State) (off : Nat) : Option Nat :=
  let a := s.boot.lpbase.toNat * 0x10000000 + (off - 0x30000000)
  if 0x30000000 ≤ off ∧ off < 0x40000000 ∧ s.inMem a 1 = true then some a else none

/-- The bytes of the LPDDR5 aperture in a read of `len` bytes: first address and length. -/
def State.apertureRange (s : State) (off len : Nat) : Nat × Nat :=
  match (List.range len).filterMap fun i => s.apertureAt (off + i) with
  | [] => (0, 0)
  | a :: l => (a, l.length + 1)

/-- The blocks of LPDDR5 that a read touches are read on the ordinary path (R309, R435) but raise no fault; the data blocks
that give an error. -/
def State.windowBlocks (s : State) (a n : Nat) : State × List Nat :=
  if n = 0 then (s, []) else
  (partsOf 480 a n).foldl (fun (q : State × List Nat) p =>
    let c := q.1.mem.place p.1
    let t := q.1.nextBlock
    let r := Channel.check { t.2.chan c.1 with rdblk := (t.2.chan c.1).rdblk + 1 } c.2 (480 * p.1) t.1.errs t.1.ecc 0x01
    (t.2.putChan c.1 r.1, if r.2 = .good then q.2 else p.1 :: q.2)) (s, [])

/-- A byte of the window: its value, or none where R435 makes it all ones: a byte of an LPDDR5 block in `lost`, of a pad word
that fails its re-read, or of the 16-byte units `bad` of the window, whose pad word fails now or whose shell read is not
served. -/
def State.winByte (s : State) (bad lost : List Nat) (off : Nat) : Option Byte :=
  if off < 0x2A800000 ∧ bad.contains (off / 16) = true then none
  else if off < 0x22000000 then
    let x := (s.drum (off / 0x400000)).pad
    if x.anyFailed (off % 0x400000) 1 then none else some (getByte x.mem (off % 0x400000))
  else if off < 0x2A800000 then
    let o := off - 0x22000000
    let w := getCell 0#32 (s.drum (o / 0x100000)).shell.rows (o % 0x100000 / 4)
    some (BitVec.ofNat 8 (w.toNat / 2 ^ (8 * (o % 4))))
  else match s.apertureAt off with
    | some a => if lost.contains (a / 480) then none else some (getByte s.mem.data a)
    | none => some 0

/-- The parts of a read that lie in one pad or one shell each: drum, first offset, length. -/
def windowParts (off len : Nat) : List (Nat × Nat × Nat) :=
  let part (base size : Nat) (p : Nat × Nat × Nat) : Nat × Nat × Nat := (p.1, base + p.1 * size + p.2.1, p.2.2)
  let hi := min (off + len) 0x2A800000
  (if off < min hi 0x22000000 then (partsOf padSize off (min hi 0x22000000 - off)).map (part 0 padSize) else []) ++
  (if max off 0x22000000 < hi then
    (partsOf 0x100000 (max off 0x22000000 - 0x22000000) (hi - max off 0x22000000)).map (part 0x22000000 0x100000) else [])

/-- The pads that a read touches take its access sets (R220, R435); words that fail again are read twice (R235). -/
def State.windowPads (s : State) (off len : Nat) : State :=
  (windowParts off len).foldl (fun s p => if p.2.1 < 0x22000000 then
    s.modPad p.1 fun x => (x.access s.beat (p.2.1 % padSize) p.2.2).reread (p.2.1 % padSize) p.2.2 else s) s

/-- A read of a pad or a shell crosses the mesh and a bridge, as the environment has it: a part lost there is the unit's fault
with no job (R26, R357). The parts lost, by first offset and length. -/
def State.windowLost (s : State) (off len : Nat) : List (Nat × Nat) × State :=
  (windowParts off len).foldl (fun (q : List (Nat × Nat) × State) p =>
    let v := q.2.nextMesh
    match v.1 with
    | .badFlit => (p.2 :: q.1, v.2.raise p.1 0x71)
    | .badBond b => if (bridgesOf p.1 136).contains b then (p.2 :: q.1, v.2.raise (0x170 + b) 0x01) else (q.1, v.2)
    | _ => (q.1, v.2)) ([], s)

/-- The window's answer: all ones where a byte has none, which counts. -/
def State.windowAnswer (s : State) (l : List (Option Byte)) : State :=
  let s := s.answer (l.map fun b => b.getD 0xFF)
  if l.any (·.isNone) then s.modBoot fun b => { b with winerr := b.winerr + 1 } else s

/-- BAR4_READ. A read of LPDDR5 that READY holds (R306), or that class 0 goes ahead of (R312), is not answered before; the
part of a pad or a shell that is lost on the mesh answers all ones (DESIGN CHOICE, log 62). -/
def execBar4Read (off len : Nat) (bad : List Nat) (s : State) : Host.Outcome State Fault Refusal :=
  .next <| if !s.boot.bar0 then s
    else if !s.boot.diag then s.answer (leBytes len 0)
    else
      let r := s.apertureRange off len
      if r.2 ≠ 0 ∧ (s.heldAt r.1 r.2 || s.slotTaken (s.rangeChans r.1 r.2)) = true then s
      else
        let t := s.windowLost off len
        let b := (t.2.windowPads off len).windowBlocks r.1 r.2
        let gone (a : Nat) : Bool := t.1.any fun p => decide (p.1 ≤ a ∧ a < p.1 + p.2)
        b.1.windowAnswer ((List.range len).map fun i => if gone (off + i) then none else b.1.winByte bad b.2 (off + i))

/-- BAR4_WRITE: dropped and counted. -/
def execBar4Write (_off : Nat) (_data : List Byte) (s : State) : Host.Outcome State Fault Refusal :=
  .next (if s.boot.bar0 then s.badacc else s)

end Sys2Proof.Machine
end

