-- ==== Sys2Proof/Machine/Packets.lean ====
section
/-! DEFINITION. Machine/Packets.lean: a flit that arrives (R328), and what the part does with the packet that it completes
(R337, R340, R343, R351, R361, R406). -/

namespace Sys2Proof.Machine

/-! ## Packets for this part -/

def State.groupJob (s : State) (g : Nat) : Option Half := (s.met.jobs.find? fun j => j.group == g && g != 0).map (·.num)

/-- The serials that a node or statistics of another part carry in the bytes that R340 leaves open (R140, log 65). -/
def Pk.span (p : Pk) : Nat × Nat :=
  if p.pkind = 3 then (leNat (sub p.spec 12 4), leNat (sub p.spec 12 4))
  else if p.pkind = 4 then (leNat (sub p.spec 7 4), leNat (sub p.spec 11 4))
  else (0, 0)

/-- The packet as the NoC carries it from the base die to a drum. -/
def Pk.toDrum (p : Pk) (job : Option Half) (phys : Nat) (body : Body) : Packet :=
  { src := 136, dst := phys, job := job, group := p.group, from_ := p.src, fromDrum := p.srcDrum, body := body, span := p.span }

def Pk.sendId (p : Pk) : SendId := ⟨p.srcDrum, leNat (sub p.spec 5 4), 128 + p.dstDrum⟩

/-- A SEND or a node of another part, in the NoC's form. -/
def Pk.bodyOf (p : Pk) : Body :=
  if p.pkind = 1 then .send p.sendId (leNat (sub p.spec 0 4)) (leNat (sub p.spec 4 1)) p.data
  else
    let m := leNat (sub p.spec 2 2)
    let n := leNat (sub p.spec 4 2)
    .node (leNat (sub p.spec 0 1)) (leNat (sub p.spec 1 1)) m n (leNat (sub p.spec 6 2)) (toW (leNat (sub p.spec 8 4))) (bytesVals m n p.data)

/-- The refusal of a node whose drum is not exposed (R127). -/
def State.refuseNode (s : State) (p : Pk) : State :=
  s.sendPk { pkind := 2, group := p.group, dst := p.src, src := s.pcie.coord, dstDrum := p.srcDrum, srcDrum := p.dstDrum,
             spec := sub p.spec 0 2 ++ leBytes 2 0 ++ leBytes 1 0 ++ leBytes 1 1, data := [] } false

/-- Does a data packet for this part wait at its port for the job of its group, which is not admitted yet (R343)? A group is
open unless an abort has closed it, and 0 is no group (R341, R350). -/
def State.waitsJob (s : State) (p : Pk) : Bool :=
  decide (p.dst = s.pcie.coord) && (p.pkind == 1 || p.pkind == 3) && p.group != 0 && !s.deaf &&
  !s.fab.closed.contains p.group && (s.groupJob p.group).isNone && (s.physOf p.dstDrum).isSome

/-- SEND data and nodes of a job that is here, or that will not come (R127, R229, R343): a SEND for a closed group is refused
and a node discarded, both counted (log 36). -/
def State.takeData (s : State) (p : Pk) : State :=
  let refused (s : State) : State := if p.pkind = 1 then s.refuseSend (p.toDrum none 136 p.bodyOf) p.sendId.serial else s
  if s.fab.closed.contains p.group then refused s.noGroup
  else match s.physOf p.dstDrum, s.groupJob p.group with
    | none, _ => if p.pkind = 1 then refused s else s.refuseNode p
    | some d, some j => { s with noc := s.noc ++ [p.toDrum (some j) d p.bodyOf] }
    | some _, none => s.noGroup

/-- Acknowledgements, refusals and statistics go to their drum. -/
def State.takeReply (s : State) (p : Pk) (body : Body) : State :=
  match s.physOf p.dstDrum with
  | some d => { s with noc := s.noc ++ [p.toDrum (s.groupJob p.group) d body] }
  | none => s

def Pk.ackBody (p : Pk) : Body :=
  if leNat (sub p.spec 5 1) = 1 then .nodeRefusal
  else .ack ⟨p.dstDrum, leNat (sub p.spec 0 4), 128 + p.srcDrum⟩ (leNat (sub p.spec 4 1) == 1)

def Pk.statsBody (p : Pk) : Body :=
  let l := (List.range (p.data.length / 8)).map fun i => (toW (leNat (sub p.data (8 * i) 4)), toW (leNat (sub p.data (8 * i + 4) 4)))
  .stats (leNat (sub p.spec 0 1)) (leNat (sub p.spec 2 2)) (leNat (sub p.spec 4 2)) (leNat (sub p.spec 1 1)) (leNat (sub p.spec 6 1))
    (l.map (·.1)) (l.map (·.2))

/-- A forwarded register access (R297) or doorbell access (R298); a read is answered with a response packet. -/
def State.takeForward (s : State) (p : Pk) : State :=
  let off := leNat (sub p.spec 0 4)
  let w := leNat (sub p.spec 4 1)
  let width := w % 16
  let v := leNat (sub p.spec 5 8)
  let page := (off - 0x10000000) / 0x1000
  if 16 ≤ w then
    if off < 0x10000000 then (if s.boot.bar0 then s.busWrite off width (v % 2 ^ (8 * width)) else s)
    else if width ≠ 4 then s.badacc
    else if off % 0x1000 = 0 then s.ringTail page (v % 65536)
    else if off % 0x1000 = 4 then s.ringHead page (v % 65536)
    else s.badacc
  else
    let r := if !s.boot.bar0 then (leBytes width 0, s)
      else if off < 0x10000000 then s.busRead off width
      else (s.pageRead page (off % 0x1000) width, s.noteOdd off width)
    r.2.sendPk { pkind := 0xA, group := 0, dst := p.src, src := s.pcie.coord, dstDrum := 255, srcDrum := 255,
                 spec := leBytes 4 off ++ leBytes 1 width ++ padTo 8 r.1, data := [] } false

/-- The response to the oldest forwarded read that it answers. -/
def State.takeResponse (s : State) (p : Pk) : State :=
  let hit (k : FwdRead) : Bool := decide (k.dst = p.src ∧ k.off = leNat (sub p.spec 0 4) ∧ k.width = leNat (sub p.spec 4 1))
  match s.pcie.fwdReads.find? hit with
  | some k => (s.modPcie fun x => { x with fwdReads := x.fwdReads.eraseP hit }).answer (sub p.spec 5 k.width)
  | none => s

/-- A packet addressed to this part. While it boots or after a crash, data packets are discarded and counted. -/
def State.takePk (s : State) (p : Pk) (port : Nat) (live : Bool) : State :=
  if p.pkind = 0x10 then
    s.takeAbort port p.group ⟨wordCoord (leNat (sub p.spec 0 2)), BitVec.ofNat 16 (leNat (sub p.spec 2 2))⟩ (BitVec.ofNat 64 (leNat (sub p.spec 4 8)))
  else if p.pkind = 0x11 then s.align port (BitVec.ofNat 64 (leNat (sub p.spec 0 8))) (leNat (sub p.spec 8 1) == 1)
  else if s.deaf then s.noGroup
  else match p.pkind with
    | 1 | 3 => s.takeData p
    | 2 => s.takeReply p p.ackBody
    | 4 => s.takeReply p p.statsBody
    | 5 => s.followerTraffic p.src 5 live (leNat (sub p.spec 0 8)) p.data
    | 6 => s.followerTraffic p.src 6 live (leNat (sub p.spec 0 8)) (List.replicate (leNat (sub p.spec 8 4)) 0)
    | 7 => if s.pcie.role = 2 then s.hostGot (leNat (sub p.spec 0 8)) p.data else s
    | 8 => if s.pcie.role = 1 then s.issueVector (leNat (sub p.spec 0 2)) else s
    | 9 => s.takeForward p
    | 0xA => s.takeResponse p
    | _ => s

/-- The bytes of a packet for this part that channel vc of a port has completed: bad, or handled. One that is shorter than its LEN
was ended on its way and is dropped (DESIGN CHOICE, log 46). -/
def State.takeBytes (s : State) (port vc : Nat) (l : List Byte) : State :=
  match Pk.ofBytes l with
  | none => s.modFab fun f => { f with badpkt := f.badpkt + 1 }
  | some p => if l.length < 32 + leNat (sub l 12 4) then s else s.takePk p port (vc == 1 || vc == 2)

/-- A packet in transit at channel vc of a port, of which these bytes have come, goes on its way; with `more`, the rest follows it
flit by flit, cut through (R337). Each flit takes its place in the receive buffer until it leaves (R331). -/
def State.sendOn (s : State) (port vc : Nat) (l : List Byte) (more : Bool) : State :=
  match Pk.ofBytes l with
  | none => s
  | some p =>
    let fs := queuedOf p.pair (some (port, vc)) vc l
    let fs := if more then fs.map fun q => { q with flit := { q.flit with last := false } } else fs
    let way : Option Onward := if more then some ⟨p.pair, (port, vc), none, false, false⟩ else none
    (s.modPort port fun x => { x with ways := x.ways.set vc way }).modFab fun f =>
      (f.routeFrom s.pcie.coord p ⟨vc == 1 || vc == 2, isSubB vc, some (s.port port).dir.toNat, fs, more⟩).1

/-- A packet that is at hand whole: in transit, or for this part. -/
def State.takeWhole (s : State) (port vc : Nat) (l : List Byte) : State :=
  if s.transits l then s.sendOn port vc l false else s.takeBytes port vc l

/-! ## Packets held at a port (R343) -/

/-- Is a channel one of the request class, which a held packet back-pressures? -/
def isReq (vc : Nat) : Bool := vc == 3 || vc == 4

/-- Do these bytes begin a packet that waits for its job? -/
def State.waitsBytes (s : State) (l : List Byte) : Bool := match Pk.ofBytes l with
  | some p => s.waitsJob p
  | none => false

/-- Does port p hold its request channels back: it holds a packet, or one that waits for its job is arriving? -/
def State.holdsReq (s : State) (p : Nat) : Bool :=
  let x := s.port p
  !x.ingress.isEmpty || [3, 4].any fun v => s.waitsBytes ((x.rxPart[v]?).getD [])

/-- n credits of channel vc that were held back are to be returned. -/
def Port.unstick (x : Port) (vc n : Nat) : Port :=
  let k := min n ((x.stuck[vc]?).getD 0)
  { x with stuck := modAt x.stuck vc (· - k), owed := modAt x.owed vc (· + k) }

/-- n flits of channel vc that were held back are in transit, and stay until they leave. -/
def Port.pass (x : Port) (vc n : Nat) : Port :=
  let k := min n ((x.stuck[vc]?).getD 0)
  { x with stuck := modAt x.stuck vc (· - k), through := modAt x.through vc (· + k) }

/-- n flits of a packet that begins with the bytes l are no longer held back. -/
def State.letGo (s : State) (x : Port) (l : List Byte) (vc n : Nat) : Port := if s.transits l then x.pass vc n else x.unstick vc n

/-- Channel v of a port is held back no more: what has come of a packet in transit sets out. -/
def State.letChannelGo (s : State) (p v : Nat) : State :=
  let l := ((s.port p).rxPart[v]?).getD []
  let s := s.modPort p fun x => s.letGo x l v ((x.stuck[v]?).getD 0)
  if s.transits l then (s.modPort p fun x => { x with rxPart := x.rxPart.set v [] }).sendOn p v l true else s

/-- A port holds nothing back. -/
def State.letAllGo (s : State) (p : Nat) : State := (List.range 7).foldl (fun s v => s.letChannelGo p v) s

/-- The held packets of port p in their order, until one waits. -/
def State.drainGo (s : State) (p : Nat) : List (Nat × List Byte) → State
  | [] => s.modPort p fun x => { x with ingress := [] }
  | h :: r =>
    if s.waitsBytes h.2 then s.modPort p fun x => { x with ingress := h :: r }
    else State.drainGo ((s.modPort p fun x => s.letGo x h.2 h.1 (flitCount h.2.length)).takeWhole p h.1 h.2) p r

/-- What port p holds goes on where it can; a port that holds nothing holds no credit back. -/
def State.drainPort (s : State) (p : Nat) : State :=
  let s := if (s.port p).ingress.isEmpty then s else s.drainGo p (s.port p).ingress
  if s.holdsReq p then s else s.letAllGo p

def State.drainPorts (s : State) : State := (List.range 20).foldl (fun s p => s.drainPort p) s

/-! ## Flits (R327, R328, R331) -/

/-- Has a port a sender that waits for credits: a flit on a channel without any, or any flit while the port retrains (R329,
R331)? -/
def Port.starved (x : Port) : Bool :=
  (List.range 7).any fun v => x.ready v && ((x.state == .up && (x.credits[v]?).getD 0 == 0) || x.state == .retraining)

/-- An ac of LNK_CREDWAIT: two nc of every port whose senders wait. -/
def State.creditWait (s : State) : State :=
  (List.range 20).foldl (fun s p => if (s.port p).starved then s.modPort p fun x => (x.bump .credWait).bump .credWait else s) s

/-- Flits from the oldest sent up to SEQ a. -/
def ackedCount (l : List Queued) (a : Nat) : Nat :=
  match l with
  | [] => 0
  | q :: _ => let k := (a + 4096 - q.flit.seq) % 4096 + 1; if k ≤ l.length then k else 0

/-- The acknowledgement that a flit carries. -/
def Port.takeAck (p : Port) (f : Flit) : Port :=
  if f.acktype = 0 then p else
  let k := ackedCount p.replay f.ackseq
  let p := { p with replay := p.replay.drop k, resend := p.resend.drop (p.resend.length + k - p.replay.length)
                    noProgress := if 0 < k then 0 else p.noProgress }
  if f.acktype = 2 then { p with resend := p.replay, noProgress := p.noProgress + 1 } else p

/-- The credits that a flit returns. -/
def Port.takeCredits (p : Port) (f : Flit) : Port := { p with credits := modAt p.credits f.cvc (· + f.ccnt) }

/-- Packets that waited under R330 go out once nothing of their pair is outstanding. -/
def State.releaseTx (s : State) : State :=
  let l := s.fab.waitingTx
  l.foldl (fun s w => s.routeWaiting w) (s.modFab fun f => { f with waitingTx := [] })

/-- What every good flit brings: acknowledgement and credits. -/
def State.takeHeader (s : State) (p : Nat) (f : Flit) : State :=
  (s.modPort p fun x => (x.takeAck f).takeCredits f).releaseTx

/-- A gap opens: one nak with the last SEQ accepted. -/
def State.openGap (s : State) (p : Nat) : State :=
  if (s.port p).nakSent then s else
  let x := s.port p
  (s.modPort p fun x => { (x.returned) with nakSent := true }).putFlit p (x.idleFlit 2)

/-- Does the payload of a flit begin a packet: does it read as a header whose LEN fits the flit's LAST (R340)? -/
def flitBegins (f : Flit) : Bool :=
  let l := padTo (if f.half then 128 else 256) f.payload
  (Pk.ofBytes l).isSome && f.last == decide (32 + leNat (sub l 12 4) ≤ l.length)

/-- The payload of the packet that the next flit of a channel goes on with: the one arriving; else, where the flit begins none, one
that a retired port cut (R330; DESIGN CHOICE, log 46). -/
def Port.partOf (x : Port) (f : Flit) : List Byte × Port :=
  let l := (x.rxPart[f.vc]?).getD []
  if !l.isEmpty then (l, x) else
  match x.cutRx.find? fun c => c.1 == f.vc && !flitBegins f with
  | some c => (c.2, { x with cutRx := x.cutRx.eraseP fun c => c.1 == f.vc })
  | none => ([], x)

/-- The way of the packet in transit that a flit goes on with: of the packet that is arriving; else, where the flit begins none, of one
that a retired port cut. -/
def Port.wayOf (x : Port) (f : Flit) : Option Onward × Port :=
  match (x.ways[f.vc]?).getD none with
  | some w => (some w, x)
  | none => match x.cutWays.find? fun c => c.1 == f.vc && ((x.rxPart[f.vc]?).getD []).isEmpty && !flitBegins f with
    | some c => (some c.2, { x with cutWays := x.cutWays.erase c })
    | none => (none, x)

/-- A flit that begins a packet, or goes on with one for this part. Its credit is to be returned, unless the port holds its channel
back or its packet is in transit; a packet for this part is handled once it is complete, one in transit sets out at once, and
either is held behind what the port holds (R331, R337, R343). -/
def State.takeFlit (s : State) (p : Nat) (f : Flit) : State :=
  let q := (s.port p).partOf f
  let part := q.1 ++ flitPayload f
  let held := isReq f.vc && (s.holdsReq p || s.waitsBytes part)
  let goes := !held && s.transits part
  let s := s.modPort p fun _ =>
    let y := { q.2 with rxPart := q.2.rxPart.set f.vc (if f.last || goes then [] else part) }
    if held then { y with stuck := modAt y.stuck f.vc (· + 1) }
    else if goes then { y with through := modAt y.through f.vc (· + 1) }
    else { y with owed := modAt y.owed f.vc (· + 1) }
  if goes then s.sendOn p f.vc part (!f.last)
  else if !f.last then s
  else if held then s.modPort p fun x => { x with ingress := x.ingress ++ [(f.vc, part)] }
  else s.takeBytes p f.vc part

/-- An accepted flit: it follows its packet in transit, or is taken. -/
def State.acceptFlit (s : State) (p : Nat) (f : Flit) : State :=
  let s := s.modPort p fun x => { x with rxSeq := (x.rxSeq + 1) % 4096, nakSent := false }.bump .rxFlits
  let s := s.takeHeader p f
  let r := (s.port p).wayOf f
  match r.1 with
  | some w =>
    let s := s.modPort p fun _ =>
      { r.2 with ways := r.2.ways.set f.vc (if f.last then none else some w), through := modAt r.2.through f.vc (· + 1) }
    s.follow w f (some (p, f.vc))
  | none => s.takeFlit p f

/-- What the lanes' FEC reports with a flit: each lane runs its own codewords (R323, R329). -/
def State.noteFec (s : State) (p : Nat) (fec : List (Nat × Nat)) : State :=
  s.modPort p fun x =>
    let add (l : Cells Dword) (k : LinkCount) (n : Nat) : Cells Dword := putCell 0 l k.key (getCell 0#64 l k.key + BitVec.ofNat 64 n)
    { x with counters := add (add x.counters .fecCorr (fec.map (·.1)).sum) .fecUnc (fec.map (·.2)).sum
             fecAt := x.fecAt.zipIdx.map fun t => if ((fec[t.2]?).getD (0, 0)).2 = 0 then t.1 else some s.power.ac }

/-- FLIT_RECEIVE. -/
def execFlitReceive (p : Nat) (a : Arrived) (s : State) : Host.Outcome State Fault Refusal :=
  onPort p s fun s =>
    if (s.port p).state ≠ .up then s else
    let f := a.flit
    let s := s.noteFec p a.fec
    let x := s.port p
    if !flitGood f then (s.modPort p (·.bump .crcErr)).openGap p
    else if f.kind = 0 then s.takeHeader p f
    else if f.seq = x.rxSeq then (s.acceptFlit p f).drainPort p
    else if (x.rxSeq + 4095 - f.seq) % 4096 < 512 then s.modPort p (·.bump .dups)
    else (s.modPort p (·.bump .reorder)).openGap p

end Sys2Proof.Machine
end

