-- ==== Sys2Proof/Machine/Sideband.lean ====
section
/-! DEFINITION. Machine/Sideband.lean: the SMBus target and the JTAG port (R393, R418), which answer from the time the PLL
locks. -/

namespace Sys2Proof.Machine

/-- An answer on the sideband or the JTAG port. -/
def State.sideAnswer (s : State) (l : List Byte) : State := if s.power.locked then s.answer l else s

/-! ## Packet error codes (PRESUMED of SMBus, log 67) -/

def pecStep (c : Nat) : Nat := if 128 ≤ c then Nat.xor (2 * c % 256) 7 else 2 * c

/-- The packet error code: CRC-8 with the polynomial x^8 + x^2 + x + 1 over every byte of the message, addresses among them. -/
def pec (l : List Byte) : Byte :=
  BitVec.ofNat 8 (l.foldl (fun c b => loop (fun _ c => pecStep c) 8 (Nat.xor c b.toNat)) 0)

/-- The target's address of R418 with the write bit, and with the read bit. -/
def smbWriteAddr : Byte := 0xB4
def smbReadAddr : Byte := 0xB5

/-- The answer to a read command: its bytes and their packet error code. -/
def State.smbAnswer (s : State) (command : Byte) (l : List Byte) : State :=
  s.sideAnswer (l ++ [pec ([smbWriteAddr, command, smbReadAddr] ++ l)])

/-- Does a word write carry the code of its bytes, or none? -/
def smbGood (w : SmbWrite) (command : Byte) : Bool := match w.pec with
  | none => true
  | some c => c == pec ([smbWriteAddr, command] ++ leBytes 2 w.value.toNat)

/-! ## The commands of R418 -/

/-- SMB_READ_TMAX: command 0x01, signed deg C. -/
def execSmbReadTmax (s : State) : Host.Outcome State Fault Refusal := .next (s.smbAnswer 0x01 (leBytes 2 (twos 16 s.power.tmax)))
/-- SMB_READ_POWER: command 0x02, PWR_EST. -/
def execSmbReadPower (s : State) : Host.Outcome State Fault Refusal := .next (s.smbAnswer 0x02 (leBytes 2 s.power.est.toNat))
/-- SMB_CAP_READ: command 0x03. -/
def execSmbCapRead (s : State) : Host.Outcome State Fault Refusal := .next (s.smbAnswer 0x03 (leBytes 2 s.power.bmcCap.toNat))
/-- SMB_CAP_WRITE: command 0x03; 50 to 120, values outside as the nearer limit. A write with a wrong code is not taken. -/
def execSmbCapWrite (value : SmbWrite) (s : State) : Host.Outcome State Fault Refusal :=
  .next (if s.power.locked && smbGood value 0x03 then
      s.modPower fun p => { p with bmcCap := BitVec.ofNat 7 (clampN 50 120 value.value.toNat) } else s)
/-- SMB_READ_STATUS: command 0x04, PWR_STATUS [15:0]. -/
def execSmbReadStatus (s : State) : Host.Outcome State Fault Refusal := .next (s.smbAnswer 0x04 (leBytes 2 s.power.statusVal))
/-- SMB_READ_FAULTS: command 0x05, DIAG_FLT_PEND0-7, behind the count of a block read. -/
def execSmbReadFaults (s : State) : Host.Outcome State Fault Refusal :=
  .next (s.smbAnswer 0x05 ([64] ++ (List.range 8).flatMap fun i => leBytes 8 (s.pend i)))

/-- JTAG_IDCODE. -/
def execJtagIdcode (s : State) : Host.Outcome State Fault Refusal :=
  .next (s.sideAnswer (leBytes 4 (pack [(28, 1), (12, 0x4B01), (1, Config.jep106.toNat), (0, 1)])))

/-- JTAG_INSTRUCTION: a mandatory IEEE 1149.1 instruction works on the scan registers alone. A private one exists in factory
test mode only, where nothing is said of what it does; elsewhere the port does not offer it (R393). -/
def execJtagInstruction (privateOne : Bool) (s : State) : Host.Outcome State Fault Refusal :=
  if privateOne && s.boot.mode == 1 && s.power.locked then .fault .privateInstruction else .next s

end Sys2Proof.Machine
end

