-- ==== Sys2Proof/Machine/Dispatch.lean ====
section
/-! DEFINITION. Machine/Dispatch.lean: one arm per command. -/

namespace Sys2Proof.Machine

def exec (i : Instr) (s : State) : Host.Outcome State Fault Refusal :=
  match i with
  | .strike d => Sys2Proof.Machine.execStrike d s
  | .weightLoadEnd d => Sys2Proof.Machine.execWeightLoadEnd d s
  | .dequantiseRow d par => Sys2Proof.Machine.execDequantiseRow d par s
  | .leafDone d par => Sys2Proof.Machine.execLeafDone d par s
  | .nodeArrival d src net => Sys2Proof.Machine.execNodeArrival d src net s
  | .bellStatsArrival d src net => Sys2Proof.Machine.execBellStatsArrival d src net s
  | .tap d par => Sys2Proof.Machine.execTap d par s
  | .check d par => Sys2Proof.Machine.execCheck d par s
  | .narrow d par => Sys2Proof.Machine.execNarrow d par s
  | .widen d par => Sys2Proof.Machine.execWiden d par s
  | .convert d par => Sys2Proof.Machine.execConvert d par s
  | .amax d par => Sys2Proof.Machine.execAmax d par s
  | .close d par => Sys2Proof.Machine.execClose d par s
  | .shareReductionDone d par => Sys2Proof.Machine.execShareReductionDone d par s
  | .ldscale d => Sys2Proof.Machine.execLdscale d s
  | .stscale d par => Sys2Proof.Machine.execStscale d par s
  | .qsave d par => Sys2Proof.Machine.execQsave d par s
  | .qload d => Sys2Proof.Machine.execQload d s
  | .rollScale d par => Sys2Proof.Machine.execRollScale d par s
  | .rollMask d par => Sys2Proof.Machine.execRollMask d par s
  | .softmax d par => Sys2Proof.Machine.execSoftmax d par s
  | .rmsnorm d par => Sys2Proof.Machine.execRmsnorm d par s
  | .layernorm d par => Sys2Proof.Machine.execLayernorm d par s
  | .gelu d par => Sys2Proof.Machine.execGelu d par s
  | .silu d par => Sys2Proof.Machine.execSilu d par s
  | .rope d par => Sys2Proof.Machine.execRope d par s
  | .topk d par => Sys2Proof.Machine.execTopk d par s
  | .fill d => Sys2Proof.Machine.execFill d s
  | .copy d => Sys2Proof.Machine.execCopy d s
  | .send d => Sys2Proof.Machine.execSend d s
  | .wait d => Sys2Proof.Machine.execWait d s
  | .waitComplete d => Sys2Proof.Machine.execWaitComplete d s
  | .waitTimeout d => Sys2Proof.Machine.execWaitTimeout d s
  | .fence d => Sys2Proof.Machine.execFence d s
  | .fenceComplete d => Sys2Proof.Machine.execFenceComplete d s
  | .endRun d => Sys2Proof.Machine.execEndRun d s
  | .workClaim d reply => Sys2Proof.Machine.execWorkClaim d reply s
  | .claimRetry d => Sys2Proof.Machine.execClaimRetry d s
  | .shellClearDone d => Sys2Proof.Machine.execShellClearDone d s
  | .sendArrival d src net => Sys2Proof.Machine.execSendArrival d src net s
  | .sendAckArrival d src net => Sys2Proof.Machine.execSendAckArrival d src net s
  | .padReread d word v => Sys2Proof.Machine.execPadReread d word v s
  | .bankGate d bank => Sys2Proof.Machine.execBankGate d bank s
  | .bankWakeEnd d bank => Sys2Proof.Machine.execBankWakeEnd d bank s
  | .damperFinish d slot => Sys2Proof.Machine.execDamperFinish d slot s
  | .score q => Sys2Proof.Machine.execScore q s
  | .scoreBind q => Sys2Proof.Machine.execScoreBind q s
  | .drain q => Sys2Proof.Machine.execDrain q s
  | .kill q => Sys2Proof.Machine.execKill q s
  | .taskDispatch job task target => Sys2Proof.Machine.execTaskDispatch job task target s
  | .preemptSave d => Sys2Proof.Machine.execPreemptSave d s
  | .preemptRestore d => Sys2Proof.Machine.execPreemptRestore d s
  | .taskEnd job task => Sys2Proof.Machine.execTaskEnd job task s
  | .liveOverrun job task => Sys2Proof.Machine.execLiveOverrun job task s
  | .groupHoldExpire q => Sys2Proof.Machine.execGroupHoldExpire q s
  | .liveReserveApply l => Sys2Proof.Machine.execLiveReserveApply l s
  | .metRelease key => Sys2Proof.Machine.execMetRelease key s
  | .metStkdone k value => Sys2Proof.Machine.execMetStkdone k value s
  | .stickTrap k => Sys2Proof.Machine.execStickTrap k s
  | .stickApertureAccess k off width write data => Sys2Proof.Machine.execStickApertureAccess k off width write data s
  | .stickDeviceAccess k addr write data path => Sys2Proof.Machine.execStickDeviceAccess k addr write data path s
  | .ringEnable q value => Sys2Proof.Machine.execRingEnable q value s
  | .ringDisable q value => Sys2Proof.Machine.execRingDisable q value s
  | .doorbellSqtail page value => Sys2Proof.Machine.execDoorbellSqtail page value s
  | .doorbellCqhead page value => Sys2Proof.Machine.execDoorbellCqhead page value s
  | .irqTimerExpire q => Sys2Proof.Machine.execIrqTimerExpire q s
  | .msixVectorUnmask v => Sys2Proof.Machine.execMsixVectorUnmask v s
  | .forwardedAccess off width write data => Sys2Proof.Machine.execForwardedAccess off width write data s
  | .forwardTimeout => Sys2Proof.Machine.execForwardTimeout s
  | .followerHostTraffic src pkind live addr data => Sys2Proof.Machine.execFollowerHostTraffic src pkind live addr data s
  | .followerMsixRequest src vec => Sys2Proof.Machine.execFollowerMsixRequest src vec s
  | .functionLevelReset => Sys2Proof.Machine.execFunctionLevelReset s
  | .perstAssert => Sys2Proof.Machine.execPerstAssert s
  | .linkDown => Sys2Proof.Machine.execLinkDown s
  | .memoryRead ch blk cls linkErrs ecc => Sys2Proof.Machine.execMemoryRead ch blk cls linkErrs ecc s
  | .memoryWrite ch blk lo cls linkErrs data ecc => Sys2Proof.Machine.execMemoryWrite ch blk lo cls linkErrs data ecc s
  | .eccWriteback ch blk => Sys2Proof.Machine.execEccWriteback ch blk s
  | .patrolScrub ch blk single => Sys2Proof.Machine.execPatrolScrub ch blk single s
  | .mr4Poll ch temp => Sys2Proof.Machine.execMr4Poll ch temp s
  | .memoryReady => Sys2Proof.Machine.execMemoryReady s
  | .pgtDataAccess agent width write data => Sys2Proof.Machine.execPgtDataAccess agent width write data s
  | .pageTableClear => Sys2Proof.Machine.execPageTableClear s
  | .streamTableClear => Sys2Proof.Machine.execStreamTableClear s
  | .linkHandshake p r => Sys2Proof.Machine.execLinkHandshake p r s
  | .flitSend p => Sys2Proof.Machine.execFlitSend p s
  | .flitReceive p a => Sys2Proof.Machine.execFlitReceive p a s
  | .replayTimeout p => Sys2Proof.Machine.execReplayTimeout p s
  | .linkRetrain r => Sys2Proof.Machine.execLinkRetrain r s
  | .retrainEnd p failedLanes ok => Sys2Proof.Machine.execRetrainEnd p failedLanes ok s
  | .lnkRetrainWrite p => Sys2Proof.Machine.execLnkRetrainWrite p s
  | .alignmentSend p => Sys2Proof.Machine.execAlignmentSend p s
  | .alignmentReceive p beat notSynced => Sys2Proof.Machine.execAlignmentReceive p beat notSynced s
  | .syncInEdge => Sys2Proof.Machine.execSyncInEdge s
  | .syncOutPulse => Sys2Proof.Machine.execSyncOutPulse s
  | .syncInTimeout => Sys2Proof.Machine.execSyncInTimeout s
  | .abortReceive p group origin serial stamp => Sys2Proof.Machine.execAbortReceive p group origin serial stamp s
  | .groupReopen value => Sys2Proof.Machine.execGroupReopen value s
  | .graceExpire src => Sys2Proof.Machine.execGraceExpire src s
  | .faultnPulseEnd => Sys2Proof.Machine.execFaultnPulseEnd s
  | .faultClear src => Sys2Proof.Machine.execFaultClear src s
  | .faultInject src value => Sys2Proof.Machine.execFaultInject src value s
  | .drmRetire d value => Sys2Proof.Machine.execDrmRetire d value s
  | .soundCheck d flaws1 flaws2 => Sys2Proof.Machine.execSoundCheck d flaws1 flaws2 s
  | .idleStrikeSlot => Sys2Proof.Machine.execIdleStrikeSlot s
  | .dutyUpdate est => Sys2Proof.Machine.execDutyUpdate est s
  | .pwrcapAssert => Sys2Proof.Machine.execPwrcapAssert s
  | .sensorSample readings => Sys2Proof.Machine.execSensorSample readings s
  | .thermalFault => Sys2Proof.Machine.execThermalFault s
  | .railFault pair => Sys2Proof.Machine.execRailFault pair s
  | .powerOn => Sys2Proof.Machine.execPowerOn s
  | .pllLock pufOk trained => Sys2Proof.Machine.execPllLock pufOk trained s
  | .pllLockLoss => Sys2Proof.Machine.execPllLockLoss s
  | .resetnAssert => Sys2Proof.Machine.execResetnAssert s
  | .pwrRst value => Sys2Proof.Machine.execPwrRst value s
  | .powerDown => Sys2Proof.Machine.execPowerDown s
  | .bootComplete flashOk counterOk => Sys2Proof.Machine.execBootComplete flashOk counterOk s
  | .writeImage len => Sys2Proof.Machine.execWriteImage len s
  | .commit len => Sys2Proof.Machine.execCommit len s
  | .abandon len => Sys2Proof.Machine.execAbandon len s
  | .writeRepair len => Sys2Proof.Machine.execWriteRepair len s
  | .writePlace len => Sys2Proof.Machine.execWritePlace len s
  | .updateOpComplete flashOk counterOk => Sys2Proof.Machine.execUpdateOpComplete flashOk counterOk s
  | .doeDiscovery index => Sys2Proof.Machine.execDoeDiscovery index s
  | .getVersion request => Sys2Proof.Machine.execGetVersion request s
  | .getCapabilities request => Sys2Proof.Machine.execGetCapabilities request s
  | .negotiateAlgorithms request => Sys2Proof.Machine.execNegotiateAlgorithms request s
  | .getDigests request => Sys2Proof.Machine.execGetDigests request s
  | .getCertificate slot offset length => Sys2Proof.Machine.execGetCertificate slot offset length s
  | .challenge nonce => Sys2Proof.Machine.execChallenge nonce s
  | .getMeasurements index signed nonce => Sys2Proof.Machine.execGetMeasurements index signed nonce s
  | .pqsig => Sys2Proof.Machine.execPqsig s
  | .pqchain offset length => Sys2Proof.Machine.execPqchain offset length s
  | .smbReadTmax => Sys2Proof.Machine.execSmbReadTmax s
  | .smbReadPower => Sys2Proof.Machine.execSmbReadPower s
  | .smbCapRead => Sys2Proof.Machine.execSmbCapRead s
  | .smbCapWrite value => Sys2Proof.Machine.execSmbCapWrite value s
  | .smbReadStatus => Sys2Proof.Machine.execSmbReadStatus s
  | .smbReadFaults => Sys2Proof.Machine.execSmbReadFaults s
  | .jtagIdcode => Sys2Proof.Machine.execJtagIdcode s
  | .diagModeEnter => Sys2Proof.Machine.execDiagModeEnter s
  | .diagModeLeave => Sys2Proof.Machine.execDiagModeLeave s
  | .bar4Read off len bad => Sys2Proof.Machine.execBar4Read off len bad s
  | .broadcastWrite off width data => Sys2Proof.Machine.execBroadcastWrite off width data s
  | .broadcastRead off width => Sys2Proof.Machine.execBroadcastRead off width s
  | .sknCntClr d => Sys2Proof.Machine.execSknCntClr d s
  | .tunCntClr d => Sys2Proof.Machine.execTunCntClr d s
  | .shlCntClr d => Sys2Proof.Machine.execShlCntClr d s
  | .seqCntClr d => Sys2Proof.Machine.execSeqCntClr d s
  | .rolCntClr d => Sys2Proof.Machine.execRolCntClr d s
  | .tapCntClr d => Sys2Proof.Machine.execTapCntClr d s
  | .padCntClr d => Sys2Proof.Machine.execPadCntClr d s
  | .metCntClr => Sys2Proof.Machine.execMetCntClr s
  | .wkcCntClr => Sys2Proof.Machine.execWkcCntClr s
  | .pciCntClr => Sys2Proof.Machine.execPciCntClr s
  | .mchCntClr ch => Sys2Proof.Machine.execMchCntClr ch s
  | .lnkCntClr p => Sys2Proof.Machine.execLnkCntClr p s
  | .registerWrite off width data => Sys2Proof.Machine.execRegisterWrite off width data s
  | .resetnRelease trained => Sys2Proof.Machine.execResetnRelease trained s
  | .pwrcapRelease => Sys2Proof.Machine.execPwrcapRelease s
  | .perstRelease => Sys2Proof.Machine.execPerstRelease s
  | .pcieLinkUp width speed => Sys2Proof.Machine.execPcieLinkUp width speed s
  | .configurationRequest off write data => Sys2Proof.Machine.execConfigurationRequest off write data s
  | .completionTimeout q score dma => Sys2Proof.Machine.execCompletionTimeout q score dma s
  | .submissionEntryFault q => Sys2Proof.Machine.execSubmissionEntryFault q s
  | .bar4Write off data => Sys2Proof.Machine.execBar4Write off data s
  | .tableClearDone stream => Sys2Proof.Machine.execTableClearDone stream s
  | .jtagInstruction privateOne => Sys2Proof.Machine.execJtagInstruction privateOne s

end Sys2Proof.Machine
end

