-- ==== Sys2Proof/Machine/Idle.lean ====
section
/-! DEFINITION. Machine/Idle.lean: what goes on by itself while no command waits (log 1). -/

namespace Sys2Proof.Machine

/-- One ac in which no command arrives: the beat counter counts and every unit of the drums goes on with its work (R150, R355,
R403); a check that fails twice comes to its end (R374); every DMA transfer moves a chunk (R260, R306); the packets that the
ports hold go on where they can, and the waits for credits count (R331, R343); and the records whose hold has ended are written
(R352, R376). While the control clock does not run, nothing goes on. -/
def State.pass (s : State) : State :=
  if s.power.locked && !s.power.tripped then s.idle.soundTick.runMoves.drainPorts.creditWait.flushAll else s

end Sys2Proof.Machine
end

