-- ==== Sys2Proof/Safety.lean ====
section
/-! DEFINITION. Safety.lean: what counts as a well-kept state, and what a command may leave untouched, in the terms the
statements use. -/

namespace Sys2Proof.Machine

/-- The stores of a drum are in canonical form: pad bytes, tallies, banks, shell rows and their statuses. -/
def Drum.kept (x : Drum) : Bool :=
  Memory.wf x.pad.mem && cellsWf 0#32 x.pad.tallies && cellsWf Bank.awake x.pad.banks && cellsWf 0#32 x.shell.rows &&
  cellsWf 0#32 x.shell.tstat

/-- The stores of the base die and the host's memory are in canonical form. -/
def State.storesWf (s : State) : Bool :=
  Memory.wf s.hostMem && Memory.wf s.mem.data && cellsWf 0#64 s.mem.pgt && cellsWf 0#64 s.mem.str &&
  cellsWf Ring.reset s.rings && cellsWf FaultSet.reset s.faults && cellsWf false s.pcie.pba

/-- The part keeps its 136 drums, 64 memory channels and 20 link ports (R21, R22), and its stores their canonical form. -/
def State.Kept (s : State) : Prop :=
  s.drums.length = 136 ∧ s.mem.chans.length = 64 ∧ s.fab.ports.length = 20 ∧ s.storesWf = true ∧
  s.drums.all Drum.kept = true

/-- Nothing but drum d differs. -/
def OnlyDrum (d : Nat) (s t : State) : Prop :=
  t = { s with drums := t.drums } ∧ t.drums.length = s.drums.length ∧ ∀ e, e ≠ d → t.drum e = s.drum e

/-- Nothing but drum d and the packets on the NoC differs. -/
def OnlyDrumNoc (d : Nat) (s t : State) : Prop :=
  t = { s with drums := t.drums, noc := t.noc } ∧ t.drums.length = s.drums.length ∧ ∀ e, e ≠ d → t.drum e = s.drum e

/-- The drum once the line at the position of its next instruction is in the pattern cache. -/
def Drum.fetched (x : Drum) (beat : Dword) : Drum := x.fillLine beat x.seq.nextPc

/-- The state once drum d has fetched. -/
def State.fetched (s : State) (d : Nat) : State := s.modDrum d fun x => x.fetched s.beat

/-- The sequencer of drum d may issue, no withdrawn instruction goes first, and the word that its cache delivers, from pad
words that pass their parity, at the present position is w (R148, R150, R235). -/
def State.offers (s : State) (d : Nat) (w : Quad) : Prop :=
  d < 136 ∧ d < s.drums.length ∧ (s.drum d).mayIssue = true ∧ (s.drum d).seq.reissue = [] ∧
  (s.drum d).fetchOk (s.drum d).seq.pc = true ∧ (s.drum d).lineFails (s.drum d).seq.pc = false ∧
  ((s.drum d).fetched s.beat).cached (s.drum d).seq.pc = w

/-- From x to y the sequencer has taken one instruction of n words, the first of them w, of the same run, and goes on (R150,
R173). -/
def Moved (x y : Drum) (n : Nat) (w : Quad) : Prop :=
  y.seq.pc = x.seq.pc + n ∧ y.seq.lastop = BitVec.ofNat 8 (opcode w) ∧ y.seq.issued = x.seq.issued + 1 ∧
  y.seq.run = x.seq.run ∧ y.seq.stopped = x.seq.stopped

/-- The units of a drum hold nothing: no instruction waits, no strike, load, row, leaf, ROLL or shared reduction is under way,
no preemption waits, and every word of the pad passes its parity (R150, R235, R266). -/
def Drum.still (x : Drum) : Prop :=
  x.skin.jobs = [] ∧ x.skin.load = none ∧ x.skin.cur = none ∧ x.skin.laneQ = [] ∧ x.shell.leaves = [] ∧
  x.queues = ⟨[], [], [], []⟩ ∧ x.roll.cur = none ∧ x.tuner.cur = none ∧ x.tuner.share = none ∧
  x.preempting = none ∧ x.pad.failed = []

/-- No unit of a drum has work that it could take up; strikes already fed may stand in the lane queues. -/
def Drum.unitsRest (x : Drum) : Prop :=
  x.skin.jobs = [] ∧ x.skin.load = none ∧ x.skin.cur = none ∧ x.queues = ⟨[], [], [], []⟩ ∧ x.roll.cur = none ∧ x.tuner.cur = none

/-- Nothing of the part goes on by itself: no unit of a drum holds an instruction, no failed check runs again, no transfer is
under way, no record waits to be written, and no port holds a packet or a credit back or waits for one. -/
def State.quiet (s : State) : Prop :=
  (∀ d, (s.drum d).hasWork = false ∧ (s.drum d).sound.failIn = 0) ∧ s.met.moves = [] ∧ (∀ p ∈ s.rings, p.2.out = []) ∧
  ∀ p ∈ s.fab.ports, p.ingress = [] ∧ p.stuck = [0, 0, 0, 0, 0, 0, 0] ∧ p.starved = false ∧ ∀ l ∈ p.rxPart, s.transits l = false

/-- An access leaves of a pad all but what its banks note and which of them wake. -/
def SamePad (x y : Pad) : Prop :=
  y = { x with banks := y.banks, wakes := y.wakes, touched := y.touched, conflicts := y.conflicts, conf := y.conf }

/-- Two drums differ at most in the sequencer and in what accesses count in the pad. -/
def OnlySeqPad (x y : Drum) : Prop := y = { x with seq := y.seq, pad := y.pad }

/-- Does one of the ranges, taken from a base, hold the address? -/
def inRanges (base : Nat) (l : List Range) (a : Nat) : Bool :=
  l.any fun r => decide (base + r.off ≤ a ∧ a < base + r.off + r.len)

/-- Source src holds a new record of a real fault, for job j when there is one, raised at beat b (R358). -/
def State.latched (s : State) (src sub : Nat) (j : Option Half) (b : Dword) : Prop :=
  (s.fault src).valid = true ∧ (s.fault src).sub = BitVec.ofNat 8 sub ∧ (s.fault src).level = 0 ∧
  (s.fault src).jobv = j.isSome ∧ (s.fault src).job = j.getD 0 ∧ (s.fault src).stamp = b ∧
  (s.fault src).real = true ∧ (s.fault src).inj = false

/-- Another task of the job runs, so that the end of task i does not end the job. -/
def State.goesOn (s : State) (j : Half) (i : Nat) : Prop :=
  ∃ x k t, s.job? j = some x ∧ k ≠ i ∧ x.tasks[k]? = some t ∧ t.state = .running

/-- Task i of job j has ended with a code, now. -/
def State.endedAs (s : State) (j : Half) (i : Nat) (c : Code) (b : Dword) : Prop :=
  ∃ t, s.task? j i = some t ∧ t.state = .ended ∧ t.code = c ∧ t.endBeat = b

/-- Where in the host's memory the next record of a ring goes (R285, R288). -/
def Ring.place (r : Ring) : Nat := r.cqbase.toNat + 32 * r.cqtail.toNat

/-- From s to t one record has been written to ring q's completion ring and the host's memory holds nothing else new. -/
def Recorded (s t : State) (q : Nat) (r : Record) : Prop :=
  getBytes t.hostMem (s.ring q).place 32 = r.bytes (t.ring q).sqhead (s.ring q).phase ∧
  (∀ a, a < (s.ring q).place ∨ (s.ring q).place + 32 ≤ a → getByte t.hostMem a = getByte s.hostMem a) ∧
  t.pcie.cplwr = s.pcie.cplwr + 1

/-- The entry at the head of ring q has been taken (R282). -/
def Ring.after (r : Ring) : Half := if r.sqhead.toNat + 1 = ringSize r.sqNow then 0 else r.sqhead + 1

/-- The coordinate one hop away in a direction of the torus (R324): 0 +X, 1 -X, 2 +Y, 3 -Y, 4 +Z, 5 -Z. -/
def hopOf (dims c : Coord) (dir : Nat) : Coord :=
  match dir with
  | 0 => { c with x := (c.x + 1) % dims.x }
  | 1 => { c with x := (c.x + dims.x - 1) % dims.x }
  | 2 => { c with y := (c.y + 1) % dims.y }
  | 3 => { c with y := (c.y + dims.y - 1) % dims.y }
  | 4 => { c with z := (c.z + 1) % dims.z }
  | 5 => { c with z := (c.z + dims.z - 1) % dims.z }
  | _ => c

/-- Hops between two places of a ring of size n, the shorter way round. -/
def ringSteps (n a b : Nat) : Nat := min ((b + n - a) % n) ((a + n - b) % n)

/-- Hops between two parts of the torus. -/
def torusHops (dims a b : Coord) : Nat := ringSteps dims.x a.x b.x + ringSteps dims.y a.y b.y + ringSteps dims.z a.z b.z

/-- Does a coordinate lie in a torus of these dimensions? -/
def inTorus (dims c : Coord) : Prop := c.x < dims.x ∧ c.y < dims.y ∧ c.z < dims.z

/-- A packet that the header of R340 can carry. -/
def Pk.legal (p : Pk) : Prop :=
  (1 ≤ p.pkind ∧ p.pkind ≤ 0x0A ∨ p.pkind = 0x10 ∨ p.pkind = 0x11) ∧ p.group < 1024 ∧ inTorus ⟨16, 16, 64⟩ p.dst ∧
  inTorus ⟨16, 16, 64⟩ p.src ∧ p.dstDrum < 256 ∧ p.srcDrum < 256 ∧ p.spec.length = 16 ∧ p.data.length < 2 ^ 32

end Sys2Proof.Machine
end

