-- ==== Sys2Proof/Certificates/Slice0/Obligations.lean ====
section
/-! DEFINITION. Certificates/Slice0/Obligations.lean: the statements for the provers. -/

open Sys2Proof Sys2Proof.Machine

/-! ## The queue, the idle step and reset -/

/-- A step takes the command at the front of the queue and answers what exec answers on it with the queue's rest. -/
def Obligations.StepRunsFrontCommand : Prop :=
  ∀ (s : State) (c : Instr) (rest : List Instr),
    step { s with pending := c :: rest } = exec c { s with pending := rest }

/-- On an empty queue one ac passes, here of a part in which nothing is under way: the beat counter rises by one (R12) while
the control clock runs, and nothing moves while it does not; MET_RINGWAIT may rise and a new duty is taken at a frame's start
(R410). The power block's own time, an ac more too, is the model's field (log 1). That an idle step is one ac is the model's choice (log 1). -/
def Obligations.EmptyQueueLetsOneAcPass : Prop :=
  ∀ s : State, s.pending = [] →
    (s.power.locked = true → s.power.tripped = false → s.quiet → ∃ t, step s = .next t ∧ t.beat = s.beat + 1 ∧
      t = { s with beat := t.beat, met := { s.met with ringwait := t.met.ringwait },
                   power := { s.power with ac := s.power.ac + 1, duty := t.power.duty } } ∧
      t.power.duty = if t.beat.toNat % 64 = 0 then ({ s.power with ac := s.power.ac + 1 } : Power).limit
        else s.power.duty) ∧
    (s.power.locked = false ∨ s.power.tripped = true → step s = .next s)

/-- The state after reset keeps the part's shape and canonical stores, its queue is empty, its beat counter at 0, and
the drums are those of the factory map, 128 of them exposed (R27): that State.reset holds the factory map is the model's choice
(log 20). -/
def Obligations.ResetKeepsPartAndStores : Prop :=
  State.reset.Kept ∧ State.reset.pending = [] ∧ State.reset.beat = 0 ∧ State.reset.exposed = 128 ∧
  State.reset.spares = factorySpares

/-- Every step keeps the number of drums, channels and ports, and the canonical form of every store of the part and of the
host's memory. -/
def Obligations.EveryStepKeepsPartAndStores : Prop :=
  ∀ s t : State, s.Kept → step s = .next t → t.Kept

/-! ## The sequencer -/

/-- A word whose opcode R153 does not list raises the instruction fault 0x01 of the drum for the running job, whichever row
meets it; the sequencer has taken one word and issues nothing further (R152).

An instruction that would touch a byte outside the region raises the region fault 0x60, or the address fault 0x61 where a
byte lies past the end of the pad, and changes nothing in the pad's bytes or the shell (R37, R154, R242); stated of FILL and
COPY on a drum whose units are still.

Array parity (R152, R357): a ROLL that reads a shell row, a QSAVE that reads a record and a DEQUANTISE_ROW that reads a
lane queue, where the word fails its parity, raise the array parity fault 0x72 of the running job; nothing is written to the
pad or the shell, and the sequencer issues nothing further. Stated of a drum whose units are still, or, for the rows, have
nothing else to do. That the failing word is one that the command reads before it writes is the model's choice (log 57). -/
def Obligations.ReservedOpcodesRegionsAndParityFault : Prop :=
  (
    ∀ (s : State) (d : Nat) (w : Quad) (r : RunId), s.offers d w → opcodes.contains (opcode w) = false →
      (s.drum d).seq.run = some r → (s.fault d).valid = false →
      ∀ par, ∀ i ∈ [Instr.strike d, .tap d par, .check d par, .narrow d par, .rollScale d par, .fill d, .copy d, .send d, .wait d,
          .fence d, .endRun d],
        ∃ t, exec i s = .next t ∧ t.latched d 0x01 (some r.job) s.beat ∧ (t.drum d).seq.stopped = true ∧
          (t.drum d).seq.pc = (s.drum d).seq.pc + 1 ∧ SamePad (s.drum d).pad (t.drum d).pad ∧
          (t.drum d).shell = (s.drum d).shell
  ) ∧ (
    ∀ (s : State) (d : Nat) (w : Quad) (r : RunId), s.offers d w → (s.drum d).still → (s.drum d).seq.run = some r →
      (s.fault d).valid = false → (s.drum d).pad.failed = [] →
      let outside (i : Instr) (l : List Range) : Prop := (s.drum d).regionOk l = false →
        ∃ t, exec i s = .next t ∧
          t.latched d (if ∃ g ∈ l, g.len ≠ 0 ∧ 4194304 < (s.drum d).abs g.off + g.len then 0x61 else 0x60) (some r.job) s.beat ∧
          (t.drum d).seq.stopped = true ∧ SamePad (s.drum d).pad (t.drum d).pad ∧ (t.drum d).shell = (s.drum d).shell
      (opcode w = 0x40 → (fillW w).bad = false → outside (.fill d) (fillW w).ranges) ∧
      (opcode w = 0x41 → (copyW w).rsv = 0 → outside (.copy d) ((copyW w).readRanges ++ (copyW w).writeRanges))
  ) ∧ (
    ∀ (s : State) (d : Nat) (r : RunId), s.Kept → d < 136 → (s.drum d).seq.run = some r → (s.fault d).valid = false →
      let x := s.drum d
      let lost (i : Instr) : Prop := ∃ t, exec i s = .next t ∧ t.latched d 0x72 (some r.job) s.beat ∧
        (t.drum d).seq.stopped = true ∧ (t.drum d).shell.rows = x.shell.rows ∧ (t.drum d).pad.mem = x.pad.mem
      (∀ w, s.offers d w → opcode w = 0x30 → (rollW w).instrBad = false → x.still →
        x.shell.openRow ((rollW w).rowsFrom 0) = false → (rollW w).faults s d = [] →
        (rollW w).m ≠ 0 → (rollW w).n ≠ 0 →
        ∀ p ∈ [(0x01, Instr.rollScale d false), (0x02, .rollMask d false), (0x10, .softmax d false), (0x20, .rmsnorm d false),
            (0x21, .layernorm d false), (0x30, .gelu d false), (0x31, .silu d false), (0x40, .rope d false),
            (0x50, .topk d false)], (rollW w).func = p.1 → lost p.2) ∧
      (∀ w, s.offers d w → opcode w = 0x20 → (tuneW w).op = 7 → (tuneW w).rsv = false → x.still →
        (tuneW w).faults s d r = [] → (x.tuner.recAt (tuneW w).qid).valid = true → lost (.qsave d false)) ∧
      (∀ q rest, x.unitsRest → x.skin.laneQ = q :: rest → q.step.bell = false → lost (.dequantiseRow d false))
  )

/-- FILL (R159), on a drum whose units are still. Into the pad: every aligned 4-byte word of the range takes VALUE, every other
byte of the pad and the whole shell stay. Into the shell: every column of the rows takes VALUE and their status only the INF or
NAN of VALUE; every other row and the pad's bytes stay. Nothing else of the part changes but the sequencer's position and what
the pad's banks note.

COPY (R228), on a drum whose units are still: every byte outside the destination rows stays, and of the pad nothing else
changes but what its banks note; a copy of one access set (up
to 64 words) whose rows do not overlap leaves in every destination word what its source word held before, whether or not the
two overlap. -/
def Obligations.FillAndCopyWriteTheirRanges : Prop :=
  (
    ∀ (s : State) (d : Nat) (w : Quad), s.Kept → s.offers d w → (s.drum d).still → opcode w = 0x40 → (fillW w).bad = false →
      (s.drum d).regionOk (fillW w).ranges = true →
      ∃ t, exec (.fill d) s = .next t ∧ OnlyDrum d s t ∧ Moved (s.drum d) (t.drum d) 1 w ∧
        t.drum d = { s.drum d with seq := (t.drum d).seq, pad := (t.drum d).pad, shell := (t.drum d).shell } ∧
        ((fillW w).shell = false →
          let a := (s.drum d).abs (16 * (fillW w).dst)
          (t.drum d).shell = (s.drum d).shell ∧ SamePad { (s.drum d).pad with mem := (t.drum d).pad.mem } (t.drum d).pad ∧
          (∀ i, i < 16 * (fillW w).len →
            getByte (t.drum d).pad.mem (a + i) = ((leBytes 4 (fillW w).value.toNat)[i % 4]?).getD 0) ∧
          (∀ b, b < a ∨ a + 16 * (fillW w).len ≤ b → getByte (t.drum d).pad.mem b = getByte (s.drum d).pad.mem b)) ∧
        ((fillW w).shell = true →
          let q := fillW w
          SamePad (s.drum d).pad (t.drum d).pad ∧
          (∀ r c, c < 1024 → shellAt (t.drum d).shell r c =
            if q.dst ≤ r ∧ r < q.dst + q.len then q.value else shellAt (s.drum d).shell r c) ∧
          (∀ r, (t.drum d).shell.tstatus r =
            if q.dst ≤ r ∧ r < q.dst + q.len then valueFlag q.value else (s.drum d).shell.tstatus r))
  ) ∧ (
    ∀ (s : State) (d : Nat) (w : Quad), s.Kept → s.offers d w → (s.drum d).still → (s.drum d).pad.failed = [] →
      opcode w = 0x41 → (copyW w).rsv = 0 →
      (s.drum d).regionOk ((copyW w).readRanges ++ (copyW w).writeRanges) = true →
      let q := copyW w
      let x := s.drum d
      ∃ t, exec (.copy d) s = .next t ∧ OnlyDrum d s t ∧ Moved x (t.drum d) 1 w ∧
        t.drum d = { x with seq := (t.drum d).seq, pad := (t.drum d).pad } ∧
        SamePad { x.pad with mem := (t.drum d).pad.mem } (t.drum d).pad ∧
        (∀ a, inRanges (x.abs 0) ((List.range q.rows).map fun r => ⟨16 * (q.dst + r * q.dstr), 16 * q.len⟩) a = false →
          getByte (t.drum d).pad.mem a = getByte x.pad.mem a) ∧
        (q.len * q.rows ≤ 64 → q.rows = 1 ∨ q.len ≤ q.dstr → ∀ i b, i < q.len * q.rows → b < 16 →
          getByte (t.drum d).pad.mem (x.abs (16 * (q.word i).2) + b) = getByte x.pad.mem (x.abs (16 * (q.word i).1) + b))
  )

/-- SEND (R229, R230), on a drum whose units are still: with no fault at decode, one packet with the bytes read now leaves for
each receiver of this part, in ascending order, and each is awaited; a SEND to another part leaves for the base die as one link
packet and is awaited under its serial number; where DST, TALLY and the serial stand in that packet is the model's choice
(log 17). The pad's bytes stay. -/
def Obligations.SendLeavesOnePacketPerReceiver : Prop :=
  ∀ (s : State) (d : Nat) (w : Quad) (r : RunId) (m : Slot), s.offers d w → (s.drum d).still → opcode w = 0x50 →
    (sendW w).rsv = 0 → ((sendW w).mc && (sendW w).remote) = false →
    (s.drum d).seq.run = some r → (s.drum d).slot = some m → (sendW w).faults (s.fetched d) d r m = [] →
    let q := sendW w
    let x := s.drum d
    let bytes := x.padBytes (16 * q.src) (16 * q.len)
    let pk (dst : Nat) (b : Body) : Packet :=
      { src := d, dst := dst, job := some r.job, group := jobGroup s r.job, from_ := s.pcie.coord, fromDrum := x.logical.toNat,
        body := b }
    ∃ t, exec (.send d) s = .next t ∧ OnlyDrumNoc d s t ∧ Moved x (t.drum d) 1 w ∧ SamePad x.pad (t.drum d).pad ∧
      (t.drum d).shell = x.shell ∧
      (q.remote = false →
        t.noc = s.noc ++ (q.receivers x).filterMap (fun l => (s.holder l).map fun p =>
          pk p (.send ⟨d, x.seq.sendSerial, l⟩ (16 * q.dst) q.tally bytes)) ∧
        ∀ l ∈ q.receivers x, (s.holder l).isSome = true → ⟨d, x.seq.sendSerial, l⟩ ∈ (t.drum d).seq.outstanding) ∧
      (q.remote = true →
        t.noc = s.noc ++ [pk 136 (.link ⟨1, jobGroup s r.job, q.coord, s.pcie.coord, q.ldrum, x.logical.toNat,
          leBytes 4 (16 * q.dst) ++ leBytes 1 q.tally ++ leBytes 4 x.seq.sendSerial, bytes⟩)] ∧
        ⟨d, x.seq.sendSerial, 128 + q.ldrum⟩ ∈ (t.drum d).seq.outstanding)

/-- WAIT, FENCE and END hold issue (R160): the sequencer takes the word and waits for a counter value, for what the FENCE
names, or, at an END with no block open, for everything.

The end of a WAIT (R160, R232). The counter has reached VALUE: issue resumes, and with DEC = 1 VALUE is subtracted; every
other counter stays. The counter is below VALUE: the WAIT goes on. TMO us after the issue with the counter below VALUE: the
wait timeout fault 0x04 of the running job.

FENCE_COMPLETE (R160, R256): what a FENCE waits for is finished and issue resumes; an END whose run leaves no block open
ends it: a task without tiles ends its share on this drum, one with tiles claims the next. -/
def Obligations.WaitsAndFencesHoldAndEnd : Prop :=
  (
    ∀ (s : State) (d : Nat) (w : Quad), s.offers d w →
      let held (i : Instr) (p : Seq → Prop) : Prop :=
        ∃ t, exec i s = .next t ∧ OnlyDrum d s t ∧ Moved (s.drum d) (t.drum d) 1 w ∧ p (t.drum d).seq ∧
          SamePad (s.drum d).pad (t.drum d).pad ∧ t.drum d = { s.drum d with seq := (t.drum d).seq, pad := (t.drum d).pad } ∧
          (t.drum d).mayIssue = false
      (∀ m, opcode w = 0x60 → (waitW w).rsv = 0 → (s.drum d).slot = some m → (waitW w).tally < m.tcnt →
        held (.wait d) fun k => k.waiting =
          some ⟨m.tbase + (waitW w).tally, (waitW w).value, (waitW w).dec, (waitW w).tmo, s.beat⟩) ∧
      (opcode w = 0x61 → wf w 117 0 = 0 → wf w 119 118 ≠ 0 →
        held (.fence d) fun k => k.fencing = some ⟨wb w 119, wb w 118, false⟩) ∧
      (opcode w = 0x7F → wf w 119 0 = 0 →
        (s.drum d).skin.busy = true ∨ (s.drum d).shell.anyBlock Stack.isOpen = false →
        held (.endRun d) fun k => k.fencing = some ⟨true, true, true⟩)
  ) ∧ (
    ∀ (s : State) (d : Nat) (q : Waiting), d < 136 → s.Kept → (s.drum d).seq.waiting = some q →
      let x := s.drum d
      (q.value ≤ x.pad.tally q.tally →
        ∃ t, exec (.waitComplete d) s = .next t ∧ OnlyDrum d s t ∧ (t.drum d).seq = { x.seq with waiting := none } ∧
          (t.drum d).pad.tally q.tally = (if q.dec then x.pad.tally q.tally - q.value else x.pad.tally q.tally) ∧
          (∀ i, i ≠ q.tally → (t.drum d).pad.tally i = x.pad.tally i) ∧
          t.drum d = { x with seq := (t.drum d).seq, pad := { x.pad with tallies := (t.drum d).pad.tallies } }) ∧
      (x.pad.tally q.tally < q.value → exec (.waitComplete d) s = .next s) ∧
      (∀ r, x.pad.tally q.tally < q.value → q.tmo ≠ 0 → q.since.toNat + 320 * q.tmo ≤ s.beat.toNat →
        x.seq.run = some r → (s.fault d).valid = false →
        ∃ t, exec (.waitTimeout d) s = .next t ∧ t.latched d 0x04 (some r.job) s.beat ∧ (t.drum d).seq.stopped = true ∧
          (t.drum d).seq.waiting = none ∧ (t.drum d).pad = x.pad)
  ) ∧ (
    ∀ (s : State) (d : Nat) (f : Fencing) (r : RunId), d < 136 → s.Kept → (s.drum d).seq.fencing = some f →
      (s.drum d).seq.run = some r → (s.drum d).fenceDone f = true → (s.drum d).seq.stopped = false →
      (s.drum d).preempting = none →
      (f.isEnd = false → ∃ t, exec (.fenceComplete d) s = .next t ∧ OnlyDrum d s t ∧
        t.drum d = { s.drum d with seq := { (s.drum d).seq with fencing := none } }) ∧
      (∀ tk set b e tiles tile0, f.isEnd = true → (s.drum d).shell.anyBlock Stack.isOpen = false →
        s.task? r.job r.task = some tk → tk.trec.body = .drum set b e tiles tile0 → tk.trec.ledger = 0 →
        ∃ t, exec (.fenceComplete d) s = .next t ∧ (t.drum d).seq.run = none ∧ (t.drum d).pad = (s.drum d).pad ∧
          (t.drum d).shell = (s.drum d).shell ∧
          (tiles = 0 → (t.drum d).claim = none ∧
            ∃ tk', t.task? r.job r.task = some tk' ∧ (s.drum d).logical.toNat ∈ tk'.finished) ∧
          (tiles ≠ 0 → tk.code.good = true → (t.drum d).claim = some ⟨r.job, r.task, r.n + 1, 0⟩))
  )

/-! ## The skin, the de-quantiser and the shell -/

/-- STRIKE (R47, R150, R155, R162): with room in the queue and no fault at decode the word, and its extension word, are
taken. Behind a weight load in progress the strike queues. On a drum whose units are still a step that loads weights starts
the load, which empties the latches and, unless the loads bring scales of their own that the check of R87 awaits, fixes the rows
of a bell block (R113, R125); and a step that loads nothing starts feeding its rows, four at most into the lane
queues.

The queue of a unit (R150), shown at the tuner while a shared TUNE is under way: a TUNE issued with fewer than two waiting
enters the queue, and issue goes on; with two waiting it is not issued. -/
def Obligations.StrikeQueuesLoadsOrFeeds : Prop :=
  (
    ∀ (s : State) (d : Nat) (w : Quad), s.offers d w → opcode w = 0x10 → (s.drum d).skin.queued < 2 →
      (s.drum d).pad.failed = [] →
      ((strikeW w).ext = true → (s.drum d).fetchOk ((s.drum d).seq.pc + 1) = true) →
      let x := if (strikeW w).ext then ((s.drum d).fetched s.beat).fillLine s.beat ((s.drum d).seq.pc + 1)
        else (s.drum d).fetched s.beat
      let j := x.strikeJob w
      let n := if (strikeW w).ext then 2 else 1
      badWalk (strikeW w) j.ext = false →
      ((s.drum d).skin.load.isSome = true → (s.drum d).skin.cur = none → (s.drum d).queues = ⟨[], [], [], []⟩ →
        (s.drum d).roll.cur = none → (s.drum d).tuner.cur = none →
        ∃ t, exec (.strike d) s = .next t ∧ OnlyDrum d s t ∧ Moved (s.drum d) (t.drum d) n w ∧
          (t.drum d).skin = { (s.drum d).skin with jobs := (s.drum d).skin.jobs ++ [j] } ∧
          (t.drum d).shell = (s.drum d).shell ∧ SamePad (s.drum d).pad (t.drum d).pad) ∧
      ((s.drum d).still → (s.drum d).regionOk (j.ranges (s.drum d)) = true → j.step.faults (s.drum d) = [] →
        (j.step.loadw = true → (j.step.bell = true → j.step.ownScales = false → ((s.drum d).stack j.step.rd).early = []) →
          ∃ t, exec (.strike d) s = .next t ∧ OnlyDrum d s t ∧ Moved (s.drum d) (t.drum d) n w ∧
            (t.drum d).skin.load = some j.step ∧ (t.drum d).skin.tile = none ∧
            (j.step.bell = false ∨ j.step.ownScales = true → (t.drum d).shell = (s.drum d).shell) ∧
            (j.step.bell = true → j.step.ownScales = false → (t.drum d).shell = { (s.drum d).shell with blocks := (t.drum d).shell.blocks } ∧
              ((t.drum d).stack j.step.rd).started = true) ∧
            SamePad (s.drum d).pad (t.drum d).pad) ∧
        (j.step.loads = false → j.ext.steps = 1 → j.step.empty = false →
          (j.step.bell = true → ((s.drum d).stack j.step.rd).early = []) →
          ∃ t, exec (.strike d) s = .next t ∧ OnlyDrum d s t ∧ Moved (s.drum d) (t.drum d) n w ∧
            (t.drum d).skin.laneQ.length = min 4 j.step.m ∧ (t.drum d).skin.jobs = [] ∧
            (∀ r ∈ (t.drum d).skin.laneQ, r.step = j.step) ∧ (t.drum d).skin.tile = (s.drum d).skin.tile ∧
            (t.drum d).shell.rows = (s.drum d).shell.rows ∧ SamePad (s.drum d).pad (t.drum d).pad))
  ) ∧ (
    ∀ (s : State) (d : Nat) (w : Quad) (l : List UnitJob) (par : Bool), s.offers d w → opcode w = 0x20 → (tuneW w).op = 2 →
      (tuneW w).rsv = false →
      let x := s.drum d
      x.skin.jobs = [] → x.skin.load = none → x.skin.cur = none → x.roll.cur = none → x.queues = ⟨l, [], [], []⟩ →
      x.tuner.cur = none →
      x.tuner.share.isSome = true →
      (l.length < 2 → ∃ t, exec (.convert d par) s = .next t ∧ OnlyDrum d s t ∧ Moved x (t.drum d) 1 w ∧
        t.drum d = { x with seq := (t.drum d).seq, queues := (t.drum d).queues, pad := (t.drum d).pad } ∧
        (t.drum d).pad.mem = x.pad.mem ∧
        ∃ j, (t.drum d).queues = ⟨l ++ [j], [], [], []⟩ ∧ j.w = w ∧ j.ord = x.seq.ord) ∧
      (2 ≤ l.length → exec (.convert d par) s = .next s)
  )

/-- WEIGHT_LOAD_END (R51-R55, R85, R87, R88), with nothing else for the drum's units to do. A load that meets no fault leaves
its tile in the latches and its scales in the tuner, and the step goes on; for an image (SRC 0) the tile is the image's map and
cells. A map that says zero where a weight bit is set, or a header that does not match, empties the latches, makes the scales
invalid and raises the weight load fault 0x11 of the running job (R53). While a preemption waits the load does not end (R266). -/
def Obligations.WeightLoadEndLatchesOrFaults : Prop :=
  ∀ (s : State) (d : Nat) (t : Step), d < 136 → s.Kept → (s.drum d).skin.load = some t → t.loadw = true →
    (s.drum d).skin.jobs = [] → (s.drum d).skin.cur = none → (s.drum d).queues = ⟨[], [], [], []⟩ → (s.drum d).roll.cur = none →
    (s.drum d).tuner.cur = none → (s.drum d).pad.failed = [] →
    let x := s.drum d
    let y := x.loadTile t
    let z := y.1.loadScales t
    (x.preempting = none → y.2 ++ z.2 = [] → (t.ownScales && t.skew z.1) = false →
      (t.ownScales = true → t.bell = true → (x.stack t.rd).early = []) →
      ∃ u, exec (.weightLoadEnd d) s = .next u ∧ OnlyDrum d s u ∧ (u.drum d).skin.load = none ∧
        (u.drum d).skin.tile = z.1.skin.tile ∧ (u.drum d).skin.cells = z.1.skin.cells ∧ (u.drum d).tuner = z.1.tuner ∧
        SamePad x.pad (u.drum d).pad ∧
        (t.src = 0 →
          (u.drum d).skin.tile = some ⟨t.wfmt, t.group, t.wTag, BitVec.ofNat 256 (x.padNat t.wOff 32), t.zp, t⟩ ∧
          (u.drum d).skin.cells = imageCells x.pad.mem (x.abs (t.wOff + 64)) (planesOf t.wfmt))) ∧
    (∀ r, x.preempting = none → t.src = 0 → t.wscl = none → t.ascl = none → y.2 = [0x11] → x.seq.run = some r →
      (s.fault d).valid = false →
      ∃ u, exec (.weightLoadEnd d) s = .next u ∧ u.latched d 0x11 (some r.job) s.beat ∧ (u.drum d).seq.stopped = true ∧
        (u.drum d).skin.tile = none ∧ (u.drum d).skin.load = none ∧ (u.drum d).tuner.fvalid = false) ∧
    (x.preempting.isSome = true → exec (.weightLoadEnd d) s = .next s)

/-- The sum of products of a segment, on operands that the strike's checks admit (up to eight activation planes, GROUP up to
128), is never cut by the 24 bits of its accumulator: what a lane queue holds is the sum of R45 (R61). -/
def Obligations.SegmentSumFitsAccumulator : Prop :=
  ∀ (x : Drum) (t : Step) (planes : List Nat) (n i : Nat), t.badOperands = false → planes.length = t.a → 1 ≤ t.a → t.a ≤ 8 →
    (BitVec.ofInt 24 (segSum x t planes n i)).toInt = segSum x t planes n i

/-- DEQUANTISE_ROW (R64, R65, R118). The row that stands first in the lane queues enters its shell row: in chain mode each
column of an unmasked lane takes the row's value for segment 0 (ACC 0) or keeps its sum, and adds the later segments in
ascending order. In bell mode each column below N of an unmasked lane takes the sum of the row's values, and of a masked lane
zero, and the last row of a strike completes a leaf in slot 0; a row of a block whose last leaf still stands there is held
(R126). Every other column, every other row, the tuner and the pad stay. Stated with nothing else for the drum's units to do. -/
def Obligations.DequantiseRowEntersTheShell : Prop :=
  ∀ (s : State) (d : Nat) (r : SkinRow) (rest : List SkinRow), d < 136 → s.Kept → (s.drum d).skin.laneQ = r :: rest →
    (s.drum d).unitsRest → r.step.n ≤ 1024 →
    let x := s.drum d
    let st := r.step
    let de := x.desc st.rd
    (st.bell = false →
      ∃ t, exec (.dequantiseRow d true) s = .next t ∧ OnlyDrum d s t ∧ (t.drum d).skin.rows = x.skin.rows + 1 ∧
        (t.drum d).skin.laneQ = rest ∧
        (∀ n, n < 1024 → shellAt (t.drum d).shell (st.row0 + r.m) n =
          if n < st.n ∧ r.mask.getLsbD (laneOf st.wfmt n) = true then
            (if st.acc = 0 then
              addSegs de.sr x.shell.seed x.logical.toNat (st.kt de) r.m n (r.value x n) 1 st.segs (r.value x n 0)
            else addSegs de.sr x.shell.seed x.logical.toNat (st.kt de) r.m n (r.value x n) 0 st.segs
              (shellAt x.shell (st.row0 + r.m) n))
          else shellAt x.shell (st.row0 + r.m) n) ∧
        (∀ i n, i ≠ st.row0 + r.m → n < 1024 → shellAt (t.drum d).shell i n = shellAt x.shell i n) ∧
        (∀ i, i ≠ st.row0 + r.m → (t.drum d).shell.tstatus i = x.shell.tstatus i) ∧
        (t.drum d).pad = x.pad ∧ (t.drum d).tuner = x.tuner) ∧
    (st.bell = true → x.shell.leaves.any (fun l => l.rd == st.rd) = true → exec (.dequantiseRow d true) s = .next s) ∧
    (st.bell = true → x.shell.leaves.any (fun l => l.rd == st.rd) = false →
      ∃ t, exec (.dequantiseRow d true) s = .next t ∧ OnlyDrum d s t ∧ (t.drum d).skin.rows = x.skin.rows + 1 ∧
        (t.drum d).skin.laneQ = rest ∧
        (∀ n, n < 1024 → shellAt (t.drum d).shell (st.row0 + r.m) n =
          if n < st.n then
            (if r.mask.getLsbD (laneOf st.wfmt n) = true then
              addSegs de.sr x.shell.seed x.logical.toNat (st.kt de) r.m n (r.value x n) 1 st.segs (r.value x n 0)
            else 0#32)
          else shellAt x.shell (st.row0 + r.m) n) ∧
        (∀ i n, i ≠ st.row0 + r.m → n < 1024 → shellAt (t.drum d).shell i n = shellAt x.shell i n) ∧
        (∀ i, i ≠ st.row0 + r.m → (t.drum d).shell.tstatus i = x.shell.tstatus i) ∧
        (t.drum d).shell.leaves =
          x.shell.leaves ++ (if r.m + 1 = st.m then [⟨st.rd, st.kt de, st.lastLeaf de, st.ord⟩] else []) ∧
        (t.drum d).pad = x.pad ∧ (t.drum d).tuner = x.tuner)

/-! ## The bell tree -/

/-- LEAF_DONE (R124, R126). An even leaf that is not its block's last moves from slot 0 to slot 1 and is pending there; the
last leaf of a block of one leaf that receives nothing and sends nothing ends the block with DONE set on its rows. Stated
with nothing else for the drum's units to do. -/
def Obligations.LeafDoneMovesOrEndsTheBlock : Prop :=
  ∀ (s : State) (d : Nat) (l : Leaf) (rest : List Leaf), d < 136 → s.Kept → (s.drum d).shell.leaves = l :: rest →
    (s.drum d).unitsRest →
    let x := s.drum d
    let de := x.desc l.rd
    let b := x.stack l.rd
    b.n ≤ 1024 →
    (l.last = false → 0 < de.blk → (l.kt - de.kbase) % 2 = 0 →
      ∃ t, exec (.leafDone d true) s = .next t ∧ OnlyDrum d s t ∧ (t.drum d).shell.leaves = rest ∧
        ((t.drum d).stack l.rd).pend = b.pend ||| 1 ∧
        (∀ i n, i < b.m → n < b.n → shellAt (t.drum d).shell (b.row0 + b.m + i) n = shellAt x.shell (b.row0 + i) n) ∧
        (∀ r n, n < 1024 → r < b.row0 + b.m ∨ b.row0 + 2 * b.m ≤ r →
          shellAt (t.drum d).shell r n = shellAt x.shell r n) ∧
        (t.drum d).pad = x.pad) ∧
    (l.last = true → de.blk = 0 → de.rxmask = 0 → de.tx = false → de.qen = false → de.ktot ≤ 2 ^ 24 → b.misaligned = false →
      ∃ t, exec (.leafDone d true) s = .next t ∧ OnlyDrum d s t ∧ (t.drum d).shell.leaves = rest ∧
        ((t.drum d).stack l.rd).done = true ∧
        (∀ i, i < b.m → tsDone ((t.drum d).shell.tstatus (b.row0 + i)) = true) ∧
        (t.drum d).shell.rows = x.shell.rows ∧ (t.drum d).pad = x.pad)

/-- NODE_ARRIVAL (R23, R128): the earliest packet on its way from src to drum d, a node, leaves the NoC. A node whose job has ended is
discarded and counted; one that finds no descriptor waits at the station; one that its block's empty receive slot takes
stands there with its values, and every row outside that slot keeps its own. Stated with nothing for the drum's units to do.

BELL_STATS_ARRIVAL (R140): the earliest packet on its way from src to drum d, statistics, leaves the NoC. They fold once
into the record of the job whose nodes this drum sent, where it is valid, and those nodes await no more; statistics for a node
this drum did not send change nothing. That nodes are told apart by serial numbers is the model's choice (log 65). Stated of a drum that took in no node, so that nothing travels on, and of statistics that another drum sends. -/
def Obligations.NodesAndStatisticsArrive : Prop :=
  (
    ∀ (s : State) (d src : Nat) (k : Packet) (rest : List Packet) (prid level m n row0 : Nat) (fl : Word) (vals : Cells Word),
      d < 136 → s.Kept →
      s.stationFull d = false → takePacket (fun p => p.src == src && p.dst == d) s.noc = some (k, rest) →
      k.body = .node prid level m n row0 fl vals → (s.drum d).unitsRest →
      let x := s.drum d
      ((k.job.bind s.job?).isSome = false →
        ∃ t, exec (.nodeArrival d src .arrives) s = .next t ∧ t.noc = rest ∧ OnlyDrumNoc d s t ∧
          t.drum d = { x with pad := { x.pad with discards := x.pad.discards + 1 } }) ∧
      ((k.job.bind s.job?).isSome = true → x.saved = none →
        (x.seq.run.map (·.job) ≠ k.job ∨ findRid x.shell.descs prid = none) →
        ∃ t, exec (.nodeArrival d src .arrives) s = .next t ∧ t.noc = rest ∧ OnlyDrumNoc d s t ∧
          t.drum d = { x with pad := { x.pad with held := x.pad.held ++ [k] } }) ∧
      (∀ rd, (k.job.bind s.job?).isSome = true → x.seq.run.map (·.job) = k.job → findRid x.shell.descs prid = some rd →
        (x.stack rd).takes (x.desc rd) level m n row0 = true → (x.stack rd).started = true → (x.stack rd).climb = none →
        (x.stack rd).n ≤ 1024 →
        let b := x.stack rd
        let j := (x.desc rd).recvSlot level
        ∃ t, exec (.nodeArrival d src .arrives) s = .next t ∧ t.noc = rest ∧ OnlyDrumNoc d s t ∧
          (t.drum d).shell.rxnodes = x.shell.rxnodes + 1 ∧ ((t.drum d).stack rd).rcv = b.rcv ||| BitVec.ofNat 32 (2 ^ level) ∧
          (∀ i c, i < b.m → c < b.n → shellAt (t.drum d).shell (b.rowAt j i) c = getCell 0#32 vals (i * 1024 + c)) ∧
          (∀ r c, c < 1024 → r < b.rowAt j 0 ∨ b.rowAt j 0 + b.m ≤ r →
            shellAt (t.drum d).shell r c = shellAt x.shell r c) ∧
          (t.drum d).pad = x.pad)
  ) ∧ (
    ∀ (s : State) (d src : Nat) (k : Packet) (rest : List Packet) (qid m n group rid : Nat) (his los : List Word),
      d < 136 → s.Kept →
      s.stationFull d = false → takePacket (fun p => p.src == src && p.dst == d) s.noc = some (k, rest) →
      k.body = .stats qid m n group rid his los →
      let x := s.drum d
      let f := x.shell.sent.filter (·.answers k rid)
      (f = [] → exec (.bellStatsArrival d src .arrives) s = .next { s with noc := rest }) ∧
      (∀ j u, src ≠ d → f ≠ [] → (∀ v ∈ f, v.senders = []) → k.job = some j →
        x.tuner.foldTree j qid m n group (his.zip los) = some u →
        ∃ t, exec (.bellStatsArrival d src .arrives) s = .next t ∧ t.noc = rest ∧ OnlyDrumNoc d s t ∧
          t.drum d = { x with tuner := u
                              shell := { x.shell with
                                sent := x.shell.sent.filter fun v => !(v.sameWay k rid && decide (v.serial ≤ k.span.2)) } })
  )

/-! ## Packets and the pad -/

/-- SEND_ARRIVAL (R229, R230, R232, R237, R239): the earliest packet on its way from src to drum d, a SEND, leaves the NoC. A
slot of its job that is BOUND and holds the bytes, with its banks awake, takes them: those bytes and no others are written, the
tally counter rises by one and the sender is acknowledged; with a bank not awake it is held and counted, and nothing is
written. A slot in DAMP or PURGE discards and counts it and acknowledges; without a slot, or where the slot does not hold the
bytes or the counter, it is refused. Stated of a sender on this part and a station whose ejection buffer has room (R237).

SEND_ACK_ARRIVAL (R229, R230, R233): an acknowledgement leaves the NoC and the SEND it answers is awaited no longer; a
refusal raises the send target fault 0x63 of the running job.

A packet lost on its way (R26, R357): the earliest packet from src to d, a SEND, leaves the NoC and its bytes are not
written. A flit that fails its parity
at the drum's station is the NoC flit fault 0x71 of the drum, one that fails its CRC at a bridge that the packet crosses the
bond flit fault 0x01 of the bridge, for the packet's job, which is aborted. -/
def Obligations.SendsArriveAndAreAnswered : Prop :=
  (
    ∀ (s : State) (d src : Nat) (k : Packet) (rest : List Packet) (id : SendId) (dst tally : Nat) (data : List Byte),
      d < 136 → s.Kept →
      s.stationFull d = false → takePacket (fun p => p.src == src && p.dst == d) s.noc = some (k, rest) →
      k.body = .send id dst tally data → k.from_ = s.pcie.coord →
      let x := s.drum d
      let ack (ok : Bool) : Packet :=
        { src := d, dst := id.drum, job := k.job, group := k.group, from_ := s.pcie.coord, fromDrum := x.logical.toNat, body := .ack id ok }
      (∀ m, x.pad.jobSlot k.job (· == .bound) = some m → m.accepts dst tally data.length = true →
        x.pad.asleep (m.start + dst) data.length = false → x.pad.tally (m.tbase + tally) ≠ 0xFFFFFFFF →
        ∃ t, exec (.sendArrival d src .arrives) s = .next t ∧ OnlyDrumNoc d s t ∧ t.noc = rest ++ [ack true] ∧
          (∀ i, i < data.length → getByte (t.drum d).pad.mem (m.start + dst + i) = (data[i]?).getD 0) ∧
          (∀ a, a < m.start + dst ∨ m.start + dst + data.length ≤ a →
            getByte (t.drum d).pad.mem a = getByte x.pad.mem a) ∧
          (∀ i, (t.drum d).pad.tally i =
            if i = m.tbase + tally then x.pad.tally i + 1 else x.pad.tally i) ∧
          t.drum d = { x with pad := (t.drum d).pad } ∧
          SamePad { x.pad with mem := (t.drum d).pad.mem, tallies := (t.drum d).pad.tallies, failed := (t.drum d).pad.failed }
            (t.drum d).pad) ∧
      (∀ m, x.pad.jobSlot k.job (· == .bound) = some m → m.accepts dst tally data.length = true →
        x.pad.asleep (m.start + dst) data.length = true →
        ∃ t, exec (.sendArrival d src .arrives) s = .next t ∧ OnlyDrumNoc d s t ∧ t.noc = rest ∧
          (t.drum d).pad.eject = x.pad.eject ++ [k] ∧ (t.drum d).pad.latewr = x.pad.latewr + 1 ∧
          (t.drum d).pad.mem = x.pad.mem ∧ (t.drum d).pad.tallies = x.pad.tallies) ∧
      (∀ m, x.pad.jobSlot k.job (· == .bound) = some m → m.accepts dst tally data.length = false →
        exec (.sendArrival d src .arrives) s = .next { s with noc := rest ++ [ack false] }) ∧
      (x.pad.jobSlot k.job (· == .bound) = none →
        (x.pad.jobSlot k.job (fun st => st == .damp || st == .purge)).isSome = true →
        ∃ t, exec (.sendArrival d src .arrives) s = .next t ∧ OnlyDrumNoc d s t ∧ t.noc = rest ++ [ack true] ∧
          t.drum d = { x with pad := { x.pad with discards := x.pad.discards + 1 } }) ∧
      (x.pad.jobSlot k.job (· == .bound) = none →
        x.pad.jobSlot k.job (fun st => st == .damp || st == .purge) = none →
        exec (.sendArrival d src .arrives) s = .next { s with noc := rest ++ [ack false] })
  ) ∧ (
    ∀ (s : State) (d src : Nat) (k : Packet) (rest : List Packet) (id : SendId) (ok : Bool), d < 136 → s.Kept →
      s.stationFull d = false → takePacket (fun p => p.src == src && p.dst == d) s.noc = some (k, rest) →
      k.body = .ack id ok → (s.drum d).seq.outstanding.any (SendId.answers id) = true →
      let x := s.drum d
      let left := x.seq.outstanding.filter fun i => !SendId.answers id i
      (ok = true → ∃ t, exec (.sendAckArrival d src .arrives) s = .next t ∧ t.noc = rest ∧ OnlyDrumNoc d s t ∧
        t.drum d = { x with seq := { x.seq with outstanding := left } }) ∧
      (∀ r, ok = false → x.seq.run = some r → (s.fault d).valid = false →
        ∃ t, exec (.sendAckArrival d src .arrives) s = .next t ∧ t.noc = rest ∧ (t.drum d).seq.outstanding = left ∧
          t.latched d 0x63 (some r.job) s.beat)
  ) ∧ (
    ∀ (s : State) (d src : Nat) (k : Packet) (rest : List Packet) (j : Half), d < 136 → s.Kept →
      s.stationFull d = false → takePacket (fun p => p.src == src && p.dst == d) s.noc = some (k, rest) → k.isSend = true → k.job = some j →
      let lost (net : NocVerdict) (unit sub : Nat) : Prop := (s.fault unit).valid = false →
        ∃ t, exec (.sendArrival d src net) s = .next t ∧ t.noc = rest ∧ t.latched unit sub (some j) s.beat ∧ t.job? j = none ∧
          ∀ e, (t.drum e).pad.mem = (s.drum e).pad.mem
      lost .badFlit d 0x71 ∧ ∀ b, b ∈ bridgesOf src d → lost (.badBond b) (0x170 + b) 0x01
  )

/-- At a drum's pad. SHELL_CLEAR_DONE: the clearing ends and every slot whose job has ended leaves BOUND (R116, R239);
stated while no change of the drum map waits. PAD_REREAD: the re-read counts, and a word that passes counts no longer as
failed; a second failure raises the pad parity fault 0x62, of the running job for the drum's instruction and of no job for a
reader outside (R235). BANK_GATE gates an awake bank that was not touched for IDLE us, where gating is on and the save area
off; BANK_WAKE_END wakes a bank 2 us after its wake began (R236, R237). No byte of the pad changes in any of them.

Slots (R226, R227, R238, R239, R253, R261). DAMPER_FINISH of the slot that is next in ascending order zeroes what a slot in
DAMP does not keep and holds the slot, frees a slot in PURGE after zeroing all of it, and zeroes a dirty save area after the
slots; of another slot it does nothing. MET_RELEASE passes every HELD slot with the key, or every HELD slot for key 0, to
PURGE. LIVE_RESERVE_APPLY sets the reserve bit and the save area once the drum holds no job and no slot reaches into the save
area; a HELD slot that does passes to PURGE first, which is the model's reading (log 27); that the save area is zeroed last,
and that DAMPER_FINISH of another slot does nothing, are its choice (log 52). Stated with no score waiting at a ring's head. -/
def Obligations.PadEventsAndSlots : Prop :=
  (
    ∀ (s : State) (d : Nat), d < 136 → s.Kept →
      let x := s.drum d
      (s.leaving = [] → ∃ t, exec (.shellClearDone d) s = .next t ∧ OnlyDrum d s t ∧ (t.drum d).shell.clearing = false ∧
        (∀ m ∈ (t.drum d).pad.slots, m.ending = false) ∧
        (t.drum d).pad.slots.length = x.pad.slots.length ∧ (t.drum d).pad.mem = x.pad.mem ∧
        (t.drum d).shell.rows = x.shell.rows) ∧
      (∀ word outside, ∃ t, exec (.padReread d word ⟨true, outside⟩) s = .next t ∧ OnlyDrum d s t ∧
        t.drum d = { x with pad := { x.pad with rereads := x.pad.rereads + 1,
                                                failed := x.pad.failed.filter fun v => decide (v ≠ word) } }) ∧
      (∀ word r, word < 262144 → x.seq.run = some r → x.skinReader (16 * word) = none → x.rowReader (16 * word) = none →
        (s.fault d).valid = false →
        ∃ t, exec (.padReread d word ⟨false, false⟩) s = .next t ∧ t.latched d 0x62 (some r.job) s.beat ∧
          (t.drum d).seq.stopped = true ∧ word ∈ (t.drum d).pad.failed ∧
          (t.drum d).pad.rereads = x.pad.rereads + 1 ∧ (t.drum d).pad.mem = x.pad.mem) ∧
      (∀ word, word < 262144 → (s.fault d).valid = false →
        ∃ t, exec (.padReread d word ⟨false, true⟩) s = .next t ∧ t.latched d 0x62 none s.beat ∧
          word ∈ (t.drum d).pad.failed ∧ (t.drum d).pad.mem = x.pad.mem) ∧
      (∀ bank, x.pad.idle ≠ 0 → x.pad.saveEn = false → bank < 64 → getCell Bank.awake x.pad.banks bank = .awake →
        (getCell 0#64 x.pad.touched bank).toNat + 320 * x.pad.idle.toNat ≤ s.beat.toNat →
        ∃ t, exec (.bankGate d bank) s = .next t ∧ OnlyDrum d s t ∧ getCell Bank.awake (t.drum d).pad.banks bank = .gated ∧
          t.drum d = { x with pad := { x.pad with banks := (t.drum d).pad.banks, wakes := (t.drum d).pad.wakes } }) ∧
      (∀ bank, getCell Bank.awake x.pad.banks bank = .awake →
        s.beat.toNat < (getCell 0#64 x.pad.touched bank).toNat + 320 * x.pad.idle.toNat →
        ∃ t, exec (.bankGate d bank) s = .next t ∧ OnlyDrum d s t ∧ t.drum d = x) ∧
      (∀ bank, getCell Bank.awake x.pad.banks bank = .waking → x.pad.eject = [] →
        (getCell 0#64 x.pad.wakes bank).toNat + 640 ≤ s.beat.toNat →
        ∃ t, exec (.bankWakeEnd d bank) s = .next t ∧ OnlyDrum d s t ∧
          getCell Bank.awake (t.drum d).pad.banks bank = .awake ∧
          t.drum d = { x with pad := { x.pad with banks := (t.drum d).pad.banks, wakes := (t.drum d).pad.wakes } })
  ) ∧ (
    ∀ (s : State), s.Kept → s.rings.all (fun p => p.2.head.isNone) = true →
      (∀ d k m, d < 136 → k < 8 → (s.drum d).pad.slots[k]? = some m → m.state = .damp ∨ m.state = .purge →
        (s.drum d).pad.dampNext = k →
        let lo := if m.state = .damp then m.resv else m.base
        ∃ t, exec (.damperFinish d k) s = .next t ∧ t = { s with drums := t.drums, met := t.met } ∧
          (∀ e, e ≠ d → t.drum e = s.drum e) ∧
          (∀ a, getByte (t.drum d).pad.mem a =
            if lo * 65536 ≤ a ∧ a < m.bound * 65536 then 0 else getByte (s.drum d).pad.mem a) ∧
          (t.drum d).pad.slots = (s.drum d).pad.slots.set k
            (if m.state = .damp ∧ m.base < m.resv then { m with state := .held, heldAt := s.met.heldSerial + 1 } else Slot.reset) ∧
          (t.drum d).pad.damped = (s.drum d).pad.damped + BitVec.ofNat 64 (64 * (m.bound - lo)) ∧
          (t.drum d).pad.tallies = (s.drum d).pad.tallies) ∧
      (∀ d k, d < 136 → k ≠ (s.drum d).pad.dampNext → exec (.damperFinish d k) s = .next s) ∧
      (∀ d, d < 136 → (s.drum d).pad.saveDirty = true → (s.drum d).pad.dampNext = 8 →
        (s.drum d).pad.slots.any (·.ending) = false →
        ∃ t, exec (.damperFinish d 8) s = .next t ∧ (t.drum d).pad.saveDirty = false ∧
          (∀ a, getByte (t.drum d).pad.mem a =
            if 46 * 65536 ≤ a ∧ a < 64 * 65536 then 0 else getByte (s.drum d).pad.mem a) ∧
          (t.drum d).pad.slots = (s.drum d).pad.slots) ∧
      (∀ key, s.boot.bar0 = true → s.boot.mode ≠ 2 →
        ∃ t, exec (.metRelease key) s = .next t ∧ t = { s with drums := t.drums } ∧
          ∀ (d k : Nat) (m : Slot), (s.drum d).pad.slots[k]? = some m → (t.drum d).pad.mem = (s.drum d).pad.mem ∧
            (t.drum d).pad.slots[k]? =
              some (if m.state = .held ∧ (key = 0 ∨ m.key = key) then { m with state := .purge } else m)) ∧
      (∀ l d on, l < 128 → s.physOf l = some d → (s.drum d).liveHeld = some on →
        ((s.drum d).hasJob = true → on = false ∨ (s.drum d).pad.overSave = [] → exec (.liveReserveApply l) s = .next s) ∧
        (on = true → (s.drum d).pad.overSave ≠ [] →
          ∃ t, exec (.liveReserveApply l) s = .next t ∧ t.met = s.met ∧ (t.drum d).pad.saveEn = (s.drum d).pad.saveEn ∧
            (t.drum d).liveHeld = some on ∧ (t.drum d).pad.mem = (s.drum d).pad.mem ∧
            ∀ (k : Nat) (m : Slot), k < 8 → (s.drum d).pad.slots[k]? = some m →
              (t.drum d).pad.slots[k]? = some (if m.state = .held ∧ 46 < m.bound then { m with state := .purge } else m)) ∧
        ((s.drum d).hasJob = false → on = false ∨ (s.drum d).pad.overSave = [] →
          ∃ t, exec (.liveReserveApply l) s = .next t ∧ (∀ b, t.met.mask.getLsbD b = if b = l then on else s.met.mask.getLsbD b) ∧
            t.drum d = { s.drum d with liveHeld := none, pad := { (s.drum d).pad with saveEn := on } } ∧
            (∀ e, e ≠ d → t.drum e = s.drum e)))
  )

/-- WORK_CLAIM and CLAIM_RETRY (R152, R256, R257). A claim takes the counter's value and the counter counts; an answer below
TILES begins the next run on tile TILE0 + value, stated with no bell node waiting at the station. One whose answer names no
tile left ends this drum's share of the task, as a claim for a task that has faulted does; one that repeats the last claim of
the drum gets the stored answer and the counter stands. A missing answer is claimed again, and the fourth failure raises the
claim path fault 0x01 of source 0x141 for the job. -/
def Obligations.ClaimsRunEndRepeatOrFault : Prop :=
  ∀ (s : State) (d : Nat) (c : Claim) (k : Counter) (tk : Task) (set : BitVec 128) (b e tiles tile0 : Nat), d < 136 → s.Kept →
    (s.drum d).claim = some c → s.counter? c.job c.task = some k → s.task? c.job c.task = some tk →
    tk.trec.body = .drum set b e tiles tile0 → (s.drum d).preempting = none → (s.drum d).shell.clearing = false →
    let x := s.drum d
    let p := getCell (0, 0) k.stored x.logical.toNat
    (tk.code.good = true → p.1 ≠ c.seq + 1 → k.value < tiles → x.pad.held = [] → (s.fault d).valid = false →
      ∃ t, exec (.workClaim d ⟨true, .arrives⟩) s = .next t ∧ (t.drum d).claim = none ∧
        (t.drum d).seq.run = some ⟨c.job, c.task, c.seq⟩ ∧ (t.drum d).seq.tile = tile0 + k.value ∧
        ∃ k', t.counter? c.job c.task = some k' ∧ k'.value = k.value + 1 ∧
          getCell (0, 0) k'.stored x.logical.toNat = (c.seq + 1, k.value)) ∧
    (tk.code.good = true → p.1 ≠ c.seq + 1 → tiles ≤ k.value →
      ∃ t, exec (.workClaim d ⟨true, .arrives⟩) s = .next t ∧ (t.drum d).claim = none ∧ t.met.claims = s.met.claims + 1 ∧
        (∃ k', t.counter? c.job c.task = some k' ∧ k'.value = k.value + 1) ∧
        (∃ tk', t.task? c.job c.task = some tk' ∧ x.logical.toNat ∈ tk'.finished) ∧
        (t.drum d).pad = x.pad ∧ (t.drum d).shell = x.shell) ∧
    (tk.code.good = true → p.1 = c.seq + 1 → tiles ≤ p.2 →
      ∃ t, exec (.workClaim d ⟨true, .arrives⟩) s = .next t ∧ (t.drum d).claim = none ∧ t.met.claims = s.met.claims + 1 ∧
        t.met.retries = s.met.retries + 1 ∧ (∃ k', t.counter? c.job c.task = some k' ∧ k'.value = k.value)) ∧
    (tk.code.good = false →
      ∃ t, exec (.workClaim d ⟨true, .arrives⟩) s = .next t ∧ (t.drum d).claim = none ∧ t.met.counters = s.met.counters ∧
        ∃ tk', t.task? c.job c.task = some tk' ∧ x.logical.toNat ∈ tk'.finished) ∧
    (c.fails < 3 → ∃ t, exec (.claimRetry d) s = .next t ∧ OnlyDrum d s t ∧
      t.drum d = { x with claim := some { c with fails := c.fails + 1 } }) ∧
    (c.fails = 3 → (s.fault 0x141).valid = false →
      ∃ t, exec (.claimRetry d) s = .next t ∧ t.latched 0x141 0x01 (some c.job) s.beat ∧ (t.drum d).claim = none)

/-! ## The tuner -/

/-- A CONVERT, WIDEN or NARROW that meets no fault on a drum whose units are still: the element counter rises by M * N, the
shell's rows stay, and nothing but the drum's sequencer, tuner and pad changes (R94, R95, R112). A WIDEN, and a NARROW of
SMODE 3, meet none where the header of their scale block fits and every scale they read is legal, on bytes that they do not
write.

NARROW of one row (R92-R98) into codes alone, the scales of its groups legal: the destination row holds the code of each
element under the scale and zero point of its group, with the scales and zero points where the layout carries them. -/
def Obligations.ConversionsCountAndNarrowCodes : Prop :=
  (
    ∀ (s : State) (d : Nat) (w : Quad) (r : RunId), s.offers d w → opcode w = 0x20 → (s.drum d).seq.run = some r →
      let q := tuneW w
      let x := s.drum d
      let counts (i : Instr) : Prop := ∃ t, exec i s = .next t ∧ OnlyDrum d s t ∧ Moved x (t.drum d) 1 w ∧
        t.drum d = { x with seq := (t.drum d).seq, tuner := (t.drum d).tuner, pad := (t.drum d).pad } ∧
        (t.drum d).tuner.elems = x.tuner.elems + BitVec.ofNat 64 (q.m * q.n)
      let apart := q.writeRanges.all fun a => (q.readRanges x).all fun b => !a.meets b
      let blockLegal := q.hdrBad x = false ∧
        ∀ m g, m < q.m → g < q.groups → scaleLegal (((x.blockRow q.scl m)[g]?).getD 0#16) = true
      q.rsv = false → x.still → x.shell.openRow q.rowsRead = false → q.faults s d r = [] →
      (q.op = 2 → counts (.convert d true)) ∧
      (q.op = 0 → (q.smode = 3 → q.m ≠ 0 → q.n ≠ 0 → apart = true ∧ blockLegal) → counts (.narrow d true)) ∧
      (∀ sf, q.op = 1 → tfmt q.sfmt = some sf → (q.m ≠ 0 → q.n ≠ 0 → apart = true ∧
          (q.slay ≠ 3 → blockLegal) ∧
          (q.slay = 3 → ∀ m g, m < q.m → g < q.groups → scaleLegal (rowScaleAt sf
            (x.padBytes (rowOff q.src q.slay sf q.zp q.sstride m) (rowBytes q.slay sf q.zp q.n)) q.n g) = true)) →
        counts (.widen d true))
  ) ∧ (
    ∀ (s : State) (d : Nat) (w : Quad) (r : RunId) (sf df : TFmt), s.offers d w → opcode w = 0x20 →
      (s.drum d).seq.run = some r →
      let q := tuneW w
      let x := s.drum d
      let row := x.wideRow q sf 0
      let fit := x.sharedScales q df
      let sc := (List.range q.groups).map fun g => (x.narrowScale q df fit row 0 g).getD (0#16, 0)
      q.rsv = false → x.still → x.shell.openRow q.rowsRead = false → q.faults s d r = [] →
      q.op = 0 → q.m = 1 → q.n ≠ 0 → q.sclOut = false →
      tfmt q.sfmt = some sf → tfmt q.dfmt = some df →
      (q.smode = 3 → (x.sclHdr q.scl).ok = true ∧ (x.sclHdr q.scl).kind = 1 ∧ 1 ≤ (x.sclHdr q.scl).count ∧
        (x.sclHdr q.scl).group = q.group ∧ (x.sclHdr q.scl).zp = q.zp) →
      (∀ g, g < q.groups → (x.narrowScale q df fit row 0 g).isSome = true) →
      ∃ t, exec (.narrow d true) s = .next t ∧
        (t.drum d).pad.mem = putBytes x.pad.mem (x.abs q.dst)
          (rowOut q.dlay df q.zp ((List.range q.n).map fun n =>
            let p := (sc[n / groupSize q.group]?).getD (0#16, 0)
            (narrowOne df q.sgn q.zp (rndOf q.away) p.1 p.2 ((row[n]?).getD 0#32)).code) (sc.map (·.1)) (sc.map (·.2))) ∧
        (t.drum d).tuner.elems = x.tuner.elems + BitVec.ofNat 64 q.n
  )

/-- CONVERT of one row (R94, R95): the destination row holds each element rounded once to the destination format; every other
byte of the pad stays. A ROWSCALED destination carries scales that no rule forms (log 2).

WIDEN of one row (R95) with legal scales: the destination row holds each code's value under its scale and zero point,
rounded once. An illegal scale raises the scale value fault 0x21 of the running job and leaves the pad's bytes. -/
def Obligations.ConvertAndWidenOneRow : Prop :=
  (
    ∀ (s : State) (d : Nat) (w : Quad) (r : RunId) (sf df : TFmt) (u : Fmt), s.offers d w → opcode w = 0x20 →
      (s.drum d).seq.run = some r →
      let q := tuneW w
      let x := s.drum d
      q.rsv = false → x.still → x.shell.openRow q.rowsRead = false → q.faults s d r = [] →
      q.op = 2 → q.m = 1 → q.n ≠ 0 →
      tfmt q.sfmt = some sf → tfmt q.dfmt = some df → df.float? = some u →
      ∃ t, exec (.convert d true) s = .next t ∧
        (t.drum d).pad.mem = putBytes x.pad.mem (x.abs q.dst)
          (rowOut q.dlay df false ((x.wideRow q sf 0).map fun v => (roundTo u (rndOf q.away) (val v)).code)
            (if q.dlay = 3 then List.replicate 32 (freeScale negInf32 posInf32) else []) []) ∧
        (t.drum d).tuner.elems = x.tuner.elems + BitVec.ofNat 64 q.n
  ) ∧ (
    ∀ (s : State) (d : Nat) (w : Quad) (r : RunId) (sf df : TFmt) (u : Fmt), s.offers d w → opcode w = 0x20 →
      (s.drum d).seq.run = some r →
      let q := tuneW w
      let x := s.drum d
      let l := x.padBytes q.src (rowBytes q.slay sf q.zp q.n)
      let sc (g : Nat) : Half := if q.slay = 3 then rowScaleAt sf l q.n g else ((x.blockRow q.scl 0)[g]?).getD 0#16
      let zp (g : Nat) : Nat := if q.zp then (if q.slay = 3 then rowZpAt q.slay sf l q.n g else x.blockZp q.scl 0 g) else 0
      q.rsv = false → x.still → x.shell.openRow q.rowsRead = false → q.faults s d r = [] →
      q.op = 1 → q.m = 1 → q.n ≠ 0 →
      tfmt q.sfmt = some sf → tfmt q.dfmt = some df → df.float? = some u →
      (q.slay ≠ 3 → (x.sclHdr q.scl).ok = true ∧ (x.sclHdr q.scl).kind = 1 ∧ 1 ≤ (x.sclHdr q.scl).count ∧
        (x.sclHdr q.scl).group = q.group ∧ (x.sclHdr q.scl).zp = q.zp) →
      ((∀ g, g < q.groups → scaleLegal (sc g) = true) →
        ∃ t, exec (.widen d true) s = .next t ∧
          (t.drum d).pad.mem = putBytes x.pad.mem (x.abs q.dst)
            (rowOut q.dlay df false ((List.range q.n).map fun n =>
              (roundTo u (rndOf q.away) (widenValue sf q.sgn (plainScale (sc (n / groupSize q.group)))
                (zp (n / groupSize q.group)) (codeAt q.slay sf l n))).code) [] []) ∧
          (t.drum d).tuner.elems = x.tuner.elems + BitVec.ofNat 64 q.n) ∧
      ((∃ g, g < q.groups ∧ scaleLegal (sc g) = false) → (s.fault d).valid = false →
        ∃ t, exec (.widen d true) s = .next t ∧ t.latched d 0x21 (some r.job) s.beat ∧ (t.drum d).pad.mem = x.pad.mem)
  )

/-- AMAX and CLOSE (R102-R104), on a drum whose units are still. Not shared: AMAX joins the bounds of its rows' groups into the
record where CAL_EN and the class allow it, and CLOSE ends the record's step. Shared, which a CLOSE is under the TUNE's SHARE or
the record's: the drum's statistics are offered to the drum set and the tuner waits. That a CLOSE is shared under either bit is the model's
reading (log 49), and that a shared AMAX that may not fold offers its record without its rows is its choice (log 60).

SHARE_REDUCTION_DONE (R104): before every drum of the set has offered its statistics nothing happens; then the wait ends
and the record holds the statistics of the whole set, and is closed for a CLOSE. Stated with nothing for the drum's units to
do. -/
def Obligations.RecordsFoldCloseAndShare : Prop :=
  (
    ∀ (s : State) (d : Nat) (w : Quad) (r : RunId), s.offers d w → opcode w = 0x20 → (s.drum d).seq.run = some r →
      let q := tuneW w
      let x := s.drum d
      let k := x.tuner.recAt q.qid
      let shared := (q.share || k.shares) && decide (1 < drumSet s r)
      let offered (i : Instr) (close folds : Bool) (k : QRec) : Prop :=
        ∃ t, exec i s = .next t ∧ Moved x (t.drum d) 1 w ∧
          (t.drum d).tuner.share = some ⟨close, q.qid, x.tuner.shareOrd, x.newJob w true, folds⟩ ∧
          (t.drum d).tuner.shareOrd = x.tuner.shareOrd + 1 ∧
          t.met.shares = s.met.shares ++ [⟨r.job, r.task, x.tuner.shareOrd, close, x.logical.toNat, k.allHi, k.allLo, k.sat,
            k.count, false⟩]
      q.rsv = false → x.still → x.shell.openRow q.rowsRead = false → q.faults s d r = [] →
      (∀ sf, q.op = 3 → q.m ≠ 0 → q.n ≠ 0 → tfmt q.sfmt = some sf →
        let k' := if x.folds q then
          k.joinAll (groupBounds (groupSize q.group) q.n ((List.range q.m).map fun m => x.wideRow q sf m)) else k
        (q.share = false →
          ∃ t, exec (.amax d true) s = .next t ∧ OnlyDrum d s t ∧ Moved x (t.drum d) 1 w ∧
            (t.drum d).tuner = (if x.folds q then x.tuner.setRec q.qid k' else x.tuner) ∧
            SamePad x.pad (t.drum d).pad ∧ (t.drum d).shell = x.shell) ∧
        (q.share = true → offered (.amax d true) false (x.folds q) k')) ∧
      (q.op = 4 → shared = false →
        ∃ t, exec (.close d true) s = .next t ∧ OnlyDrum d s t ∧ Moved x (t.drum d) 1 w ∧
          (t.drum d).tuner = x.tuner.setRec q.qid k.closeStep ∧ SamePad x.pad (t.drum d).pad ∧ (t.drum d).shell = x.shell) ∧
      (q.op = 4 → shared = true → offered (.close d true) true true k)
  ) ∧ (
    ∀ (s : State) (d : Nat) (v : ShareWait) (r : RunId), d < 136 → s.Kept → (s.drum d).tuner.share = some v →
      (s.drum d).seq.run = some r → (s.drum d).unitsRest →
      let x := s.drum d
      let es := s.met.shares.filter fun e => e.job == r.job && e.task == r.task && e.ord == v.ord && e.close == v.close
      (es.length ≠ drumSet s r → exec (.shareReductionDone d true) s = .next s) ∧
      (es.length = drumSet s r →
        let k := (((x.tuner.recAt v.qid).clearCurrent).joinAll (joinBounds es)).addCounts (es.foldl (fun n e => n + e.sat) 0)
          (es.foldl (fun n e => n + e.count) 0)
        ∃ t, exec (.shareReductionDone d true) s = .next t ∧ OnlyDrum d s t ∧
          t.drum d = { x with tuner := { (x.tuner.setRec v.qid (if v.close then k.closeStep else k)) with share := none } })
  )

/-- LDSCALE, STSCALE, QSAVE and QLOAD (R98, R99, R437), on a drum whose units are still. LDSCALE of a legal weight scale block replaces the scale register
file, of a row block the buffer's rows. STSCALE writes the buffer's rows as a row scale block. QSAVE writes the record's image,
or zeros for a record that is not the job's; QLOAD takes a legal image and makes the job its owner. -/
def Obligations.ScaleBlocksAndRecordsMove : Prop :=
  ∀ (s : State) (d : Nat) (w : Quad) (r : RunId), s.offers d w → opcode w = 0x20 → (s.drum d).seq.run = some r →
    let q := tuneW w
    let x := s.drum d
    q.rsv = false → x.still → x.shell.openRow q.rowsRead = false → q.faults s d r = [] →
    (∀ u, q.op = 5 → (x.sclHdr q.scl).kind = 0 → x.readFile q.scl = some u →
      ∃ t, exec (.ldscale d) s = .next t ∧ OnlyDrum d s t ∧ Moved x (t.drum d) 1 w ∧ (t.drum d).tuner = u ∧
        SamePad x.pad (t.drum d).pad) ∧
    (∀ u, q.op = 5 → (x.sclHdr q.scl).kind ≠ 0 → q.drow0 + (x.sclHdr q.scl).count ≤ 256 →
      x.readRows q.scl q.drow0 (x.sclHdr q.scl).count = some u →
      ∃ t, exec (.ldscale d) s = .next t ∧ OnlyDrum d s t ∧ Moved x (t.drum d) 1 w ∧ (t.drum d).tuner = u ∧
        (t.drum d).pad.mem = x.pad.mem) ∧
    (q.op = 6 → q.m ≠ 0 →
      ∃ t, exec (.stscale d true) s = .next t ∧ OnlyDrum d s t ∧ Moved x (t.drum d) 1 w ∧ (t.drum d).tuner = x.tuner ∧
        (t.drum d).pad.mem = putBytes x.pad.mem (x.abs q.scl) (rowHdr q.tag q.group q.zp q.m ++ (List.range q.m).flatMap fun m =>
          scaleBytes (if (x.tuner.rowTag (q.drow0 + m)).valid then (List.range 32).map (x.tuner.sa (q.drow0 + m)) else []) ++
            (if q.zp then List.replicate 32 0 else []))) ∧
    (q.op = 7 →
      ∃ t, exec (.qsave d true) s = .next t ∧ OnlyDrum d s t ∧ Moved x (t.drum d) 1 w ∧ (t.drum d).tuner = x.tuner ∧
        (t.drum d).pad.mem = putBytes x.pad.mem (x.abs q.dst)
          (if (x.tuner.recAt q.qid).validFor r.job then getBytes (x.tuner.recAt q.qid).img 0 2368 else List.replicate 2368 0)) ∧
    (q.op = 8 → QRec.loadFaults ⟨putBytes [] 0 (x.padBytes q.src 2368), some r.job⟩ = [] →
      ∃ t, exec (.qload d) s = .next t ∧ OnlyDrum d s t ∧ Moved x (t.drum d) 1 w ∧
        (t.drum d).tuner = x.tuner.setRec q.qid ⟨putBytes [] 0 (x.padBytes q.src 2368), some r.job⟩ ∧
        (t.drum d).pad.mem = x.pad.mem)

/-! ## The roll unit and the tap -/

/-- A ROLL of a function of one row whose results go to the shell (R175, R179-R185, R188, R190), on a drum whose units are
still and whose run no class-0 task may preempt: with rows that do not overlap, each logical row reads afterwards what the
function makes of it, the counters rise by its elements, and the pad's bytes stay. A GELU or SILU takes the coefficients of a
legal table. On a drum whose run may be preempted the ROLL is taken up, and its rows follow one in each idle ac (R191, R266).

ROPE and TOPK of one row (R186, R189). ROPE replaces the row by the rotated one where every table entry is finite, and
otherwise raises the roll table fault 0x41 and leaves the shell's rows. TOPK writes its K entries to the pad and leaves the
shell. Stated of a drum whose units are still and whose run no class-0 task may preempt.

A ROLL whose run may be preempted does one logical row in each idle ac, here a SCALE whose results go to the shell (R187,
R191, R266; that an idle step is one ac is the model's choice, log 1 and log 58): on a part in which nothing else is under way
the row's place moves on by one, that row reads what SCALE makes of it, the others stay, and after the last one the unit is
free. -/
def Obligations.RollFunctionsOfTheirRows : Prop :=
  (
    ∀ (s : State) (d : Nat) (w : Quad), s.Kept → s.offers d w → opcode w = 0x30 →
      let q := rollW w
      let x := s.drum d
      let l := x.padBytes q.aux 2368
      q.instrBad = false → x.still → x.shell.openRow (q.rowsFrom 0) = false → q.faults s d = [] → q.m ≠ 0 → q.n ≠ 0 → q.dsel = false →
      q.span = 1 ∨ q.m ≤ q.rstride →
      let done (i : Instr) (passes : Nat) (f : Nat → List Word → List Word) : Prop :=
        (x.preemptible = false → ∃ t, exec i s = .next t ∧ OnlyDrum d s t ∧ Moved x (t.drum d) 1 w ∧
          (∀ m, m < q.m → (t.drum d).rollIn q m = f m (x.rollIn q m)) ∧
          (t.drum d).roll.elems = x.roll.elems + BitVec.ofNat 64 (passes * q.len * q.m) ∧
          (t.drum d).roll.func = BitVec.ofNat 8 q.func ∧ (t.drum d).roll.row = q.m ∧ (t.drum d).roll.cur = none ∧
          SamePad x.pad (t.drum d).pad) ∧
        (x.preemptible = true → ∃ t, exec i s = .next t ∧ OnlyDrum d s t ∧ Moved x (t.drum d) 1 w ∧
          (t.drum d).roll.cur = some (x.newJob w true) ∧ (t.drum d).roll.row = 0 ∧ (t.drum d).shell = x.shell ∧
          SamePad x.pad (t.drum d).pad)
      (q.func = 0x02 → done (.rollMask d true) 1 fun m l =>
        (List.range l.length).map fun c => if x.masked q m c then negInf32 else (l[c]?).getD 0#32) ∧
      (q.func = 0x10 → done (.softmax d true) 2 fun _ l => (softRow (widen16 q.arg0) l).1) ∧
      (q.func = 0x20 → done (.rmsnorm d true) 2 fun m l => (normRow x q false m l).1) ∧
      (q.func = 0x21 → done (.layernorm d true) 3 fun m l => (normRow x q true m l).1) ∧
      (q.func = 0x30 → actBad l q.func = false → done (.gelu d true) 1 fun _ r => r.map fun v => (actOne l (actTable l) v).1) ∧
      (q.func = 0x31 → actBad l q.func = false → done (.silu d true) 1 fun _ r => r.map fun v => (actOne l (actTable l) v).1)
  ) ∧ (
    ∀ (s : State) (d : Nat) (w : Quad) (r : RunId), s.Kept → s.offers d w → opcode w = 0x30 → (s.drum d).seq.run = some r →
      let q := rollW w
      let x := s.drum d
      q.instrBad = false → x.still → x.shell.openRow (q.rowsFrom 0) = false → q.faults s d = [] → q.m = 1 → q.n ≠ 0 →
      x.preemptible = false →
      (∀ l, q.func = 0x40 → q.dsel = false → q.span = 1 ∨ 1 ≤ q.rstride → x.ropeRow q 0 (x.rollIn q 0) = some l →
        ∃ t, exec (.rope d true) s = .next t ∧ OnlyDrum d s t ∧ Moved x (t.drum d) 1 w ∧ (t.drum d).rollIn q 0 = l ∧
          (t.drum d).pad.mem = x.pad.mem) ∧
      (q.func = 0x40 → x.ropeRow q 0 (x.rollIn q 0) = none → (s.fault d).valid = false →
        ∃ t, exec (.rope d true) s = .next t ∧ t.latched d 0x41 (some r.job) s.beat ∧ (t.drum d).shell.rows = x.shell.rows ∧
          (t.drum d).pad.mem = x.pad.mem) ∧
      (q.func = 0x50 →
        ∃ t, exec (.topk d true) s = .next t ∧ OnlyDrum d s t ∧ Moved x (t.drum d) 1 w ∧ (t.drum d).shell = x.shell ∧
          (t.drum d).pad.mem = putBytes x.pad.mem (x.abs q.dst) (topEntries q.arg0.toNat q.arg1.toNat (x.rollIn q 0)))
  ) ∧ (
    ∀ (s : State) (d : Nat) (j : UnitJob), d < 136 → s.Kept → s.pending = [] → s.power.locked = true → s.power.tripped = false →
      (∀ e, e ≠ d → (s.drum e).hasWork = false) → (∀ e, (s.drum e).sound.failIn = 0) → s.met.moves = [] →
      (∀ p ∈ s.rings, p.2.out = []) →
      (∀ p ∈ s.fab.ports, p.ingress = [] ∧ p.stuck = [0, 0, 0, 0, 0, 0, 0] ∧ p.starved = false ∧
        ∀ l ∈ p.rxPart, s.transits l = false) →
      let x := s.drum d
      let q := rollW j.w
      x.roll.cur = some j → x.preemptible = true → x.preempting = none → x.skin.jobs = [] → x.skin.load = none →
      x.skin.cur = none → x.queues = ⟨[], [], [], []⟩ → x.tuner.cur = none → x.pad.failed = [] → x.rollRowHeld j = false → q.func = 0x01 → q.dsel = false → q.n ≤ 1024 →
      x.roll.row < q.m → q.span = 1 ∨ q.m ≤ q.rstride →
      ∃ t, step s = .next t ∧ t.beat = s.beat + 1 ∧ (t.drum d).roll.row = x.roll.row + 1 ∧
        (t.drum d).rollIn q x.roll.row = (x.rollIn q x.roll.row).map
          (fun v => rn (((val v).mul (bfVal q.arg0)).add (bfVal q.arg1))) ∧
        (∀ m, m < q.m → m ≠ x.roll.row → (t.drum d).rollIn q m = x.rollIn q m) ∧
        (t.drum d).roll.cur = (if x.roll.row + 1 = q.m then none else some j) ∧ (t.drum d).pad = x.pad
  )

/-- SCALE (R187): each element x becomes rn(x * ARG0 + ARG1), the exact product and sum under IEEE 754, non-finite values
included, rounded once. With DSEL 0 the results replace the rows in the shell, and the pad's bytes stay; with DSEL 1 they stand
at the rows' places of the destination, and the shell and every other byte of the pad stay. Stated of a drum whose units are
still and whose run no class-0 task may preempt. -/
def Obligations.ScaleMultipliesAndAddsWithOneRounding : Prop :=
  ∀ (s : State) (d : Nat) (w : Quad), s.Kept → s.offers d w → opcode w = 0x30 →
    let q := rollW w
    let x := s.drum d
    let f (v : Word) : Word := rn (((val v).mul (bfVal q.arg0)).add (bfVal q.arg1))
    q.instrBad = false → x.still → x.shell.openRow (q.rowsFrom 0) = false → q.faults s d = [] → q.m ≠ 0 → q.n ≠ 0 → q.func = 0x01 →
    x.preemptible = false →
    (q.dsel = false → q.span = 1 ∨ q.m ≤ q.rstride →
      ∃ t, exec (.rollScale d true) s = .next t ∧ OnlyDrum d s t ∧ Moved x (t.drum d) 1 w ∧
        (∀ m, m < q.m → (t.drum d).rollIn q m = (x.rollIn q m).map f) ∧ SamePad x.pad (t.drum d).pad ∧
        (t.drum d).roll.elems = x.roll.elems + BitVec.ofNat 64 (q.len * q.m) ∧
        (t.drum d).roll.func = BitVec.ofNat 8 q.func ∧ (t.drum d).roll.row = q.m) ∧
    (q.dsel = true →
      ∃ t, exec (.rollScale d true) s = .next t ∧ OnlyDrum d s t ∧ Moved x (t.drum d) 1 w ∧ (t.drum d).shell = x.shell ∧
        (∀ m, m < q.m → (t.drum d).padBytes (q.dst + m * q.outStride) (4 * q.len) =
          (x.rollIn q m).flatMap fun v => leBytes 4 (f v).toNat) ∧
        (∀ a, a < x.abs q.dst ∨ x.abs q.dst + q.m * q.outStride ≤ a →
          getByte (t.drum d).pad.mem a = getByte x.pad.mem a))

/-- An estimating TAP without fault, on a drum whose units are still, opens its map (R201, R206): the header at MOUT + 2,048 names the TAP's rows, its selection,
the task's TAP number and serial, and the task's next TAP has the next number. Outside the map and its rows the drum keeps its
pad bytes and shell rows. -/
def Obligations.TapOpensItsMap : Prop :=
  ∀ (s : State) (d : Nat) (w : Quad), s.Kept → s.offers d w → opcode w = 0x11 →
    let q := tapW w
    let x := s.drum d
    q.sel ≠ 3 → q.rsv = 0 → x.still → q.faults s d = [] →
    ∃ t, exec (.tap d true) s = .next t ∧ OnlyDrum d s t ∧ Moved x (t.drum d) 1 w ∧
      (t.drum d).tap.seq = x.tap.seq + 1 ∧
      (let h := (t.drum d).mapHdr q.mout
       h.opened = true ∧ h.sel = q.sel ∧ h.row0 = q.row0 ∧ h.m = q.m ∧ h.n = q.n ∧ h.thr = q.thr ∧ h.topk = q.topk ∧
       h.tapseq = x.tap.seq ∧ h.serial = x.tap.serial) ∧
      (∀ a, a < x.abs q.mout ∨ x.abs q.mout + 4096 + 128 * q.m ≤ a →
        getByte (t.drum d).pad.mem a = getByte x.pad.mem a) ∧
      (∀ i n, n < 1024 → i < q.row0 ∨ q.row0 + q.m ≤ i → shellAt (t.drum d).shell i n = shellAt x.shell i n)

/-- CHECK (R212-R214) without a fault, on a drum whose units are still. Under the MISS policy that only counts, and under each
policy where no audited output was missed, the map is closed; every output that the TAP
dropped reads +0, or minus infinity after a top-K selection, and every kept one stays. Under the make-up policy a miss starts
the replay at the map's TAP, its tile loaded again, and leaves the shell; under the policy that faults a miss raises the missed
output fault 0x52 of the running job and leaves the shell. -/
def Obligations.CheckOverwritesReplaysOrFaults : Prop :=
  ∀ (s : State) (d : Nat) (w : Quad), s.Kept → s.offers d w → opcode w = 0x11 →
    let q := tapW w
    let x := s.drum d
    let h := x.mapHdr q.mout
    let f := match x.tap.mapTile q.mout with | some t => t.wfmt | none => 0
    q.sel = 3 → q.rsv = 0 → x.still → x.shell.openRow (rowMask q.row0 (min 256 q.m)) = false → x.tap.replay = none →
    q.checkFaults s d x.seq.pc = [] → q.n ≤ 1024 →
    ((x.seq.miss = 0 ∨ ∀ m, m < q.m → (x.auditRow h f q.mout q.row0 m).1 = 0) →
      ∃ t, exec (.check d true) s = .next t ∧ OnlyDrum d s t ∧ Moved x (t.drum d) 1 w ∧
        ((t.drum d).mapHdr q.mout).opened = false ∧
        (∀ m n, m < q.m → n < q.n → shellAt (t.drum d).shell (q.row0 + m) n =
          if x.keptAt q.mout m n then shellAt x.shell (q.row0 + m) n
          else if h.sel = 1 then negInf32 else 0#32) ∧
        (∀ i n, n < 1024 → i < q.row0 ∨ q.row0 + q.m ≤ i → shellAt (t.drum d).shell i n = shellAt x.shell i n) ∧
        (∀ a, a ≠ x.abs q.mout + 2048 → getByte (t.drum d).pad.mem a = getByte x.pad.mem a)) ∧
    ((∃ m, m < q.m ∧ 0 < (x.auditRow h f q.mout q.row0 m).1) →
      (x.seq.miss = 1 → (∀ v, x.tap.mapTile q.mout = some v → (x.reload v).2 = []) →
        ∃ t, exec (.check d true) s = .next t ∧ OnlyDrum d s t ∧ (t.drum d).tap.replay = some q.mout ∧
          (t.drum d).tap.makeups = x.tap.makeups + 1 ∧ (t.drum d).seq.pc = h.replay ∧ (t.drum d).seq.madeup = true ∧
          (t.drum d).shell = x.shell ∧ (t.drum d).pad.mem = x.pad.mem) ∧
      (∀ r, 2 ≤ x.seq.miss → x.seq.run = some r → (s.fault d).valid = false →
        ∃ t, exec (.check d true) s = .next t ∧ t.latched d 0x52 (some r.job) s.beat ∧ (t.drum d).seq.stopped = true ∧
          (t.drum d).shell = x.shell ∧ (t.drum d).pad.mem = x.pad.mem))

/-! ## Rings' entries, scores and jobs -/

/-- SCORE (R251, R252, R254, R282, R289). An entry that may be taken and whose score has been read leaves the ring, with one
record reserved for it. A score of classes 1 to 3 that passes the checks waits at the ring's head, and nothing else changes. A
class-0 score that is not admitted (R264) is recorded refused and counted. A score that fails a check of R251, or that cannot
be read whole, raises the score fault 0x01 of source 0x140 and is recorded as a score fault. That a score which waits has left
the ring and stands at the ring's head, and that an unreadable one raises 0x01, are the model's reading (log 26). Stated of a
read that leaves the rings as they are, no block error of it driving a fault record to a reset or a crash. -/
def Obligations.ScoreWaitsIsRefusedOrFaults : Prop :=
  ∀ (s u : State) (q : Nat) (e : Entry) (f : Fetched), q < 4096 → s.Kept →
    let r := s.ring q
    s.canTake q = true → s.entryAt q = some e → e.op = 1 → s.entryBad e = false → s.readable q = true →
    s.scoreRead q e.addr = (f, u) → u.rings = s.rings → u.fab.closed.contains (getCell 0#10 u.fab.groups q).toNat = false →
    let taken (t : State) : Prop := (t.ring q).sqhead = r.after ∧ (t.ring q).taken = r.taken + 1 ∧
      (t.ring q).reserved = r.reserved + 1 ∧ t.drums = u.drums ∧ t.mem = u.mem
    let recorded (t : State) (c : Code) : Prop := (t.ring q).head = none ∧
      ∃ k ∈ (t.ring q).out, k.kind = 1 ∧ k.status = toW c.num ∧ k.utag = e.utag ∧ k.sqidx = r.sqhead.setWidth 32
    (∀ l sc, f = .data l → scoreOf (fun a => sub l (a - e.addr) 128) e.addr u.met.mask = some sc → u.capable sc = true →
      (sc.live = false → 1 + sc.cmplCount ≤ ringSize r.cqNow →
        ∃ t, exec (.score q) s = .next t ∧ taken t ∧ (∀ p, p ≠ q → t.ring p = s.ring p) ∧
          t.met = { u.met with lastRing := q } ∧ t.faults = u.faults ∧
          (t.ring q).head = some ⟨sc, [], [], e.utag, r.sqhead, r.taken, e.ordered, 0⟩ ∧ (t.ring q).out = r.out ∧
          (t.ring q).pendingScores = r.pendingScores ++ [r.taken]) ∧
      (sc.live = true → r.liveNow = false ∨ (1 + sc.cmplCount ≤ ringSize r.cqNow ∧ u.admission sc = none) →
        ∃ t, exec (.score q) s = .next t ∧ taken t ∧ recorded t .refused ∧ t.faults = u.faults ∧
          t.met = { u.met with refused := u.met.refused + 1, lastRing := q })) ∧
    (∀ l, f = .data l → scoreOf (fun a => sub l (a - e.addr) 128) e.addr u.met.mask = none → (u.fault 0x140).valid = false →
      ∃ t, exec (.score q) s = .next t ∧ taken t ∧ recorded t .scoreFault ∧ t.latched 0x140 0x01 none s.beat) ∧
    (f = .error → (u.fault 0x140).valid = false →
      ∃ t, exec (.score q) s = .next t ∧ taken t ∧ recorded t .scoreFault ∧ t.latched 0x140 0x01 none s.beat)

/-- SCORE_BIND (R226, R243, R253, R254). The score at a ring's head whose records, task slots and region slots are there
becomes a job under the next free number: a slot on every drum of its mask and on no other, its tasks, and one record reserved
for each task with CMPL; a class-0 score keeps the place in the order that its admission gave it (R265). While task slots are
short a score of classes 1 to 3 waits and nothing changes. Stated of a score that leaves a task to end. -/
def Obligations.ScoreBindMakesAJob : Prop :=
  ∀ (s : State) (q : Nat) (h : Head) (ds : List Nat), q < 4096 → s.Kept → (s.ring q).head = some h → s.crashed = false →
    let r := s.ring q
    let sc := h.score
    let g := (getCell 0#10 s.fab.groups q).toNat
    let num := skipHeld s.jobNumbersHeld 65536 s.met.nextJob
    let start := sc.tasks.zipIdx.map fun p =>
      Task.new p.1 ((h.finishes[p.2]?).bind fun f => if sc.live then some f else none) ((h.engs[p.2]?).getD none)
    s.fab.closed.contains g = false → s.capable sc = true →
    (h.ordered && r.pendingScores.any fun n => decide (n < h.serial)) = false →
    (g != 0 && s.met.jobs.any (·.group == g)) = false → r.reserved + sc.cmplCount ≤ ringSize r.cqNow →
    (sc.live = true ∨ sc.ntask ≤ s.sharedFree → s.physSet sc.mask = ds.map some →
      (∀ d ∈ ds, sc.rblk ≤ (s.drum d).pad.blockLimit ∧ ((s.drum d).pad.plan sc).isSome = true) →
      s.jobNumbersHeld.contains num = false → (settleTasks s.beat start).all (fun t => t.state == .ended) = false →
      ∃ t, exec (.scoreBind q) s = .next t ∧
        t.met = { s.met with
          jobs := s.met.jobs ++ [⟨num, q, h.sqidx, h.serial, h.utag, g, if sc.live then h.order else s.met.nextOrder, sc,
            settleTasks s.beat start, false, sc.cmplCount⟩]
          nextJob := num + 1, nextOrder := if sc.live then s.met.nextOrder else s.met.nextOrder + 1
          readymax := t.met.readymax } ∧
        (t.ring q).head = none ∧ (t.ring q).reserved = r.reserved + sc.cmplCount ∧
        (∀ d ∈ ds, ∀ k b tb, (s.drum d).pad.plan sc = some (k, b, tb) →
          t.drum d = { s.drum d with pad := (s.drum d).pad.bind sc num k b tb }) ∧
        (∀ d, d ∉ ds → t.drum d = s.drum d)) ∧
    (sc.live = false → s.sharedFree < sc.ntask → exec (.scoreBind q) s = .next s)

/-- DRAIN, KILL and SUBMISSION_ENTRY_FAULT (R283, R287, R293). DRAIN with no score before it is recorded done; with one that is
not recorded yet it waits. KILL of a job that is not in flight is recorded refused; KILL of a job of its own ring ends the
job, and its record follows the score's. An entry with a reserved OP raises the submission entry fault 0x01 of source 0x150
and is recorded as a score fault. The entry leaves the ring in each case. Stated with no record waiting to be written; a
record is written once its beat has passed (log 61); that a DRAIN record bears JOB 0 and NOJOB 0 is the model's choice (log
26). -/
def Obligations.DrainKillAndBadEntriesAreRecorded : Prop :=
  ∀ (s : State) (q : Nat) (e : Entry), q < 4096 → s.Kept →
    let r := s.ring q
    s.canTake q = true → s.entryAt q = some e → r.out = [] →
    let only (t : State) : Prop := (t.ring q).sqhead = r.after ∧ t.met = { s.met with lastRing := q } ∧ t.drums = s.drums ∧
      t.hostMem = s.hostMem ∧ ∀ p, p ≠ q → t.ring p = s.ring p
    (e.op = 2 → s.entryBad e = false → r.drains = [] → r.pendingScores = [] →
      ∃ t, exec (.drain q) s = .next t ∧ only t ∧ (t.ring q).out = [opRecord .done e.utag 0 s.beat r.sqhead false]) ∧
    (∀ n, e.op = 2 → s.entryBad e = false → r.drains = [] → n ∈ r.pendingScores → n < r.taken →
      ∃ t, exec (.drain q) s = .next t ∧ only t ∧ (t.ring q).out = [] ∧
        (t.ring q).drains = [(e.utag, r.sqhead, r.taken)]) ∧
    (e.op = 3 → s.entryBad e = false → s.job? e.job = none →
      ∃ t, exec (.kill q) s = .next t ∧ only t ∧ (t.ring q).out = [opRecord .refused e.utag e.job s.beat r.sqhead false]) ∧
    (∀ j, e.op = 3 → s.entryBad e = false → s.job? e.job = some j → j.ring = q →
      ∃ t, exec (.kill q) s = .next t ∧ t.job? e.job = none ∧ (t.ring q).sqhead = r.after ∧
        (e.job, e.utag, r.sqhead) ∈ (t.ring q).kills) ∧
    (e.op = 0 ∨ 3 < e.op → (s.fault 0x150).valid = false →
      ∃ t, exec (.submissionEntryFault q) s = .next t ∧ only t ∧ t.latched 0x150 0x01 none s.beat ∧
        (t.ring q).out = [opRecord .scoreFault e.utag 0 s.beat r.sqhead true])

/-- TASK_DISPATCH (R255, R256, R266) of a task that is next for its unit, with no change of the drum map waiting. A stick task
takes the lowest free stick of its mask, which starts at ENTRY with ARG in a0 and the job number in a1, its other registers as they were (log 69); a drum task with tiles
starts to claim; one whose E is 0 ends its share there; a class-0 task on a reserve drum that runs a lower class asks for
preemption, and what the drum has not started is withdrawn; a DMA task takes its engine, and its transfer begins.

A DMA transfer moves a chunk of up to 2 KiB in each idle ac (R255, R260; that an idle step moves a chunk is the model's
choice, log 1). Here the last chunk of a plain copy within LPDDR5 that no table translates, on a part in which nothing else is
under way and no block is bad or goes bad (log 62): the destination holds what the source held, every other byte of LPDDR5 stays, and the task's
work is done. -/
def Obligations.TaskDispatchStartsItsUnit : Prop :=
  (
    ∀ (s : State) (jn : Half) (i target : Nat) (j : Job) (t : Task), s.Kept → s.leaving = [] → s.job? jn = some j →
      j.tasks[i]? = some t → s.crashed = false → t.wants target = true → s.dispatchable j i t = true →
      s.outrun j i t target = false →
      (∀ mask entry arg, t.trec.body = .stick mask entry arg → s.stickFree target = true →
        (∀ k, k < target → mask.getLsbD k = true → s.stickFree k = false) →
        s.backed entry.toNat 4 = true → s.padRefused jn entry.toNat 4 = false →
        ∃ u, exec (.taskDispatch jn i target) s = .next u ∧ u.stickTask target = some (jn, i) ∧
          (u.met.core target).pc = entry ∧ (u.met.core target).reg 10 = arg ∧ (u.met.core target).reg 11 = jn.zeroExtend 64 ∧
          (∀ n, n ≠ 10 → n ≠ 11 → (u.met.core target).reg n = (s.met.core target).reg n) ∧
          (u.met.core target).f = (s.met.core target).f ∧ (u.met.core target).v = (s.met.core target).v ∧
          (∀ k, k ≠ target → u.met.core k = s.met.core k) ∧
          u.met.dispatched = s.met.dispatched + 1 ∧ (∃ t', u.task? jn i = some t' ∧ t'.state = .running) ∧
          u = { s with met := u.met }) ∧
      (∀ d set b e tiles tile0, t.trec.body = .drum set b e tiles tile0 → s.physOf target = some d →
        ((s.drum d).pad.slotOf jn).isSome = true → s.halted d = false → (s.drum d).idleFor t.trec.cls = true →
        (e ≠ 0 → tiles ≠ 0 →
          ∃ u, exec (.taskDispatch jn i target) s = .next u ∧ (u.drum d).claim = some ⟨jn, i, 0, 0⟩ ∧
            (u.drum d).seq.lastJob = some jn ∧ (u.drum d).pad = (s.drum d).pad ∧ (∀ p, p ≠ d → u.drum p = s.drum p) ∧
            (∃ t', u.task? jn i = some t' ∧ t'.state = .running)) ∧
        (e = 0 → t.code = .done →
          ∃ u, exec (.taskDispatch jn i target) s = .next u ∧ (u.drum d).pad = (s.drum d).pad ∧
            ∃ t', u.task? jn i = some t' ∧ t'.code = .doneEmpty ∧ target ∈ t'.finished)) ∧
      (∀ d set b e tiles tile0, t.trec.body = .drum set b e tiles tile0 → s.physOf target = some d →
        ((s.drum d).pad.slotOf jn).isSome = true → s.halted d = false → t.trec.cls = 0 → (s.drum d).pad.saveEn = true →
        (s.drum d).seq.run.isSome = true → (s.drum d).seq.cls ≠ 0 → (s.drum d).preempting = none → (s.drum d).saved = none →
        ∃ u, exec (.taskDispatch jn i target) s = .next u ∧ (u.drum d).preempting = some (jn, i) ∧
          u.met = { s.met with preempts := s.met.preempts + 1 } ∧ (u.drum d).mayIssue = false ∧
          (u.drum d).queues = ⟨[], [], [], []⟩ ∧ (u.drum d).pad = (s.drum d).pad ∧
          (u.drum d).shell = { (s.drum d).shell with blocks := (u.drum d).shell.blocks } ∧
          ((s.drum d).skin.load = none → (u.drum d).shell = (s.drum d).shell)) ∧
      (∀ src dst len expand fallback, t.trec.body = .dma src dst len expand fallback → s.engineFree target = true →
        t.trec.stream.isNone = true ∨ s.mem.strBusy = false → 0 < len →
        ∃ u, exec (.taskDispatch jn i target) s = .next u ∧ getCell none u.met.engines target = some (jn, i) ∧
          u.met.moves = s.met.moves ++ [⟨target, jn, i, t.trec.cls == 0, Side.of s.mem src t.trec.stream,
            Side.of s.mem dst t.trec.stream, len, expand, fallback, if expand then .gather else .copy, 0, [], [], false, 0⟩] ∧
          (∃ t', u.task? jn i = some t' ∧ t'.state = .running ∧ t'.unit = some target) ∧ u = { s with met := u.met })
  ) ∧ (
    ∀ (s : State) (k : Move) (tk : Task), s.Kept → s.pending = [] → s.power.locked = true → s.power.tripped = false →
      (∀ d, (s.drum d).hasWork = false ∧ (s.drum d).sound.failIn = 0) → (∀ p ∈ s.rings, p.2.out = []) →
      (∀ p ∈ s.fab.ports, p.ingress = [] ∧ p.stuck = [0, 0, 0, 0, 0, 0, 0] ∧ p.starved = false ∧ ∀ l ∈ p.rxPart, s.transits l = false) →
      s.met.moves = [k] →
      s.fates.blocks = [] →
      s.task? k.job k.task = some tk → k.phase = .copy → k.src.stream = none → k.dst.stream = none → k.spoilt = false →
      k.pos < k.len → k.len ≤ k.pos + 2048 → s.memHeld = false → (∀ c ∈ s.mem.chans, c.bad = []) →
      let n := k.len - k.pos
      let a := k.src.base + k.pos
      let b := k.dst.base + k.pos
      s.inMem a n = true → s.inMem b n = true → a + n ≤ padSpace → b + n ≤ padSpace →
      ∃ t, step s = .next t ∧ getBytes t.mem.data b n = getBytes s.mem.data a n ∧
        (∀ c, c < b ∨ b + n ≤ c → getByte t.mem.data c = getByte s.mem.data c) ∧ t.met.moves = [] ∧ t.drums = s.drums ∧
        t.hostMem = s.hostMem ∧ ∃ tk', t.task? k.job k.task = some tk' ∧ tk'.finished = [k.engine] ∧ tk'.code = tk.code
  )

/-- The dispatch of a drum task without tiles (R120, R170, R249, R250): the sequencer takes up run 0 at the pattern of the first
bucket that holds E, the run words stand at the region's first 24 bytes, the shell takes the seed and the descriptor table that
stands before the pattern. Stated of an idle drum that ran this job last, with no node waiting at its station. -/
def Obligations.DrumTaskLoadsItsPattern : Prop :=
  ∀ (s : State) (jn : Half) (i target d : Nat) (j : Job) (t : Task) (set : BitVec 128) (btab e tile0 k a : Nat),
    s.Kept → s.leaving = [] → s.job? jn = some j → j.tasks[i]? = some t → s.crashed = false → t.wants target = true →
    s.dispatchable j i t = true → s.outrun j i t target = false → t.trec.body = .drum set btab e 0 tile0 → e ≠ 0 →
    s.physOf target = some d → ((s.drum d).pad.slotOf jn).isSome = true → s.halted d = false →
    (s.drum d).idleFor t.trec.cls = true → (s.drum d).seq.lastJob = some jn → (s.drum d).boundaryDue = false →
    (s.drum d).pad.held = [] → (s.drum d).pad.failed = [] → (s.drum d).skin.jobs = [] →
    let tile := tile0 + ((List.range target).filter fun l => set.getLsbD l).length
    let y : Drum := { s.drum d with seq := { (s.drum d).seq with run := some ⟨jn, i, 0⟩ } }
    let bs := (List.range 8).map fun n => bucketOf (y.padNat (16 * btab + 8 * n) 8)
    let words := leBytes 8 (e + 2 ^ 32 * k) ++ leBytes 8 (tile % 2 ^ 32) ++
      leBytes 8 (match t.trec.stream with | some v => v.toNat + 2 ^ 16 | none => 0)
    let z := y.padPut 0 words
    let ds := (List.range 16).map fun n =>
      (descOf (z.padBytes (16 * a - 512 + 32 * n) 32), descRsvZero (z.padBytes (16 * a - 512 + 32 * n) 32))
    y.regionOk [⟨16 * btab, 64⟩] = true → bucketsOk bs = true → pickBucket e bs = some (k, a) → 32 ≤ a →
    y.regionOk [⟨16 * a - 512, 512⟩] = true → s.descFault target j.group ds = none →
    ∃ u, exec (.taskDispatch jn i target) s = .next u ∧ (u.drum d).seq.run = some ⟨jn, i, 0⟩ ∧ (u.drum d).seq.pc = a ∧
      (u.drum d).seq.bucket = k ∧ (u.drum d).seq.tile = tile ∧ SamePad z.pad (u.drum d).pad ∧
      (u.drum d).shell.seed = j.score.seed ∧ (u.drum d).shell.rows = (s.drum d).shell.rows ∧
      (∀ n de b, ds[n]? = some (de, b) → (u.drum d).desc n = if de.valid then de else Desc.reset) ∧
      (u.drum d).mayIssue = !(s.drum d).shell.clearing

/-- TASK_END (R255, R259). A task whose drums, stick or engine have done their share ends with its code, now, and a successor
that waited for it alone is ready; before every drum of its set has finished, nothing happens. Stated of a good task, with
another task of the job running and no change of the drum map waiting.

LIVE_OVERRUN (R265): at its promised finish a class-0 task that has not ended sets OVERRUN, counts and raises the live
overrun fault 0x05 of source 0x140 for its job, and runs on.

GROUP_HOLD_EXPIRE (R286, R288, R352, R376): the only record that a ring still holds is written when its hold has ended, done
or, after an abort of its group or of its job, aborted; until then nothing happens. Stated of a part that is no follower, with
no KILL or DRAIN behind the record and no record on another ring. -/
def Obligations.TasksEndOverrunAndRecordsAreHeld : Prop :=
  (
    ∀ (s : State) (jn : Half) (i : Nat) (t : Task), s.Kept → s.leaving = [] → s.task? jn i = some t → t.state = .running →
      s.goesOn jn i → t.code.good = true →
      let ended : Prop := ∃ u, exec (.taskEnd jn i) s = .next u ∧ u.endedAs jn i t.code s.beat ∧
        ∀ k t', k ∈ t.trec.succs → s.task? jn k = some t' → t'.state = .waiting → t'.remaining = 1 → t'.trec.body ≠ .barrier →
          ∃ t'', u.task? jn k = some t'' ∧ t''.state = .ready ∧ t''.readyAt = s.beat
      (∀ set b e tiles tile0, t.trec.body = .drum set b e tiles tile0 →
        ((maskDrums set).all t.finished.contains = true → ended) ∧
        ((maskDrums set).all t.finished.contains = false → exec (.taskEnd jn i) s = .next s)) ∧
      (t.isDrum = false → t.finished ≠ [] → ended)
  ) ∧ (
    ∀ (s : State) (jn : Half) (i : Nat) (t : Task) (f : Dword), s.Kept → s.task? jn i = some t → t.finish = some f →
      t.overrun = false → t.state ≠ .ended →
      (s.beat < f → exec (.liveOverrun jn i) s = .next s) ∧
      (f ≤ s.beat → (s.fault 0x140).valid = false →
        ∃ u, exec (.liveOverrun jn i) s = .next u ∧ u.latched 0x140 0x05 (some jn) s.beat ∧
          u.met.overruns = s.met.overruns + 1 ∧ u.task? jn i = some { t with overrun := true } ∧ u.drums = s.drums)
  ) ∧ (
    ∀ (s : State) (q : Nat) (r : Record), q < 4096 → s.Kept → s.pcie.role ≠ 2 → (s.ring q).out = [r] →
      (s.ring q).kills = [] → (s.ring q).drains = [] → (∀ p, p ≠ q → (s.ring p).out = []) →
      (s.recordHeld r = true → exec (.groupHoldExpire q) s = .next s) ∧
      (s.recordHeld r = false →
        ∃ t, exec (.groupHoldExpire q) s = .next t ∧ (t.ring q).out = [] ∧ t.met = s.met ∧ t.drums = s.drums ∧
          (r.aborted = false → r.holdTo = none → Recorded s t q r) ∧
          (r.aborted = true → codeGood r.status = true → Recorded s t q { r with status := withCode r.status .aborted }))
  )

/-- PREEMPT_SAVE (R142, R168, R240, R266): once every unit has stopped, the shell's values and statuses, the descriptor table,
the scale register file and the row scale buffer stand in the save area, the shell, the latches and the scales are empty, and
the run is kept for its return. Where each scale stands in the area is the model's reading (log 32). Stated of arrays that pass
their parity (log 62) and of a class-0 task that claims its
tiles or whose E is 0; the other form then loads its pattern.

PREEMPT_RESTORE (R168, R173, R266): with no class-0 task left for the drum the saved run comes back: its shell from the
save area, its scales, its position, and its tile, loaded again; the sequencer's counters go on and its cache is empty. While a
class-0 task is ready for the drum, or one that has run on it goes on elsewhere, nothing happens. That the cache is empty is the model's choice (log 13). Stated of a reload without a
fault, with no strike or ROLL saved, no block that waits for a node, no node waiting at the station and no pad word that fails
its parity. -/
def Obligations.PreemptionSavesAndRestores : Prop :=
  (
    ∀ (s : State) (d : Nat) (j : Half) (i : Nat) (t : Task) (set : BitVec 128) (b e tiles tile0 : Nat), d < 136 → s.Kept →
      (s.drum d).preempting = some (j, i) → s.task? j i = some t → t.trec.body = .drum set b e tiles tile0 →
      e = 0 ∨ tiles ≠ 0 → s.fates.arrays = [] →
      let x := s.drum d
      (x.stoppedUnits = false → exec (.preemptSave d) s = .next s) ∧
      (x.stoppedUnits = true →
        ∃ u, exec (.preemptSave d) s = .next u ∧ (u.drum d).saved = some x.toSaved ∧ (u.drum d).preempting = none ∧
          (u.drum d).shell = { x.shell with rows := [], tstat := [], descs := [], blocks := [], leaves := [] } ∧
          (u.drum d).skin.tile = none ∧ (u.drum d).tuner.fvalid = false ∧ (u.drum d).tuner.rsb = [] ∧
          (∀ n, ((u.drum d).tuner.rowTag n).valid = false) ∧ (u.drum d).pad.saveHeld = true ∧
          (∀ r c, r < 256 → c < 1024 →
            getNat (u.drum d).pad.mem (saveBase + 4096 * r + 4 * c) 4 = (shellAt x.shell r c).toNat) ∧
          (∀ r, r < 256 → getNat (u.drum d).pad.mem (saveBase + 0x100000 + 4 * r) 4 = (x.shell.tstatus r).toNat) ∧
          (∀ n, n < 16 → getBytes (u.drum d).pad.mem (saveBase + 0x100400 + 32 * n) 32 = (x.desc n).bytes) ∧
          (∀ n, n < 32768 → getNat (u.drum d).pad.mem (saveBase + 0x100800 + 2 * n) 2 = (getCell 0#16 x.tuner.file n).toNat) ∧
          (∀ n, n < 8192 → getNat (u.drum d).pad.mem (saveBase + 0x110800 + 2 * n) 2 = (getCell 0#16 x.tuner.rsb n).toNat) ∧
          (∀ a, a < saveBase → getByte (u.drum d).pad.mem a = getByte x.pad.mem a))
  ) ∧ (
    ∀ (s : State) (d : Nat) (v : Saved), d < 136 → s.Kept → (s.drum d).saved = some v →
      let x := s.drum d
      let y := x.restore v
      let z := match v.tile with | some t => { (y.loadTile t.step).1 with tuner := y.tuner } | none => y
      (s.liveReadyFor x.logical.toNat = true ∨ s.liveStill x.logical.toNat = true → exec (.preemptRestore d) s = .next s) ∧
      (x.idleFor 0 = true → x.shell.clearing = false → s.liveReadyFor x.logical.toNat = false →
        s.liveStill x.logical.toNat = false → x.pad.held = [] → v.jobs = [] →
        v.rollCur = none → (∀ rd, rd < 16 → (getCell Stack.reset v.blocks rd).climb = none) → x.queues = ⟨[], [], [], []⟩ →
        x.skin.cur = none → x.skin.load = none → x.tuner.cur = none → x.pad.failed = [] → s.halted d = false →
        (∀ t, v.tile = some t → (y.loadTile t.step).2 = []) →
        ∃ u, exec (.preemptRestore d) s = .next u ∧ OnlyDrum d s u ∧ u.drum d = { z with pad := (u.drum d).pad } ∧
          (u.drum d).saved = none ∧
          (u.drum d).seq = { v.seq with cache := [], issued := x.seq.issued, misses := x.seq.misses
                                        sendSerial := x.seq.sendSerial } ∧
          SamePad { x.pad with saveHeld := false } (u.drum d).pad ∧
          (∀ r c, r < 256 → c < 1024 →
            shellAt (u.drum d).shell r c = toW (getNat x.pad.mem (saveBase + 4096 * r + 4 * c) 4)) ∧
          (∀ r, r < 256 → (u.drum d).shell.tstatus r = toW (getNat x.pad.mem (saveBase + 0x100000 + 4 * r) 4)))
  )

/-- What a restore reads back from the save area is what the save put there (R142, R191, R266): every shell value and status,
the descriptor table, the blocks, the scales, the row of a ROLL and the sequencer, which stands at the next step of its walk
with an empty cache (log 13), are those of the drum when it was saved. -/
def Obligations.SaveThenRestoreIsTheSameShell : Prop :=
  ∀ x : Drum, x.kept = true →
    let y := x.save.restore x.toSaved
    (∀ r c, r < 256 → c < 1024 → shellAt y.shell r c = shellAt x.shell r c) ∧
    (∀ r, r < 256 → y.shell.tstatus r = x.shell.tstatus r) ∧ y.shell.descs = x.shell.descs ∧ y.shell.blocks = x.shell.blocks ∧
    y.shell.seed = x.shell.seed ∧ y.seq = { x.walkNext with cache := [] } ∧ y.tuner.file = x.tuner.file ∧ y.tuner.fvalid = x.tuner.fvalid ∧
    y.tuner.rsb = x.tuner.rsb ∧ y.tuner.rsbTag = x.tuner.rsbTag ∧ y.tap.serial = x.tap.serial ∧
    y.roll.cur = x.roll.cur ∧ y.roll.row = x.roll.row ∧ y.roll.table = x.roll.table ∧ y.skin.jobs = x.skin.jobs ∧ y.skin.askipNow = x.skin.askipNow ∧ y.skin.wskipNow = x.skin.wskipNow ∧
    (∀ a, a < saveBase → getByte y.pad.mem a = getByte x.pad.mem a)

/-- The commands of the sticks complete (R255, R357, R431, R432), whatever the state of the part. Without a task a stick's
MET_STKDONE, trap and device access change nothing (R432 says so of MET_STKDONE, log 10 of the others), and an aperture access
that R431 does not allow raises the stick access fault 0x01. With one, a write of MET_STKDONE ends the task with its CODE and COUNT, and a
trap raises the stick trap fault 0x03 and ends it faulted: the task stands ended, or its job is over. An aperture access that
R431 allows answers as many bytes as it asks for, the beat counter at 0x18 among them, and a write of PGT_IDX sets the stick's
own index. A device access with the words of the cache good, that nothing refuses or holds, loads what stands there and stores
its bytes: in LPDDR5 with no bad block and none that goes bad (log 62), in a pad of the job, and in the host's memory on a part that is no follower.

A stick's task ends by its command (R255, R357, R431, R432), stated with another task of the job running. A write of
MET_STKDONE ends the stick's task with its CODE and COUNT; a CODE above 2 and a RISC-V trap raise the stick trap fault 0x03 and
end it faulted; an access outside the aperture, to an unbacked address or to a pad outside the job's slot raises the stick
access fault 0x01; a word of the caches that SECDED cannot correct raises the stick memory error 0x02. -/
def Obligations.StickTasksEndTrapAndRead : Prop :=
  (
    ∀ (s : State) (k : Nat), k < 16 → s.Kept →
      (s.stickTask k = none → ∀ v addr write data cache net,
        exec (.metStkdone k v) s = .next s ∧ exec (.stickTrap k) s = .next s ∧
        exec (.stickDeviceAccess k addr write data ⟨cache, net⟩) s = .next s) ∧
      (s.stickTask k = none → (s.fault (0xA0 + k)).valid = false → ∀ off width write data, apertureOk k off width write = false →
        ∃ u, exec (.stickApertureAccess k off width write data) s = .next u ∧ u.latched (0xA0 + k) 0x01 none s.beat ∧
          u.drums = s.drums) ∧
      (∀ jn i t, s.stickTask k = some (jn, i) → s.task? jn i = some t → t.state ≠ .ended →
        (∀ v c, v.toNat % 16 = Code.num c → c = .done ∨ c = .doneEmpty ∨ c = .faulted →
          ∃ u, exec (.metStkdone k v) s = .next u ∧ (u.job? jn = none ∨ u.endedAs jn i c s.beat) ∧ u.faults = s.faults) ∧
        (∃ u, exec (.stickTrap k) s = .next u ∧
          ((s.fault (0xA0 + k)).valid = false → u.latched (0xA0 + k) 0x03 (some jn) s.beat ∧
            (u.job? jn = none ∨ u.endedAs jn i .faulted s.beat)))) ∧
      (∀ off width, apertureOk k off width false = true →
        ∃ u, exec (.stickApertureAccess k off width false 0) s = .next u ∧ u.resp.length = width) ∧
      exec (.stickApertureAccess k 0x18 8 false 0) s = .next (s.answer (leBytes 8 s.beat.toNat)) ∧
      (∀ data, ∃ u, exec (.stickApertureAccess k 0x4002000 4 true data) s = .next u ∧
        u = { s with mem := { s.mem with stickIdx := u.mem.stickIdx } } ∧
        u.mem.agentIdx k = (data.getLsbD 31, data.setWidth 21)) ∧
      (∀ jn i addr data net, s.stickTask k = some (jn, i) → data ≠ [] →
        s.slotTaken (s.rangeChans addr data.length) = false → s.padRefused jn addr data.length = false →
        (s.inMem addr data.length = true → addr + data.length ≤ padSpace → s.memHeld = false → (∀ c ∈ s.mem.chans, c.bad = []) →
          s.fates.blocks = [] →
          (∃ u, exec (.stickDeviceAccess k addr false data ⟨true, net⟩) s = .next u ∧
            u.resp = getBytes s.mem.data addr data.length ∧ u.mem.data = s.mem.data ∧ u.drums = s.drums ∧ u.met = s.met) ∧
          (∃ u, exec (.stickDeviceAccess k addr true data ⟨true, net⟩) s = .next u ∧
            u.mem.data = putBytes s.mem.data addr data ∧ u.drums = s.drums ∧ u.met = s.met)) ∧
        (∀ d, net = .arrives → s.inPads addr data.length = true → s.inMem addr 1 = false →
          s.inMem addr data.length = false → (padPlace addr).2 + data.length ≤ padSize → s.holder (padPlace addr).1 = some d →
          (s.drum d).pad.failed = [] →
          (∃ u, exec (.stickDeviceAccess k addr false data ⟨true, net⟩) s = .next u ∧
            u.resp = getBytes (s.drum d).pad.mem (padPlace addr).2 data.length ∧ (∀ e, SamePad (s.drum e).pad (u.drum e).pad)) ∧
          (∃ u, exec (.stickDeviceAccess k addr true data ⟨true, net⟩) s = .next u ∧
            (u.drum d).pad.mem = putBytes (s.drum d).pad.mem (padPlace addr).2 data ∧
            ∀ e, e ≠ d → u.drum e = s.drum e)) ∧
        (inHost addr data.length = true → s.mem.capacity ≤ padSpace → s.pcie.role ≠ 2 →
          (∃ u, exec (.stickDeviceAccess k addr false data ⟨true, net⟩) s = .next u ∧
            u.resp = getBytes s.hostMem (addr - hostSpace) data.length) ∧
          (∃ u, exec (.stickDeviceAccess k addr true data ⟨true, net⟩) s = .next u ∧
            u.hostMem = putBytes s.hostMem (addr - hostSpace) data)))
  ) ∧ (
    ∀ (s : State) (k : Nat) (jn : Half) (i : Nat) (t : Task), k < 16 → s.Kept → s.stickTask k = some (jn, i) →
      s.task? jn i = some t → t.state = .running → s.goesOn jn i →
      let faulted (u : State) (sub : Nat) : Prop := u.endedAs jn i .faulted s.beat ∧ u.latched (0xA0 + k) sub (some jn) s.beat
      (∀ v c, v.toNat % 16 = Code.num c → c = .done ∨ c = .doneEmpty ∨ c = .faulted →
        ∃ u, exec (.metStkdone k v) s = .next u ∧ u.endedAs jn i c s.beat ∧
          (∃ t', u.task? jn i = some t' ∧ t'.count = v.toNat / 65536) ∧ u.faults = s.faults) ∧
      ((s.fault (0xA0 + k)).valid = false →
        (∀ v, 2 < v.toNat % 16 → ∃ u, exec (.metStkdone k v) s = .next u ∧ faulted u 0x03) ∧
        (∃ u, exec (.stickTrap k) s = .next u ∧ faulted u 0x03) ∧
        (∀ off width write data, apertureOk k off width write = false →
          ∃ u, exec (.stickApertureAccess k off width write data) s = .next u ∧ faulted u 0x01) ∧
        (∀ addr write data cache net, s.backed addr data.length = false ∨ s.padRefused jn addr data.length = true →
          ∃ u, exec (.stickDeviceAccess k addr write data ⟨cache, net⟩) s = .next u ∧ faulted u 0x01) ∧
        (∀ addr write data net, s.backed addr data.length = true → s.padRefused jn addr data.length = false →
          ∃ u, exec (.stickDeviceAccess k addr write data ⟨false, net⟩) s = .next u ∧ faulted u 0x02))
  )

/-! ## The host interface -/

/-- RING_ENABLE and RING_DISABLE (R280, R281, R342, PCI_RQ_CFG). An EN write of 1 to a disabled ring whose values pass the check
starts it afresh with the sizes written: indices 0, PHASE 1, ERR clear; values that fail the check raise the fault 0x07 of
source 0x150 and the ring stays disabled. An EN write of 0 clears EN; it, and an EN write of 1 to an enabled ring, set the other
fields, which act on the ring at its next start, and leave everything else of it (log 34). What the ring had asked its lead for
goes, and the silence of R275 ends with a ring that starts.

Doorbells on a ring of this part (R284, R289, R298, R407). A page, whose place in BAR0
a host read or write names by its offset (log 16), reads its ring's indices and drops any other write. On an enabled ring a new SQTAIL below the ring's size is taken, and a
new CQHEAD releases the records up to it; an index outside the ring, or a CQHEAD beyond the records written, disables the ring
with ERR = 1 and raises the doorbell fault 0x02 of source 0x150; a write to a disabled ring, or one that comes before BAR0
(R407), is dropped and counted. -/
def Obligations.RingsStartStopAndTakeDoorbells : Prop :=
  (
    ∀ (s : State) (q : Nat) (v : Word), q < 4096 → s.Kept → s.boot.bar0 = true → s.boot.mode ≠ 2 →
      let r := s.ring q
      let c : Ring := { r with sqsz := BitVec.ofNat 4 (v.toNat / 16), cqsz := BitVec.ofNat 4 (v.toNat / 256), live := v.getLsbD 12 }
      (r.en = false → c.cfgOk (getCell 0#10 s.fab.groups q).toNat = true →
        ∃ t, exec (.ringEnable q v) s = .next t ∧
          t = { s with rings := t.rings, sent := t.sent,
                       pcie := { s.pcie with asks := t.pcie.asks, quiet := t.pcie.quiet, pba := t.pcie.pba,
                                             msixCount := t.pcie.msixCount } } ∧
          (∀ k ∈ t.pcie.asks, k.who ≠ .ring q) ∧
          t.pcie.quiet = (s.pcie.quiet && !(s.pcie.linkUp || s.pcie.role == 2)) ∧ (∀ p, p ≠ q → t.ring p = s.ring p) ∧
          (s.pcie.quiet = false → t.sent = s.sent ∧ t.pcie.pba = s.pcie.pba ∧ t.pcie.msixCount = s.pcie.msixCount) ∧
          t.ring q = { c with en := true, cqNow := c.cqsz, sqNow := c.sqsz, liveNow := c.live, err := false, sqhead := 0, sqtail := 0, cqhead := 0, cqtail := 0, phase := true,
                              reserved := r.reserved - r.unreleased, unreleased := 0, count := 0, oldest := none }) ∧
      (r.en = false → c.cfgOk (getCell 0#10 s.fab.groups q).toNat = false → (s.fault 0x150).valid = false →
        ∃ t, exec (.ringEnable q v) s = .next t ∧ t.latched 0x150 0x07 none s.beat ∧ t.ring q = c ∧
          (∀ p, p ≠ q → t.ring p = s.ring p)) ∧
      (r.en = true →
        (∃ t, exec (.ringEnable q v) s = .next t ∧ t = { s with rings := t.rings } ∧ (∀ p, p ≠ q → t.ring p = s.ring p) ∧
          t.ring q = c) ∧
        (∃ t, exec (.ringDisable q v) s = .next t ∧
          t = { s with rings := t.rings, pcie := { s.pcie with asks := t.pcie.asks } } ∧
          (∀ k ∈ t.pcie.asks, k.who ≠ .ring q) ∧ (∀ p, p ≠ q → t.ring p = s.ring p) ∧
          t.ring q = { c with en := false }))
  ) ∧ (
    ∀ (s : State) (page : Nat) (v : Word), page < 4096 → s.Kept →
      bit (s.dbmapOf page).toNat 31 = false ∨ s.pcie.role ≠ 1 →
      let q := fld (s.dbmapOf page).toNat 0 12
      let n := v.toNat % 65536
      let r := s.ring q
      let size := ringSize r.cqNow
      let k := (n + size - r.cqhead.toNat) % size
      let faulted (i : Instr) : Prop := ∃ t, exec i s = .next t ∧ t.latched 0x150 0x02 none s.beat ∧
        t.ring q = { r with en := false, err := true } ∧ (∀ p, p ≠ q → t.ring p = s.ring p)
      (r.en = true → r.err = false → s.boot.bar0 = true →
        (n < ringSize r.sqNow →
          ∃ t, exec (.doorbellSqtail page v) s = .next t ∧ t = { s with rings := t.rings } ∧
            (∀ p, p ≠ q → t.ring p = s.ring p) ∧ t.ring q = { r with sqtail := BitVec.ofNat 16 n }) ∧
        (n < size → k ≤ r.unreleased →
          ∃ t, exec (.doorbellCqhead page v) s = .next t ∧ t = { s with rings := t.rings } ∧
            (∀ p, p ≠ q → t.ring p = s.ring p) ∧
            t.ring q = { r with cqhead := BitVec.ofNat 16 n, reserved := r.reserved - k, unreleased := r.unreleased - k }) ∧
        ((s.fault 0x150).valid = false → ringSize r.sqNow ≤ n → faulted (.doorbellSqtail page v)) ∧
        ((s.fault 0x150).valid = false → size ≤ n ∨ r.unreleased < k → faulted (.doorbellCqhead page v))) ∧
      (s.boot.bar0 = true →
        exec (.broadcastRead (0x10000000 + 4096 * page) 4) s =
          .next (s.answer (leBytes 4 (r.sqhead.toNat + 65536 * r.sqtail.toNat))) ∧
        exec (.broadcastRead (0x10000000 + 4096 * page + 4) 4) s =
          .next (s.answer (leBytes 4 (r.cqtail.toNat + 65536 * r.cqhead.toNat))) ∧
        ∀ data, exec (.registerWrite (0x10000000 + 4096 * page + 8) 4 data) s =
          .next { s with pcie := { s.pcie with badacc := s.pcie.badacc + 1 } }) ∧
      (s.boot.bar0 = false → ∀ reg data, reg = 0 ∨ reg = 4 →
        exec (.registerWrite (0x10000000 + 4096 * page + reg) 4 data) s =
          .next { s with pcie := { s.pcie with dbdrop := s.pcie.dbdrop + 1 } }) ∧
      (r.en = false ∨ r.err = true →
        (exec (.doorbellSqtail page v) s = .next { s with pcie := { s.pcie with dbdrop := s.pcie.dbdrop + 1 } }) ∧
        (exec (.doorbellCqhead page v) s = .next { s with pcie := { s.pcie with dbdrop := s.pcie.dbdrop + 1 } }))
  )

/-- Interrupts (R275, R294-R296). While MSI-X is enabled and the link is up, a vector that is requested sends its entry's data to
its entry's address where it is not masked and sets its pending bit where it is: when the timer of a ring has run out, whose
count then returns to zero, and when a follower asks its lead. Unmasking a vector that is pending sends its message and clears
the bit; one that is not pending sends nothing. With MSI-X disabled or the link down no message goes, and none
from a link down fault on until a ring is enabled again. A lead that boots or has crashed counts a follower's request in
LNK_NOGRP and does nothing else. -/
def Obligations.VectorsSendOrPend : Prop :=
  ∀ (s : State) (v : Nat), v < 2048 → s.Kept →
    let sends (i : Instr) (vec : Nat) : Prop := ∃ t, exec i s = .next t ∧
      t.sent = Out.msix vec (s.vectorEntry vec).addr (s.vectorEntry vec).data :: s.sent ∧
      t.pcie.msixCount = s.pcie.msixCount + 1 ∧ t.met = s.met ∧ t.hostMem = s.hostMem
    let pends (i : Instr) (vec : Nat) : Prop := ∃ t, exec i s = .next t ∧ t.sent = s.sent ∧
      getCell false t.pcie.pba vec = true ∧ t.pcie.msixCount = s.pcie.msixCount ∧ t.met = s.met
    (∀ q b, q < 4096 → (s.ring q).oldest = some b → (s.ring q).time ≠ 0 →
      let vec := (s.ring q).vec.toNat
      (s.beat.toNat < b.toNat + 320 * (s.ring q).time.toNat → exec (.irqTimerExpire q) s = .next s) ∧
      (b.toNat + 320 * (s.ring q).time.toNat ≤ s.beat.toNat →
        (s.pcie.role ≠ 2 → s.pcie.quiet = false → s.pcie.msixEn = true → s.pcie.linkUp = true →
          (s.vectorMasked vec = false → sends (.irqTimerExpire q) vec) ∧
          (s.vectorMasked vec = true → pends (.irqTimerExpire q) vec)) ∧
        (∃ t, exec (.irqTimerExpire q) s = .next t ∧ t.ring q = { s.ring q with count := 0, oldest := none }))) ∧
    (s.pcie.msixEn = true → s.pcie.linkUp = true →
      (∀ src, s.pcie.quiet = false → s.pcie.role = 1 → s.deaf = false → (s.vectorMasked v = false → sends (.followerMsixRequest src v) v) ∧
        (s.vectorMasked v = true → pends (.followerMsixRequest src v) v)) ∧
      (s.pcie.quiet = false → s.pcie.funcMask = false → getCell false s.pcie.pba v = true →
        sends (.msixVectorUnmask v) v ∧
        ∃ t, exec (.msixVectorUnmask v) s = .next t ∧ getCell false t.pcie.pba v = false ∧ t.vectorMasked v = false)) ∧
    (getCell false s.pcie.pba v = false ∨ s.pcie.msixEn = false ∨ s.pcie.linkUp = false ∨ s.pcie.quiet = true →
      ∃ t, exec (.msixVectorUnmask v) s = .next t ∧ t.sent = s.sent ∧ t.pcie.msixCount = s.pcie.msixCount ∧ t.pcie.pba = s.pcie.pba) ∧
    (s.pcie.msixEn = false ∨ s.pcie.linkUp = false ∨ s.pcie.quiet = true → s.deaf = false → ∀ src, s.pcie.role = 1 →
      exec (.followerMsixRequest src v) s = .next s) ∧
    (s.deaf = true → ∀ src,
      exec (.followerMsixRequest src v) s = .next { s with fab := { s.fab with nogrp := s.fab.nogrp + 1 } })

/-- A lead and its followers (R272, R275, R296, R297, R406). An access of the follower window with VALID = 0 or a coordinate outside the
chassis reads zero, or is dropped and counted; otherwise it leaves as a packet for the follower, and a read waits behind those
before it. The oldest read that gets no answer in 100 us returns all ones, counts and raises the forwarding timeout fault 0x06.
A follower's host writes reach the host's memory, in pieces no longer than Max payload, and its host reads go to the host in
pieces no longer than Max read request size, 512 of them outstanding at a time; with the link down neither does, nor does a
write in the silence of R275, and a lead that boots or has crashed counts such a packet in LNK_NOGRP. The completions go back to
the follower, and one that ends a request lets one that waits go. Where the fields stand in the packets is the model's choice (log
17). -/
def Obligations.LeadForwardsAndServesFollowers : Prop :=
  ∀ (s : State), s.Kept →
    (∀ off width data, s.boot.bar0 = true → s.boot.mode ≠ 2 →
      s.pcie.role ≠ 1 ∨ s.pcie.fwdValid = false ∨ s.inChassis s.pcie.fwdSel = false →
      exec (.forwardedAccess off width false data) s = .next (s.answer (leBytes width 0)) ∧
      exec (.forwardedAccess off width true data) s = .next { s with pcie := { s.pcie with badacc := s.pcie.badacc + 1 } }) ∧
    (∀ off width data, s.boot.bar0 = true → s.boot.mode ≠ 2 → s.pcie.role = 1 → s.pcie.fwdValid = true →
      s.inChassis s.pcie.fwdSel = true → s.crashed = false →
      s.pcie.quiet = false ∨ enablesRing (off % 0x8000000) width true data = false →
      let pk (write : Bool) : Pk := ⟨9, 0, s.pcie.fwdSel, s.pcie.coord, 255, 255,
        leBytes 4 (off % 0x8000000) ++ leBytes 1 (width + 16 * write.toNat) ++ leBytes 8 data.toNat, []⟩
      exec (.forwardedAccess off width true data) s =
        .next { s with fab := (s.fab.route s.pcie.coord (pk true) false).1 } ∧
      exec (.forwardedAccess off width false data) s =
        .next { s with fab := (s.fab.route s.pcie.coord (pk false) false).1
                       pcie := { s.pcie with fwdReads := s.pcie.fwdReads ++ [⟨s.pcie.fwdSel, off % 0x8000000, width, s.power.ac⟩] } }) ∧
    (s.pcie.fwdReads = [] → exec .forwardTimeout s = .next s) ∧
    (∀ k rest, s.pcie.fwdReads = k :: rest →
      (s.power.ac.toNat < k.since.toNat + 32000 → exec .forwardTimeout s = .next s) ∧
      (k.since.toNat + 32000 ≤ s.power.ac.toNat → (s.fault 0x150).valid = false →
        ∃ t, exec .forwardTimeout s = .next t ∧ t.latched 0x150 0x06 none s.beat ∧ t.resp = List.replicate k.width 0xFF ∧
          t.pcie.fwdReads = rest ∧ t.pcie.fwdtmo = s.pcie.fwdtmo + 1)) ∧
    (∀ src live addr data, s.pcie.role = 1 → s.deaf = false →
      let pieces := cutWrite s.maxPayload (data.length + 1) addr data
      let asked := cutRead s.maxRead (data.length + 1) addr data.length
      let waits := s.pcie.fetches ++ asked.map fun p => (⟨src, p.1, p.2⟩ : Fetch)
      (s.pcie.linkUp = true → s.pcie.quiet = false →
        exec (.followerHostTraffic src 5 live addr data) s =
          .next { s with hostMem := putBytes s.hostMem addr data,
                         sent := (pieces.map fun p => Out.hostWrite p.1 p.2 false).reverse ++ s.sent }) ∧
      (s.pcie.linkUp = true →
        exec (.followerHostTraffic src 6 live addr data) s =
          .next { s with pcie := { s.pcie with fetches := waits }
                         sent := ((asked.take (512 - s.pcie.fetches.length)).map fun p => Out.hostRead src p.1 p.2).reverse ++
                           s.sent }) ∧
      (s.pcie.linkUp = false ∨ s.pcie.quiet = true → exec (.followerHostTraffic src 5 live addr data) s = .next s) ∧
      (s.pcie.linkUp = false → exec (.followerHostTraffic src 6 live addr data) s = .next s) ∧
      pieces.flatMap (·.2) = data ∧
      (∀ p ∈ pieces, p.2.length ≤ s.maxPayload ∧ p.1 / s.maxPayload = (p.1 + p.2.length - 1) / s.maxPayload) ∧
      (asked.map (·.2)).sum = data.length ∧ (∀ p ∈ asked, p.2 ≤ s.maxRead)) ∧
    (∀ src live addr data, s.deaf = true → ∀ pkind ∈ [5, 6],
      exec (.followerHostTraffic src pkind live addr data) s =
        .next { s with fab := { s.fab with nogrp := s.fab.nogrp + 1 } }) ∧
    (∀ src live addr data, s.pcie.role = 1 → s.crashed = false →
      let fab := (s.fab.route s.pcie.coord ⟨7, 0, src, s.pcie.coord, 255, 255, hostSpec addr data.length, data⟩ live).1
      let ended := (s.pcie.fetches.take 512).findIdx? fun f => f.ends src addr data.length
      (ended = none → exec (.followerHostTraffic src 7 live addr data) s = .next { s with fab := fab }) ∧
      (∀ i, ended = some i →
        exec (.followerHostTraffic src 7 live addr data) s =
          .next { s with fab := fab
                         pcie := { s.pcie with fetches := s.pcie.fetches.eraseIdx i }
                         sent := (match s.pcie.fetches[512]? with
                           | some f => [Out.hostRead f.src f.addr f.len]
                           | none => []) ++ s.sent }))

/-- The endpoint (R274, R275, R408). Function Level Reset ends every job of the part without a record or a message and leaves
rings, MSI-X state and configuration space at their reset values; each part of a chassis takes the command for its own jobs,
which is the model's choice (log 33). The loss of the link while a ring is enabled ends every job, disables
every ring by a fault, writes no record, sends nothing and raises the link down fault 0x05 of source 0x150; with no ring enabled
only the link's status goes. PERST resets rings, MSI-X state and configuration space besides. The link trains to a supported
width and speed and to no other (R272). A word written to configuration space is read back, an address register with the bits
of its size and type (R276); that such a word is stored as written is the model's choice
(log 64), for the words but those with a field that R272 gives. A follower ignores its pins;
LINK_DOWN tells it of its lead's link, on which its jobs end where a ring is enabled (log 33). -/
def Obligations.EndpointResetsAndLinkLoss : Prop :=
  ∀ (s : State), s.Kept →
    (s.pcie.role = 2 → exec .perstAssert s = .next s ∧ exec .perstRelease s = .next s ∧
      (s.anyRing = false → exec .linkDown s = .next s) ∧
      (s.anyRing = true → ∃ t, exec .linkDown s = .next t ∧ t.met.jobs = [] ∧ t.faults = s.faults ∧ t.hostMem = s.hostMem ∧
        t.sent = s.sent ∧ ∀ q, (t.ring q).en = false ∧ (t.ring q).out = [])) ∧
    (∃ t, exec .functionLevelReset s = .next t ∧ t.met.jobs = [] ∧ t.rings = [] ∧ t.hostMem = s.hostMem ∧ t.sent = s.sent ∧
      t.pcie = { s.pcie with table := [], pba := [], funcMask := false, msixEn := false, config := [], asks := t.pcie.asks }) ∧
    (s.pcie.role ≠ 2 →
      (s.anyRing = false →
        exec .linkDown s = .next { s with pcie := { s.pcie with linkUp := false, width := 0, speed := 0, fetches := [] } }) ∧
      (s.anyRing = true → (s.fault 0x150).valid = false →
        (∃ t, exec .linkDown s = .next t ∧ t.latched 0x150 0x05 none s.beat ∧ t.met.jobs = [] ∧
          (∀ q, (t.ring q).en = false ∧ (t.ring q).out = [] ∧ (t.ring q).err = ((s.ring q).err || (s.ring q).en) ∧
            (t.ring q).sqhead = (s.ring q).sqhead ∧ (t.ring q).cqtail = (s.ring q).cqtail) ∧ t.hostMem = s.hostMem ∧
          t.sent = s.sent ∧ t.pcie.linkUp = false) ∧
        (∃ t, exec .perstAssert s = .next t ∧ t.latched 0x150 0x05 none s.beat ∧ t.met.jobs = [] ∧ t.rings = [] ∧
          t.hostMem = s.hostMem ∧ t.pcie.perst = true ∧ t.pcie.table = [] ∧ t.pcie.pba = [] ∧ t.pcie.config = [])) ∧
      exec .perstRelease s = .next { s with pcie := { s.pcie with perst := false } } ∧
      (∀ off data, s.pcie.perst = false → s.boot.bar0 = true → off % 4 = 0 → s.configId off = none → off ≠ Config.msixCap →
        data ≠ configBlank off → (capField off).1 = 0 →
        ∃ t, exec (.configurationRequest off true data) s = .next t ∧
          t = { s with pcie := { s.pcie with config := t.pcie.config } } ∧
          ∃ u, exec (.configurationRequest off false 0) t = .next u ∧ (barWord off = none → u.resp = leBytes 4 data.toNat) ∧
            ∀ b, barWord off = some b → u.resp = leBytes 4 ((data &&& b.1) ||| b.2).toNat) ∧
      (∀ width speed, linkOk width speed = false → exec (.pcieLinkUp width speed) s = .next s) ∧
      (∀ width speed, s.pcie.perst = false → linkOk width speed = true → ∃ t, exec (.pcieLinkUp width speed) s = .next t ∧
        t = { s with sent := t.sent, power := { s.power with pcieRef := true },
                     pcie := { s.pcie with linkUp := true, width := BitVec.ofNat 6 width, speed := BitVec.ofNat 4 speed,
                                           pba := t.pcie.pba, msixCount := t.pcie.msixCount } }) ∧
      (∀ width speed, s.pcie.perst = false → linkOk width speed = true → s.pcie.pba = [] →
        exec (.pcieLinkUp width speed) s =
          .next { s with pcie := { s.pcie with linkUp := true, width := BitVec.ofNat 6 width, speed := BitVec.ofNat 4 speed }
                         power := { s.power with pcieRef := true } }))

/-- Configuration requests (R273): Request Retry Status until BAR0 is enabled; then the Device ID 0x4B01 in the header's first
word, the class code 0x120000 with the Revision ID 0xA1 in its third, and the subsystem IDs of the booted image. -/
def Obligations.ConfigurationHeaderAnswers : Prop :=
  ∀ (s : State), s.pcie.role ≠ 2 → s.pcie.perst = false →
    (s.boot.bar0 = false → ∀ off write data,
      exec (.configurationRequest off write data) s = .next { s with sent := .retry :: s.sent }) ∧
    (s.boot.bar0 = true → ∀ data,
      (∃ t, exec (.configurationRequest 0 false data) s = .next t ∧ t = { s with resp := t.resp } ∧
        t.resp.length = 4 ∧ leNat t.resp / 65536 = 0x4B01) ∧
      exec (.configurationRequest 8 false data) s = .next (s.answer (leBytes 4 0x120000A1)) ∧
      exec (.configurationRequest 0x2C false data) s = .next (s.answer (leBytes 4 s.boot.booted.subsystem.toNat)))

/-- COMPLETION_TIMEOUT (R271, R272, R300). A read of a DMA engine that fails raises the fault 0x04 of source 0x140 for the task's
job; a read of the entry at a ring's head disables the ring and raises the fault 0x04 of source 0x150; a read of that entry's
score raises it too, and the entry leaves the ring. -/
def Obligations.FailedHostReadsFault : Prop :=
  ∀ (s : State) (q : Nat), q < 4096 → s.Kept →
    (∀ e k b, s.met.moves.find? (·.engine == e) = some k → (s.fault 0x140).valid = false →
      ∃ t, exec (.completionTimeout q b (some e)) s = .next t ∧ t.latched 0x140 0x04 (some k.job) s.beat ∧ t.drums = s.drums ∧
        t.mem = s.mem ∧ t.met.moves = s.met.moves.filter (·.engine ≠ e)) ∧
    (s.canTake q = true → (s.fault 0x150).valid = false →
      (∃ t, exec (.completionTimeout q false none) s = .next t ∧ t.latched 0x150 0x04 none s.beat ∧
        t.ring q = { s.ring q with en := false, err := true } ∧ t.met = s.met) ∧
      (∀ e, s.entryAt q = some e → e.op = 1 → inHost e.addr 1 = true → s.entryBad e = false →
        ∃ t, exec (.completionTimeout q true none) s = .next t ∧ t.latched 0x150 0x04 none s.beat ∧
          (t.ring q).sqhead = (s.ring q).after ∧ t.met = { s.met with lastRing := q } ∧
          (t.ring q).pendingScores = (s.ring q).pendingScores ++ [(s.ring q).taken] ∧
          { opRecord .scoreFault e.utag 0 s.beat (s.ring q).sqhead true with kind := 1, serial := (s.ring q).taken } ∈ (t.ring q).out))

/-! ## Memory and its tables -/

/-- Placement (R303): every data block of the space in service has one channel and raw block, and that block's data begins at the
address of its own 480 bytes; two blocks of the space never share a place.

Raw blocks (R304, R305): the column group, bank group, bank, rank and row of a raw block of its device tell it from every
other; a raw block holds its 480 data bytes and then 32 check bytes, of which byte 480 + w is made from data bytes 15w to
15w + 14. -/
def Obligations.PlacementIsOneToOne : Prop :=
  (
    ∀ m : MainMem, m.map.Nodup → 48 ≤ m.map.length →
      (∀ n, n * 480 + 480 ≤ m.capacity → (m.place n).1 ∈ m.map ∧ m.blockAddr (m.place n).1 (m.place n).2 = some (n * 480)) ∧
      (∀ a b, a ≠ b → m.place a ≠ m.place b) ∧
      (∀ c b a, m.blockAddr c b = some a → m.place (a / 480) = (c, b) ∧ a % 480 = 0)
  ) ∧ (
    (∀ (m : MainMem) (b : Nat), b < (if m.dense16 then 16777216 else 8388608) →
      let r := m.rawPlace b
      r.column < 4 ∧ r.bankGroup < 4 ∧ r.bank < 4 ∧ r.rank < 2 ∧ r.row < (if m.dense16 then 131072 else 65536) ∧
      b = r.column + 4 * r.bankGroup + 16 * r.bank + 64 * r.rank + 128 * r.row) ∧
    (∀ data : List Byte, data.length = 480 →
      (rawBlock data).length = 512 ∧ (∀ i : Nat, i < 480 → (rawBlock data)[i]? = data[i]?) ∧
      ∀ w, w < 32 → ∃ l : List Byte, l.length = 15 ∧ (∀ i : Nat, i < 15 → l[i]? = data[15 * w + i]?) ∧
        (rawBlock data)[480 + w]? = some (Config.checkByte l))
  )

/-- MEMORY_READ, MEMORY_WRITE, ECC_WRITEBACK, PATROL_SCRUB, MR4_POLL and MEMORY_READY on a channel in service (R302, R306, R309,
R310, R312). A read that corrects or re-reads still delivers, and counts; a word that stays uncorrectable, or link retries that
run out, deliver nothing, latch MCH_UEADDR and raise the channel's fault. A burst is retried four times at most, each on its own.
A write replaces its bytes and heals the block; a partial write onto an uncorrectable word is refused, and so is one whose
retries run out. A corrected block is written back once; where the link fails that write, as the next of the environment's
outcomes may have it (log 62), it still waits, and a scrub finds what that outcome says. The scrubber keeps out of reserved
slots. In a reserved slot another class waits while a class-0 request of the channel is pending, and a class-0 block counts. Which
counters a read-modify-write and a scrub move, MCH_CE per code word, and MCH_UEADDR after exhausted retries are the model's
(log 40); so is which slot is the reserved one (log 21). -/
def Obligations.MemoryBlocksReadWriteAndHeal : Prop :=
  ∀ (s : State) (ch blk a cls : Nat), ch < 64 → s.Kept → s.mem.blockAddr ch blk = some a → s.mem.up = true →
    let c := s.chan ch
    let same (t : State) : Prop := (∀ e, e ≠ ch → t.chan e = s.chan e) ∧ t.mem.map = s.mem.map ∧ t.drums = s.drums
    let served : Prop := cls ≠ 0 → s.slotTaken [ch] = false
    let retries (errs : List Nat) : Dword := BitVec.ofNat 64 (errs.map (min · 4)).sum
    let words (v : EccVerdict) : Nat := match v with | .corrected w => wordCount w | _ => 0
    let live : Dword := if cls = 0 ∧ s.reservedSlot = true then c.liveblk + 1 else c.liveblk
    (¬ served → (∀ errs v, exec (.memoryRead ch blk cls errs v) s = .next s) ∧
      ∀ lo errs data v, exec (.memoryWrite ch blk lo cls errs data v) s = .next s) ∧
    (served → c.bad.contains blk = false → ∀ errs, linkSpent errs = false → ∀ v, v ≠ EccVerdict.uncorrectable →
      ∃ t, exec (.memoryRead ch blk cls errs v) s = .next t ∧ same t ∧ t.resp = getBytes s.mem.data a 480 ∧
        t.mem.data = s.mem.data ∧ t.faults = s.faults ∧ (t.chan ch).rdblk = c.rdblk + 1 ∧ (t.chan ch).liveblk = live ∧
        (t.chan ch).linkretry = c.linkretry + retries errs ∧
        (t.chan ch).ce = c.ce + BitVec.ofNat 64 (words v) ∧
        ((t.chan ch).fix.contains blk = (decide (words v ≠ 0) || c.fix.contains blk)) ∧
        (t.chan ch).reread = (if v = .rereadGood then c.reread + 1 else c.reread)) ∧
    (served → ∀ errs v, (linkSpent errs = true ∨ v = EccVerdict.uncorrectable ∨ c.bad.contains blk = true) →
      (s.fault (0xC0 + ch)).valid = false →
      ∃ t, exec (.memoryRead ch blk cls errs v) s = .next t ∧ same t ∧ t.resp = [] ∧ t.mem.data = s.mem.data ∧
        (t.chan ch).ue = c.ue + 1 ∧ (c.ueValid = false → (t.chan ch).ueAddr = BitVec.ofNat 48 a) ∧
        (c.ueValid = true → (t.chan ch).ueAddr = c.ueAddr) ∧
        t.latched (0xC0 + ch) (if linkSpent errs then 0x02 else 0x01) none s.beat) ∧
    (served → ∀ errs, linkSpent errs = false → ∀ lo data, data ≠ [] → lo + data.length ≤ 480 →
      (data.length = 480 ∨ c.bad.contains blk = false) →
      ∃ t, exec (.memoryWrite ch blk lo cls errs data .clean) s = .next t ∧ same t ∧ (t.chan ch).linkretry = c.linkretry + retries errs ∧
        t.mem.data = putBytes s.mem.data (a + lo) data ∧ t.faults = s.faults ∧ (t.chan ch).wrblk = c.wrblk + 1 ∧
        (t.chan ch).liveblk = live ∧
        (t.chan ch).rmw = (if data.length = 480 then c.rmw else c.rmw + 1) ∧ blk ∉ (t.chan ch).bad ∧ blk ∉ (t.chan ch).fix) ∧
    (served → ∀ errs lo data, data ≠ [] → lo + data.length ≤ 480 → linkSpent errs = true ∨ (data.length ≠ 480 ∧ c.bad.contains blk = true) →
      (s.fault (0xC0 + ch)).valid = false →
      ∃ t, exec (.memoryWrite ch blk lo cls errs data .clean) s = .next t ∧ same t ∧ t.mem.data = s.mem.data ∧
        (t.chan ch).ue = c.ue + 1 ∧ t.latched (0xC0 + ch) (if linkSpent errs then 0x02 else 0x04) none s.beat) ∧
    (c.fix.contains blk = true →
      (s.fates.blocks = [] →
        ∃ t, exec (.eccWriteback ch blk) s = .next t ∧ same t ∧ t.chan ch = c.rewritten blk ∧ blk ∉ (t.chan ch).fix ∧
          t.mem.data = s.mem.data) ∧
      (∀ f rest, s.fates.blocks = f :: rest → linkSpent f.errs = true → (s.fault (0xC0 + ch)).valid = false →
        ∃ t, exec (.eccWriteback ch blk) s = .next t ∧ same t ∧ (t.chan ch).fix = c.fix ∧ t.mem.data = s.mem.data ∧
          t.latched (0xC0 + ch) 0x02 none s.beat)) ∧
    (c.fix.contains blk = false → exec (.eccWriteback ch blk) s = .next s) ∧
    (c.patrol ≠ 0 → c.bad.contains blk = false → s.reservedSlot = false → s.chanWanted ch = false →
      (s.fates.blocks = [] → ∀ single,
        ∃ t, exec (.patrolScrub ch blk single) s = .next t ∧ same t ∧ (t.chan ch).scrubbed = c.scrubbed + 1 ∧
          (t.chan ch).rdblk = c.rdblk + 1 ∧ (t.chan ch).ce = (if single then c.ce + 1 else c.ce) ∧ t.faults = s.faults) ∧
      (∀ f rest, s.fates.blocks = f :: rest → linkSpent f.errs = false → f.ecc = .uncorrectable → (s.fault (0xC0 + ch)).valid = false →
        ∃ t, exec (.patrolScrub ch blk false) s = .next t ∧ same t ∧ (t.chan ch).ue = c.ue + 1 ∧ blk ∈ (t.chan ch).bad ∧
          t.latched (0xC0 + ch) 0x01 none s.beat)) ∧
    (c.patrol = 0 ∨ s.reservedSlot = true ∨ s.chanWanted ch = true → ∀ single, exec (.patrolScrub ch blk single) s = .next s) ∧
    (∀ temp, ∃ t, exec (.mr4Poll ch temp) s = .next t ∧ same t ∧
      t.chan ch = { c with temp := temp, fastRefresh := decide (85 < temp) }) ∧
    (∀ u : State, u.Kept → u.memHeld = true →
      ∃ t, exec .memoryReady u = .next t ∧ t.memHeld = false ∧ t.drums = u.drums ∧
        (u.mem.training = none → t.mem.up = true ∧ (∀ e, e < 64 → (t.chan e).ready = u.mem.map.contains e) ∧ t.mem.map = u.mem.map ∧
          t.mem.data = u.mem.data))

/-- The page and stream tables (R315, R317, R320, R431). While no clear runs, a 64-bit write of PGT_DATA sets the entry at the
agent's IDX and no other, a read answers it, and AUTOINC moves IDX on; a 32-bit write is dropped and counted. A clear zeroes
every entry at once and sets BUSY; until it ends reads give zero and are counted, as writes are. A write of a dword of a stream
record replaces it, but for reserved bits, and no other. That the entries are gone at once while BUSY lasts, and that a dropped
32-bit write leaves IDX, are the model's reading (log 41). -/
def Obligations.TablesAreWrittenReadAndCleared : Prop :=
  ∀ (s : State) (agent : Nat) (data : Dword), s.Kept → s.boot.bar0 = true → s.boot.mode ≠ 2 →
    let x := s.mem.agentIdx agent
    (s.mem.pgtBusy = false →
      (∃ t, exec (.pgtDataAccess agent 8 true data) s = .next t ∧ getCell 0#64 t.mem.pgt x.2.toNat = data ∧
        (∀ k, k ≠ x.2.toNat → getCell 0#64 t.mem.pgt k = getCell 0#64 s.mem.pgt k) ∧
        (t.mem.agentIdx agent).2 = (if x.1 then x.2 + 1 else x.2) ∧ t = { s with mem := t.mem }) ∧
      (∃ t, exec (.pgtDataAccess agent 8 false data) s = .next t ∧
        t.resp = leBytes 8 (getCell 0#64 s.mem.pgt x.2.toNat).toNat ∧ t.mem.pgt = s.mem.pgt ∧
        (t.mem.agentIdx agent).2 = (if x.1 then x.2 + 1 else x.2)) ∧
      exec (.pgtDataAccess agent 4 true data) s = .next { s with pcie := { s.pcie with badacc := s.pcie.badacc + 1 } }) ∧
    (∃ t, exec .pageTableClear s = .next t ∧ (∀ k, getCell 0#64 t.mem.pgt k = 0) ∧ t.mem.pgtBusy = true ∧
      t.mem.str = s.mem.str ∧ t.mem.data = s.mem.data) ∧
    (∃ t, exec .streamTableClear s = .next t ∧ (∀ k, getCell 0#64 t.mem.str k = 0) ∧ t.mem.strBusy = true ∧
      t.mem.pgt = s.mem.pgt ∧ t.mem.data = s.mem.data) ∧
    (s.mem.pgtBusy = true → ∀ write, ∃ t, exec (.pgtDataAccess agent 8 write data) s = .next t ∧ t.mem = s.mem ∧
      t.pcie = { s.pcie with badacc := s.pcie.badacc + 1 } ∧ (write = false → t.resp = leBytes 8 0)) ∧
    (s.mem.strBusy = false → ∀ k, k < 1048576 →
      ∃ t, exec (.registerWrite (0x4800000 + 8 * k) 8 data) s = .next t ∧ t = { s with mem := { s.mem with str := t.mem.str } } ∧
        getCell 0#64 t.mem.str k = (if k % 16 = 0 then data &&& 0x001FFFFF00000007 else data) ∧
        ∀ i, i ≠ k → getCell 0#64 t.mem.str i = getCell 0#64 s.mem.str i) ∧
    exec (.tableClearDone false) s = .next { s with mem := { s.mem with pgtBusy := false } } ∧
    exec (.tableClearDone true) s = .next { s with mem := { s.mem with strBusy := false } }

/-! ## Links and the fabric -/

/-- Routing (R335): X before Y before Z; the next hop of a packet that is not at its destination shortens its way by one hop,
and where both ways round a ring are equal it is the + one. The direction depends on nothing but the coordinates and the
dimensions, and the port on nothing but the packet's pair and the ports in service. -/
def Obligations.RoutesGoTheShorterWayInDimensionOrder : Prop :=
  ∀ dims cur dst : Coord, inTorus dims cur → inTorus dims dst →
    (cur = dst → nextDir dims cur dst = none) ∧
    (cur ≠ dst → ∃ dir, nextDir dims cur dst = some dir ∧ dir < 6 ∧ inTorus dims (hopOf dims cur dir) ∧
      torusHops dims (hopOf dims cur dir) dst + 1 = torusHops dims cur dst ∧
      (2 ≤ dir → cur.x = dst.x) ∧ (4 ≤ dir → cur.y = dst.y) ∧
      (dir < 2 → (dst.x + dims.x - cur.x) % dims.x = (cur.x + dims.x - dst.x) % dims.x → dir = 0) ∧
      (2 ≤ dir → dir < 4 → (dst.y + dims.y - cur.y) % dims.y = (cur.y + dims.y - dst.y) % dims.y → dir = 2) ∧
      (4 ≤ dir → (dst.z + dims.z - cur.z) % dims.z = (cur.z + dims.z - dst.z) % dims.z → dir = 4)) ∧
    (∀ (a b : List Port) (pair : Pair) (dir : Nat), a.length = b.length →
      (∀ i : Nat, (a[i]?).map (fun x => (x.inService, x.dir)) = (b[i]?).map (fun x => (x.inService, x.dir))) →
      choosePort a pair dir = choosePort b pair dir)

/-- A packet between parts, cut into the flits of a channel and put together from their padded payloads as a port does (R327,
R340), is the packet that was sent: no field and no data byte is lost. -/
def Obligations.PacketsReadBackFromTheirFlits : Prop :=
  ∀ (p : Pk) (vc : Nat), p.legal →
    Pk.ofBytes ((p.queued vc).flatMap fun q => padTo (if q.flit.half then 128 else 256) q.flit.payload) = some p

/-- A port's flits (R323, R325-R328, R331, R332). LINK_HANDSHAKE retires lanes that failed their training; with 6 or more left it
sends this part's word and, when the peer's agrees, brings the port up with full credits, and otherwise leaves it down with the
wiring fault 0x05; with fewer the port is retired. FLIT_SEND resends first; else it sends the next flit of the channel whose
turn it is, with the next SEQ, keeps it for replay and spends a credit; else an idle flit. Its bytes join the port's stream, and
the blocks of 256 bits that they complete go round the lanes in service (log 46). Stated without impairment. What of a
flit's bytes and of its acknowledgements the spec leaves open is the model's (log 46). -/
def Obligations.PortsComeUpAndSend : Prop :=
  ∀ (s : State) (p : Nat), p < 20 → s.Kept →
    let x := s.port p
    (∀ (lost : Byte) (peer : Hello), x.state = .training →
      let left := x.lanes &&& ~~~lost
      (6 ≤ popByte left → peer.coord = x.peer → peer.dims = s.fab.dims → peer.floor = s.boot.floor.toNat →
        ∃ t, exec (.linkHandshake p ⟨lost, peer⟩) s = .next t ∧ (t.port p).state = .up ∧ (t.port p).lanes = left ∧
          (t.port p).credits = [16, 64, 64, 256, 256, 128, 128] ∧ (t.port p).peerSynced = peer.synced ∧
          t.sent = .hello p ⟨s.pcie.coord, s.fab.dims, x.dir, s.boot.floor.toNat, s.fab.synced⟩ :: s.sent ∧
          (∀ e, e ≠ p → t.port e = s.port e) ∧ t.faults = s.faults) ∧
      (6 ≤ popByte left → peer.coord ≠ x.peer ∨ peer.dims ≠ s.fab.dims ∨ peer.floor ≠ s.boot.floor.toNat →
        (s.fault (0x100 + p)).valid = false →
        ∃ t, exec (.linkHandshake p ⟨lost, peer⟩) s = .next t ∧ (t.port p).state = .wiringFault ∧
          t.latched (0x100 + p) 0x05 none s.beat) ∧
      (popByte left < 6 → (s.fault (0x100 + p)).valid = false →
        ∃ t, exec (.linkHandshake p ⟨lost, peer⟩) s = .next t ∧ (t.port p).state = .retired ∧
          t.latched (0x100 + p) 0x01 none s.beat)) ∧
    let stream (f : Flit) : List Byte := x.txTail ++ flitBytes f ++ leBytes 8 f.crc.toNat
    let onLanes (t : State) (f : Flit) (bs : List (Nat × List Byte)) : Prop :=
      bs.flatMap (·.2) ++ (t.port p).txTail = stream f ∧ (t.port p).txTail.length < 32 ∧
      ∀ i l b, bs[i]? = some (l, b) → b.length = 32 ∧ (x.laneList ≠ [] → x.laneList[(x.txBlocks + i) % x.laneList.length]? = some l)
    (x.state = .up → x.impEn = false → x.heldFlits = [] →
      (∀ q rest, x.resend = q :: rest →
        ∃ t f bs, exec (.flitSend p) s = .next t ∧ t.sent = .flit p f bs :: s.sent ∧ onLanes t f bs ∧ f.seq = q.flit.seq ∧
          f.payload = (s.stamped q.flit).payload ∧ (q.flit.kind ≠ 2 → f.payload = q.flit.payload) ∧ f.vc = q.flit.vc ∧
          f.cvc = q.flit.cvc ∧ f.ccnt = q.flit.ccnt ∧ flitGood f = true ∧ (t.port p).resend = rest ∧
          (t.port p).replay = x.replay ∧ (t.port p).txSeq = x.txSeq) ∧
      (∀ vc q rest, x.resend = [] → x.pick = some vc → x.txq[vc]? = some (q :: rest) → vc < 7 →
        ∃ t f bs, exec (.flitSend p) s = .next t ∧ t.sent = .flit p f bs :: s.sent ∧ onLanes t f bs ∧ f.seq = x.txSeq ∧ f.vc = vc ∧
          f.payload = (s.stamped q.flit).payload ∧ (q.flit.kind ≠ 2 → f.payload = q.flit.payload) ∧
          f.ackseq = (x.rxSeq + 4095) % 4096 ∧ flitGood f = true ∧
          (t.port p).txSeq = (x.txSeq + 1) % 4096 ∧ (t.port p).replay = x.replay ++ [{ q with flit := f, owes := none }] ∧
          (t.port p).txq[vc]? = some rest ∧ (t.port p).credits[vc]? = (x.credits[vc]?).map (· - 1) ∧
          ∀ i v, q.owes = some (i, v) → i < 20 → i ≠ p → v < 7 → 0 < ((s.port i).through[v]?).getD 0 →
            (t.port i).owed = modAt (s.port i).owed v (· + 1) ∧ (t.port i).through = modAt (s.port i).through v (· - 1)) ∧
      (x.resend = [] → x.pick = none →
        ∃ t f bs, exec (.flitSend p) s = .next t ∧ t.sent = .flit p f bs :: s.sent ∧ onLanes t f bs ∧ f.kind = 0 ∧
          f.seq = (x.txSeq + 4095) % 4096 ∧ flitGood f = true ∧ (t.port p).txSeq = x.txSeq ∧
          (t.port p).replay = x.replay))

/-- FLIT_RECEIVE (R323, R327, R328, R331, R337, R340, R343) on a port that is up, holds nothing, and has no packet waiting under R330. A
flit that fails its CRC, or whose SEQ is neither the next nor one of the 512 before, opens a gap: it is counted and one nak goes
out; a duplicate is counted and dropped; an idle flit returns its credits; the next in order is taken. Of a packet for this part
its credit is owed at once and the payload joins the packet; a last flit whose bytes are no packet counts in LNK_BADPKT; the last
flit of a packet for a job not admitted yet leaves the packet and its credit at the port. A packet in transit is cut through
(R337): its first flit waits on the port of the route as soon as it has come, and each later one behind it, and each keeps its
place in the buffer until it leaves. What the lanes' FEC reports counts in every case. That a flit for this part owes its credit as
it is taken, and how the bytes of a packet lie in its flits, are the model's (log 46). -/
def Obligations.FlitsAreTakenInOrder : Prop :=
  ∀ (s : State) (p : Nat) (f : Flit) (fe : List (Nat × Nat)), p < 20 → s.Kept → (s.port p).state = .up → s.fab.waitingTx = [] → f.vc < 7 →
    f.acktype = 0 → (s.port p).rxPart.length = 7 → (s.port p).owed.length = 7 → (s.port p).credits.length = 7 →
    (s.port p).ingress = [] → (s.port p).stuck = [0, 0, 0, 0, 0, 0, 0] → (s.port p).cutRx = [] → (s.port p).cutWays = [] →
    (s.port p).ways.length = 7 → (∀ l ∈ (s.port p).rxPart, s.transits l = false) → s.holdsReq p = false →
    let x := s.port p
    let part := (x.rxPart[f.vc]?).getD [] ++ padTo (if f.half then 128 else 256) f.payload
    let count (y : Port) (k : LinkCount) : Dword := getCell 0#64 y.counters k.key
    let fec (y : Port) : Prop := count y .fecCorr = count x .fecCorr + BitVec.ofNat 64 (fe.map (·.1)).sum ∧
      count y .fecUnc = count x .fecUnc + BitVec.ofNat 64 (fe.map (·.2)).sum
    let naks (k : LinkCount) : Prop := ∃ t g bs, exec (.flitReceive p ⟨f, fe⟩) s = .next t ∧ t.sent = .flit p g bs :: s.sent ∧
      g.kind = 0 ∧ g.acktype = 2 ∧ g.ackseq = (x.rxSeq + 4095) % 4096 ∧ count (t.port p) k = count x k + 1 ∧ fec (t.port p) ∧
      (t.port p).rxSeq = x.rxSeq ∧ (t.port p).nakSent = true ∧ t.drums = s.drums
    cellsWf 0#64 x.counters = true →
    (flitGood f = false → x.nakSent = false → x.heldFlits = [] → naks .crcErr) ∧
    (flitGood f = false → x.nakSent = true →
      ∃ t, exec (.flitReceive p ⟨f, fe⟩) s = .next t ∧ t.sent = s.sent ∧ count (t.port p) .crcErr = count x .crcErr + 1 ∧
        fec (t.port p) ∧ (t.port p).rxSeq = x.rxSeq) ∧
    (flitGood f = true → f.kind ≠ 0 → f.seq ≠ x.rxSeq → 512 ≤ (x.rxSeq + 4095 - f.seq) % 4096 → x.nakSent = false →
      x.heldFlits = [] → naks .reorder) ∧
    (flitGood f = true → f.kind ≠ 0 → f.seq ≠ x.rxSeq → (x.rxSeq + 4095 - f.seq) % 4096 < 512 →
      ∃ t, exec (.flitReceive p ⟨f, fe⟩) s = .next t ∧ t.sent = s.sent ∧ count (t.port p) .dups = count x .dups + 1 ∧
        fec (t.port p) ∧ (t.port p).rxSeq = x.rxSeq ∧ (t.port p).rxPart = x.rxPart) ∧
    (flitGood f = true → f.kind = 0 →
      ∃ t, exec (.flitReceive p ⟨f, fe⟩) s = .next t ∧ (t.port p).rxSeq = x.rxSeq ∧ fec (t.port p) ∧
        (t.port p).credits = modAt x.credits f.cvc (· + f.ccnt) ∧ t.drums = s.drums) ∧
    let comes : Prop := flitGood f = true ∧ f.kind ≠ 0 ∧ f.seq = x.rxSeq
    let begins : Prop := comes ∧ x.ways[f.vc]? = some none
    let accepted (t : State) : Prop := (t.port p).rxSeq = (x.rxSeq + 1) % 4096 ∧ (t.port p).nakSent = false ∧ fec (t.port p) ∧
      t.drums = s.drums
    (begins → f.last = false → (isReq f.vc = true → s.waitsBytes part = false) → s.transits part = false →
      ∃ t, exec (.flitReceive p ⟨f, fe⟩) s = .next t ∧ accepted t ∧ (t.port p).owed = modAt x.owed f.vc (· + 1) ∧
        (t.port p).through = x.through ∧ (t.port p).rxPart[f.vc]? = some part) ∧
    (∀ k dir i d, begins → (isReq f.vc = true → s.waitsBytes part = false) → Pk.ofBytes part = some k → s.transits part = true →
      x.rxPart[f.vc]? = some [] → f.payload.length ≤ (if f.half then 128 else 256) → s.fab.pairHeld k.pair = false →
      hopDir s.fab.dims s.pcie.coord k.dst (some x.dir.toNat) = some dir → choosePort s.fab.ports k.pair dir = some (i, d) →
      i < 20 → (s.port i).txq.length = 7 →
      ∃ t, exec (.flitReceive p ⟨f, fe⟩) s = .next t ∧ accepted t ∧ (t.port p).owed = x.owed ∧
        (t.port p).through = modAt x.through f.vc (· + 1) ∧ (t.port p).rxPart[f.vc]? = some [] ∧
        (∃ v q, v < 7 ∧ (t.port i).txq[v]? = ((s.port i).txq[v]?).map (· ++ [q]) ∧ flitPayload q.flit = part ∧ q.flit.last = f.last ∧
          q.owes = some (p, f.vc) ∧ q.first = true) ∧
        (((t.port p).ways[f.vc]?).bind id).isSome = !f.last) ∧
    (∀ w i v, comes → x.ways[f.vc]? = some (some w) → w.out = some (i, v) → w.fresh = false → i < 20 → v < 7 →
      (s.port i).txq[v]? = some [] →
      ∃ t q, exec (.flitReceive p ⟨f, fe⟩) s = .next t ∧ accepted t ∧ (t.port p).owed = x.owed ∧
        (t.port p).through = modAt x.through f.vc (· + 1) ∧ (t.port p).rxPart = x.rxPart ∧ (t.port i).txq[v]? = some [q] ∧
        q.flit.payload = f.payload ∧ q.flit.last = f.last ∧ q.owes = some (p, f.vc) ∧ q.first = false ∧
        (((t.port p).ways[f.vc]?).bind id).isSome = !f.last) ∧
    (begins → f.last = true → Pk.ofBytes part = none →
      ∃ t, exec (.flitReceive p ⟨f, fe⟩) s = .next t ∧ (t.port p).rxSeq = (x.rxSeq + 1) % 4096 ∧
        (t.port p).owed = modAt x.owed f.vc (· + 1) ∧ (t.port p).rxPart[f.vc]? = some [] ∧ fec (t.port p) ∧
        t.fab.badpkt = s.fab.badpkt + 1 ∧ t.drums = s.drums) ∧
    (begins → f.last = true → isReq f.vc = true → s.waitsBytes part = true →
      ∃ t, exec (.flitReceive p ⟨f, fe⟩) s = .next t ∧ (t.port p).rxSeq = (x.rxSeq + 1) % 4096 ∧ (t.port p).owed = x.owed ∧
        (t.port p).stuck = modAt x.stuck f.vc (· + 1) ∧ (t.port p).ingress = [(f.vc, part)] ∧ t.holdsReq p = true ∧
        t.noc = s.noc ∧ t.drums = s.drums)

/-- Replay, retraining and retirement (R328-R330, R430). REPLAY_TIMEOUT resends everything that is not acknowledged. LINK_RETRAIN
of a port that is due, after 16 resends without progress or for the FEC errors of a lane, or that the other end starts, and a
RETRAIN write take a port that is up into
retraining and count it; the write on a retired port is dropped and counted. A retrain that ends well on at least 6 lanes
brings the port up, and raises the lane retired fault 0x02 when it lost a lane; one that fails starts again; one that leaves
fewer than 6, or fails for the third time, retires the port with the fault 0x01. The rate of FEC errors is read off single
codewords, and a replay timeout counts as a resend without progress, as log 46 has it. -/
def Obligations.PortsReplayRetrainAndRetire : Prop :=
  ∀ (s : State) (p : Nat), p < 20 → s.Kept →
    let x := s.port p
    let retrains (i : Instr) : Prop := ∃ t, exec i s = .next t ∧ (t.port p).state = .retraining ∧
      getCell 0#64 (t.port p).counters 8 = getCell 0#64 x.counters 8 + 1 ∧ (t.port p).replay = x.replay ∧
      (t.port p).noProgress = 0 ∧ (∀ e, e ≠ p → t.port e = s.port e)
    (x.state = .up → x.replay ≠ [] → ∃ t, exec (.replayTimeout p) s = .next t ∧
      t.port p = { x with resend := x.replay, noProgress := x.noProgress + 1 } ∧ (∀ e, e ≠ p → t.port e = s.port e)) ∧
    (cellsWf 0#64 x.counters = true → x.state = .up → 16 ≤ x.noProgress → retrains (.linkRetrain ⟨p, false⟩)) ∧
    (cellsWf 0#64 x.counters = true → x.state = .up → ∀ b, some b ∈ x.fecAt → s.power.ac.toNat ≤ b.toNat + 3200000 →
      retrains (.linkRetrain ⟨p, false⟩)) ∧
    (cellsWf 0#64 x.counters = true → x.state = .up → retrains (.linkRetrain ⟨p, true⟩)) ∧
    (x.noProgress < 16 → (∀ b ∈ x.fecAt, b = none) → exec (.linkRetrain ⟨p, false⟩) s = .next s) ∧
    (cellsWf 0#64 x.counters = true → s.boot.bar0 = true → s.boot.mode ≠ 2 → x.state = .up → retrains (.lnkRetrainWrite p)) ∧
    (s.boot.bar0 = true → s.boot.mode ≠ 2 → x.state = .retired →
      exec (.lnkRetrainWrite p) s = .next { s with pcie := { s.pcie with badacc := s.pcie.badacc + 1 } }) ∧
    (∀ lost : Byte, x.state = .retraining →
      let left := x.lanes &&& ~~~lost
      (6 ≤ popByte left → x.lanes &&& lost = 0 →
        ∃ t, exec (.retrainEnd p lost true) s = .next t ∧
          t.port p = { x with state := .up, lanes := left, failedRetrains := 0, txTail := [], txBlocks := 0 } ∧ t.faults = s.faults) ∧
      (6 ≤ popByte left → x.lanes &&& lost ≠ 0 → (s.fault (0x100 + p)).valid = false →
        ∃ t, exec (.retrainEnd p lost true) s = .next t ∧ (t.port p).state = .up ∧ (t.port p).lanes = left ∧
          t.latched (0x100 + p) 0x02 none s.beat) ∧
      (6 ≤ popByte left → x.lanes &&& lost = 0 → x.failedRetrains < 2 →
        ∃ t, exec (.retrainEnd p lost false) s = .next t ∧ (t.port p).state = .retraining ∧
          (t.port p).failedRetrains = x.failedRetrains + 1 ∧ (t.port p).replay = x.replay ∧ t.faults = s.faults) ∧
      ((s.fault (0x100 + p)).valid = false → popByte left < 6 → ∀ ok,
        ∃ t, exec (.retrainEnd p lost ok) s = .next t ∧ (t.port p).state = .retired ∧
          t.latched (0x100 + p) 0x01 none s.beat) ∧
      ((s.fault (0x100 + p)).valid = false → 2 ≤ x.failedRetrains →
        ∃ t, exec (.retrainEnd p lost false) s = .next t ∧ (t.port p).state = .retired ∧
          t.latched (0x100 + p) 0x01 none s.beat))

/-- Beat alignment (R346-R349, R404). ALIGNMENT_SEND queues one packet on the control channel of its port. A part that is not
SYNCED takes the beat of a SYNCED peer on its source port, plus the link's delay, and is SYNCED; a SYNCED part never changes
its beat, and the sixteenth packet in a row from its parent, on whichever port, beyond 4 ticks raises the beat sync fault 0x04
of its parent's port. The first SYNC_IN edge loads 0 on a part that is not SYNCED; a lead drives SYNC_OUT once, from 20 ms after
its lock; without an edge the sync fault 0x04 of source 0x160 is raised once when it is due: from 50 ms on for a part that has
come up beside parts of which none was SYNCED, from 500 ms on for one that is not SYNCED by then. The packet's bytes are the
model's (log 17), and so is when a part that still trains counts as no part that rejoins (log 68).

Aborts across parts (R350, R351). The first packet of an abort closes its group, counts, and ends the part's job of the
group; a packet of an abort that has been seen does nothing. A write of LNK_FAB_REOPEN opens the group again. -/
def Obligations.BeatsAlignAndAbortsCloseGroups : Prop :=
  (
    ∀ (s : State) (p : Nat) (b : Dword), p < 20 → s.Kept →
      let x := s.port p
      let off : Int := (b.toNat + x.delay : Nat) - (s.beat.toNat : Int)
      (x.inService = true →
        ∃ t, exec (.alignmentSend p) s = .next t ∧
          t.fab.ports = queueFlits s.fab.ports p 0 (Pk.queued ⟨0x11, 0, x.peer, s.pcie.coord, 255, 255,
            leBytes 8 s.beat.toNat ++ leBytes 1 (!s.fab.synced).toNat, []⟩ 0) ∧
          t = { s with fab := { s.fab with ports := t.fab.ports } }) ∧
      (x.inService = true → s.fab.synced = false → (s.modPort p fun y => { y with peerSynced := true }).sourcePort = some p →
        ∃ t, exec (.alignmentReceive p b false) s = .next t ∧ t.beat = BitVec.ofNat 64 (b.toNat + x.delay) ∧
          t.fab.synced = true ∧ t.fab.offset = 0 ∧ t.fab.depth = BitVec.ofNat 6 (hopsToRoot s.fab.dims s.pcie.coord)) ∧
      (x.inService = true → s.fab.synced = true → s.fab.outOfStep ≠ 15 → ∀ n,
        ∃ t, exec (.alignmentReceive p b n) s = .next t ∧ t.beat = s.beat ∧ t.fab.synced = true ∧
          (n = true → t.fab.offset = s.fab.offset) ∧
          (n = false → s.fab.root = false → (s.port s.fab.parent.toNat).peer = x.peer → t.fab.offset = off) ∧
          (n = false → s.fab.root = true ∨ (s.port s.fab.parent.toNat).peer ≠ x.peer → t.fab.offset = s.fab.offset)) ∧
      (x.inService = true → s.fab.synced = true → s.fab.root = false → (s.port s.fab.parent.toNat).peer = x.peer →
        s.fab.outOfStep = 15 → 4 < off ∨ off < -4 → (s.fault (0x100 + s.fab.parent.toNat)).valid = false →
        ∃ t, exec (.alignmentReceive p b false) s = .next t ∧ t.latched (0x100 + s.fab.parent.toNat) 0x04 none s.beat ∧
          t.beat = s.beat) ∧
      (s.power.locked = true → s.pcie.role ≠ 0 → s.fab.lockBeat.isSome = true →
        let due := 16000000 ≤ s.power.ac.toNat ∧ s.fab.rejoin = false ∧ (∀ x ∈ s.fab.ports, x.state ≠ .training) ∨
          160000000 ≤ s.power.ac.toNat ∧ (s.fab.rejoin = false ∨ s.fab.synced = false)
        exec .syncInEdge s = .next { s with beat := if s.fab.synced = true then s.beat else 0, fab := { s.fab with lockBeat := none } } ∧
        (s.fab.late = false → ¬ due → exec .syncInTimeout s = .next s) ∧
        (s.fab.late = false → due → (s.fault 0x160).valid = false →
          ∃ t, exec .syncInTimeout s = .next t ∧ t.latched 0x160 0x04 none s.beat ∧ t.beat = s.beat ∧
            t.fab = { s.fab with late := true })) ∧
      (s.fab.late = true → exec .syncInTimeout s = .next s) ∧
      (s.fab.lockBeat = none → exec .syncInEdge s = .next s ∧ exec .syncInTimeout s = .next s) ∧
      (s.power.locked = true → s.pcie.role = 1 → s.fab.pulsed = false → 6400000 ≤ s.power.ac.toNat →
        exec .syncOutPulse s = .next { s with fab := { s.fab with pulsed := true }, sent := .syncOut :: s.sent }) ∧
      (s.pcie.role ≠ 1 ∨ s.fab.pulsed = true ∨ s.power.ac.toNat < 6400000 → exec .syncOutPulse s = .next s)
  ) ∧ (
    ∀ (s : State) (p g : Nat) (origin : Coord) (serial : Half) (stamp : Dword), p < 20 → s.Kept → 0 < g → g < 1024 →
      ((s.port p).inService = true → s.fab.seen.contains ⟨origin, serial⟩ = true →
        exec (.abortReceive p g origin serial stamp) s = .next s) ∧
      ((s.port p).inService = true → s.fab.seen.contains ⟨origin, serial⟩ = false →
        ∃ t, exec (.abortReceive p g origin serial stamp) s = .next t ∧ t.fab.closed.contains g = true ∧
          t.fab.seen.contains ⟨origin, serial⟩ = true ∧ t.fab.abortRx = s.fab.abortRx + 1 ∧
          (∀ j ∈ t.met.jobs, j.group ≠ g)) ∧
      (∀ v : Word, s.boot.bar0 = true → s.boot.mode ≠ 2 → v.toNat % 1024 = g →
        ∃ t, exec (.groupReopen v) s = .next t ∧ t.fab.closed.contains g = false ∧
          (∀ h, h ≠ g → t.fab.closed.contains h = s.fab.closed.contains h) ∧
          t = { s with fab := { s.fab with closed := t.fab.closed, aborts := t.fab.aborts } })
  )

/-! ## Faults, retirement and the sound check -/

/-- Fault sets (R359, R361-R363, R379). An expired grace timer takes the record one level up: to stroke, at which a drum or a stick
halts, a drum clears, the task that it runs ends aborted and the record's job is aborted; to crash, which pulls FAULT_N low and
ends every job; and to gong, which is a warm reset that keeps the record frozen. Records due in the same tick gong with it, and
PWR_GONG names the lowest source of them (R364). Before expiry nothing happens. The end of the pulse leaves the pin to HOLD. A
clear leaves the settings alone; in one tick an escalation that is due takes effect before it, and a fault latches after it, as a
new record at notice. In factory test mode a GO write latches an injected record with the SUB and JOB written. -/
def Obligations.RecordsClimbClearAndTakeInjections : Prop :=
  ∀ (s : State) (src : Nat), isSource src = true → s.Kept →
    let f := s.fault src
    let strokes := f.expired s.power.ac = true ∧ f.level = 0
    (f.expired s.power.ac = false → exec (.graceExpire src) s = .next s) ∧
    (strokes → 0x88 ≤ src → f.jobv = false → src < 0xA0 ∨ 0xB0 ≤ src →
      ∃ t, exec (.graceExpire src) s = .next t ∧
        t.fault src = { f with level := 1, origin := s.timerFrom src } ∧
        (∀ e, e ≠ src → t.fault e = s.fault e) ∧ t.met = s.met ∧ t.drums = s.drums) ∧
    (strokes → ∃ t, exec (.graceExpire src) s = .next t ∧ (t.fault src).level = 1 ∧
      (f.jobv = true → ∀ j ∈ t.met.jobs, j.num ≠ f.job)) ∧
    (strokes → src < 136 → ∃ t, exec (.graceExpire src) s = .next t ∧
      (t.drum src).seq.run = none ∧ (t.drum src).claim = none ∧ (t.drum src).preempting = none ∧ (t.drum src).skin.tile = none ∧
      (t.drum src).shell.rows = [] ∧ (t.drum src).shell.leaves = [] ∧ (t.drum src).tuner.recs = [] ∧
      ∀ j i k, (s.drum src).ownTask = some (j, i) → f.jobv = false → s.task? j i = some k → k.state = .running → s.goesOn j i →
        t.endedAs j i .aborted s.beat) ∧
    (strokes → 0xA0 ≤ src → src < 0xB0 → ∃ t, exec (.graceExpire src) s = .next t ∧
      ∀ j i k, getCell none s.met.sticks (src - 0xA0) = some (j, i) → f.jobv = false → s.task? j i = some k → k.state = .running →
        s.goesOn j i → t.endedAs j i .aborted s.beat ∧ getCell none t.met.sticks (src - 0xA0) = none) ∧
    (f.expired s.power.ac = true → f.level = 1 →
      ∃ t, exec (.graceExpire src) s = .next t ∧ (t.fault src).level = 2 ∧ t.crashed = true ∧ t.power.faultnPulse = true ∧
        t.met.jobs = []) ∧
    (s.gongDue src = true → ∀ e, s.gongDue e = true → (∀ k, k < e → s.gongDue k = false) →
      ∃ t, exec (.graceExpire src) s = .next t ∧ (∀ k, s.gongDue k = true → (t.fault k).level = 3 ∧ (t.fault k).frozen = true) ∧
        t.met.jobs = [] ∧ t.power.gongValid = true ∧ t.power.gongSource = BitVec.ofNat 9 e ∧ t.power.gongSub = (s.fault e).sub ∧
        t.boot.booting = true ∧ t.beat = s.beat) ∧
    (s.power.faultnPulse = true → exec .faultnPulseEnd s =
      .next { s with power := { s.power with faultnPulse := false }, sent := .faultN s.power.faultnHold :: s.sent }) ∧
    (s.windowOpen src = true →
      (f.valid = true → f.expired s.power.ac = false → s.tickFaults src = [] →
        ∃ t, exec (.faultClear src) s = .next t ∧ t = { s with faults := t.faults } ∧
          t.fault src = { FaultSet.reset with ien := f.ien, vec := f.vec, grace := f.grace, recent := f.recent, tick := f.tick } ∧
          (∀ e, e ≠ src → t.fault e = s.fault e)) ∧
      (f.valid = true → f.expired s.power.ac = true → f.level = 1 → s.tickFaults src = [] →
        ∃ t, exec (.faultClear src) s = .next t ∧ (t.fault src).valid = false ∧ t.crashed = true ∧ t.met.jobs = []) ∧
      ((s.tickFaults src).any (fun e => e.1 == f.stamp) = true → exec (.faultClear src) s = .next s) ∧
      (∀ b r, f.valid = true → f.expired s.power.ac = false → s.tickFaults src = [(b, r)] → r.src = src → b ≠ f.stamp →
        ∃ t, exec (.faultClear src) s = .next t ∧ (t.fault src).valid = true ∧ (t.fault src).sub = r.sub ∧ (t.fault src).level = 0 ∧
          (t.fault src).stamp = b ∧ (t.fault src).ovf = false ∧ (t.fault src).nlate = 0) ∧
      (f.valid = false → exec (.faultClear src) s = .next s) ∧
      (∀ v : Word, s.boot.mode = 1 → v.getLsbD 31 = true → f.valid = false →
        ∃ t, exec (.faultInject src v) s = .next t ∧ (t.fault src).valid = true ∧ (t.fault src).inj = true ∧
          (t.fault src).real = false ∧ (t.fault src).level = 0 ∧ (t.fault src).sub = BitVec.ofNat 8 v.toNat ∧
          (t.fault src).jobv = v.getLsbD 25 ∧ (t.fault src).stamp = s.beat ∧
          (v.getLsbD 25 = true → (t.fault src).job = BitVec.ofNat 16 (v.toNat / 512)) ∧ t.drums = s.drums ∧ t.met = s.met))

/-- Injection outside factory test mode (R378): the write is dropped and counted in PCI_BADACC; in factory test mode a write of
GO = 1 leaves the source's record valid. -/
def Obligations.InjectionNeedsFactoryTestMode : Prop :=
  ∀ (s : State) (src : Nat) (v : Word), isSource src = true → s.Kept → s.boot.bar0 = true →
    (s.boot.mode ≠ 1 →
      exec (.faultInject src v) s = .next { s with pcie := { s.pcie with badacc := s.pcie.badacc + 1 } }) ∧
    (s.boot.mode = 1 → v.getLsbD 31 = true → (s.fault src).valid = false →
      ∃ t, exec (.faultInject src v) s = .next t ∧ (t.fault src).valid = true)

/-- DRM_RETIRE (R28, R30, R227, R367, R368): the drum is retired at once, and its HELD slots are lost; one that holds no job
passes its logical number to its spare, which is then active, and no other drum changes. A write of 0 does nothing. That the
reserve bit goes with the logical number is the model's reading (log 38).

SOUND_CHECK (R371, R372, R374). A check at its due beat counts, under the variant of its beat, and of the shell touches the
check row alone, which takes row 0's values; a pass notes the beat; a failure with a passing rerun counts as a rerun. A run
passes where its path shows no flaw, whatever the latches hold, and fails where one segment integer is off. Where the rerun fails
too, the ac after it, 512 ac after the start, retires the drum and raises the sound check fault 0x70 with the stamp of that ac,
and none of it comes before. At any other beat nothing happens. The flaws are the command's, and the order of the patterns and the
stages' operands the model's (log 14); what of the checks' bookkeeping is the model's stands in log 39. -/
def Obligations.SoundChecksAndRetirement : Prop :=
  (
    ∀ (s : State) (d : Nat) (v : Word), d < 136 → s.Kept → s.windowOpen d = true →
      (v.getLsbD 0 = false → exec (.drmRetire d v) s = .next s) ∧
      (∀ q, v.getLsbD 0 = true → (s.drum d).status = .active → (s.drum d).logical ≠ 0xFF → (s.drum d).hasJob = false →
        s.leaving = [] → s.spareFor d = some q →
        ∃ t, exec (.drmRetire d v) s = .next t ∧ (t.drum d).status = .retired ∧ (t.drum d).logical = 0xFF ∧
          (t.drum q).status = .active ∧ (t.drum q).logical = (s.drum d).logical ∧
          (t.drum q).pad.saveEn = s.met.mask.getLsbD (s.drum d).logical.toNat ∧ (∀ e, e ≠ d → e ≠ q → t.drum e = s.drum e) ∧
          ((s.drum q).logical = 0xFF → t.exposed = s.exposed) ∧
          (∀ (k : Nat) x, k < 8 → (s.drum d).pad.slots[k]? = some x → x.state = .held →
            ∃ y, (t.drum d).pad.slots[k]? = some y ∧ y.state = .purge) ∧ t.met = s.met ∧ t.faults = s.faults)
  ) ∧ (
    ∀ (s : State) (d : Nat), d < 136 → s.Kept → (s.drum d).status ≠ .retired → s.power.locked = true →
      let x := (s.drum d).sound
      let k := (s.drum d).skin
      let v := s.beat.toNat / 80000 % 4
      (s.beat.toNat % 80000 ≠ 588 * d → ∀ a b, exec (.soundCheck d a b) s = .next s) ∧
      (s.beat.toNat % 80000 = 588 * d → ∀ a b,
        let p := k.checkPasses v a
        let q := k.checkPasses v b
        ∃ t, exec (.soundCheck d a b) s = .next t ∧ (t.drum d).sound.runs = x.runs + 1 ∧
          (t.drum d).sound.reruns = (if p = false ∧ q = true then x.reruns + 1 else x.reruns) ∧
          (t.drum d).sound.variant.toNat = v ∧ (t.drum d).status = (s.drum d).status ∧ (t.drum d).skin = k ∧
          (t.drum d).pad = (s.drum d).pad ∧
          (t.drum d).shell = { (s.drum d).shell with check := (t.drum d).shell.check } ∧
          (∀ n, n < 1024 → getCell 0#32 (t.drum d).shell.check n = k.checkValue v (if p then a else b) n) ∧
          t.faults = s.faults ∧ t.beat = s.beat ∧
          (p = true ∨ q = true → (t.drum d).sound.lastPass = s.beat ∧ (t.drum d).sound.failIn = x.failIn) ∧
          (p = false → q = false → (t.drum d).sound.failIn = 512 ∧ (t.drum d).sound.lastPass = x.lastPass)) ∧
      (∀ w, k.checkPasses w [] = true ∧
        ∀ r n i off, r < 8 → n < checkCols w r → i < 1024 / checkGroup w r → off ≠ 0 → k.checkPasses w [.segment r n i off] = false) ∧
      ((∀ e, e ≠ d → (s.drum e).sound.failIn = 0) →
        (∀ n, x.failIn = n + 2 → s.soundTick = s.modDrum d fun y => { y with sound := { y.sound with failIn := n + 1 } }) ∧
        (x.failIn = 1 → (s.fault d).valid = false →
          (s.soundTick.drum d).status = .retired ∧ (s.soundTick.drum d).sound.fail = true ∧ (s.soundTick.drum d).sound.failIn = 0 ∧
          s.soundTick.latched d 0x70 none s.beat))
  )

/-! ## Clocks, power and resets -/

/-- Power and heat (R410-R412, R419, R420). A frame of 64 ac has 64 - D idle strike slots; one counts once for every drum it
reaches. The 10 us update moves Dcap and Dtherm by at most one step and keeps both between 8 and 64. PWRCAP_N is followed. A
sample of 24 good sensors sets Tmax to the hottest; at 115 deg C the part trips, its clocks stop and FAULT_N and THERM_N are held
low; that it drops its state at once is the model's choice (log 30). The thermal and the rail fault are latched. -/
def Obligations.DutySensorsAndTrip : Prop :=
  ∀ (s : State), s.Kept → s.power.locked = true →
    (∀ d, d ≤ 64 → ((List.range 64).filter (idleSlot d)).length = 64 - d) ∧
    (idleSlot s.power.duty.toNat (s.beat.toNat % 64) = true →
      exec .idleStrikeSlot s =
        .next { s with power := { s.power with idleSlots := s.power.idleSlots + BitVec.ofNat 64 s.governed.length } }) ∧
    (idleSlot s.power.duty.toNat (s.beat.toNat % 64) = false → exec .idleStrikeSlot s = .next s) ∧
    (∀ est, 8 ≤ s.power.dcap → s.power.dcap ≤ 64 → 8 ≤ s.power.dtherm → s.power.dtherm ≤ 64 → est ≤ 65535 →
      ∃ t, exec (.dutyUpdate est) s = .next t ∧ t = { s with power := t.power } ∧ t.power.duty = s.power.duty ∧
        8 ≤ t.power.dcap ∧ t.power.dcap ≤ 64 ∧ 8 ≤ t.power.dtherm ∧ t.power.dtherm ≤ 64 ∧
        (let cap := 40 * min s.power.cap.toNat s.power.bmcCap.toNat
         t.power.dcap = if cap < est ∧ 8 < s.power.dcap then s.power.dcap - 1
           else if est + 40 < cap ∧ s.power.dcap < 64 then s.power.dcap + 1 else s.power.dcap) ∧
        (s.power.blindDie = false → t.power.dtherm =
          if 100 ≤ s.power.tmax ∧ 8 < s.power.dtherm then s.power.dtherm - 1
          else if s.power.tmax < 98 ∧ s.power.dtherm < 64 then s.power.dtherm + 1 else s.power.dtherm) ∧
        (s.power.blindDie = true → t.power.dtherm = 8)) ∧
    (s.power.pwrcapN = true →
      exec .pwrcapAssert s = .next { s with power := { s.power with pwrcapN := false, fastSince := some s.power.ac } }) ∧
    exec .pwrcapRelease s = .next { s with power := { s.power with pwrcapN := true, fastSince := none } } ∧
    (∀ l : List Int, s.power.tripped = false → l.length = 24 → s.power.faulty l = List.replicate 24 false →
      ∃ t, exec (.sensorSample l) s = .next t ∧ (∀ v ∈ l, v ≤ t.power.tmax) ∧ l[t.power.tsensor.toNat]? = some t.power.tmax ∧
        t.power.tripped = decide (115 ≤ t.power.tmax) ∧ (s.power.alertNow.toNat ≤ t.power.tmax → t.power.thermN = true) ∧
        (t.power.tmax < 115 → t.sent = s.sent ∧ t.faults = s.faults ∧ t.drums = s.drums ∧ t.power.locked = true) ∧
        (115 ≤ t.power.tmax → t.sent = .faultN true :: s.sent ∧ t.power.locked = false ∧ t.power.thermN = true ∧
          t.drums = State.reset.drums ∧ t.met = State.reset.met)) ∧
    (∀ b, s.power.hotSince = some b →
      (s.power.ac.toNat < b.toNat + 320000 → exec .thermalFault s = .next s) ∧
      (b.toNat + 320000 ≤ s.power.ac.toNat → (s.fault 0x160).valid = false →
        ∃ t, exec .thermalFault s = .next t ∧ t.latched 0x160 0x01 none s.beat)) ∧
    (∀ pair, pair < 12 → (s.fault 0x160).valid = false →
      ∃ t, exec (.railFault pair) s = .next t ∧ t.latched 0x160 0x03 none s.beat ∧ t.power = s.power)

/-- The resets (R400, R403, R405-R407, R409). POWER_ON, POWER_DOWN and a loss of lock leave every unit, every memory and every
register of the part at its reset value: of the power unit the board's pins and the cause stay, of the PCIe block PERST_N, of
LPDDR5 the kind of its dies, of the boot and security unit what the flash holds. PLL_LOCK starts the beat counter at 0 and the boot,
with the keys that the PUF gives and the memory training under way. A warm reset, by RESET_N or by the key in PWR_RST, ends
every job, empties every pad and every queue, disables every ring, keeps the beat counter and notes its cause; another value is
dropped and counted. -/
def Obligations.ResetsLeaveWhatTheyKeep : Prop :=
  ∀ (s : State), s.Kept →
    let z := State.reset
    let cold (t : State) : Prop :=
      t = { z with
        pending := s.pending, free := s.free, fates := s.fates, hostMem := s.hostMem, resp := s.resp, sent := t.sent, power := t.power
        boot := t.boot, pcie := { z.pcie with perst := s.pcie.perst }, mem := { z.mem with dense16 := s.mem.dense16 } } ∧
      t.power = { z.power with
        pwrok := t.power.pwrok, rstcause := t.power.rstcause, resetN := s.power.resetN, pwrcapN := s.power.pwrcapN
        refOk := s.power.refOk, pcieRef := s.power.pcieRef, gpioIn := s.power.gpioIn, fastSince := t.power.fastSince } ∧
      t.power.fastSince = (if s.power.pwrcapN = true then none else some 0) ∧
      t.boot = { z.boot with
        active := s.boot.active, trialSlot := s.boot.trialSlot, tried := s.boot.tried, slotA := s.boot.slotA, slotB := s.boot.slotB
        counter := s.boot.counter, helper := s.boot.helper, certEd := s.boot.certEd, certMldsa := s.boot.certMldsa
        rootEd := s.boot.rootEd, rootMldsa := s.boot.rootMldsa, records := s.boot.records, coldRecords := s.boot.records
        layout := s.boot.layout, areas := s.boot.areas }
    let warm (t : State) (cause : Nat) : Prop := t.met.jobs = [] ∧ t.noc = [] ∧ (∀ d, (t.drum d).pad.mem = []) ∧
      (∀ d, (t.drum d).seq.run = none) ∧ (∀ q, (t.ring q).en = false ∧ (t.ring q).out = []) ∧ t.beat = s.beat ∧
      t.power.locked = s.power.locked ∧ t.power.rstcause = s.power.rstcause ||| BitVec.ofNat 5 (2 ^ cause) ∧
      t.boot.booting = true ∧ t.boot.bar0 = false ∧ t.crashed = false ∧ t.hostMem = s.hostMem ∧ t.caches = z.caches ∧
      t.pcie.fetches = []
    (s.power.pwrok = true → exec .powerOn s = .next s) ∧
    (s.power.pwrok = false → ∃ t, exec .powerOn s = .next t ∧ cold t ∧ t.power.pwrok = true ∧
      t.power.rstcause = s.power.rstcause ||| 1) ∧
    (∃ t, exec .powerDown s = .next t ∧ cold t ∧ t.power.pwrok = false ∧ t.power.rstcause = 0) ∧
    (s.power.locked = true → ∃ t, exec .pllLockLoss s = .next t ∧ cold t ∧ t.power.rstcause = s.power.rstcause ||| 16 ∧
      t.power.pwrok = s.power.pwrok) ∧
    (∀ puf trained, s.power.pwrok = true → s.power.locked = false → s.power.tripped = false →
      (s.fault 0x161).valid = false →
      ∃ t, exec (.pllLock puf trained) s = .next t ∧ t.beat = 0 ∧ t.power.ac = 0 ∧ t.power.locked = true ∧ t.power.refOk = true ∧
        t.boot.booting = true ∧ t.boot.keys.isSome = puf ∧ t.mem.up = false ∧ t.mem.training = some (trained, false) ∧
        t.boot.records = s.boot.records ∧ t.boot.coldRecords = s.boot.records ∧ t.boot.counter = s.boot.counter ∧ (puf = true → t.faults = s.faults) ∧
        (puf = false → (t.fault 0x161).valid = true ∧ (t.fault 0x161).sub = 0x04)) ∧
    (s.power.locked = true → s.power.resetN = true →
      ∃ t, exec .resetnAssert s = .next t ∧ warm t 1 ∧ t.power.resetN = false ∧ t.mem.data = s.mem.data) ∧
    (∀ trained, s.power.resetN = false → s.power.locked = true →
      exec (.resetnRelease trained) s = .next { s with
        power := { s.power with resetN := true }, mem := { s.mem with up := false, training := some (trained, true) } }) ∧
    (s.boot.bar0 = true → s.boot.mode ≠ 2 →
      (∃ t, exec (.pwrRst 0x5741524D) s = .next t ∧ warm t 2) ∧
      (∀ v, v ≠ 0x5741524D →
        exec (.pwrRst v) s = .next { s with pcie := { s.pcie with badacc := s.pcie.badacc + 1 } }))

/-! ## Boot, updates and attestation -/

/-- BOOT_COMPLETE (R386, R389-R391), where the PUF has given the secret. The first slot tried, when it is bootable, is booted: the
mode follows its FACTORY bit, its SVN shows, seven measurements stand and BAR0 is enabled; a trial slot is marked tried. When the
first is not bootable and the other is, that one is booted after a fault of source 0x161; when neither is, or the flash, the
counter or the PUF fails, the part is in recovery, with MET_CTRL.EN at 0 and no port up. A record that fails R387 raises the record
fault 0x07 and the boot goes on. A flash that fails raises 0x05, behind the fault of a first slot that had been read before. The counter's value is in force as FLOOR, memory keeps its data where the set of channels has
not changed, and clears where it has. The faults' order, the layout of manifests and what signatures answer are the model's
(log 44). -/
def Obligations.BootTakesASlotOrRecovers : Prop :=
  ∀ (s : State), s.Kept → s.boot.booting = true → s.power.resetN = true → s.power.locked = true →
    let b := s.boot
    let k := b.firstSlot
    let clean := (s.fault 0x161).valid = false ∧ ∀ r ∈ b.records, r.verifies b.counter = true
    let memory (t : State) : Prop := ∀ m, s.mem.training = some (m, true) →
      (t.mem.map = s.mem.map → t.mem.data = s.mem.data) ∧ (t.mem.map ≠ s.mem.map → t.mem.data = [])
    let booted (t : State) (j : Bool) : Prop := t.boot.slot = j ∧ t.boot.mode = (if (b.slotAt j).factory then 1 else 0) ∧
      t.boot.svn = (b.slotAt j).svn ∧ t.boot.bar0 = true ∧ t.boot.booting = false ∧ t.boot.meas.length = 7 ∧
      (t.boot.tried = (b.tried || decide (b.trialSlot = some k))) ∧ t.boot.floor = b.counter ∧ memory t
    let recovers (t : State) : Prop := t.boot.mode = 2 ∧ t.boot.slot = b.active ∧ t.boot.svn = 0 ∧ t.boot.bar0 = true ∧
      t.boot.booting = false ∧ t.met.en = false ∧ (∀ p, (t.port p).inService = false) ∧ memory t
    (b.pufOk = true → b.verdict k = .bootable → ∃ t, exec (.bootComplete true true) s = .next t ∧ booted t k ∧
      (clean → t.fault 0x161 = s.fault 0x161) ∧
      ((s.fault 0x161).valid = false → (∃ r ∈ b.records, r.verifies b.counter = false) →
        (t.fault 0x161).valid = true ∧ (t.fault 0x161).sub = 0x07)) ∧
    (b.pufOk = true → b.verdict k ≠ .bootable → b.verdict (!k) = .bootable →
      ∃ t, exec (.bootComplete true true) s = .next t ∧ booted t (!k) ∧ (t.fault 0x161).valid = true ∧
        (clean → (t.fault 0x161).sub = (if b.verdict k = .rollback then 0x02 else 0x01))) ∧
    (b.pufOk = true → clean → b.verdict k ≠ .bootable → b.verdict (!k) ≠ .bootable →
      ∃ t, exec (.bootComplete true true) s = .next t ∧ recovers t ∧ (t.fault 0x161).valid = true) ∧
    (b.pufOk = false → ∀ x y, ∃ t, exec (.bootComplete x y) s = .next t ∧ recovers t) ∧
    (b.pufOk = true → clean → ∃ t, exec (.bootComplete false true) s = .next t ∧ recovers t ∧
      ((t.fault 0x161).sub = 0x05 ∨ b.verdict k ≠ .bootable ∧ (t.fault 0x161).sub = (if b.verdict k = .rollback then 0x02 else 0x01))) ∧
    (b.pufOk = true → clean → ∃ t, exec (.bootComplete true false) s = .next t ∧ recovers t ∧ (t.fault 0x161).sub = 0x06) ∧
    (b.pufOk = true → clean → ∃ t, exec (.bootComplete false false) s = .next t ∧ recovers t ∧ (t.fault 0x161).valid = true)

/-- Updates (R394). A request with a legal length makes the engine busy with its operation; one while it is busy is dropped and
counted; a malformed one raises the update request fault 0x08 with RESULT 1. WRITE_IMAGE ends with the image in the slot
that is not booted, on trial when it is bootable and else with RESULT 2; COMMIT makes the booted slot ACTIVE and raises the
counter to its SVN; ABANDON ends the trial; the record writes append. An operation goes on while its data wait for READY or for
the lead. A flash that fails ends it with RESULT 3. Stated with no SPDM request waiting. How the fields lie in an image's bytes, the
room that a record takes, and that a record written without device keys does not verify are the model's (log 44). -/
def Obligations.UpdatesRunOneAtATime : Prop :=
  ∀ (s : State) (len : Nat), s.Kept → s.boot.bar0 = true →
    let b := s.boot
    let busy (i : Instr) (op : UpdateOp) : Prop := exec i s = .next { s with boot := { b with busy := some op } }
    let onTrial := b.trialSlot = some b.slot ∧ b.trial = true
    let good := len % 4 = 0 ∧ len ≤ 33554432
    (b.busy = none → good → s.updData len = true →
      busy (.writeImage len) (.writeImage len) ∧ busy (.writeRepair len) (.writeRepair len) ∧
      busy (.writePlace len) (.writePlace len)) ∧
    (b.busy = none → good → busy (.abandon len) .abandon ∧ (onTrial → busy (.commit len) .commit)) ∧
    (b.busy = none → ¬ good → (s.fault 0x161).valid = false →
      ∀ i ∈ [Instr.writeImage len, .commit len, .abandon len, .writeRepair len, .writePlace len],
        ∃ t, exec i s = .next t ∧ t.latched 0x161 0x08 none s.beat ∧ t.boot.result = 1 ∧ t.boot.busy = none) ∧
    (b.busy.isSome = true →
      ∀ i ∈ [Instr.writeImage len, .commit len, .abandon len, .writeRepair len, .writePlace len],
        exec i s = .next { s with pcie := { s.pcie with badacc := s.pcie.badacc + 1 } }) ∧
    (b.spdmWait = [] →
      (∀ n, s.inMem b.updAddr.toNat n = false → inHost b.updAddr.toNat n = true → s.pcie.role ≠ 2 → 0 < n →
        (s.updFetch n).1 = some (getBytes s.hostMem (b.updAddr.toNat - hostSpace) n)) ∧
      (∀ n u, s.updFetch n = (none, u) → u.boot = b →
        ∀ op ∈ [UpdateOp.writeImage n, .writeRepair n, .writePlace n], b.busy = some op →
          exec (.updateOpComplete true true) s = .next u) ∧
      (∀ n l u, b.busy = some (.writeImage n) → s.updFetch n = (some l, u) → u.boot = b →
        let x := slotOf (l ++ (b.slotAt (!b.slot)).bytes.drop l.length)
        let v := (b.setSlot (!b.slot) x).verdict (!b.slot)
        ∃ t, exec (.updateOpComplete true true) s = .next t ∧ t.boot.slotAt (!b.slot) = x ∧
          t.boot.slotAt b.slot = b.slotAt b.slot ∧ t.boot.busy = none ∧
          (v = .bootable → t.boot.trialSlot = some (!b.slot) ∧ t.boot.tried = false ∧
            t.boot.result = 0 ∧ t.faults = u.faults) ∧
          ((u.fault 0x161).valid = false → v ≠ .bootable →
            t.boot.trialSlot ≠ some (!b.slot) ∧ t.boot.result = 2 ∧ (t.fault 0x161).valid = true)) ∧
      (b.busy = some .commit →
        ∃ t, exec (.updateOpComplete true true) s = .next t ∧ t.boot.active = b.slot ∧ t.boot.trialSlot = none ∧
          t.boot.counter.toNat = max b.counter.toNat (b.slotAt b.slot).svn.toNat ∧ t.boot.result = 0 ∧ t.boot.busy = none) ∧
      (b.busy = some .abandon →
        ∃ t, exec (.updateOpComplete true true) s = .next t ∧ t.boot.trialSlot = none ∧ t.boot.active = b.active ∧
          t.boot.result = 0 ∧ t.boot.busy = none) ∧
      (∀ n l u kind, b.busy = some (.writeRepair n) ∧ kind = RecordKind.repair ∨ b.busy = some (.writePlace n) ∧ kind = .place →
        s.updFetch n = (some l, u) → u.boot = b →
        let fits := b.recordBytes + Config.recordSize l.length ≤ recordArea
        ∃ t, exec (.updateOpComplete true true) s = .next t ∧ t.boot.inForce = b.inForce ∧ t.boot.placeNow = b.placeNow ∧
          t.boot.busy = none ∧
          (fits → t.boot.result = 0 ∧ t.boot.records = b.records ++ [⟨kind, l, b.counter, b.keys.isSome, b.keys.isSome⟩]) ∧
          (¬ fits → t.boot.result = 5 ∧ t.boot.records = b.records)) ∧
      (∀ op, b.busy = some op → op ≠ .commit → (s.fault 0x161).valid = false →
        ∃ t, exec (.updateOpComplete false true) s = .next t ∧ t.latched 0x161 0x05 none s.beat ∧ t.boot.result = 3 ∧
          t.boot.busy = none))

/-- Attestation (R395, R396) of a part that attests, with no flash operation running. GET_VERSION starts the transcript anew;
the other requests join their part of it and are answered; a certificate is read from the chain of slot 0 and no other; the signed
answers carry the Ed25519 alias signature over the transcript, which starts anew behind them, and PQSIG is accepted only next
after one, over the same SHA-512 hash. The two vendor-defined answers carry the standard ID and Odzel's Vendor ID. While a flash operation runs a request waits. DOE
Discovery lists its two objects. Which messages a
signature covers, and the bytes of each, are DMTF's and the model's (log 45). -/
def Obligations.AttestationAnswersAndSigns : Prop :=
  ∀ (s : State), s.attests = true →
    let b := s.boot
    let answers (i : Instr) (r : List Byte) (c : Boot) : Prop := exec i s = .next { s with resp := r, boot := { c with signedHash := none } }
    let msg (code : Nat) (req content : List Byte) : List Byte := req ++ Config.spdmBytes code req content
    let starts (i : Instr) (code : Nat) (req content : List Byte) : Prop :=
      answers i (Config.spdmBytes code req content) { b with vca := msg code req content, certMsgs := [], measMsgs := [] }
    let offers (i : Instr) (code : Nat) (req content : List Byte) : Prop :=
      answers i (Config.spdmBytes code req content) { b with vca := b.vca ++ msg code req content, measMsgs := [] }
    let certs (i : Instr) (code : Nat) (req content : List Byte) : Prop :=
      answers i (Config.spdmBytes code req content) { b with certMsgs := b.certMsgs ++ msg code req content, measMsgs := [] }
    let measures (i : Instr) (code : Nat) (req content : List Byte) : Prop :=
      answers i (Config.spdmBytes code req content) { b with measMsgs := b.measMsgs ++ msg code req content, certMsgs := [] }
    let signs (i : Instr) (code : Nat) (before req content : List Byte) : Prop :=
      let l := b.vca ++ before ++ msg code req content
      exec i s = .next { s with
        resp := Config.spdmBytes code req content ++ Config.sign b.aliasEd 0 l
        boot := { b with certMsgs := [], measMsgs := [], signedHash := some (sha512 l) } }
    let digest := leBytes 64 (sha512 (b.chainOf 0)).toNat
    (b.busy = none →
      (∀ req, starts (.getVersion req) 0x04 req [0x12, 0x13] ∧ offers (.getCapabilities req) 0x61 req [0x16] ∧
        offers (.negotiateAlgorithms req) 0x63 req (leBytes 4 0x400 ++ leBytes 4 4) ∧ certs (.getDigests req) 0x01 req digest) ∧
      (∀ off len, certs (.getCertificate 0 off len) 0x02 (requestOf 0x02 ([0] ++ leBytes 2 off ++ leBytes 2 len))
        (sub (b.chainOf 0) off len)) ∧
      (∀ k off len, k ≠ 0 → answers (.getCertificate k off len) (Config.spdmBytes 0x7F [] [0x01]) b) ∧
      (∀ nonce, signs (.challenge nonce) 0x03 b.certMsgs (requestOf 0x03 ([0] ++ nonce)) digest) ∧
      (∀ n nonce l, b.measOf n = some l →
        signs (.getMeasurements n true nonce) 0x60 b.measMsgs (requestOf 0x60 ([1, BitVec.ofNat 8 n] ++ nonce)) l ∧
        measures (.getMeasurements n false nonce) 0x60 (requestOf 0x60 ([0, BitVec.ofNat 8 n] ++ nonce)) l) ∧
      (∀ h, b.signedHash = some h → answers .pqsig (vendorDefined (Config.sign b.aliasMldsa 1 (leBytes 64 h.toNat))) b) ∧
      (b.signedHash = none → answers .pqsig (Config.spdmBytes 0x7F [] [0x04]) b) ∧
      (∀ off len, answers (.pqchain off len) (vendorDefined (sub (b.chainOf 1) off (min len 4096))) b)) ∧
    (b.busy.isSome = true → ∀ n, exec (.challenge n) s = .next { s with boot := { b with spdmWait := b.spdmWait ++ [.challenge n] } }) ∧
    (∀ i, exec (.doeDiscovery i) s = .next (s.answer (doeObject i)))

/-! ## Sideband, diagnosis and registers -/

/-- The sideband once the PLL has locked, and diagnostic mode (R393, R418, R433). Each SMBus read answers its register and a packet
error code; a cap written over SMBus, without a code or with its own, is held within 50 and 120, and with a wrong code nothing is
written; JTAG answers its IDCODE, and a private instruction in factory test mode, of which nothing is said, stops the model by
name. The diagnostic keys enter and leave diagnostic mode, and the entry stays noted. The codes are SMBus's, and so is the count in
front of a block read (log 67); what JTAG's other instructions do is left to the scan registers (log 54).

BAR4 in diagnostic mode (R306, R312, R434, R435): the pads and shells of the physical drums and LPDDR5 data are read, with no effect
but that a pad's banks and a channel's counters note the access; a byte of a pad word that fails its re-read, of a shell read
that is not served, or of a block that gives an error reads all ones, and DIAG_WINERR counts the read, which raises no fault; a
read of LPDDR5 before READY, or one that class 0 goes ahead of, waits; a write is dropped and counted still. Stated where the mesh
and the memory give no new error (log 62). -/
def Obligations.SidebandAnswersAndDiagnosticWindow : Prop :=
  (
    ∀ (s : State), s.power.locked = true →
      let reads (i : Instr) (command : Byte) (l : List Byte) : Prop :=
        exec i s = .next (s.answer (l ++ [pec ([0xB4, command, 0xB5] ++ l)]))
      reads .smbReadTmax 0x01 (leBytes 2 (twos 16 s.power.tmax)) ∧
      reads .smbReadPower 0x02 (leBytes 2 s.power.est.toNat) ∧
      reads .smbCapRead 0x03 (leBytes 2 s.power.bmcCap.toNat) ∧
      reads .smbReadStatus 0x04 (leBytes 2 s.power.statusVal) ∧
      reads .smbReadFaults 0x05 ([64] ++ (List.range 8).flatMap fun i => leBytes 8 (s.pend i)) ∧
      (∀ (v : Half) (code : Option Byte),
        let own := pec ([0xB4, 0x03] ++ leBytes 2 v.toNat)
        (code = none ∨ code = some own → ∃ t, exec (.smbCapWrite ⟨v, code⟩) s = .next t ∧
          t = { s with power := { s.power with bmcCap := t.power.bmcCap } } ∧ t.power.bmcCap.toNat = max 50 (min 120 v.toNat)) ∧
        (∀ c, code = some c → c ≠ own → exec (.smbCapWrite ⟨v, code⟩) s = .next s)) ∧
      (∃ t, exec .jtagIdcode s = .next t ∧ t = { s with resp := t.resp } ∧ leNat t.resp / 4096 % 65536 = 0x4B01) ∧
      exec (.jtagInstruction false) s = .next s ∧
      (s.boot.mode ≠ 1 → exec (.jtagInstruction true) s = .next s) ∧
      (s.boot.mode = 1 → exec (.jtagInstruction true) s = .fault .privateInstruction) ∧
      (s.boot.bar0 = true →
        (∃ t, exec .diagModeEnter s = .next t ∧ t.boot.diag = true ∧ t.boot.entered = true ∧
          t = { s with boot := { s.boot with diag := true, entered := true, meas := t.boot.meas } }) ∧
        exec .diagModeLeave s = .next { s with boot := { s.boot with diag := false } })
  ) ∧ (
    ∀ (s : State), s.Kept → s.boot.bar0 = true → s.boot.diag = true → s.fates.blocks = [] → s.fates.mesh = [] →
      let lp (o : Nat) : Nat := s.boot.lpbase.toNat * 0x10000000 + o
      let lost (n : Nat) : Bool := (s.chan (s.mem.place n).1).bad.contains (s.mem.place n).2
      let ones (off : Nat) (bad : List Nat) : Prop := ∃ t, exec (.bar4Read off 1 bad) s = .next t ∧ t.resp = [0xFF] ∧
        t.boot = { s.boot with winerr := s.boot.winerr + 1 } ∧ t.faults = s.faults ∧ t.mem.data = s.mem.data ∧ t.met = s.met
      (∀ d a len, d < 136 → a + len ≤ 0x400000 → (s.drum d).pad.failed = [] →
        ∃ t, exec (.bar4Read (d * 0x400000 + a) len []) s = .next t ∧ t.resp = getBytes (s.drum d).pad.mem a len ∧
          t = { s with resp := t.resp, drums := t.drums } ∧ (∀ e, e ≠ d → t.drum e = s.drum e) ∧
          t.drum d = { s.drum d with pad := (t.drum d).pad } ∧ SamePad (s.drum d).pad (t.drum d).pad) ∧
      (∀ d r c, d < 136 → r < 256 → c < 1024 →
        exec (.bar4Read (0x22000000 + d * 0x100000 + 4096 * r + 4 * c) 4 []) s =
          .next (s.answer (leBytes 4 (shellAt (s.drum d).shell r c).toNat))) ∧
      (∀ o len, o + len ≤ 0x10000000 → 0 < len → s.inMem (lp o) len = true →
        let taken := s.slotTaken (s.rangeChans (lp o) len)
        (s.memHeld = true ∨ taken = true → exec (.bar4Read (0x30000000 + o) len []) s = .next s) ∧
        (s.memHeld = false → taken = false → (∀ n, lp o / 480 ≤ n → n ≤ (lp o + len - 1) / 480 → lost n = false) →
          ∃ t, exec (.bar4Read (0x30000000 + o) len []) s = .next t ∧ t.resp = getBytes s.mem.data (lp o) len ∧
            t.mem.data = s.mem.data ∧ t.drums = s.drums ∧ t.faults = s.faults ∧ t.boot = s.boot)) ∧
      (∀ off, off < 0x2A800000 → ones off [off / 16]) ∧
      (∀ d a, d < 136 → a < 0x400000 → (s.drum d).pad.anyFailed a 1 = true → ones (d * 0x400000 + a) []) ∧
      (∀ o, o < 0x10000000 → s.inMem (lp o) 1 = true → s.memHeld = false → s.slotTaken (s.rangeChans (lp o) 1) = false →
        lost (lp o / 480) = true → ones (0x30000000 + o) []) ∧
      (∀ off data, exec (.bar4Write off data) s = .next { s with pcie := { s.pcie with badacc := s.pcie.badacc + 1 } })
  )

/-- BAR4 outside diagnostic mode, on a part whose windows answer (R278): a read returns zero, a write is dropped and counted in
PCI_BADACC. -/
def Obligations.Bar4IsShutInNormalMode : Prop :=
  ∀ (s : State) (off len : Nat) (bad : List Nat) (data : List Byte), s.boot.bar0 = true → s.boot.diag = false →
    exec (.bar4Read off len bad) s = .next { s with resp := leBytes len 0 } ∧
    exec (.bar4Write off data) s = .next { s with pcie := { s.pcie with badacc := s.pcie.badacc + 1 } }

/-- Register writes and broadcasts (R277, R422, R428-R430). A write of a wrong size, or where no register stands, is dropped and
counted, and a read of a wrong size is counted; a write of DRM_BCAST_MASK is taken. A write of PAD_CTRL through the drum broadcast window sets IDLE of every drum that is
not retired and whose group is selected, and of no other; a read through it answers the lowest one's, and DIAG_BCAST replies
whether another differs.

The counters that CNT_CLR clears (R270, R299, R430): in the window of a unit that is not retired every counter of the block that
the write clears reads 0 afterwards, those of a port but for LNK_LIVEFLITS, and nothing else of the part changes; on a retired unit
the write is dropped and counted. -/
def Obligations.RegistersBroadcastsAndCounters : Prop :=
  (
    ∀ (s : State), s.Kept → s.boot.bar0 = true → s.boot.mode ≠ 2 →
      let dropped : State := { s with pcie := { s.pcie with badacc := s.pcie.badacc + 1 } }
      (∀ off width data, off < 0x8000000 → width ≠ 4 → width ≠ 8 → exec (.registerWrite off width data) s = .next dropped) ∧
      (∀ data, exec (.registerWrite 0x20 4 data) s = .next dropped) ∧
      (∀ off width, off < 0x100000 → (width ≠ 4 ∧ width ≠ 8) ∨ off % width ≠ 0 →
        ∃ t, exec (.broadcastRead off width) s = .next t ∧ t = { dropped with resp := t.resp }) ∧
      (∀ data, exec (.registerWrite 0x100 4 data) s =
        .next { s with boot := { s.boot with bcastMask := BitVec.ofNat 8 data.toNat } }) ∧
      (∀ data : Dword, data.getLsbD 0 = false →
        ∃ t, exec (.broadcastWrite 0xF00A00 4 data) s = .next t ∧ t = { s with drums := t.drums } ∧
          ∀ d, d < 136 → t.drum d = if (s.drum d).status ≠ .retired ∧ s.boot.bcastMask.getLsbD (d / 17) = true then
            { s.drum d with pad := { (s.drum d).pad with idle := BitVec.ofNat 8 (data.toNat / 16) } } else s.drum d) ∧
      (∀ d, (List.range 136).find? (fun p => (s.drum p).status != .retired && s.boot.bcastMask.getLsbD (p / 17)) = some d →
        ∃ t, exec (.broadcastRead 0xF00A00 4) s = .next t ∧ t.resp = leBytes 4 (16 * (s.drum d).pad.idle.toNat) ∧
          (t.boot.bcastDiff.getLsbD 0 = true ↔ ∃ e, e < 136 ∧ (s.drum e).status ≠ .retired ∧
            s.boot.bcastMask.getLsbD (e / 17) = true ∧ (s.drum e).pad.idle ≠ (s.drum d).pad.idle) ∧
          t = { s with resp := t.resp, boot := { s.boot with bcastDiff := t.boot.bcastDiff } })
  ) ∧ (
    ∀ (s : State) (d c p : Nat), d < 136 → c < 64 → p < 20 → s.Kept → s.boot.bar0 = true → s.boot.mode ≠ 2 →
      let x := s.drum d
      let dropped : State := { s with pcie := { s.pcie with badacc := s.pcie.badacc + 1 } }
      (x.status ≠ .retired →
        exec (.sknCntClr d) s = .next (s.setDrum d { x with skin :=
          { x.skin with pairs := 0, wskipped := 0, askipped := 0, stall := 0, rows := 0 } }) ∧
        exec (.tunCntClr d) s = .next (s.setDrum d { x with tuner := { x.tuner with sat := 0, nonfin := 0, elems := 0 } }) ∧
        exec (.shlCntClr d) s = .next (s.setDrum d { x with shell := { x.shell with adds := 0, sradds := 0, rxnodes := 0, aligns := 0 } }) ∧
        exec (.seqCntClr d) s = .next (s.setDrum d { x with seq := { x.seq with issued := 0, misses := 0 } }) ∧
        exec (.rolCntClr d) s = .next (s.setDrum d { x with roll := { x.roll with elems := 0, nonfin := 0, empty := 0, tails := 0 } }) ∧
        exec (.tapCntClr d) s = .next (s.setDrum d { x with tap := { x.tap with kept := 0, audited := 0, misses := 0, mass := 0, makeups := 0 } }) ∧
        exec (.padCntClr d) s = .next (s.setDrum d { x with pad :=
          { x.pad with rereads := 0, conflicts := 0, arbwait := 0, latewr := 0, discards := 0, damped := 0, conf := [] } })) ∧
      (x.status = .retired → ∀ i ∈ [Instr.sknCntClr d, .tunCntClr d, .shlCntClr d, .seqCntClr d, .rolCntClr d, .tapCntClr d,
        .padCntClr d], exec i s = .next dropped) ∧
      exec .metCntClr s = .next { s with met := { s.met with dispatched := 0, refused := 0, preempts := 0, overruns := 0,
                                                             startmax := 0, readymax := 0, ringwait := 0 } } ∧
      exec .wkcCntClr s = .next { s with met := { s.met with claims := 0, retries := 0, dups := 0 } } ∧
      exec .pciCntClr s = .next { s with pcie := { s.pcie with badacc := 0, dbdrop := 0, cplwr := 0, msixCount := 0, fwdtmo := 0 } } ∧
      ((s.chan c).retired = false → ∃ t, exec (.mchCntClr c) s = .next t ∧
        t = { s with mem := { s.mem with chans := t.mem.chans } } ∧ t.mem.chans.length = 64 ∧ (∀ e, e ≠ c → t.chan e = s.chan e) ∧
        t.chan c = { s.chan c with rdblk := 0, wrblk := 0, rmw := 0, ce := 0, ue := 0, reread := 0, linkretry := 0, liveblk := 0,
                                   bkpress := 0, scrubbed := 0 }) ∧
      ((s.chan c).retired = true → exec (.mchCntClr c) s = .next dropped) ∧
      ((s.port p).state ≠ .retired → ∃ t, exec (.lnkCntClr p) s = .next t ∧
        t = { s with fab := { s.fab with ports := t.fab.ports } } ∧ t.fab.ports.length = 20 ∧ (∀ e, e ≠ p → t.port e = s.port e) ∧
        t.port p = { s.port p with counters := (t.port p).counters } ∧
        (∀ k, k ≠ 11 → getCell 0#64 (t.port p).counters k = 0) ∧
        getCell 0#64 (t.port p).counters 11 = getCell 0#64 (s.port p).counters 11) ∧
      ((s.port p).state = .retired → exec (.lnkCntClr p) s = .next dropped)
  )
end

