-- ==== Sys2Proof/Laws/State.lean ====
section
/-! SUPPORT. Laws/State.lean: one lemma for each field that an update of the state leaves alone, and the fields it sets. -/

namespace Sys2Proof.Machine

variable (s : State) {d e : Nat}

/-! ### setDrum -/
@[simp] theorem State.setDrum_pending (d : Nat) (x : Drum) : (s.setDrum d x).pending = s.pending := rfl
@[simp] theorem State.setDrum_beat (d : Nat) (x : Drum) : (s.setDrum d x).beat = s.beat := rfl
@[simp] theorem State.setDrum_free (d : Nat) (x : Drum) : (s.setDrum d x).free = s.free := rfl
@[simp] theorem State.setDrum_noc (d : Nat) (x : Drum) : (s.setDrum d x).noc = s.noc := rfl
@[simp] theorem State.setDrum_met (d : Nat) (x : Drum) : (s.setDrum d x).met = s.met := rfl
@[simp] theorem State.setDrum_rings (d : Nat) (x : Drum) : (s.setDrum d x).rings = s.rings := rfl
@[simp] theorem State.setDrum_dbmap (d : Nat) (x : Drum) : (s.setDrum d x).dbmap = s.dbmap := rfl
@[simp] theorem State.setDrum_pcie (d : Nat) (x : Drum) : (s.setDrum d x).pcie = s.pcie := rfl
@[simp] theorem State.setDrum_mem (d : Nat) (x : Drum) : (s.setDrum d x).mem = s.mem := rfl
@[simp] theorem State.setDrum_fab (d : Nat) (x : Drum) : (s.setDrum d x).fab = s.fab := rfl
@[simp] theorem State.setDrum_faults (d : Nat) (x : Drum) : (s.setDrum d x).faults = s.faults := rfl
@[simp] theorem State.setDrum_crashed (d : Nat) (x : Drum) : (s.setDrum d x).crashed = s.crashed := rfl
@[simp] theorem State.setDrum_power (d : Nat) (x : Drum) : (s.setDrum d x).power = s.power := rfl
@[simp] theorem State.setDrum_boot (d : Nat) (x : Drum) : (s.setDrum d x).boot = s.boot := rfl
@[simp] theorem State.setDrum_hostMem (d : Nat) (x : Drum) : (s.setDrum d x).hostMem = s.hostMem := rfl
@[simp] theorem State.setDrum_fates (d : Nat) (x : Drum) : (s.setDrum d x).fates = s.fates := rfl
@[simp] theorem State.setDrum_caches (d : Nat) (x : Drum) : (s.setDrum d x).caches = s.caches := rfl
@[simp] theorem State.setDrum_resp (d : Nat) (x : Drum) : (s.setDrum d x).resp = s.resp := rfl
@[simp] theorem State.setDrum_sent (d : Nat) (x : Drum) : (s.setDrum d x).sent = s.sent := rfl

/-! ### modDrum -/
@[simp] theorem State.modDrum_pending (d : Nat) (f : Drum → Drum) : (s.modDrum d f).pending = s.pending := rfl
@[simp] theorem State.modDrum_beat (d : Nat) (f : Drum → Drum) : (s.modDrum d f).beat = s.beat := rfl
@[simp] theorem State.modDrum_free (d : Nat) (f : Drum → Drum) : (s.modDrum d f).free = s.free := rfl
@[simp] theorem State.modDrum_noc (d : Nat) (f : Drum → Drum) : (s.modDrum d f).noc = s.noc := rfl
@[simp] theorem State.modDrum_met (d : Nat) (f : Drum → Drum) : (s.modDrum d f).met = s.met := rfl
@[simp] theorem State.modDrum_rings (d : Nat) (f : Drum → Drum) : (s.modDrum d f).rings = s.rings := rfl
@[simp] theorem State.modDrum_dbmap (d : Nat) (f : Drum → Drum) : (s.modDrum d f).dbmap = s.dbmap := rfl
@[simp] theorem State.modDrum_pcie (d : Nat) (f : Drum → Drum) : (s.modDrum d f).pcie = s.pcie := rfl
@[simp] theorem State.modDrum_mem (d : Nat) (f : Drum → Drum) : (s.modDrum d f).mem = s.mem := rfl
@[simp] theorem State.modDrum_fab (d : Nat) (f : Drum → Drum) : (s.modDrum d f).fab = s.fab := rfl
@[simp] theorem State.modDrum_faults (d : Nat) (f : Drum → Drum) : (s.modDrum d f).faults = s.faults := rfl
@[simp] theorem State.modDrum_crashed (d : Nat) (f : Drum → Drum) : (s.modDrum d f).crashed = s.crashed := rfl
@[simp] theorem State.modDrum_power (d : Nat) (f : Drum → Drum) : (s.modDrum d f).power = s.power := rfl
@[simp] theorem State.modDrum_boot (d : Nat) (f : Drum → Drum) : (s.modDrum d f).boot = s.boot := rfl
@[simp] theorem State.modDrum_hostMem (d : Nat) (f : Drum → Drum) : (s.modDrum d f).hostMem = s.hostMem := rfl
@[simp] theorem State.modDrum_fates (d : Nat) (f : Drum → Drum) : (s.modDrum d f).fates = s.fates := rfl
@[simp] theorem State.modDrum_caches (d : Nat) (f : Drum → Drum) : (s.modDrum d f).caches = s.caches := rfl
@[simp] theorem State.modDrum_resp (d : Nat) (f : Drum → Drum) : (s.modDrum d f).resp = s.resp := rfl
@[simp] theorem State.modDrum_sent (d : Nat) (f : Drum → Drum) : (s.modDrum d f).sent = s.sent := rfl

/-! ### modPad -/
@[simp] theorem State.modPad_pending (d : Nat) (f : Pad → Pad) : (s.modPad d f).pending = s.pending := rfl
@[simp] theorem State.modPad_beat (d : Nat) (f : Pad → Pad) : (s.modPad d f).beat = s.beat := rfl
@[simp] theorem State.modPad_free (d : Nat) (f : Pad → Pad) : (s.modPad d f).free = s.free := rfl
@[simp] theorem State.modPad_noc (d : Nat) (f : Pad → Pad) : (s.modPad d f).noc = s.noc := rfl
@[simp] theorem State.modPad_met (d : Nat) (f : Pad → Pad) : (s.modPad d f).met = s.met := rfl
@[simp] theorem State.modPad_rings (d : Nat) (f : Pad → Pad) : (s.modPad d f).rings = s.rings := rfl
@[simp] theorem State.modPad_dbmap (d : Nat) (f : Pad → Pad) : (s.modPad d f).dbmap = s.dbmap := rfl
@[simp] theorem State.modPad_pcie (d : Nat) (f : Pad → Pad) : (s.modPad d f).pcie = s.pcie := rfl
@[simp] theorem State.modPad_mem (d : Nat) (f : Pad → Pad) : (s.modPad d f).mem = s.mem := rfl
@[simp] theorem State.modPad_fab (d : Nat) (f : Pad → Pad) : (s.modPad d f).fab = s.fab := rfl
@[simp] theorem State.modPad_faults (d : Nat) (f : Pad → Pad) : (s.modPad d f).faults = s.faults := rfl
@[simp] theorem State.modPad_crashed (d : Nat) (f : Pad → Pad) : (s.modPad d f).crashed = s.crashed := rfl
@[simp] theorem State.modPad_power (d : Nat) (f : Pad → Pad) : (s.modPad d f).power = s.power := rfl
@[simp] theorem State.modPad_boot (d : Nat) (f : Pad → Pad) : (s.modPad d f).boot = s.boot := rfl
@[simp] theorem State.modPad_hostMem (d : Nat) (f : Pad → Pad) : (s.modPad d f).hostMem = s.hostMem := rfl
@[simp] theorem State.modPad_fates (d : Nat) (f : Pad → Pad) : (s.modPad d f).fates = s.fates := rfl
@[simp] theorem State.modPad_caches (d : Nat) (f : Pad → Pad) : (s.modPad d f).caches = s.caches := rfl
@[simp] theorem State.modPad_resp (d : Nat) (f : Pad → Pad) : (s.modPad d f).resp = s.resp := rfl
@[simp] theorem State.modPad_sent (d : Nat) (f : Pad → Pad) : (s.modPad d f).sent = s.sent := rfl

/-! ### modSeq -/
@[simp] theorem State.modSeq_pending (d : Nat) (f : Seq → Seq) : (s.modSeq d f).pending = s.pending := rfl
@[simp] theorem State.modSeq_beat (d : Nat) (f : Seq → Seq) : (s.modSeq d f).beat = s.beat := rfl
@[simp] theorem State.modSeq_free (d : Nat) (f : Seq → Seq) : (s.modSeq d f).free = s.free := rfl
@[simp] theorem State.modSeq_noc (d : Nat) (f : Seq → Seq) : (s.modSeq d f).noc = s.noc := rfl
@[simp] theorem State.modSeq_met (d : Nat) (f : Seq → Seq) : (s.modSeq d f).met = s.met := rfl
@[simp] theorem State.modSeq_rings (d : Nat) (f : Seq → Seq) : (s.modSeq d f).rings = s.rings := rfl
@[simp] theorem State.modSeq_dbmap (d : Nat) (f : Seq → Seq) : (s.modSeq d f).dbmap = s.dbmap := rfl
@[simp] theorem State.modSeq_pcie (d : Nat) (f : Seq → Seq) : (s.modSeq d f).pcie = s.pcie := rfl
@[simp] theorem State.modSeq_mem (d : Nat) (f : Seq → Seq) : (s.modSeq d f).mem = s.mem := rfl
@[simp] theorem State.modSeq_fab (d : Nat) (f : Seq → Seq) : (s.modSeq d f).fab = s.fab := rfl
@[simp] theorem State.modSeq_faults (d : Nat) (f : Seq → Seq) : (s.modSeq d f).faults = s.faults := rfl
@[simp] theorem State.modSeq_crashed (d : Nat) (f : Seq → Seq) : (s.modSeq d f).crashed = s.crashed := rfl
@[simp] theorem State.modSeq_power (d : Nat) (f : Seq → Seq) : (s.modSeq d f).power = s.power := rfl
@[simp] theorem State.modSeq_boot (d : Nat) (f : Seq → Seq) : (s.modSeq d f).boot = s.boot := rfl
@[simp] theorem State.modSeq_hostMem (d : Nat) (f : Seq → Seq) : (s.modSeq d f).hostMem = s.hostMem := rfl
@[simp] theorem State.modSeq_fates (d : Nat) (f : Seq → Seq) : (s.modSeq d f).fates = s.fates := rfl
@[simp] theorem State.modSeq_caches (d : Nat) (f : Seq → Seq) : (s.modSeq d f).caches = s.caches := rfl
@[simp] theorem State.modSeq_resp (d : Nat) (f : Seq → Seq) : (s.modSeq d f).resp = s.resp := rfl
@[simp] theorem State.modSeq_sent (d : Nat) (f : Seq → Seq) : (s.modSeq d f).sent = s.sent := rfl

/-! ### modShell -/
@[simp] theorem State.modShell_pending (d : Nat) (f : Shell → Shell) : (s.modShell d f).pending = s.pending := rfl
@[simp] theorem State.modShell_beat (d : Nat) (f : Shell → Shell) : (s.modShell d f).beat = s.beat := rfl
@[simp] theorem State.modShell_free (d : Nat) (f : Shell → Shell) : (s.modShell d f).free = s.free := rfl
@[simp] theorem State.modShell_noc (d : Nat) (f : Shell → Shell) : (s.modShell d f).noc = s.noc := rfl
@[simp] theorem State.modShell_met (d : Nat) (f : Shell → Shell) : (s.modShell d f).met = s.met := rfl
@[simp] theorem State.modShell_rings (d : Nat) (f : Shell → Shell) : (s.modShell d f).rings = s.rings := rfl
@[simp] theorem State.modShell_dbmap (d : Nat) (f : Shell → Shell) : (s.modShell d f).dbmap = s.dbmap := rfl
@[simp] theorem State.modShell_pcie (d : Nat) (f : Shell → Shell) : (s.modShell d f).pcie = s.pcie := rfl
@[simp] theorem State.modShell_mem (d : Nat) (f : Shell → Shell) : (s.modShell d f).mem = s.mem := rfl
@[simp] theorem State.modShell_fab (d : Nat) (f : Shell → Shell) : (s.modShell d f).fab = s.fab := rfl
@[simp] theorem State.modShell_faults (d : Nat) (f : Shell → Shell) : (s.modShell d f).faults = s.faults := rfl
@[simp] theorem State.modShell_crashed (d : Nat) (f : Shell → Shell) : (s.modShell d f).crashed = s.crashed := rfl
@[simp] theorem State.modShell_power (d : Nat) (f : Shell → Shell) : (s.modShell d f).power = s.power := rfl
@[simp] theorem State.modShell_boot (d : Nat) (f : Shell → Shell) : (s.modShell d f).boot = s.boot := rfl
@[simp] theorem State.modShell_hostMem (d : Nat) (f : Shell → Shell) : (s.modShell d f).hostMem = s.hostMem := rfl
@[simp] theorem State.modShell_fates (d : Nat) (f : Shell → Shell) : (s.modShell d f).fates = s.fates := rfl
@[simp] theorem State.modShell_caches (d : Nat) (f : Shell → Shell) : (s.modShell d f).caches = s.caches := rfl
@[simp] theorem State.modShell_resp (d : Nat) (f : Shell → Shell) : (s.modShell d f).resp = s.resp := rfl
@[simp] theorem State.modShell_sent (d : Nat) (f : Shell → Shell) : (s.modShell d f).sent = s.sent := rfl

/-! ### modSkin -/
@[simp] theorem State.modSkin_pending (d : Nat) (f : Skin → Skin) : (s.modSkin d f).pending = s.pending := rfl
@[simp] theorem State.modSkin_beat (d : Nat) (f : Skin → Skin) : (s.modSkin d f).beat = s.beat := rfl
@[simp] theorem State.modSkin_free (d : Nat) (f : Skin → Skin) : (s.modSkin d f).free = s.free := rfl
@[simp] theorem State.modSkin_noc (d : Nat) (f : Skin → Skin) : (s.modSkin d f).noc = s.noc := rfl
@[simp] theorem State.modSkin_met (d : Nat) (f : Skin → Skin) : (s.modSkin d f).met = s.met := rfl
@[simp] theorem State.modSkin_rings (d : Nat) (f : Skin → Skin) : (s.modSkin d f).rings = s.rings := rfl
@[simp] theorem State.modSkin_dbmap (d : Nat) (f : Skin → Skin) : (s.modSkin d f).dbmap = s.dbmap := rfl
@[simp] theorem State.modSkin_pcie (d : Nat) (f : Skin → Skin) : (s.modSkin d f).pcie = s.pcie := rfl
@[simp] theorem State.modSkin_mem (d : Nat) (f : Skin → Skin) : (s.modSkin d f).mem = s.mem := rfl
@[simp] theorem State.modSkin_fab (d : Nat) (f : Skin → Skin) : (s.modSkin d f).fab = s.fab := rfl
@[simp] theorem State.modSkin_faults (d : Nat) (f : Skin → Skin) : (s.modSkin d f).faults = s.faults := rfl
@[simp] theorem State.modSkin_crashed (d : Nat) (f : Skin → Skin) : (s.modSkin d f).crashed = s.crashed := rfl
@[simp] theorem State.modSkin_power (d : Nat) (f : Skin → Skin) : (s.modSkin d f).power = s.power := rfl
@[simp] theorem State.modSkin_boot (d : Nat) (f : Skin → Skin) : (s.modSkin d f).boot = s.boot := rfl
@[simp] theorem State.modSkin_hostMem (d : Nat) (f : Skin → Skin) : (s.modSkin d f).hostMem = s.hostMem := rfl
@[simp] theorem State.modSkin_fates (d : Nat) (f : Skin → Skin) : (s.modSkin d f).fates = s.fates := rfl
@[simp] theorem State.modSkin_caches (d : Nat) (f : Skin → Skin) : (s.modSkin d f).caches = s.caches := rfl
@[simp] theorem State.modSkin_resp (d : Nat) (f : Skin → Skin) : (s.modSkin d f).resp = s.resp := rfl
@[simp] theorem State.modSkin_sent (d : Nat) (f : Skin → Skin) : (s.modSkin d f).sent = s.sent := rfl

/-! ### modTuner -/
@[simp] theorem State.modTuner_pending (d : Nat) (f : Tuner → Tuner) : (s.modTuner d f).pending = s.pending := rfl
@[simp] theorem State.modTuner_beat (d : Nat) (f : Tuner → Tuner) : (s.modTuner d f).beat = s.beat := rfl
@[simp] theorem State.modTuner_free (d : Nat) (f : Tuner → Tuner) : (s.modTuner d f).free = s.free := rfl
@[simp] theorem State.modTuner_noc (d : Nat) (f : Tuner → Tuner) : (s.modTuner d f).noc = s.noc := rfl
@[simp] theorem State.modTuner_met (d : Nat) (f : Tuner → Tuner) : (s.modTuner d f).met = s.met := rfl
@[simp] theorem State.modTuner_rings (d : Nat) (f : Tuner → Tuner) : (s.modTuner d f).rings = s.rings := rfl
@[simp] theorem State.modTuner_dbmap (d : Nat) (f : Tuner → Tuner) : (s.modTuner d f).dbmap = s.dbmap := rfl
@[simp] theorem State.modTuner_pcie (d : Nat) (f : Tuner → Tuner) : (s.modTuner d f).pcie = s.pcie := rfl
@[simp] theorem State.modTuner_mem (d : Nat) (f : Tuner → Tuner) : (s.modTuner d f).mem = s.mem := rfl
@[simp] theorem State.modTuner_fab (d : Nat) (f : Tuner → Tuner) : (s.modTuner d f).fab = s.fab := rfl
@[simp] theorem State.modTuner_faults (d : Nat) (f : Tuner → Tuner) : (s.modTuner d f).faults = s.faults := rfl
@[simp] theorem State.modTuner_crashed (d : Nat) (f : Tuner → Tuner) : (s.modTuner d f).crashed = s.crashed := rfl
@[simp] theorem State.modTuner_power (d : Nat) (f : Tuner → Tuner) : (s.modTuner d f).power = s.power := rfl
@[simp] theorem State.modTuner_boot (d : Nat) (f : Tuner → Tuner) : (s.modTuner d f).boot = s.boot := rfl
@[simp] theorem State.modTuner_hostMem (d : Nat) (f : Tuner → Tuner) : (s.modTuner d f).hostMem = s.hostMem := rfl
@[simp] theorem State.modTuner_fates (d : Nat) (f : Tuner → Tuner) : (s.modTuner d f).fates = s.fates := rfl
@[simp] theorem State.modTuner_caches (d : Nat) (f : Tuner → Tuner) : (s.modTuner d f).caches = s.caches := rfl
@[simp] theorem State.modTuner_resp (d : Nat) (f : Tuner → Tuner) : (s.modTuner d f).resp = s.resp := rfl
@[simp] theorem State.modTuner_sent (d : Nat) (f : Tuner → Tuner) : (s.modTuner d f).sent = s.sent := rfl

/-! ### modTap -/
@[simp] theorem State.modTap_pending (d : Nat) (f : Tap → Tap) : (s.modTap d f).pending = s.pending := rfl
@[simp] theorem State.modTap_beat (d : Nat) (f : Tap → Tap) : (s.modTap d f).beat = s.beat := rfl
@[simp] theorem State.modTap_free (d : Nat) (f : Tap → Tap) : (s.modTap d f).free = s.free := rfl
@[simp] theorem State.modTap_noc (d : Nat) (f : Tap → Tap) : (s.modTap d f).noc = s.noc := rfl
@[simp] theorem State.modTap_met (d : Nat) (f : Tap → Tap) : (s.modTap d f).met = s.met := rfl
@[simp] theorem State.modTap_rings (d : Nat) (f : Tap → Tap) : (s.modTap d f).rings = s.rings := rfl
@[simp] theorem State.modTap_dbmap (d : Nat) (f : Tap → Tap) : (s.modTap d f).dbmap = s.dbmap := rfl
@[simp] theorem State.modTap_pcie (d : Nat) (f : Tap → Tap) : (s.modTap d f).pcie = s.pcie := rfl
@[simp] theorem State.modTap_mem (d : Nat) (f : Tap → Tap) : (s.modTap d f).mem = s.mem := rfl
@[simp] theorem State.modTap_fab (d : Nat) (f : Tap → Tap) : (s.modTap d f).fab = s.fab := rfl
@[simp] theorem State.modTap_faults (d : Nat) (f : Tap → Tap) : (s.modTap d f).faults = s.faults := rfl
@[simp] theorem State.modTap_crashed (d : Nat) (f : Tap → Tap) : (s.modTap d f).crashed = s.crashed := rfl
@[simp] theorem State.modTap_power (d : Nat) (f : Tap → Tap) : (s.modTap d f).power = s.power := rfl
@[simp] theorem State.modTap_boot (d : Nat) (f : Tap → Tap) : (s.modTap d f).boot = s.boot := rfl
@[simp] theorem State.modTap_hostMem (d : Nat) (f : Tap → Tap) : (s.modTap d f).hostMem = s.hostMem := rfl
@[simp] theorem State.modTap_fates (d : Nat) (f : Tap → Tap) : (s.modTap d f).fates = s.fates := rfl
@[simp] theorem State.modTap_caches (d : Nat) (f : Tap → Tap) : (s.modTap d f).caches = s.caches := rfl
@[simp] theorem State.modTap_resp (d : Nat) (f : Tap → Tap) : (s.modTap d f).resp = s.resp := rfl
@[simp] theorem State.modTap_sent (d : Nat) (f : Tap → Tap) : (s.modTap d f).sent = s.sent := rfl

/-! ### modRoll -/
@[simp] theorem State.modRoll_pending (d : Nat) (f : Roll → Roll) : (s.modRoll d f).pending = s.pending := rfl
@[simp] theorem State.modRoll_beat (d : Nat) (f : Roll → Roll) : (s.modRoll d f).beat = s.beat := rfl
@[simp] theorem State.modRoll_free (d : Nat) (f : Roll → Roll) : (s.modRoll d f).free = s.free := rfl
@[simp] theorem State.modRoll_noc (d : Nat) (f : Roll → Roll) : (s.modRoll d f).noc = s.noc := rfl
@[simp] theorem State.modRoll_met (d : Nat) (f : Roll → Roll) : (s.modRoll d f).met = s.met := rfl
@[simp] theorem State.modRoll_rings (d : Nat) (f : Roll → Roll) : (s.modRoll d f).rings = s.rings := rfl
@[simp] theorem State.modRoll_dbmap (d : Nat) (f : Roll → Roll) : (s.modRoll d f).dbmap = s.dbmap := rfl
@[simp] theorem State.modRoll_pcie (d : Nat) (f : Roll → Roll) : (s.modRoll d f).pcie = s.pcie := rfl
@[simp] theorem State.modRoll_mem (d : Nat) (f : Roll → Roll) : (s.modRoll d f).mem = s.mem := rfl
@[simp] theorem State.modRoll_fab (d : Nat) (f : Roll → Roll) : (s.modRoll d f).fab = s.fab := rfl
@[simp] theorem State.modRoll_faults (d : Nat) (f : Roll → Roll) : (s.modRoll d f).faults = s.faults := rfl
@[simp] theorem State.modRoll_crashed (d : Nat) (f : Roll → Roll) : (s.modRoll d f).crashed = s.crashed := rfl
@[simp] theorem State.modRoll_power (d : Nat) (f : Roll → Roll) : (s.modRoll d f).power = s.power := rfl
@[simp] theorem State.modRoll_boot (d : Nat) (f : Roll → Roll) : (s.modRoll d f).boot = s.boot := rfl
@[simp] theorem State.modRoll_hostMem (d : Nat) (f : Roll → Roll) : (s.modRoll d f).hostMem = s.hostMem := rfl
@[simp] theorem State.modRoll_fates (d : Nat) (f : Roll → Roll) : (s.modRoll d f).fates = s.fates := rfl
@[simp] theorem State.modRoll_caches (d : Nat) (f : Roll → Roll) : (s.modRoll d f).caches = s.caches := rfl
@[simp] theorem State.modRoll_resp (d : Nat) (f : Roll → Roll) : (s.modRoll d f).resp = s.resp := rfl
@[simp] theorem State.modRoll_sent (d : Nat) (f : Roll → Roll) : (s.modRoll d f).sent = s.sent := rfl

/-! ### modMet -/
@[simp] theorem State.modMet_pending (f : Met → Met) : (s.modMet f).pending = s.pending := rfl
@[simp] theorem State.modMet_beat (f : Met → Met) : (s.modMet f).beat = s.beat := rfl
@[simp] theorem State.modMet_free (f : Met → Met) : (s.modMet f).free = s.free := rfl
@[simp] theorem State.modMet_drums (f : Met → Met) : (s.modMet f).drums = s.drums := rfl
@[simp] theorem State.modMet_noc (f : Met → Met) : (s.modMet f).noc = s.noc := rfl
@[simp] theorem State.modMet_rings (f : Met → Met) : (s.modMet f).rings = s.rings := rfl
@[simp] theorem State.modMet_dbmap (f : Met → Met) : (s.modMet f).dbmap = s.dbmap := rfl
@[simp] theorem State.modMet_pcie (f : Met → Met) : (s.modMet f).pcie = s.pcie := rfl
@[simp] theorem State.modMet_mem (f : Met → Met) : (s.modMet f).mem = s.mem := rfl
@[simp] theorem State.modMet_fab (f : Met → Met) : (s.modMet f).fab = s.fab := rfl
@[simp] theorem State.modMet_faults (f : Met → Met) : (s.modMet f).faults = s.faults := rfl
@[simp] theorem State.modMet_crashed (f : Met → Met) : (s.modMet f).crashed = s.crashed := rfl
@[simp] theorem State.modMet_power (f : Met → Met) : (s.modMet f).power = s.power := rfl
@[simp] theorem State.modMet_boot (f : Met → Met) : (s.modMet f).boot = s.boot := rfl
@[simp] theorem State.modMet_hostMem (f : Met → Met) : (s.modMet f).hostMem = s.hostMem := rfl
@[simp] theorem State.modMet_fates (f : Met → Met) : (s.modMet f).fates = s.fates := rfl
@[simp] theorem State.modMet_caches (f : Met → Met) : (s.modMet f).caches = s.caches := rfl
@[simp] theorem State.modMet_resp (f : Met → Met) : (s.modMet f).resp = s.resp := rfl
@[simp] theorem State.modMet_sent (f : Met → Met) : (s.modMet f).sent = s.sent := rfl

/-! ### modPcie -/
@[simp] theorem State.modPcie_pending (f : Pcie → Pcie) : (s.modPcie f).pending = s.pending := rfl
@[simp] theorem State.modPcie_beat (f : Pcie → Pcie) : (s.modPcie f).beat = s.beat := rfl
@[simp] theorem State.modPcie_free (f : Pcie → Pcie) : (s.modPcie f).free = s.free := rfl
@[simp] theorem State.modPcie_drums (f : Pcie → Pcie) : (s.modPcie f).drums = s.drums := rfl
@[simp] theorem State.modPcie_noc (f : Pcie → Pcie) : (s.modPcie f).noc = s.noc := rfl
@[simp] theorem State.modPcie_met (f : Pcie → Pcie) : (s.modPcie f).met = s.met := rfl
@[simp] theorem State.modPcie_rings (f : Pcie → Pcie) : (s.modPcie f).rings = s.rings := rfl
@[simp] theorem State.modPcie_dbmap (f : Pcie → Pcie) : (s.modPcie f).dbmap = s.dbmap := rfl
@[simp] theorem State.modPcie_mem (f : Pcie → Pcie) : (s.modPcie f).mem = s.mem := rfl
@[simp] theorem State.modPcie_fab (f : Pcie → Pcie) : (s.modPcie f).fab = s.fab := rfl
@[simp] theorem State.modPcie_faults (f : Pcie → Pcie) : (s.modPcie f).faults = s.faults := rfl
@[simp] theorem State.modPcie_crashed (f : Pcie → Pcie) : (s.modPcie f).crashed = s.crashed := rfl
@[simp] theorem State.modPcie_power (f : Pcie → Pcie) : (s.modPcie f).power = s.power := rfl
@[simp] theorem State.modPcie_boot (f : Pcie → Pcie) : (s.modPcie f).boot = s.boot := rfl
@[simp] theorem State.modPcie_hostMem (f : Pcie → Pcie) : (s.modPcie f).hostMem = s.hostMem := rfl
@[simp] theorem State.modPcie_fates (f : Pcie → Pcie) : (s.modPcie f).fates = s.fates := rfl
@[simp] theorem State.modPcie_caches (f : Pcie → Pcie) : (s.modPcie f).caches = s.caches := rfl
@[simp] theorem State.modPcie_resp (f : Pcie → Pcie) : (s.modPcie f).resp = s.resp := rfl
@[simp] theorem State.modPcie_sent (f : Pcie → Pcie) : (s.modPcie f).sent = s.sent := rfl

/-! ### modMem -/
@[simp] theorem State.modMem_pending (f : MainMem → MainMem) : (s.modMem f).pending = s.pending := rfl
@[simp] theorem State.modMem_beat (f : MainMem → MainMem) : (s.modMem f).beat = s.beat := rfl
@[simp] theorem State.modMem_free (f : MainMem → MainMem) : (s.modMem f).free = s.free := rfl
@[simp] theorem State.modMem_drums (f : MainMem → MainMem) : (s.modMem f).drums = s.drums := rfl
@[simp] theorem State.modMem_noc (f : MainMem → MainMem) : (s.modMem f).noc = s.noc := rfl
@[simp] theorem State.modMem_met (f : MainMem → MainMem) : (s.modMem f).met = s.met := rfl
@[simp] theorem State.modMem_rings (f : MainMem → MainMem) : (s.modMem f).rings = s.rings := rfl
@[simp] theorem State.modMem_dbmap (f : MainMem → MainMem) : (s.modMem f).dbmap = s.dbmap := rfl
@[simp] theorem State.modMem_pcie (f : MainMem → MainMem) : (s.modMem f).pcie = s.pcie := rfl
@[simp] theorem State.modMem_fab (f : MainMem → MainMem) : (s.modMem f).fab = s.fab := rfl
@[simp] theorem State.modMem_faults (f : MainMem → MainMem) : (s.modMem f).faults = s.faults := rfl
@[simp] theorem State.modMem_crashed (f : MainMem → MainMem) : (s.modMem f).crashed = s.crashed := rfl
@[simp] theorem State.modMem_power (f : MainMem → MainMem) : (s.modMem f).power = s.power := rfl
@[simp] theorem State.modMem_boot (f : MainMem → MainMem) : (s.modMem f).boot = s.boot := rfl
@[simp] theorem State.modMem_hostMem (f : MainMem → MainMem) : (s.modMem f).hostMem = s.hostMem := rfl
@[simp] theorem State.modMem_fates (f : MainMem → MainMem) : (s.modMem f).fates = s.fates := rfl
@[simp] theorem State.modMem_caches (f : MainMem → MainMem) : (s.modMem f).caches = s.caches := rfl
@[simp] theorem State.modMem_resp (f : MainMem → MainMem) : (s.modMem f).resp = s.resp := rfl
@[simp] theorem State.modMem_sent (f : MainMem → MainMem) : (s.modMem f).sent = s.sent := rfl

/-! ### modFab -/
@[simp] theorem State.modFab_pending (f : Fabric → Fabric) : (s.modFab f).pending = s.pending := rfl
@[simp] theorem State.modFab_beat (f : Fabric → Fabric) : (s.modFab f).beat = s.beat := rfl
@[simp] theorem State.modFab_free (f : Fabric → Fabric) : (s.modFab f).free = s.free := rfl
@[simp] theorem State.modFab_drums (f : Fabric → Fabric) : (s.modFab f).drums = s.drums := rfl
@[simp] theorem State.modFab_noc (f : Fabric → Fabric) : (s.modFab f).noc = s.noc := rfl
@[simp] theorem State.modFab_met (f : Fabric → Fabric) : (s.modFab f).met = s.met := rfl
@[simp] theorem State.modFab_rings (f : Fabric → Fabric) : (s.modFab f).rings = s.rings := rfl
@[simp] theorem State.modFab_dbmap (f : Fabric → Fabric) : (s.modFab f).dbmap = s.dbmap := rfl
@[simp] theorem State.modFab_pcie (f : Fabric → Fabric) : (s.modFab f).pcie = s.pcie := rfl
@[simp] theorem State.modFab_mem (f : Fabric → Fabric) : (s.modFab f).mem = s.mem := rfl
@[simp] theorem State.modFab_faults (f : Fabric → Fabric) : (s.modFab f).faults = s.faults := rfl
@[simp] theorem State.modFab_crashed (f : Fabric → Fabric) : (s.modFab f).crashed = s.crashed := rfl
@[simp] theorem State.modFab_power (f : Fabric → Fabric) : (s.modFab f).power = s.power := rfl
@[simp] theorem State.modFab_boot (f : Fabric → Fabric) : (s.modFab f).boot = s.boot := rfl
@[simp] theorem State.modFab_hostMem (f : Fabric → Fabric) : (s.modFab f).hostMem = s.hostMem := rfl
@[simp] theorem State.modFab_fates (f : Fabric → Fabric) : (s.modFab f).fates = s.fates := rfl
@[simp] theorem State.modFab_caches (f : Fabric → Fabric) : (s.modFab f).caches = s.caches := rfl
@[simp] theorem State.modFab_resp (f : Fabric → Fabric) : (s.modFab f).resp = s.resp := rfl
@[simp] theorem State.modFab_sent (f : Fabric → Fabric) : (s.modFab f).sent = s.sent := rfl

/-! ### modPower -/
@[simp] theorem State.modPower_pending (f : Power → Power) : (s.modPower f).pending = s.pending := rfl
@[simp] theorem State.modPower_beat (f : Power → Power) : (s.modPower f).beat = s.beat := rfl
@[simp] theorem State.modPower_free (f : Power → Power) : (s.modPower f).free = s.free := rfl
@[simp] theorem State.modPower_drums (f : Power → Power) : (s.modPower f).drums = s.drums := rfl
@[simp] theorem State.modPower_noc (f : Power → Power) : (s.modPower f).noc = s.noc := rfl
@[simp] theorem State.modPower_met (f : Power → Power) : (s.modPower f).met = s.met := rfl
@[simp] theorem State.modPower_rings (f : Power → Power) : (s.modPower f).rings = s.rings := rfl
@[simp] theorem State.modPower_dbmap (f : Power → Power) : (s.modPower f).dbmap = s.dbmap := rfl
@[simp] theorem State.modPower_pcie (f : Power → Power) : (s.modPower f).pcie = s.pcie := rfl
@[simp] theorem State.modPower_mem (f : Power → Power) : (s.modPower f).mem = s.mem := rfl
@[simp] theorem State.modPower_fab (f : Power → Power) : (s.modPower f).fab = s.fab := rfl
@[simp] theorem State.modPower_faults (f : Power → Power) : (s.modPower f).faults = s.faults := rfl
@[simp] theorem State.modPower_crashed (f : Power → Power) : (s.modPower f).crashed = s.crashed := rfl
@[simp] theorem State.modPower_boot (f : Power → Power) : (s.modPower f).boot = s.boot := rfl
@[simp] theorem State.modPower_hostMem (f : Power → Power) : (s.modPower f).hostMem = s.hostMem := rfl
@[simp] theorem State.modPower_fates (f : Power → Power) : (s.modPower f).fates = s.fates := rfl
@[simp] theorem State.modPower_caches (f : Power → Power) : (s.modPower f).caches = s.caches := rfl
@[simp] theorem State.modPower_resp (f : Power → Power) : (s.modPower f).resp = s.resp := rfl
@[simp] theorem State.modPower_sent (f : Power → Power) : (s.modPower f).sent = s.sent := rfl

/-! ### modBoot -/
@[simp] theorem State.modBoot_pending (f : Boot → Boot) : (s.modBoot f).pending = s.pending := rfl
@[simp] theorem State.modBoot_beat (f : Boot → Boot) : (s.modBoot f).beat = s.beat := rfl
@[simp] theorem State.modBoot_free (f : Boot → Boot) : (s.modBoot f).free = s.free := rfl
@[simp] theorem State.modBoot_drums (f : Boot → Boot) : (s.modBoot f).drums = s.drums := rfl
@[simp] theorem State.modBoot_noc (f : Boot → Boot) : (s.modBoot f).noc = s.noc := rfl
@[simp] theorem State.modBoot_met (f : Boot → Boot) : (s.modBoot f).met = s.met := rfl
@[simp] theorem State.modBoot_rings (f : Boot → Boot) : (s.modBoot f).rings = s.rings := rfl
@[simp] theorem State.modBoot_dbmap (f : Boot → Boot) : (s.modBoot f).dbmap = s.dbmap := rfl
@[simp] theorem State.modBoot_pcie (f : Boot → Boot) : (s.modBoot f).pcie = s.pcie := rfl
@[simp] theorem State.modBoot_mem (f : Boot → Boot) : (s.modBoot f).mem = s.mem := rfl
@[simp] theorem State.modBoot_fab (f : Boot → Boot) : (s.modBoot f).fab = s.fab := rfl
@[simp] theorem State.modBoot_faults (f : Boot → Boot) : (s.modBoot f).faults = s.faults := rfl
@[simp] theorem State.modBoot_crashed (f : Boot → Boot) : (s.modBoot f).crashed = s.crashed := rfl
@[simp] theorem State.modBoot_power (f : Boot → Boot) : (s.modBoot f).power = s.power := rfl
@[simp] theorem State.modBoot_hostMem (f : Boot → Boot) : (s.modBoot f).hostMem = s.hostMem := rfl
@[simp] theorem State.modBoot_fates (f : Boot → Boot) : (s.modBoot f).fates = s.fates := rfl
@[simp] theorem State.modBoot_caches (f : Boot → Boot) : (s.modBoot f).caches = s.caches := rfl
@[simp] theorem State.modBoot_resp (f : Boot → Boot) : (s.modBoot f).resp = s.resp := rfl
@[simp] theorem State.modBoot_sent (f : Boot → Boot) : (s.modBoot f).sent = s.sent := rfl

/-! ### modPort -/
@[simp] theorem State.modPort_pending (p : Nat) (f : Port → Port) : (s.modPort p f).pending = s.pending := rfl
@[simp] theorem State.modPort_beat (p : Nat) (f : Port → Port) : (s.modPort p f).beat = s.beat := rfl
@[simp] theorem State.modPort_free (p : Nat) (f : Port → Port) : (s.modPort p f).free = s.free := rfl
@[simp] theorem State.modPort_drums (p : Nat) (f : Port → Port) : (s.modPort p f).drums = s.drums := rfl
@[simp] theorem State.modPort_noc (p : Nat) (f : Port → Port) : (s.modPort p f).noc = s.noc := rfl
@[simp] theorem State.modPort_met (p : Nat) (f : Port → Port) : (s.modPort p f).met = s.met := rfl
@[simp] theorem State.modPort_rings (p : Nat) (f : Port → Port) : (s.modPort p f).rings = s.rings := rfl
@[simp] theorem State.modPort_dbmap (p : Nat) (f : Port → Port) : (s.modPort p f).dbmap = s.dbmap := rfl
@[simp] theorem State.modPort_pcie (p : Nat) (f : Port → Port) : (s.modPort p f).pcie = s.pcie := rfl
@[simp] theorem State.modPort_mem (p : Nat) (f : Port → Port) : (s.modPort p f).mem = s.mem := rfl
@[simp] theorem State.modPort_faults (p : Nat) (f : Port → Port) : (s.modPort p f).faults = s.faults := rfl
@[simp] theorem State.modPort_crashed (p : Nat) (f : Port → Port) : (s.modPort p f).crashed = s.crashed := rfl
@[simp] theorem State.modPort_power (p : Nat) (f : Port → Port) : (s.modPort p f).power = s.power := rfl
@[simp] theorem State.modPort_boot (p : Nat) (f : Port → Port) : (s.modPort p f).boot = s.boot := rfl
@[simp] theorem State.modPort_hostMem (p : Nat) (f : Port → Port) : (s.modPort p f).hostMem = s.hostMem := rfl
@[simp] theorem State.modPort_fates (p : Nat) (f : Port → Port) : (s.modPort p f).fates = s.fates := rfl
@[simp] theorem State.modPort_caches (p : Nat) (f : Port → Port) : (s.modPort p f).caches = s.caches := rfl
@[simp] theorem State.modPort_resp (p : Nat) (f : Port → Port) : (s.modPort p f).resp = s.resp := rfl
@[simp] theorem State.modPort_sent (p : Nat) (f : Port → Port) : (s.modPort p f).sent = s.sent := rfl

/-! ### modChan -/
@[simp] theorem State.modChan_pending (c : Nat) (f : Channel → Channel) : (s.modChan c f).pending = s.pending := rfl
@[simp] theorem State.modChan_beat (c : Nat) (f : Channel → Channel) : (s.modChan c f).beat = s.beat := rfl
@[simp] theorem State.modChan_free (c : Nat) (f : Channel → Channel) : (s.modChan c f).free = s.free := rfl
@[simp] theorem State.modChan_drums (c : Nat) (f : Channel → Channel) : (s.modChan c f).drums = s.drums := rfl
@[simp] theorem State.modChan_noc (c : Nat) (f : Channel → Channel) : (s.modChan c f).noc = s.noc := rfl
@[simp] theorem State.modChan_met (c : Nat) (f : Channel → Channel) : (s.modChan c f).met = s.met := rfl
@[simp] theorem State.modChan_rings (c : Nat) (f : Channel → Channel) : (s.modChan c f).rings = s.rings := rfl
@[simp] theorem State.modChan_dbmap (c : Nat) (f : Channel → Channel) : (s.modChan c f).dbmap = s.dbmap := rfl
@[simp] theorem State.modChan_pcie (c : Nat) (f : Channel → Channel) : (s.modChan c f).pcie = s.pcie := rfl
@[simp] theorem State.modChan_fab (c : Nat) (f : Channel → Channel) : (s.modChan c f).fab = s.fab := rfl
@[simp] theorem State.modChan_faults (c : Nat) (f : Channel → Channel) : (s.modChan c f).faults = s.faults := rfl
@[simp] theorem State.modChan_crashed (c : Nat) (f : Channel → Channel) : (s.modChan c f).crashed = s.crashed := rfl
@[simp] theorem State.modChan_power (c : Nat) (f : Channel → Channel) : (s.modChan c f).power = s.power := rfl
@[simp] theorem State.modChan_boot (c : Nat) (f : Channel → Channel) : (s.modChan c f).boot = s.boot := rfl
@[simp] theorem State.modChan_hostMem (c : Nat) (f : Channel → Channel) : (s.modChan c f).hostMem = s.hostMem := rfl
@[simp] theorem State.modChan_fates (c : Nat) (f : Channel → Channel) : (s.modChan c f).fates = s.fates := rfl
@[simp] theorem State.modChan_caches (c : Nat) (f : Channel → Channel) : (s.modChan c f).caches = s.caches := rfl
@[simp] theorem State.modChan_resp (c : Nat) (f : Channel → Channel) : (s.modChan c f).resp = s.resp := rfl
@[simp] theorem State.modChan_sent (c : Nat) (f : Channel → Channel) : (s.modChan c f).sent = s.sent := rfl

/-! ### setRing -/
@[simp] theorem State.setRing_pending (q : Nat) (r : Ring) : (s.setRing q r).pending = s.pending := rfl
@[simp] theorem State.setRing_beat (q : Nat) (r : Ring) : (s.setRing q r).beat = s.beat := rfl
@[simp] theorem State.setRing_free (q : Nat) (r : Ring) : (s.setRing q r).free = s.free := rfl
@[simp] theorem State.setRing_drums (q : Nat) (r : Ring) : (s.setRing q r).drums = s.drums := rfl
@[simp] theorem State.setRing_noc (q : Nat) (r : Ring) : (s.setRing q r).noc = s.noc := rfl
@[simp] theorem State.setRing_met (q : Nat) (r : Ring) : (s.setRing q r).met = s.met := rfl
@[simp] theorem State.setRing_dbmap (q : Nat) (r : Ring) : (s.setRing q r).dbmap = s.dbmap := rfl
@[simp] theorem State.setRing_pcie (q : Nat) (r : Ring) : (s.setRing q r).pcie = s.pcie := rfl
@[simp] theorem State.setRing_mem (q : Nat) (r : Ring) : (s.setRing q r).mem = s.mem := rfl
@[simp] theorem State.setRing_fab (q : Nat) (r : Ring) : (s.setRing q r).fab = s.fab := rfl
@[simp] theorem State.setRing_faults (q : Nat) (r : Ring) : (s.setRing q r).faults = s.faults := rfl
@[simp] theorem State.setRing_crashed (q : Nat) (r : Ring) : (s.setRing q r).crashed = s.crashed := rfl
@[simp] theorem State.setRing_power (q : Nat) (r : Ring) : (s.setRing q r).power = s.power := rfl
@[simp] theorem State.setRing_boot (q : Nat) (r : Ring) : (s.setRing q r).boot = s.boot := rfl
@[simp] theorem State.setRing_hostMem (q : Nat) (r : Ring) : (s.setRing q r).hostMem = s.hostMem := rfl
@[simp] theorem State.setRing_fates (q : Nat) (r : Ring) : (s.setRing q r).fates = s.fates := rfl
@[simp] theorem State.setRing_caches (q : Nat) (r : Ring) : (s.setRing q r).caches = s.caches := rfl
@[simp] theorem State.setRing_resp (q : Nat) (r : Ring) : (s.setRing q r).resp = s.resp := rfl
@[simp] theorem State.setRing_sent (q : Nat) (r : Ring) : (s.setRing q r).sent = s.sent := rfl

/-! ### modRing -/
@[simp] theorem State.modRing_pending (q : Nat) (f : Ring → Ring) : (s.modRing q f).pending = s.pending := rfl
@[simp] theorem State.modRing_beat (q : Nat) (f : Ring → Ring) : (s.modRing q f).beat = s.beat := rfl
@[simp] theorem State.modRing_free (q : Nat) (f : Ring → Ring) : (s.modRing q f).free = s.free := rfl
@[simp] theorem State.modRing_drums (q : Nat) (f : Ring → Ring) : (s.modRing q f).drums = s.drums := rfl
@[simp] theorem State.modRing_noc (q : Nat) (f : Ring → Ring) : (s.modRing q f).noc = s.noc := rfl
@[simp] theorem State.modRing_met (q : Nat) (f : Ring → Ring) : (s.modRing q f).met = s.met := rfl
@[simp] theorem State.modRing_dbmap (q : Nat) (f : Ring → Ring) : (s.modRing q f).dbmap = s.dbmap := rfl
@[simp] theorem State.modRing_pcie (q : Nat) (f : Ring → Ring) : (s.modRing q f).pcie = s.pcie := rfl
@[simp] theorem State.modRing_mem (q : Nat) (f : Ring → Ring) : (s.modRing q f).mem = s.mem := rfl
@[simp] theorem State.modRing_fab (q : Nat) (f : Ring → Ring) : (s.modRing q f).fab = s.fab := rfl
@[simp] theorem State.modRing_faults (q : Nat) (f : Ring → Ring) : (s.modRing q f).faults = s.faults := rfl
@[simp] theorem State.modRing_crashed (q : Nat) (f : Ring → Ring) : (s.modRing q f).crashed = s.crashed := rfl
@[simp] theorem State.modRing_power (q : Nat) (f : Ring → Ring) : (s.modRing q f).power = s.power := rfl
@[simp] theorem State.modRing_boot (q : Nat) (f : Ring → Ring) : (s.modRing q f).boot = s.boot := rfl
@[simp] theorem State.modRing_hostMem (q : Nat) (f : Ring → Ring) : (s.modRing q f).hostMem = s.hostMem := rfl
@[simp] theorem State.modRing_fates (q : Nat) (f : Ring → Ring) : (s.modRing q f).fates = s.fates := rfl
@[simp] theorem State.modRing_caches (q : Nat) (f : Ring → Ring) : (s.modRing q f).caches = s.caches := rfl
@[simp] theorem State.modRing_resp (q : Nat) (f : Ring → Ring) : (s.modRing q f).resp = s.resp := rfl
@[simp] theorem State.modRing_sent (q : Nat) (f : Ring → Ring) : (s.modRing q f).sent = s.sent := rfl

/-! ### setFault -/
@[simp] theorem State.setFault_pending (n : Nat) (f : FaultSet) : (s.setFault n f).pending = s.pending := rfl
@[simp] theorem State.setFault_beat (n : Nat) (f : FaultSet) : (s.setFault n f).beat = s.beat := rfl
@[simp] theorem State.setFault_free (n : Nat) (f : FaultSet) : (s.setFault n f).free = s.free := rfl
@[simp] theorem State.setFault_drums (n : Nat) (f : FaultSet) : (s.setFault n f).drums = s.drums := rfl
@[simp] theorem State.setFault_noc (n : Nat) (f : FaultSet) : (s.setFault n f).noc = s.noc := rfl
@[simp] theorem State.setFault_met (n : Nat) (f : FaultSet) : (s.setFault n f).met = s.met := rfl
@[simp] theorem State.setFault_rings (n : Nat) (f : FaultSet) : (s.setFault n f).rings = s.rings := rfl
@[simp] theorem State.setFault_dbmap (n : Nat) (f : FaultSet) : (s.setFault n f).dbmap = s.dbmap := rfl
@[simp] theorem State.setFault_pcie (n : Nat) (f : FaultSet) : (s.setFault n f).pcie = s.pcie := rfl
@[simp] theorem State.setFault_mem (n : Nat) (f : FaultSet) : (s.setFault n f).mem = s.mem := rfl
@[simp] theorem State.setFault_fab (n : Nat) (f : FaultSet) : (s.setFault n f).fab = s.fab := rfl
@[simp] theorem State.setFault_crashed (n : Nat) (f : FaultSet) : (s.setFault n f).crashed = s.crashed := rfl
@[simp] theorem State.setFault_power (n : Nat) (f : FaultSet) : (s.setFault n f).power = s.power := rfl
@[simp] theorem State.setFault_boot (n : Nat) (f : FaultSet) : (s.setFault n f).boot = s.boot := rfl
@[simp] theorem State.setFault_hostMem (n : Nat) (f : FaultSet) : (s.setFault n f).hostMem = s.hostMem := rfl
@[simp] theorem State.setFault_fates (n : Nat) (f : FaultSet) : (s.setFault n f).fates = s.fates := rfl
@[simp] theorem State.setFault_caches (n : Nat) (f : FaultSet) : (s.setFault n f).caches = s.caches := rfl
@[simp] theorem State.setFault_resp (n : Nat) (f : FaultSet) : (s.setFault n f).resp = s.resp := rfl
@[simp] theorem State.setFault_sent (n : Nat) (f : FaultSet) : (s.setFault n f).sent = s.sent := rfl

/-! ### modFault -/
@[simp] theorem State.modFault_pending (n : Nat) (f : FaultSet → FaultSet) : (s.modFault n f).pending = s.pending := rfl
@[simp] theorem State.modFault_beat (n : Nat) (f : FaultSet → FaultSet) : (s.modFault n f).beat = s.beat := rfl
@[simp] theorem State.modFault_free (n : Nat) (f : FaultSet → FaultSet) : (s.modFault n f).free = s.free := rfl
@[simp] theorem State.modFault_drums (n : Nat) (f : FaultSet → FaultSet) : (s.modFault n f).drums = s.drums := rfl
@[simp] theorem State.modFault_noc (n : Nat) (f : FaultSet → FaultSet) : (s.modFault n f).noc = s.noc := rfl
@[simp] theorem State.modFault_met (n : Nat) (f : FaultSet → FaultSet) : (s.modFault n f).met = s.met := rfl
@[simp] theorem State.modFault_rings (n : Nat) (f : FaultSet → FaultSet) : (s.modFault n f).rings = s.rings := rfl
@[simp] theorem State.modFault_dbmap (n : Nat) (f : FaultSet → FaultSet) : (s.modFault n f).dbmap = s.dbmap := rfl
@[simp] theorem State.modFault_pcie (n : Nat) (f : FaultSet → FaultSet) : (s.modFault n f).pcie = s.pcie := rfl
@[simp] theorem State.modFault_mem (n : Nat) (f : FaultSet → FaultSet) : (s.modFault n f).mem = s.mem := rfl
@[simp] theorem State.modFault_fab (n : Nat) (f : FaultSet → FaultSet) : (s.modFault n f).fab = s.fab := rfl
@[simp] theorem State.modFault_crashed (n : Nat) (f : FaultSet → FaultSet) : (s.modFault n f).crashed = s.crashed := rfl
@[simp] theorem State.modFault_power (n : Nat) (f : FaultSet → FaultSet) : (s.modFault n f).power = s.power := rfl
@[simp] theorem State.modFault_boot (n : Nat) (f : FaultSet → FaultSet) : (s.modFault n f).boot = s.boot := rfl
@[simp] theorem State.modFault_hostMem (n : Nat) (f : FaultSet → FaultSet) : (s.modFault n f).hostMem = s.hostMem := rfl
@[simp] theorem State.modFault_fates (n : Nat) (f : FaultSet → FaultSet) : (s.modFault n f).fates = s.fates := rfl
@[simp] theorem State.modFault_caches (n : Nat) (f : FaultSet → FaultSet) : (s.modFault n f).caches = s.caches := rfl
@[simp] theorem State.modFault_resp (n : Nat) (f : FaultSet → FaultSet) : (s.modFault n f).resp = s.resp := rfl
@[simp] theorem State.modFault_sent (n : Nat) (f : FaultSet → FaultSet) : (s.modFault n f).sent = s.sent := rfl

/-! ### emit -/
@[simp] theorem State.emit_pending (o : Out) : (s.emit o).pending = s.pending := rfl
@[simp] theorem State.emit_beat (o : Out) : (s.emit o).beat = s.beat := rfl
@[simp] theorem State.emit_free (o : Out) : (s.emit o).free = s.free := rfl
@[simp] theorem State.emit_drums (o : Out) : (s.emit o).drums = s.drums := rfl
@[simp] theorem State.emit_noc (o : Out) : (s.emit o).noc = s.noc := rfl
@[simp] theorem State.emit_met (o : Out) : (s.emit o).met = s.met := rfl
@[simp] theorem State.emit_rings (o : Out) : (s.emit o).rings = s.rings := rfl
@[simp] theorem State.emit_dbmap (o : Out) : (s.emit o).dbmap = s.dbmap := rfl
@[simp] theorem State.emit_pcie (o : Out) : (s.emit o).pcie = s.pcie := rfl
@[simp] theorem State.emit_mem (o : Out) : (s.emit o).mem = s.mem := rfl
@[simp] theorem State.emit_fab (o : Out) : (s.emit o).fab = s.fab := rfl
@[simp] theorem State.emit_faults (o : Out) : (s.emit o).faults = s.faults := rfl
@[simp] theorem State.emit_crashed (o : Out) : (s.emit o).crashed = s.crashed := rfl
@[simp] theorem State.emit_power (o : Out) : (s.emit o).power = s.power := rfl
@[simp] theorem State.emit_boot (o : Out) : (s.emit o).boot = s.boot := rfl
@[simp] theorem State.emit_hostMem (o : Out) : (s.emit o).hostMem = s.hostMem := rfl
@[simp] theorem State.emit_fates (o : Out) : (s.emit o).fates = s.fates := rfl
@[simp] theorem State.emit_caches (o : Out) : (s.emit o).caches = s.caches := rfl
@[simp] theorem State.emit_resp (o : Out) : (s.emit o).resp = s.resp := rfl

/-! ### answer -/
@[simp] theorem State.answer_pending (l : List Byte) : (s.answer l).pending = s.pending := rfl
@[simp] theorem State.answer_beat (l : List Byte) : (s.answer l).beat = s.beat := rfl
@[simp] theorem State.answer_free (l : List Byte) : (s.answer l).free = s.free := rfl
@[simp] theorem State.answer_drums (l : List Byte) : (s.answer l).drums = s.drums := rfl
@[simp] theorem State.answer_noc (l : List Byte) : (s.answer l).noc = s.noc := rfl
@[simp] theorem State.answer_met (l : List Byte) : (s.answer l).met = s.met := rfl
@[simp] theorem State.answer_rings (l : List Byte) : (s.answer l).rings = s.rings := rfl
@[simp] theorem State.answer_dbmap (l : List Byte) : (s.answer l).dbmap = s.dbmap := rfl
@[simp] theorem State.answer_pcie (l : List Byte) : (s.answer l).pcie = s.pcie := rfl
@[simp] theorem State.answer_mem (l : List Byte) : (s.answer l).mem = s.mem := rfl
@[simp] theorem State.answer_fab (l : List Byte) : (s.answer l).fab = s.fab := rfl
@[simp] theorem State.answer_faults (l : List Byte) : (s.answer l).faults = s.faults := rfl
@[simp] theorem State.answer_crashed (l : List Byte) : (s.answer l).crashed = s.crashed := rfl
@[simp] theorem State.answer_power (l : List Byte) : (s.answer l).power = s.power := rfl
@[simp] theorem State.answer_boot (l : List Byte) : (s.answer l).boot = s.boot := rfl
@[simp] theorem State.answer_hostMem (l : List Byte) : (s.answer l).hostMem = s.hostMem := rfl
@[simp] theorem State.answer_fates (l : List Byte) : (s.answer l).fates = s.fates := rfl
@[simp] theorem State.answer_caches (l : List Byte) : (s.answer l).caches = s.caches := rfl
@[simp] theorem State.answer_sent (l : List Byte) : (s.answer l).sent = s.sent := rfl

/-! ### badacc -/
@[simp] theorem State.badacc_pending : (s.badacc ).pending = s.pending := rfl
@[simp] theorem State.badacc_beat : (s.badacc ).beat = s.beat := rfl
@[simp] theorem State.badacc_free : (s.badacc ).free = s.free := rfl
@[simp] theorem State.badacc_drums : (s.badacc ).drums = s.drums := rfl
@[simp] theorem State.badacc_noc : (s.badacc ).noc = s.noc := rfl
@[simp] theorem State.badacc_met : (s.badacc ).met = s.met := rfl
@[simp] theorem State.badacc_rings : (s.badacc ).rings = s.rings := rfl
@[simp] theorem State.badacc_dbmap : (s.badacc ).dbmap = s.dbmap := rfl
@[simp] theorem State.badacc_mem : (s.badacc ).mem = s.mem := rfl
@[simp] theorem State.badacc_fab : (s.badacc ).fab = s.fab := rfl
@[simp] theorem State.badacc_faults : (s.badacc ).faults = s.faults := rfl
@[simp] theorem State.badacc_crashed : (s.badacc ).crashed = s.crashed := rfl
@[simp] theorem State.badacc_power : (s.badacc ).power = s.power := rfl
@[simp] theorem State.badacc_boot : (s.badacc ).boot = s.boot := rfl
@[simp] theorem State.badacc_hostMem : (s.badacc ).hostMem = s.hostMem := rfl
@[simp] theorem State.badacc_fates : (s.badacc ).fates = s.fates := rfl
@[simp] theorem State.badacc_caches : (s.badacc ).caches = s.caches := rfl
@[simp] theorem State.badacc_resp : (s.badacc ).resp = s.resp := rfl
@[simp] theorem State.badacc_sent : (s.badacc ).sent = s.sent := rfl

/-! ### modJob -/
@[simp] theorem State.modJob_pending (j : Half) (f : Job → Job) : (s.modJob j f).pending = s.pending := rfl
@[simp] theorem State.modJob_beat (j : Half) (f : Job → Job) : (s.modJob j f).beat = s.beat := rfl
@[simp] theorem State.modJob_free (j : Half) (f : Job → Job) : (s.modJob j f).free = s.free := rfl
@[simp] theorem State.modJob_drums (j : Half) (f : Job → Job) : (s.modJob j f).drums = s.drums := rfl
@[simp] theorem State.modJob_noc (j : Half) (f : Job → Job) : (s.modJob j f).noc = s.noc := rfl
@[simp] theorem State.modJob_rings (j : Half) (f : Job → Job) : (s.modJob j f).rings = s.rings := rfl
@[simp] theorem State.modJob_dbmap (j : Half) (f : Job → Job) : (s.modJob j f).dbmap = s.dbmap := rfl
@[simp] theorem State.modJob_pcie (j : Half) (f : Job → Job) : (s.modJob j f).pcie = s.pcie := rfl
@[simp] theorem State.modJob_mem (j : Half) (f : Job → Job) : (s.modJob j f).mem = s.mem := rfl
@[simp] theorem State.modJob_fab (j : Half) (f : Job → Job) : (s.modJob j f).fab = s.fab := rfl
@[simp] theorem State.modJob_faults (j : Half) (f : Job → Job) : (s.modJob j f).faults = s.faults := rfl
@[simp] theorem State.modJob_crashed (j : Half) (f : Job → Job) : (s.modJob j f).crashed = s.crashed := rfl
@[simp] theorem State.modJob_power (j : Half) (f : Job → Job) : (s.modJob j f).power = s.power := rfl
@[simp] theorem State.modJob_boot (j : Half) (f : Job → Job) : (s.modJob j f).boot = s.boot := rfl
@[simp] theorem State.modJob_hostMem (j : Half) (f : Job → Job) : (s.modJob j f).hostMem = s.hostMem := rfl
@[simp] theorem State.modJob_fates (j : Half) (f : Job → Job) : (s.modJob j f).fates = s.fates := rfl
@[simp] theorem State.modJob_caches (j : Half) (f : Job → Job) : (s.modJob j f).caches = s.caches := rfl
@[simp] theorem State.modJob_resp (j : Half) (f : Job → Job) : (s.modJob j f).resp = s.resp := rfl
@[simp] theorem State.modJob_sent (j : Half) (f : Job → Job) : (s.modJob j f).sent = s.sent := rfl

/-! ### modTask -/
@[simp] theorem State.modTask_pending (j : Half) (i : Nat) (f : Task → Task) : (s.modTask j i f).pending = s.pending := rfl
@[simp] theorem State.modTask_beat (j : Half) (i : Nat) (f : Task → Task) : (s.modTask j i f).beat = s.beat := rfl
@[simp] theorem State.modTask_free (j : Half) (i : Nat) (f : Task → Task) : (s.modTask j i f).free = s.free := rfl
@[simp] theorem State.modTask_drums (j : Half) (i : Nat) (f : Task → Task) : (s.modTask j i f).drums = s.drums := rfl
@[simp] theorem State.modTask_noc (j : Half) (i : Nat) (f : Task → Task) : (s.modTask j i f).noc = s.noc := rfl
@[simp] theorem State.modTask_rings (j : Half) (i : Nat) (f : Task → Task) : (s.modTask j i f).rings = s.rings := rfl
@[simp] theorem State.modTask_dbmap (j : Half) (i : Nat) (f : Task → Task) : (s.modTask j i f).dbmap = s.dbmap := rfl
@[simp] theorem State.modTask_pcie (j : Half) (i : Nat) (f : Task → Task) : (s.modTask j i f).pcie = s.pcie := rfl
@[simp] theorem State.modTask_mem (j : Half) (i : Nat) (f : Task → Task) : (s.modTask j i f).mem = s.mem := rfl
@[simp] theorem State.modTask_fab (j : Half) (i : Nat) (f : Task → Task) : (s.modTask j i f).fab = s.fab := rfl
@[simp] theorem State.modTask_faults (j : Half) (i : Nat) (f : Task → Task) : (s.modTask j i f).faults = s.faults := rfl
@[simp] theorem State.modTask_crashed (j : Half) (i : Nat) (f : Task → Task) : (s.modTask j i f).crashed = s.crashed := rfl
@[simp] theorem State.modTask_power (j : Half) (i : Nat) (f : Task → Task) : (s.modTask j i f).power = s.power := rfl
@[simp] theorem State.modTask_boot (j : Half) (i : Nat) (f : Task → Task) : (s.modTask j i f).boot = s.boot := rfl
@[simp] theorem State.modTask_hostMem (j : Half) (i : Nat) (f : Task → Task) : (s.modTask j i f).hostMem = s.hostMem := rfl
@[simp] theorem State.modTask_fates (j : Half) (i : Nat) (f : Task → Task) : (s.modTask j i f).fates = s.fates := rfl
@[simp] theorem State.modTask_caches (j : Half) (i : Nat) (f : Task → Task) : (s.modTask j i f).caches = s.caches := rfl
@[simp] theorem State.modTask_resp (j : Half) (i : Nat) (f : Task → Task) : (s.modTask j i f).resp = s.resp := rfl
@[simp] theorem State.modTask_sent (j : Half) (i : Nat) (f : Task → Task) : (s.modTask j i f).sent = s.sent := rfl

/-! ### markFaulted -/
@[simp] theorem State.markFaulted_pending (j : Half) (i : Nat) : (s.markFaulted j i).pending = s.pending := rfl
@[simp] theorem State.markFaulted_beat (j : Half) (i : Nat) : (s.markFaulted j i).beat = s.beat := rfl
@[simp] theorem State.markFaulted_free (j : Half) (i : Nat) : (s.markFaulted j i).free = s.free := rfl
@[simp] theorem State.markFaulted_drums (j : Half) (i : Nat) : (s.markFaulted j i).drums = s.drums := rfl
@[simp] theorem State.markFaulted_noc (j : Half) (i : Nat) : (s.markFaulted j i).noc = s.noc := rfl
@[simp] theorem State.markFaulted_rings (j : Half) (i : Nat) : (s.markFaulted j i).rings = s.rings := rfl
@[simp] theorem State.markFaulted_dbmap (j : Half) (i : Nat) : (s.markFaulted j i).dbmap = s.dbmap := rfl
@[simp] theorem State.markFaulted_pcie (j : Half) (i : Nat) : (s.markFaulted j i).pcie = s.pcie := rfl
@[simp] theorem State.markFaulted_mem (j : Half) (i : Nat) : (s.markFaulted j i).mem = s.mem := rfl
@[simp] theorem State.markFaulted_fab (j : Half) (i : Nat) : (s.markFaulted j i).fab = s.fab := rfl
@[simp] theorem State.markFaulted_faults (j : Half) (i : Nat) : (s.markFaulted j i).faults = s.faults := rfl
@[simp] theorem State.markFaulted_crashed (j : Half) (i : Nat) : (s.markFaulted j i).crashed = s.crashed := rfl
@[simp] theorem State.markFaulted_power (j : Half) (i : Nat) : (s.markFaulted j i).power = s.power := rfl
@[simp] theorem State.markFaulted_boot (j : Half) (i : Nat) : (s.markFaulted j i).boot = s.boot := rfl
@[simp] theorem State.markFaulted_hostMem (j : Half) (i : Nat) : (s.markFaulted j i).hostMem = s.hostMem := rfl
@[simp] theorem State.markFaulted_fates (j : Half) (i : Nat) : (s.markFaulted j i).fates = s.fates := rfl
@[simp] theorem State.markFaulted_caches (j : Half) (i : Nat) : (s.markFaulted j i).caches = s.caches := rfl
@[simp] theorem State.markFaulted_resp (j : Half) (i : Nat) : (s.markFaulted j i).resp = s.resp := rfl
@[simp] theorem State.markFaulted_sent (j : Half) (i : Nat) : (s.markFaulted j i).sent = s.sent := rfl

/-! ### took -/
@[simp] theorem State.took_pending (d n : Nat) (w : Quad) : (s.took d n w).pending = s.pending := rfl
@[simp] theorem State.took_beat (d n : Nat) (w : Quad) : (s.took d n w).beat = s.beat := rfl
@[simp] theorem State.took_free (d n : Nat) (w : Quad) : (s.took d n w).free = s.free := rfl
@[simp] theorem State.took_noc (d n : Nat) (w : Quad) : (s.took d n w).noc = s.noc := rfl
@[simp] theorem State.took_met (d n : Nat) (w : Quad) : (s.took d n w).met = s.met := rfl
@[simp] theorem State.took_rings (d n : Nat) (w : Quad) : (s.took d n w).rings = s.rings := rfl
@[simp] theorem State.took_dbmap (d n : Nat) (w : Quad) : (s.took d n w).dbmap = s.dbmap := rfl
@[simp] theorem State.took_pcie (d n : Nat) (w : Quad) : (s.took d n w).pcie = s.pcie := rfl
@[simp] theorem State.took_mem (d n : Nat) (w : Quad) : (s.took d n w).mem = s.mem := rfl
@[simp] theorem State.took_fab (d n : Nat) (w : Quad) : (s.took d n w).fab = s.fab := rfl
@[simp] theorem State.took_faults (d n : Nat) (w : Quad) : (s.took d n w).faults = s.faults := rfl
@[simp] theorem State.took_crashed (d n : Nat) (w : Quad) : (s.took d n w).crashed = s.crashed := rfl
@[simp] theorem State.took_power (d n : Nat) (w : Quad) : (s.took d n w).power = s.power := rfl
@[simp] theorem State.took_boot (d n : Nat) (w : Quad) : (s.took d n w).boot = s.boot := rfl
@[simp] theorem State.took_hostMem (d n : Nat) (w : Quad) : (s.took d n w).hostMem = s.hostMem := rfl
@[simp] theorem State.took_fates (d n : Nat) (w : Quad) : (s.took d n w).fates = s.fates := rfl
@[simp] theorem State.took_caches (d n : Nat) (w : Quad) : (s.took d n w).caches = s.caches := rfl
@[simp] theorem State.took_resp (d n : Nat) (w : Quad) : (s.took d n w).resp = s.resp := rfl
@[simp] theorem State.took_sent (d n : Nat) (w : Quad) : (s.took d n w).sent = s.sent := rfl

/-! ### access -/
@[simp] theorem State.access_pending (d : Nat) (l : List Range) : (s.access d l).pending = s.pending := rfl
@[simp] theorem State.access_beat (d : Nat) (l : List Range) : (s.access d l).beat = s.beat := rfl
@[simp] theorem State.access_free (d : Nat) (l : List Range) : (s.access d l).free = s.free := rfl
@[simp] theorem State.access_noc (d : Nat) (l : List Range) : (s.access d l).noc = s.noc := rfl
@[simp] theorem State.access_met (d : Nat) (l : List Range) : (s.access d l).met = s.met := rfl
@[simp] theorem State.access_rings (d : Nat) (l : List Range) : (s.access d l).rings = s.rings := rfl
@[simp] theorem State.access_dbmap (d : Nat) (l : List Range) : (s.access d l).dbmap = s.dbmap := rfl
@[simp] theorem State.access_pcie (d : Nat) (l : List Range) : (s.access d l).pcie = s.pcie := rfl
@[simp] theorem State.access_mem (d : Nat) (l : List Range) : (s.access d l).mem = s.mem := rfl
@[simp] theorem State.access_fab (d : Nat) (l : List Range) : (s.access d l).fab = s.fab := rfl
@[simp] theorem State.access_faults (d : Nat) (l : List Range) : (s.access d l).faults = s.faults := rfl
@[simp] theorem State.access_crashed (d : Nat) (l : List Range) : (s.access d l).crashed = s.crashed := rfl
@[simp] theorem State.access_power (d : Nat) (l : List Range) : (s.access d l).power = s.power := rfl
@[simp] theorem State.access_boot (d : Nat) (l : List Range) : (s.access d l).boot = s.boot := rfl
@[simp] theorem State.access_hostMem (d : Nat) (l : List Range) : (s.access d l).hostMem = s.hostMem := rfl
@[simp] theorem State.access_fates (d : Nat) (l : List Range) : (s.access d l).fates = s.fates := rfl
@[simp] theorem State.access_caches (d : Nat) (l : List Range) : (s.access d l).caches = s.caches := rfl
@[simp] theorem State.access_resp (d : Nat) (l : List Range) : (s.access d l).resp = s.resp := rfl
@[simp] theorem State.access_sent (d : Nat) (l : List Range) : (s.access d l).sent = s.sent := rfl

/-! ### noteReady -/
@[simp] theorem State.noteReady_pending : (s.noteReady ).pending = s.pending := rfl
@[simp] theorem State.noteReady_beat : (s.noteReady ).beat = s.beat := rfl
@[simp] theorem State.noteReady_free : (s.noteReady ).free = s.free := rfl
@[simp] theorem State.noteReady_drums : (s.noteReady ).drums = s.drums := rfl
@[simp] theorem State.noteReady_noc : (s.noteReady ).noc = s.noc := rfl
@[simp] theorem State.noteReady_rings : (s.noteReady ).rings = s.rings := rfl
@[simp] theorem State.noteReady_dbmap : (s.noteReady ).dbmap = s.dbmap := rfl
@[simp] theorem State.noteReady_pcie : (s.noteReady ).pcie = s.pcie := rfl
@[simp] theorem State.noteReady_mem : (s.noteReady ).mem = s.mem := rfl
@[simp] theorem State.noteReady_fab : (s.noteReady ).fab = s.fab := rfl
@[simp] theorem State.noteReady_faults : (s.noteReady ).faults = s.faults := rfl
@[simp] theorem State.noteReady_crashed : (s.noteReady ).crashed = s.crashed := rfl
@[simp] theorem State.noteReady_power : (s.noteReady ).power = s.power := rfl
@[simp] theorem State.noteReady_boot : (s.noteReady ).boot = s.boot := rfl
@[simp] theorem State.noteReady_hostMem : (s.noteReady ).hostMem = s.hostMem := rfl
@[simp] theorem State.noteReady_fates : (s.noteReady ).fates = s.fates := rfl
@[simp] theorem State.noteReady_caches : (s.noteReady ).caches = s.caches := rfl
@[simp] theorem State.noteReady_resp : (s.noteReady ).resp = s.resp := rfl
@[simp] theorem State.noteReady_sent : (s.noteReady ).sent = s.sent := rfl

/-! ### freeUnits -/
@[simp] theorem State.freeUnits_pending (j : Half) (i : Nat) : (s.freeUnits j i).pending = s.pending := rfl
@[simp] theorem State.freeUnits_beat (j : Half) (i : Nat) : (s.freeUnits j i).beat = s.beat := rfl
@[simp] theorem State.freeUnits_free (j : Half) (i : Nat) : (s.freeUnits j i).free = s.free := rfl
@[simp] theorem State.freeUnits_drums (j : Half) (i : Nat) : (s.freeUnits j i).drums = s.drums := rfl
@[simp] theorem State.freeUnits_noc (j : Half) (i : Nat) : (s.freeUnits j i).noc = s.noc := rfl
@[simp] theorem State.freeUnits_rings (j : Half) (i : Nat) : (s.freeUnits j i).rings = s.rings := rfl
@[simp] theorem State.freeUnits_dbmap (j : Half) (i : Nat) : (s.freeUnits j i).dbmap = s.dbmap := rfl
theorem State.freeUnits_pcie (j : Half) (i : Nat) : (s.freeUnits j i).pcie = { s.pcie with asks := (s.freeUnits j i).pcie.asks } := rfl
@[simp] theorem State.freeUnits_mem (j : Half) (i : Nat) : (s.freeUnits j i).mem = s.mem := rfl
@[simp] theorem State.freeUnits_fab (j : Half) (i : Nat) : (s.freeUnits j i).fab = s.fab := rfl
@[simp] theorem State.freeUnits_faults (j : Half) (i : Nat) : (s.freeUnits j i).faults = s.faults := rfl
@[simp] theorem State.freeUnits_crashed (j : Half) (i : Nat) : (s.freeUnits j i).crashed = s.crashed := rfl
@[simp] theorem State.freeUnits_power (j : Half) (i : Nat) : (s.freeUnits j i).power = s.power := rfl
@[simp] theorem State.freeUnits_boot (j : Half) (i : Nat) : (s.freeUnits j i).boot = s.boot := rfl
@[simp] theorem State.freeUnits_hostMem (j : Half) (i : Nat) : (s.freeUnits j i).hostMem = s.hostMem := rfl
@[simp] theorem State.freeUnits_fates (j : Half) (i : Nat) : (s.freeUnits j i).fates = s.fates := rfl
@[simp] theorem State.freeUnits_caches (j : Half) (i : Nat) : (s.freeUnits j i).caches = s.caches := rfl
@[simp] theorem State.freeUnits_resp (j : Half) (i : Nat) : (s.freeUnits j i).resp = s.resp := rfl
@[simp] theorem State.freeUnits_sent (j : Half) (i : Nat) : (s.freeUnits j i).sent = s.sent := rfl

/-! ### dropAsks -/
@[simp] theorem State.dropAsks_pending (p : Reader → Bool) : (s.dropAsks p).pending = s.pending := rfl
@[simp] theorem State.dropAsks_beat (p : Reader → Bool) : (s.dropAsks p).beat = s.beat := rfl
@[simp] theorem State.dropAsks_free (p : Reader → Bool) : (s.dropAsks p).free = s.free := rfl
@[simp] theorem State.dropAsks_drums (p : Reader → Bool) : (s.dropAsks p).drums = s.drums := rfl
@[simp] theorem State.dropAsks_noc (p : Reader → Bool) : (s.dropAsks p).noc = s.noc := rfl
@[simp] theorem State.dropAsks_met (p : Reader → Bool) : (s.dropAsks p).met = s.met := rfl
@[simp] theorem State.dropAsks_rings (p : Reader → Bool) : (s.dropAsks p).rings = s.rings := rfl
@[simp] theorem State.dropAsks_dbmap (p : Reader → Bool) : (s.dropAsks p).dbmap = s.dbmap := rfl
@[simp] theorem State.dropAsks_mem (p : Reader → Bool) : (s.dropAsks p).mem = s.mem := rfl
@[simp] theorem State.dropAsks_fab (p : Reader → Bool) : (s.dropAsks p).fab = s.fab := rfl
@[simp] theorem State.dropAsks_faults (p : Reader → Bool) : (s.dropAsks p).faults = s.faults := rfl
@[simp] theorem State.dropAsks_crashed (p : Reader → Bool) : (s.dropAsks p).crashed = s.crashed := rfl
@[simp] theorem State.dropAsks_power (p : Reader → Bool) : (s.dropAsks p).power = s.power := rfl
@[simp] theorem State.dropAsks_boot (p : Reader → Bool) : (s.dropAsks p).boot = s.boot := rfl
@[simp] theorem State.dropAsks_hostMem (p : Reader → Bool) : (s.dropAsks p).hostMem = s.hostMem := rfl
@[simp] theorem State.dropAsks_fates (p : Reader → Bool) : (s.dropAsks p).fates = s.fates := rfl
@[simp] theorem State.dropAsks_caches (p : Reader → Bool) : (s.dropAsks p).caches = s.caches := rfl
@[simp] theorem State.dropAsks_resp (p : Reader → Bool) : (s.dropAsks p).resp = s.resp := rfl
@[simp] theorem State.dropAsks_sent (p : Reader → Bool) : (s.dropAsks p).sent = s.sent := rfl

theorem State.dropAsks_pcie (p : Reader → Bool) : (s.dropAsks p).pcie = { s.pcie with asks := (s.dropAsks p).pcie.asks } := rfl

/-! ### setMove -/
@[simp] theorem State.setMove_pending (k : Move) : (s.setMove k).pending = s.pending := rfl
@[simp] theorem State.setMove_beat (k : Move) : (s.setMove k).beat = s.beat := rfl
@[simp] theorem State.setMove_free (k : Move) : (s.setMove k).free = s.free := rfl
@[simp] theorem State.setMove_drums (k : Move) : (s.setMove k).drums = s.drums := rfl
@[simp] theorem State.setMove_noc (k : Move) : (s.setMove k).noc = s.noc := rfl
@[simp] theorem State.setMove_rings (k : Move) : (s.setMove k).rings = s.rings := rfl
@[simp] theorem State.setMove_dbmap (k : Move) : (s.setMove k).dbmap = s.dbmap := rfl
@[simp] theorem State.setMove_pcie (k : Move) : (s.setMove k).pcie = s.pcie := rfl
@[simp] theorem State.setMove_mem (k : Move) : (s.setMove k).mem = s.mem := rfl
@[simp] theorem State.setMove_fab (k : Move) : (s.setMove k).fab = s.fab := rfl
@[simp] theorem State.setMove_faults (k : Move) : (s.setMove k).faults = s.faults := rfl
@[simp] theorem State.setMove_crashed (k : Move) : (s.setMove k).crashed = s.crashed := rfl
@[simp] theorem State.setMove_power (k : Move) : (s.setMove k).power = s.power := rfl
@[simp] theorem State.setMove_boot (k : Move) : (s.setMove k).boot = s.boot := rfl
@[simp] theorem State.setMove_hostMem (k : Move) : (s.setMove k).hostMem = s.hostMem := rfl
@[simp] theorem State.setMove_fates (k : Move) : (s.setMove k).fates = s.fates := rfl
@[simp] theorem State.setMove_caches (k : Move) : (s.setMove k).caches = s.caches := rfl
@[simp] theorem State.setMove_resp (k : Move) : (s.setMove k).resp = s.resp := rfl
@[simp] theorem State.setMove_sent (k : Move) : (s.setMove k).sent = s.sent := rfl

theorem State.setMove_met (k : Move) : (s.setMove k).met = { s.met with moves := (s.setMove k).met.moves } := rfl

/-! ### dropMove -/
@[simp] theorem State.dropMove_pending (e : Nat) : (s.dropMove e).pending = s.pending := rfl
@[simp] theorem State.dropMove_beat (e : Nat) : (s.dropMove e).beat = s.beat := rfl
@[simp] theorem State.dropMove_free (e : Nat) : (s.dropMove e).free = s.free := rfl
@[simp] theorem State.dropMove_drums (e : Nat) : (s.dropMove e).drums = s.drums := rfl
@[simp] theorem State.dropMove_noc (e : Nat) : (s.dropMove e).noc = s.noc := rfl
@[simp] theorem State.dropMove_rings (e : Nat) : (s.dropMove e).rings = s.rings := rfl
@[simp] theorem State.dropMove_dbmap (e : Nat) : (s.dropMove e).dbmap = s.dbmap := rfl
@[simp] theorem State.dropMove_mem (e : Nat) : (s.dropMove e).mem = s.mem := rfl
@[simp] theorem State.dropMove_fab (e : Nat) : (s.dropMove e).fab = s.fab := rfl
@[simp] theorem State.dropMove_faults (e : Nat) : (s.dropMove e).faults = s.faults := rfl
@[simp] theorem State.dropMove_crashed (e : Nat) : (s.dropMove e).crashed = s.crashed := rfl
@[simp] theorem State.dropMove_power (e : Nat) : (s.dropMove e).power = s.power := rfl
@[simp] theorem State.dropMove_boot (e : Nat) : (s.dropMove e).boot = s.boot := rfl
@[simp] theorem State.dropMove_hostMem (e : Nat) : (s.dropMove e).hostMem = s.hostMem := rfl
@[simp] theorem State.dropMove_fates (e : Nat) : (s.dropMove e).fates = s.fates := rfl
@[simp] theorem State.dropMove_caches (e : Nat) : (s.dropMove e).caches = s.caches := rfl
@[simp] theorem State.dropMove_resp (e : Nat) : (s.dropMove e).resp = s.resp := rfl
@[simp] theorem State.dropMove_sent (e : Nat) : (s.dropMove e).sent = s.sent := rfl

@[simp] theorem State.dropMove_moves (e : Nat) : (s.dropMove e).met.moves = s.met.moves.filter (·.engine ≠ e) := rfl

/-! ### noteRows -/
@[simp] theorem State.noteRows_pending (d lo n : Nat) : (s.noteRows d lo n).pending = s.pending := rfl
@[simp] theorem State.noteRows_beat (d lo n : Nat) : (s.noteRows d lo n).beat = s.beat := rfl
@[simp] theorem State.noteRows_free (d lo n : Nat) : (s.noteRows d lo n).free = s.free := rfl
@[simp] theorem State.noteRows_noc (d lo n : Nat) : (s.noteRows d lo n).noc = s.noc := rfl
@[simp] theorem State.noteRows_met (d lo n : Nat) : (s.noteRows d lo n).met = s.met := rfl
@[simp] theorem State.noteRows_rings (d lo n : Nat) : (s.noteRows d lo n).rings = s.rings := rfl
@[simp] theorem State.noteRows_dbmap (d lo n : Nat) : (s.noteRows d lo n).dbmap = s.dbmap := rfl
@[simp] theorem State.noteRows_pcie (d lo n : Nat) : (s.noteRows d lo n).pcie = s.pcie := rfl
@[simp] theorem State.noteRows_mem (d lo n : Nat) : (s.noteRows d lo n).mem = s.mem := rfl
@[simp] theorem State.noteRows_fab (d lo n : Nat) : (s.noteRows d lo n).fab = s.fab := rfl
@[simp] theorem State.noteRows_faults (d lo n : Nat) : (s.noteRows d lo n).faults = s.faults := rfl
@[simp] theorem State.noteRows_crashed (d lo n : Nat) : (s.noteRows d lo n).crashed = s.crashed := rfl
@[simp] theorem State.noteRows_power (d lo n : Nat) : (s.noteRows d lo n).power = s.power := rfl
@[simp] theorem State.noteRows_boot (d lo n : Nat) : (s.noteRows d lo n).boot = s.boot := rfl
@[simp] theorem State.noteRows_hostMem (d lo n : Nat) : (s.noteRows d lo n).hostMem = s.hostMem := rfl
@[simp] theorem State.noteRows_fates (d lo n : Nat) : (s.noteRows d lo n).fates = s.fates := rfl
@[simp] theorem State.noteRows_caches (d lo n : Nat) : (s.noteRows d lo n).caches = s.caches := rfl
@[simp] theorem State.noteRows_resp (d lo n : Nat) : (s.noteRows d lo n).resp = s.resp := rfl
@[simp] theorem State.noteRows_sent (d lo n : Nat) : (s.noteRows d lo n).sent = s.sent := rfl

/-! ### takeFront -/
@[simp] theorem State.takeFront_pending (d : Nat) (u : UnitId) : (s.takeFront d u).pending = s.pending := rfl
@[simp] theorem State.takeFront_beat (d : Nat) (u : UnitId) : (s.takeFront d u).beat = s.beat := rfl
@[simp] theorem State.takeFront_free (d : Nat) (u : UnitId) : (s.takeFront d u).free = s.free := rfl
@[simp] theorem State.takeFront_noc (d : Nat) (u : UnitId) : (s.takeFront d u).noc = s.noc := rfl
@[simp] theorem State.takeFront_met (d : Nat) (u : UnitId) : (s.takeFront d u).met = s.met := rfl
@[simp] theorem State.takeFront_rings (d : Nat) (u : UnitId) : (s.takeFront d u).rings = s.rings := rfl
@[simp] theorem State.takeFront_dbmap (d : Nat) (u : UnitId) : (s.takeFront d u).dbmap = s.dbmap := rfl
@[simp] theorem State.takeFront_pcie (d : Nat) (u : UnitId) : (s.takeFront d u).pcie = s.pcie := rfl
@[simp] theorem State.takeFront_mem (d : Nat) (u : UnitId) : (s.takeFront d u).mem = s.mem := rfl
@[simp] theorem State.takeFront_fab (d : Nat) (u : UnitId) : (s.takeFront d u).fab = s.fab := rfl
@[simp] theorem State.takeFront_faults (d : Nat) (u : UnitId) : (s.takeFront d u).faults = s.faults := rfl
@[simp] theorem State.takeFront_crashed (d : Nat) (u : UnitId) : (s.takeFront d u).crashed = s.crashed := rfl
@[simp] theorem State.takeFront_power (d : Nat) (u : UnitId) : (s.takeFront d u).power = s.power := rfl
@[simp] theorem State.takeFront_boot (d : Nat) (u : UnitId) : (s.takeFront d u).boot = s.boot := rfl
@[simp] theorem State.takeFront_hostMem (d : Nat) (u : UnitId) : (s.takeFront d u).hostMem = s.hostMem := rfl
@[simp] theorem State.takeFront_fates (d : Nat) (u : UnitId) : (s.takeFront d u).fates = s.fates := rfl
@[simp] theorem State.takeFront_caches (d : Nat) (u : UnitId) : (s.takeFront d u).caches = s.caches := rfl
@[simp] theorem State.takeFront_resp (d : Nat) (u : UnitId) : (s.takeFront d u).resp = s.resp := rfl
@[simp] theorem State.takeFront_sent (d : Nat) (u : UnitId) : (s.takeFront d u).sent = s.sent := rfl

/-! ### setQueue -/
@[simp] theorem Drum.setQueue_logical (x : Drum) (u : UnitId) (l : List UnitJob) : (x.setQueue u l).logical = x.logical := rfl
@[simp] theorem Drum.setQueue_status (x : Drum) (u : UnitId) (l : List UnitJob) : (x.setQueue u l).status = x.status := rfl
@[simp] theorem Drum.setQueue_skin (x : Drum) (u : UnitId) (l : List UnitJob) : (x.setQueue u l).skin = x.skin := rfl
@[simp] theorem Drum.setQueue_tuner (x : Drum) (u : UnitId) (l : List UnitJob) : (x.setQueue u l).tuner = x.tuner := rfl
@[simp] theorem Drum.setQueue_shell (x : Drum) (u : UnitId) (l : List UnitJob) : (x.setQueue u l).shell = x.shell := rfl
@[simp] theorem Drum.setQueue_roll (x : Drum) (u : UnitId) (l : List UnitJob) : (x.setQueue u l).roll = x.roll := rfl
@[simp] theorem Drum.setQueue_tap (x : Drum) (u : UnitId) (l : List UnitJob) : (x.setQueue u l).tap = x.tap := rfl
@[simp] theorem Drum.setQueue_pad (x : Drum) (u : UnitId) (l : List UnitJob) : (x.setQueue u l).pad = x.pad := rfl
@[simp] theorem Drum.setQueue_seq (x : Drum) (u : UnitId) (l : List UnitJob) : (x.setQueue u l).seq = x.seq := rfl
@[simp] theorem Drum.setQueue_saved (x : Drum) (u : UnitId) (l : List UnitJob) : (x.setQueue u l).saved = x.saved := rfl
@[simp] theorem Drum.setQueue_preempting (x : Drum) (u : UnitId) (l : List UnitJob) : (x.setQueue u l).preempting = x.preempting := rfl
@[simp] theorem Drum.setQueue_claim (x : Drum) (u : UnitId) (l : List UnitJob) : (x.setQueue u l).claim = x.claim := rfl
@[simp] theorem Drum.setQueue_liveHeld (x : Drum) (u : UnitId) (l : List UnitJob) : (x.setQueue u l).liveHeld = x.liveHeld := rfl
@[simp] theorem Drum.setQueue_boundaryDue (x : Drum) (u : UnitId) (l : List UnitJob) : (x.setQueue u l).boundaryDue = x.boundaryDue := rfl
@[simp] theorem Drum.setQueue_sound (x : Drum) (u : UnitId) (l : List UnitJob) : (x.setQueue u l).sound = x.sound := rfl

@[simp] theorem Drum.setQueue_queues (x : Drum) (u : UnitId) (l : List UnitJob) : (x.setQueue u l).queues = x.queues.put u l := rfl
@[simp] theorem Queues.get_put (q : Queues) (u : UnitId) (l : List UnitJob) : (q.put u l).get u = l := by cases u <;> rfl
theorem Queues.get_put_ne (q : Queues) {u v : UnitId} (h : v ≠ u) (l : List UnitJob) : (q.put u l).get v = q.get v := by
  cases u <;> cases v <;> first | rfl | exact absurd rfl h

/-! ### dropOrd -/
@[simp] theorem Drum.dropOrd_logical (x : Drum) (o : Nat) : (x.dropOrd o).logical = x.logical := rfl
@[simp] theorem Drum.dropOrd_status (x : Drum) (o : Nat) : (x.dropOrd o).status = x.status := rfl
@[simp] theorem Drum.dropOrd_tuner (x : Drum) (o : Nat) :
    (x.dropOrd o).tuner = { x.tuner with cur := x.tuner.cur.filter fun c => decide (c.job.ord ≠ o) } := rfl
@[simp] theorem Drum.dropOrd_shell (x : Drum) (o : Nat) : (x.dropOrd o).shell = x.shell := rfl
@[simp] theorem Drum.dropOrd_tap (x : Drum) (o : Nat) : (x.dropOrd o).tap = x.tap := rfl
@[simp] theorem Drum.dropOrd_pad (x : Drum) (o : Nat) : (x.dropOrd o).pad = x.pad := rfl
@[simp] theorem Drum.dropOrd_queues (x : Drum) (o : Nat) : (x.dropOrd o).queues = x.queues := rfl
@[simp] theorem Drum.dropOrd_seq (x : Drum) (o : Nat) : (x.dropOrd o).seq = x.seq := rfl
@[simp] theorem Drum.dropOrd_saved (x : Drum) (o : Nat) : (x.dropOrd o).saved = x.saved := rfl
@[simp] theorem Drum.dropOrd_preempting (x : Drum) (o : Nat) : (x.dropOrd o).preempting = x.preempting := rfl
@[simp] theorem Drum.dropOrd_claim (x : Drum) (o : Nat) : (x.dropOrd o).claim = x.claim := rfl
@[simp] theorem Drum.dropOrd_liveHeld (x : Drum) (o : Nat) : (x.dropOrd o).liveHeld = x.liveHeld := rfl
@[simp] theorem Drum.dropOrd_boundaryDue (x : Drum) (o : Nat) : (x.dropOrd o).boundaryDue = x.boundaryDue := rfl
@[simp] theorem Drum.dropOrd_sound (x : Drum) (o : Nat) : (x.dropOrd o).sound = x.sound := rfl

/-! ### trainMem -/
@[simp] theorem State.trainMem_pending (mask : Dword) (keep : Bool) : (s.trainMem mask keep).pending = s.pending := rfl
@[simp] theorem State.trainMem_beat (mask : Dword) (keep : Bool) : (s.trainMem mask keep).beat = s.beat := rfl
@[simp] theorem State.trainMem_free (mask : Dword) (keep : Bool) : (s.trainMem mask keep).free = s.free := rfl
@[simp] theorem State.trainMem_drums (mask : Dword) (keep : Bool) : (s.trainMem mask keep).drums = s.drums := rfl
@[simp] theorem State.trainMem_noc (mask : Dword) (keep : Bool) : (s.trainMem mask keep).noc = s.noc := rfl
@[simp] theorem State.trainMem_met (mask : Dword) (keep : Bool) : (s.trainMem mask keep).met = s.met := rfl
@[simp] theorem State.trainMem_rings (mask : Dword) (keep : Bool) : (s.trainMem mask keep).rings = s.rings := rfl
@[simp] theorem State.trainMem_dbmap (mask : Dword) (keep : Bool) : (s.trainMem mask keep).dbmap = s.dbmap := rfl
@[simp] theorem State.trainMem_pcie (mask : Dword) (keep : Bool) : (s.trainMem mask keep).pcie = s.pcie := rfl
@[simp] theorem State.trainMem_fab (mask : Dword) (keep : Bool) : (s.trainMem mask keep).fab = s.fab := rfl
@[simp] theorem State.trainMem_faults (mask : Dword) (keep : Bool) : (s.trainMem mask keep).faults = s.faults := rfl
@[simp] theorem State.trainMem_crashed (mask : Dword) (keep : Bool) : (s.trainMem mask keep).crashed = s.crashed := rfl
@[simp] theorem State.trainMem_power (mask : Dword) (keep : Bool) : (s.trainMem mask keep).power = s.power := rfl
@[simp] theorem State.trainMem_boot (mask : Dword) (keep : Bool) : (s.trainMem mask keep).boot = s.boot := rfl
@[simp] theorem State.trainMem_fates (mask : Dword) (keep : Bool) : (s.trainMem mask keep).fates = s.fates := rfl
@[simp] theorem State.trainMem_caches (mask : Dword) (keep : Bool) : (s.trainMem mask keep).caches = s.caches := rfl
@[simp] theorem State.trainMem_hostMem (mask : Dword) (keep : Bool) : (s.trainMem mask keep).hostMem = s.hostMem := rfl
@[simp] theorem State.trainMem_resp (mask : Dword) (keep : Bool) : (s.trainMem mask keep).resp = s.resp := rfl
@[simp] theorem State.trainMem_sent (mask : Dword) (keep : Bool) : (s.trainMem mask keep).sent = s.sent := rfl

@[simp] theorem State.trainMem_mem (mask : Dword) (keep : Bool) :
    (s.trainMem mask keep).mem = { s.mem with up := false, training := some (mask, keep) } := rfl

/-! ### noGroup -/
@[simp] theorem State.noGroup_pending : (s.noGroup).pending = s.pending := rfl
@[simp] theorem State.noGroup_beat : (s.noGroup).beat = s.beat := rfl
@[simp] theorem State.noGroup_free : (s.noGroup).free = s.free := rfl
@[simp] theorem State.noGroup_drums : (s.noGroup).drums = s.drums := rfl
@[simp] theorem State.noGroup_noc : (s.noGroup).noc = s.noc := rfl
@[simp] theorem State.noGroup_met : (s.noGroup).met = s.met := rfl
@[simp] theorem State.noGroup_rings : (s.noGroup).rings = s.rings := rfl
@[simp] theorem State.noGroup_dbmap : (s.noGroup).dbmap = s.dbmap := rfl
@[simp] theorem State.noGroup_pcie : (s.noGroup).pcie = s.pcie := rfl
@[simp] theorem State.noGroup_mem : (s.noGroup).mem = s.mem := rfl
@[simp] theorem State.noGroup_faults : (s.noGroup).faults = s.faults := rfl
@[simp] theorem State.noGroup_crashed : (s.noGroup).crashed = s.crashed := rfl
@[simp] theorem State.noGroup_power : (s.noGroup).power = s.power := rfl
@[simp] theorem State.noGroup_boot : (s.noGroup).boot = s.boot := rfl
@[simp] theorem State.noGroup_fates : (s.noGroup).fates = s.fates := rfl
@[simp] theorem State.noGroup_caches : (s.noGroup).caches = s.caches := rfl
@[simp] theorem State.noGroup_hostMem : (s.noGroup).hostMem = s.hostMem := rfl
@[simp] theorem State.noGroup_resp : (s.noGroup).resp = s.resp := rfl
@[simp] theorem State.noGroup_sent : (s.noGroup).sent = s.sent := rfl

@[simp] theorem State.noGroup_fab : s.noGroup.fab = { s.fab with nogrp := s.fab.nogrp + 1 } := rfl

/-! ### releasePorts -/
@[simp] theorem State.releasePorts_pending : (s.releasePorts).pending = s.pending := rfl
@[simp] theorem State.releasePorts_beat : (s.releasePorts).beat = s.beat := rfl
@[simp] theorem State.releasePorts_free : (s.releasePorts).free = s.free := rfl
@[simp] theorem State.releasePorts_drums : (s.releasePorts).drums = s.drums := rfl
@[simp] theorem State.releasePorts_noc : (s.releasePorts).noc = s.noc := rfl
@[simp] theorem State.releasePorts_met : (s.releasePorts).met = s.met := rfl
@[simp] theorem State.releasePorts_rings : (s.releasePorts).rings = s.rings := rfl
@[simp] theorem State.releasePorts_dbmap : (s.releasePorts).dbmap = s.dbmap := rfl
@[simp] theorem State.releasePorts_pcie : (s.releasePorts).pcie = s.pcie := rfl
@[simp] theorem State.releasePorts_mem : (s.releasePorts).mem = s.mem := rfl
@[simp] theorem State.releasePorts_faults : (s.releasePorts).faults = s.faults := rfl
@[simp] theorem State.releasePorts_crashed : (s.releasePorts).crashed = s.crashed := rfl
@[simp] theorem State.releasePorts_power : (s.releasePorts).power = s.power := rfl
@[simp] theorem State.releasePorts_boot : (s.releasePorts).boot = s.boot := rfl
@[simp] theorem State.releasePorts_fates : (s.releasePorts).fates = s.fates := rfl
@[simp] theorem State.releasePorts_caches : (s.releasePorts).caches = s.caches := rfl
@[simp] theorem State.releasePorts_hostMem : (s.releasePorts).hostMem = s.hostMem := rfl
@[simp] theorem State.releasePorts_resp : (s.releasePorts).resp = s.resp := rfl
@[simp] theorem State.releasePorts_sent : (s.releasePorts).sent = s.sent := rfl

theorem State.releasePorts_fab : s.releasePorts.fab = { s.fab with ports := s.releasePorts.fab.ports } := rfl

@[simp] theorem State.modMet_met (f : Met → Met) : (s.modMet f).met = f s.met := rfl
@[simp] theorem State.modPcie_pcie (f : Pcie → Pcie) : (s.modPcie f).pcie = f s.pcie := rfl
@[simp] theorem State.modMem_mem (f : MainMem → MainMem) : (s.modMem f).mem = f s.mem := rfl
@[simp] theorem State.modFab_fab (f : Fabric → Fabric) : (s.modFab f).fab = f s.fab := rfl
@[simp] theorem State.modPower_power (f : Power → Power) : (s.modPower f).power = f s.power := rfl
@[simp] theorem State.modBoot_boot (f : Boot → Boot) : (s.modBoot f).boot = f s.boot := rfl
@[simp] theorem State.emit_sent (o : Out) : (s.emit o).sent = o :: s.sent := rfl
@[simp] theorem State.answer_resp (l : List Byte) : (s.answer l).resp = l := rfl
@[simp] theorem State.badacc_badacc : (s.badacc).pcie.badacc = s.pcie.badacc + 1 := rfl

/-! ### Drums -/

@[simp] theorem State.setDrum_length (d : Nat) (x : Drum) : (s.setDrum d x).drums.length = s.drums.length := by simp [State.setDrum]
@[simp] theorem State.modDrum_length (d : Nat) (f : Drum → Drum) : (s.modDrum d f).drums.length = s.drums.length := by simp [State.modDrum]
@[simp] theorem State.modPad_length (d : Nat) (f : Pad → Pad) : (s.modPad d f).drums.length = s.drums.length := by simp [State.modPad]
@[simp] theorem State.modSeq_length (d : Nat) (f : Seq → Seq) : (s.modSeq d f).drums.length = s.drums.length := by simp [State.modSeq]
@[simp] theorem State.modShell_length (d : Nat) (f : Shell → Shell) : (s.modShell d f).drums.length = s.drums.length := by simp [State.modShell]
@[simp] theorem State.modSkin_length (d : Nat) (f : Skin → Skin) : (s.modSkin d f).drums.length = s.drums.length := by simp [State.modSkin]
@[simp] theorem State.modTuner_length (d : Nat) (f : Tuner → Tuner) : (s.modTuner d f).drums.length = s.drums.length := by simp [State.modTuner]
@[simp] theorem State.modTap_length (d : Nat) (f : Tap → Tap) : (s.modTap d f).drums.length = s.drums.length := by simp [State.modTap]
@[simp] theorem State.modRoll_length (d : Nat) (f : Roll → Roll) : (s.modRoll d f).drums.length = s.drums.length := by simp [State.modRoll]
@[simp] theorem State.took_length (d n : Nat) (w : Quad) : (s.took d n w).drums.length = s.drums.length := by simp [State.took]
@[simp] theorem State.access_length (d : Nat) (l : List Range) : (s.access d l).drums.length = s.drums.length := by simp [State.access]

theorem State.drum_setDrum (h : d < s.drums.length) (x : Drum) : (s.setDrum d x).drum d = x := by
  simp [State.drum, State.setDrum, h]
theorem State.drum_setDrum_ne (h : e ≠ d) (x : Drum) : (s.setDrum d x).drum e = s.drum e := by
  simp [State.drum, State.setDrum, List.getElem?_set_ne (Ne.symm h)]
theorem State.drum_modDrum (h : d < s.drums.length) (f : Drum → Drum) : (s.modDrum d f).drum d = f (s.drum d) :=
  s.drum_setDrum h _
theorem State.drum_modDrum_ne (h : e ≠ d) (f : Drum → Drum) : (s.modDrum d f).drum e = s.drum e :=
  s.drum_setDrum_ne h _
theorem State.drum_modPad (h : d < s.drums.length) (f : Pad → Pad) : (s.modPad d f).drum d = { s.drum d with pad := f (s.drum d).pad } :=
  s.drum_modDrum h _
theorem State.drum_modPad_ne (h : e ≠ d) (f : Pad → Pad) : (s.modPad d f).drum e = s.drum e := s.drum_modDrum_ne h _
theorem State.drum_modSeq (h : d < s.drums.length) (f : Seq → Seq) : (s.modSeq d f).drum d = { s.drum d with seq := f (s.drum d).seq } :=
  s.drum_modDrum h _
theorem State.drum_modSeq_ne (h : e ≠ d) (f : Seq → Seq) : (s.modSeq d f).drum e = s.drum e := s.drum_modDrum_ne h _
theorem State.drum_modShell (h : d < s.drums.length) (f : Shell → Shell) : (s.modShell d f).drum d = { s.drum d with shell := f (s.drum d).shell } :=
  s.drum_modDrum h _
theorem State.drum_modShell_ne (h : e ≠ d) (f : Shell → Shell) : (s.modShell d f).drum e = s.drum e := s.drum_modDrum_ne h _
theorem State.drum_modSkin (h : d < s.drums.length) (f : Skin → Skin) : (s.modSkin d f).drum d = { s.drum d with skin := f (s.drum d).skin } :=
  s.drum_modDrum h _
theorem State.drum_modSkin_ne (h : e ≠ d) (f : Skin → Skin) : (s.modSkin d f).drum e = s.drum e := s.drum_modDrum_ne h _
theorem State.drum_modTuner (h : d < s.drums.length) (f : Tuner → Tuner) : (s.modTuner d f).drum d = { s.drum d with tuner := f (s.drum d).tuner } :=
  s.drum_modDrum h _
theorem State.drum_modTuner_ne (h : e ≠ d) (f : Tuner → Tuner) : (s.modTuner d f).drum e = s.drum e := s.drum_modDrum_ne h _
theorem State.drum_modTap (h : d < s.drums.length) (f : Tap → Tap) : (s.modTap d f).drum d = { s.drum d with tap := f (s.drum d).tap } :=
  s.drum_modDrum h _
theorem State.drum_modTap_ne (h : e ≠ d) (f : Tap → Tap) : (s.modTap d f).drum e = s.drum e := s.drum_modDrum_ne h _
theorem State.drum_modRoll (h : d < s.drums.length) (f : Roll → Roll) : (s.modRoll d f).drum d = { s.drum d with roll := f (s.drum d).roll } :=
  s.drum_modDrum h _
theorem State.drum_modRoll_ne (h : e ≠ d) (f : Roll → Roll) : (s.modRoll d f).drum e = s.drum e := s.drum_modDrum_ne h _

end Sys2Proof.Machine
end

