-- ==== Sys2Proof/Laws/Store.lean ====
section
/-! SUPPORT. Laws/Store.lean: reading what was written, and the canonical form that every operation on a store keeps. -/

namespace Sys2Proof.Machine

section Cells
variable {α : Type} [DecidableEq α] {d : α}

theorem cellsFrom_mono {lo hi : Nat} (h : lo ≤ hi) : ∀ {c : Cells α}, cellsFrom d hi c = true → cellsFrom d lo c = true
  | [], _ => rfl
  | (k, v) :: r, hc => by
    simp only [cellsFrom, Bool.and_eq_true, decide_eq_true_eq] at hc ⊢
    exact ⟨⟨le_trans h hc.1.1, hc.1.2⟩, hc.2⟩

theorem putCell_from (v : α) : ∀ {c : Cells α} {lo a : Nat}, cellsFrom d lo c = true → lo ≤ a →
    cellsFrom d lo (putCell d c a v) = true
  | [], lo, a, _, h => by by_cases hv : v = d <;> simp [putCell, cellsFrom, hv, h]
  | (k, w) :: r, lo, a, hc, h => by
    have hc' := hc
    simp only [cellsFrom, Bool.and_eq_true, decide_eq_true_eq] at hc
    unfold putCell
    split
    · split
      · exact hc'
      · simp only [cellsFrom, Bool.and_eq_true, decide_eq_true_eq]
        exact ⟨⟨h, ‹_›⟩, ⟨by omega, hc.1.2⟩, hc.2⟩
    · split
      · split
        · exact cellsFrom_mono (by omega) hc.2
        · simp only [cellsFrom, Bool.and_eq_true, decide_eq_true_eq]
          exact ⟨⟨h, ‹_›⟩, by subst a; exact hc.2⟩
      · simp only [cellsFrom, Bool.and_eq_true, decide_eq_true_eq]
        exact ⟨hc.1, putCell_from v hc.2 (by omega)⟩

/-- A write keeps the canonical form. -/
theorem putCell_wf (a : Nat) (v : α) {c : Cells α} (h : cellsWf d c = true) : cellsWf d (putCell d c a v) = true :=
  putCell_from v h (Nat.zero_le a)

theorem getCell_lt : ∀ {c : Cells α} {lo a : Nat}, cellsFrom d lo c = true → a < lo → getCell d c a = d
  | [], _, _, _, _ => rfl
  | (k, w) :: r, lo, a, hc, h => by
    simp only [cellsFrom, Bool.and_eq_true, decide_eq_true_eq] at hc
    have : k ≠ a := by omega
    simp only [getCell, this, if_false]
    exact getCell_lt hc.2 (by omega)

theorem getCell_putCell_from (v : α) : ∀ {c : Cells α} {lo a : Nat}, cellsFrom d lo c = true →
    getCell d (putCell d c a v) a = v
  | [], lo, a, _ => by by_cases hv : v = d <;> simp [putCell, getCell, hv]
  | (k, w) :: r, lo, a, hc => by
    simp only [cellsFrom, Bool.and_eq_true, decide_eq_true_eq] at hc
    unfold putCell
    split
    · split
      · subst v
        have : k ≠ a := by omega
        simp only [getCell, this, if_false]
        exact getCell_lt hc.2 (by omega)
      · simp [getCell]
    · split
      · split
        · subst v; subst a; exact getCell_lt hc.2 (by omega)
        · simp [getCell]
      · have : k ≠ a := by omega
        simp only [getCell, this, if_false]
        exact getCell_putCell_from v hc.2

/-- A cell reads as it was written. -/
theorem getCell_putCell {c : Cells α} (h : cellsWf d c = true) (a : Nat) (v : α) : getCell d (putCell d c a v) a = v :=
  getCell_putCell_from v h

/-- Every other cell reads as before. -/
theorem getCell_putCell_ne : ∀ {c : Cells α} {a b : Nat} {v : α}, b ≠ a → getCell d (putCell d c a v) b = getCell d c b
  | [], a, b, v, h => by
    by_cases hv : v = d <;> simp [putCell, getCell, hv]
    intro h'; exact absurd h'.symm h
  | (k, w) :: r, a, b, v, h => by
    unfold putCell
    split
    · split
      · rfl
      · simp [getCell, Ne.symm h]
    · split
      · subst a
        split <;> simp [getCell, Ne.symm h]
      · simp only [getCell]
        split
        · rfl
        · exact getCell_putCell_ne h

theorem filter_from (p : Nat × α → Bool) : ∀ {c : Cells α} {lo : Nat}, cellsFrom d lo c = true →
    cellsFrom d lo (c.filter p) = true
  | [], _, _ => rfl
  | (k, w) :: r, lo, hc => by
    simp only [cellsFrom, Bool.and_eq_true, decide_eq_true_eq] at hc
    have hr := filter_from p hc.2
    simp only [List.filter]
    split
    · simp only [cellsFrom, Bool.and_eq_true, decide_eq_true_eq]
      exact ⟨hc.1, hr⟩
    · exact cellsFrom_mono (by omega) hr

theorem filter_wf (p : Nat × α → Bool) {c : Cells α} (h : cellsWf d c = true) : cellsWf d (c.filter p) = true :=
  filter_from p h

theorem zeroRange_wf (lo hi : Nat) {c : Cells α} (h : cellsWf d c = true) : cellsWf d (zeroRange c lo hi) = true :=
  filter_wf _ h

end Cells

/-! ### Byte memories -/

@[simp] theorem Memory.wf_nil : Memory.wf [] = true := rfl

theorem putByte_wf (a : Nat) (b : Byte) {m : Memory} (h : Memory.wf m = true) : Memory.wf (putByte m a b) = true :=
  putCell_wf a b h

theorem putBytes_wf : ∀ (l : List Byte) (a : Nat) {m : Memory}, Memory.wf m = true → Memory.wf (putBytes m a l) = true
  | [], _, _, h => h
  | b :: r, a, _, h => putBytes_wf r (a + 1) (putByte_wf a b h)

theorem putNat_wf (a n v : Nat) {m : Memory} (h : Memory.wf m = true) : Memory.wf (putNat m a n v) = true := putBytes_wf _ a h

theorem zeroRange_mem_wf (lo hi : Nat) {m : Memory} (h : Memory.wf m = true) : Memory.wf (zeroRange m lo hi) = true :=
  zeroRange_wf lo hi h

theorem loop_wf {f : Nat → Memory → Memory} (hf : ∀ i m, Memory.wf m = true → Memory.wf (f i m) = true) :
    ∀ (n : Nat) {m : Memory}, Memory.wf m = true → Memory.wf (loop f n m) = true
  | 0, _, h => h
  | n + 1, _, h => hf n _ (loop_wf hf n h)

theorem getByte_putByte {m : Memory} (h : Memory.wf m = true) (a : Nat) (b : Byte) : getByte (putByte m a b) a = b :=
  getCell_putCell h a b

theorem getByte_putByte_ne {m : Memory} {a c : Nat} {b : Byte} (h : c ≠ a) : getByte (putByte m a b) c = getByte m c :=
  getCell_putCell_ne h

/-- Bytes outside the written range read as before. -/
theorem getByte_putBytes_out : ∀ (l : List Byte) {m : Memory} {a c : Nat}, (c < a ∨ a + l.length ≤ c) →
    getByte (putBytes m a l) c = getByte m c
  | [], _, _, _, _ => rfl
  | b :: r, m, a, c, h => by
    simp only [List.length_cons] at h
    rw [putBytes, getByte_putBytes_out r (by omega), getByte_putByte_ne (by omega)]

/-- A written byte reads as it was written. -/
theorem getByte_putBytes : ∀ (l : List Byte) {m : Memory} {a i : Nat}, Memory.wf m = true → i < l.length →
    getByte (putBytes m a l) (a + i) = l[i]?.getD 0
  | [], _, _, _, _, h => absurd h (by simp)
  | b :: r, m, a, i, hw, h => by
    cases i with
    | zero => simp [putBytes, getByte_putBytes_out r (c := a) (Or.inl (Nat.lt_succ_self a)), getByte_putByte hw]
    | succ i =>
      have := getByte_putBytes r (a := a + 1) (i := i) (putByte_wf a b hw) (by simpa using h)
      simp only [putBytes, List.getElem?_cons_succ]
      rw [← this]; congr 1; omega

@[simp] theorem leBytes_length : ∀ (n v : Nat), (leBytes n v).length = n
  | 0, _ => rfl
  | n + 1, v => by simp [leBytes, leBytes_length n]

@[simp] theorem getBytes_length : ∀ (m : Memory) (a n : Nat), (getBytes m a n).length = n
  | _, _, 0 => rfl
  | m, a, n + 1 => by simp [getBytes, getBytes_length m (a + 1) n]

@[simp] theorem modAt_length {α : Type} (l : List α) (i : Nat) (f : α → α) : (modAt l i f).length = l.length := by
  unfold modAt; split <;> simp

end Sys2Proof.Machine
end

