-- ==== Sys2Proof/Laws/Issue.lean ====
section
/-! SUPPORT. Laws/Issue.lean: what the issue of an instruction does (R148-R154), for every row that goes through it. -/

namespace Sys2Proof.Machine

variable {s : State} {d : Nat} {w : Quad}

/-! ### Which parts of a drum a fetch or an access changes -/

theorem SamePad.refl (p : Pad) : SamePad p p := rfl
theorem SamePad.trans {p q r : Pad} (h : SamePad p q) (k : SamePad q r) : SamePad p r := by
  unfold SamePad at *
  rw [k, h]
theorem SamePad.mem {p q : Pad} (h : SamePad p q) : q.mem = p.mem := by rw [h]
theorem SamePad.slots {p q : Pad} (h : SamePad p q) : q.slots = p.slots := by rw [h]
theorem SamePad.tallies {p q : Pad} (h : SamePad p q) : q.tallies = p.tallies := by rw [h]
theorem SamePad.failed {p q : Pad} (h : SamePad p q) : q.failed = p.failed := by rw [h]
theorem SamePad.saveEn {p q : Pad} (h : SamePad p q) : q.saveEn = p.saveEn := by rw [h]

theorem loop_samePad {f : Nat → Pad → Pad} (hf : ∀ i p, SamePad p (f i p)) : ∀ (n : Nat) (p : Pad), SamePad p (loop f n p)
  | 0, p => .refl p
  | n + 1, p => (loop_samePad hf n p).trans (hf n _)

theorem foldl_samePad {α : Type} {f : Pad → α → Pad} (hf : ∀ p a, SamePad p (f p a)) : ∀ (l : List α) (p : Pad),
    SamePad p (l.foldl f p)
  | [], p => .refl p
  | a :: l, p => (hf p a).trans (foldl_samePad hf l _)

theorem touch_same (p : Pad) (beat : Dword) (l : List Nat) : SamePad p (p.touch beat l) := by
  unfold Pad.touch
  simp only []
  split <;> rfl

theorem countSet_same (p : Pad) (l : List Nat) : SamePad p (p.countSet l) := by
  unfold Pad.countSet
  refine SamePad.trans ?_ (foldl_samePad (fun p c => ?_) _ _)
  · rfl
  · split <;> rfl

theorem setConflicts_same (p : Pad) (a n : Nat) : SamePad p (p.setConflicts a n) := by
  unfold Pad.setConflicts
  split
  · exact .refl p
  · exact loop_samePad (fun i p => by simp [SamePad, Pad.conflictIn]) _ _

theorem reach_same (p : Pad) (beat : Dword) (a n : Nat) : SamePad p (p.reach beat a n) := by
  unfold Pad.reach
  split
  · exact .refl p
  · exact touch_same ..

theorem padAccess_same (p : Pad) (beat : Dword) (a n : Nat) : SamePad p (p.access beat a n) := by
  unfold Pad.access
  split
  · exact .refl p
  · exact (reach_same ..).trans (setConflicts_same ..)

theorem accessGo_same (beat : Dword) (base : Nat) : ∀ (n : Nat) (l : List Range) (p : Pad), SamePad p (accessGo beat base n l p)
  | 0, _, p => .refl p
  | n + 1, [], p => .refl p
  | n + 1, r :: l, p => by
    unfold accessGo
    split
    · exact (padAccess_same ..).trans (accessGo_same beat base n _ _)
    · exact ((touch_same ..).trans (countSet_same ..)).trans (accessGo_same beat base n _ _)

theorem accessAll_same (p : Pad) (beat : Dword) (base : Nat) (l : List Range) : SamePad p (p.accessAll beat base l) :=
  accessGo_same ..

/-- What a fetch changes: the sequencer, and what the pad's banks note. -/
theorem fillLine_eq (x : Drum) (beat : Dword) (pc : Nat) :
    x.fillLine beat pc = { x with seq := (x.fillLine beat pc).seq, pad := (x.fillLine beat pc).pad } := by
  simp only [Drum.fillLine]; split <;> rfl

theorem fillLine_pad (x : Drum) (beat : Dword) (pc : Nat) : SamePad x.pad (x.fillLine beat pc).pad := by
  unfold Drum.fillLine
  simp only []
  split
  · exact .refl _
  · exact padAccess_same x.pad beat _ 64

@[simp] theorem fillLine_skin (x : Drum) (beat : Dword) (pc : Nat) : (x.fillLine beat pc).skin = x.skin := by rw [fillLine_eq]
@[simp] theorem fillLine_tuner (x : Drum) (beat : Dword) (pc : Nat) : (x.fillLine beat pc).tuner = x.tuner := by rw [fillLine_eq]
@[simp] theorem fillLine_shell (x : Drum) (beat : Dword) (pc : Nat) : (x.fillLine beat pc).shell = x.shell := by rw [fillLine_eq]
@[simp] theorem fillLine_roll (x : Drum) (beat : Dword) (pc : Nat) : (x.fillLine beat pc).roll = x.roll := by rw [fillLine_eq]
@[simp] theorem fillLine_tap (x : Drum) (beat : Dword) (pc : Nat) : (x.fillLine beat pc).tap = x.tap := by rw [fillLine_eq]
@[simp] theorem fillLine_queues (x : Drum) (beat : Dword) (pc : Nat) : (x.fillLine beat pc).queues = x.queues := by rw [fillLine_eq]
@[simp] theorem fillLine_saved (x : Drum) (beat : Dword) (pc : Nat) : (x.fillLine beat pc).saved = x.saved := by rw [fillLine_eq]
@[simp] theorem fillLine_preempting (x : Drum) (beat : Dword) (pc : Nat) : (x.fillLine beat pc).preempting = x.preempting := by rw [fillLine_eq]
@[simp] theorem fillLine_claim (x : Drum) (beat : Dword) (pc : Nat) : (x.fillLine beat pc).claim = x.claim := by rw [fillLine_eq]
@[simp] theorem fillLine_logical (x : Drum) (beat : Dword) (pc : Nat) : (x.fillLine beat pc).logical = x.logical := by rw [fillLine_eq]
@[simp] theorem fillLine_status (x : Drum) (beat : Dword) (pc : Nat) : (x.fillLine beat pc).status = x.status := by rw [fillLine_eq]
@[simp] theorem fillLine_run (x : Drum) (beat : Dword) (pc : Nat) : (x.fillLine beat pc).seq.run = x.seq.run := by
  simp only [Drum.fillLine]; split <;> rfl
@[simp] theorem fillLine_pc (x : Drum) (beat : Dword) (pc : Nat) : (x.fillLine beat pc).seq.pc = x.seq.pc := by
  simp only [Drum.fillLine]; split <;> rfl
@[simp] theorem fillLine_issued (x : Drum) (beat : Dword) (pc : Nat) : (x.fillLine beat pc).seq.issued = x.seq.issued := by
  simp only [Drum.fillLine]; split <;> rfl
@[simp] theorem fillLine_stopped (x : Drum) (beat : Dword) (pc : Nat) : (x.fillLine beat pc).seq.stopped = x.seq.stopped := by
  simp only [Drum.fillLine]; split <;> rfl
@[simp] theorem fillLine_reissue (x : Drum) (beat : Dword) (pc : Nat) : (x.fillLine beat pc).seq.reissue = x.seq.reissue := by
  simp only [Drum.fillLine]; split <;> rfl
@[simp] theorem fillLine_ord (x : Drum) (beat : Dword) (pc : Nat) : (x.fillLine beat pc).seq.ord = x.seq.ord := by
  simp only [Drum.fillLine]; split <;> rfl
@[simp] theorem fillLine_fuse (x : Drum) (beat : Dword) (pc : Nat) : (x.fillLine beat pc).seq.fuse = x.seq.fuse := by
  simp only [Drum.fillLine]; split <;> rfl
@[simp] theorem fillLine_ended (x : Drum) (beat : Dword) (pc : Nat) : (x.fillLine beat pc).seq.ended = x.seq.ended := by
  simp only [Drum.fillLine]; split <;> rfl
@[simp] theorem fillLine_waiting (x : Drum) (beat : Dword) (pc : Nat) : (x.fillLine beat pc).seq.waiting = x.seq.waiting := by
  simp only [Drum.fillLine]; split <;> rfl
@[simp] theorem fillLine_fencing (x : Drum) (beat : Dword) (pc : Nat) : (x.fillLine beat pc).seq.fencing = x.seq.fencing := by
  simp only [Drum.fillLine]; split <;> rfl
@[simp] theorem fillLine_slot (x : Drum) (beat : Dword) (pc : Nat) : (x.fillLine beat pc).slot = x.slot := by
  simp [Drum.slot, Pad.slotOf, (fillLine_pad x beat pc).slots]
@[simp] theorem fillLine_regionOk (x : Drum) (beat : Dword) (pc : Nat) (l : List Range) :
    (x.fillLine beat pc).regionOk l = x.regionOk l := by simp [Drum.regionOk]
@[simp] theorem fillLine_abs (x : Drum) (beat : Dword) (pc o : Nat) : (x.fillLine beat pc).abs o = x.abs o := by simp [Drum.abs]
@[simp] theorem fillLine_mem (x : Drum) (beat : Dword) (pc : Nat) : (x.fillLine beat pc).pad.mem = x.pad.mem :=
  (fillLine_pad x beat pc).mem
@[simp] theorem fillLine_padBytes (x : Drum) (beat : Dword) (pc o n : Nat) : (x.fillLine beat pc).padBytes o n = x.padBytes o n := by
  simp [Drum.padBytes]
@[simp] theorem fillLine_padNat (x : Drum) (beat : Dword) (pc o n : Nat) : (x.fillLine beat pc).padNat o n = x.padNat o n := by
  simp [Drum.padNat]

theorem drum_fetched (h : d < s.drums.length) : (s.fetched d).drum d = (s.drum d).fetched s.beat := s.drum_modDrum h _
theorem drum_fetched_ne {e : Nat} (h : e ≠ d) : (s.fetched d).drum e = s.drum e := s.drum_modDrum_ne h _
@[simp] theorem fetched_length : (s.fetched d).drums.length = s.drums.length := by simp [State.fetched]

theorem nextPc_offered (h : s.offers d w) : (s.drum d).seq.nextPc = (s.drum d).seq.pc := by
  rw [Seq.nextPc, h.2.2.2.1]

/-- A drum that offers a word of a known opcode hands it to that opcode's rows. -/
theorem issue_offered (h : s.offers d w) (ho : opcodes.contains (opcode w) = true) (opc : Nat) (fits : Quad → Bool)
    (run : Quad → State → State → State) :
    s.issue d opc fits run = if opcode w = opc ∧ fits w = true then run w s (s.fetched d) else s := by
  have hp := nextPc_offered h
  obtain ⟨-, hl, hm, -, hf, hb, hw⟩ := h
  have hd : (s.modDrum d fun y => y.fillLine s.beat (s.drum d).seq.pc).drum d = (s.drum d).fetched s.beat := by
    rw [s.drum_modDrum hl, Drum.fetched, hp]
  have he : s.modDrum d (fun y => y.fillLine s.beat (s.drum d).seq.pc) = s.fetched d := by
    rw [State.fetched, State.modDrum, State.modDrum, Drum.fetched, hp]
  simp only [State.issue, hp, hm, hf, hb, hd, hw, ho, Bool.true_eq_false, Bool.false_eq_true, if_false]
  rw [he]

/-- A word of an opcode that R153 does not list is the instruction fault. -/
theorem issue_reserved (h : s.offers d w) (ho : opcodes.contains (opcode w) = false) (opc : Nat) (fits : Quad → Bool)
    (run : Quad → State → State → State) :
    s.issue d opc fits run = ((s.fetched d).took d 1 w).drumFault d 0x01 := by
  have hp := nextPc_offered h
  obtain ⟨-, hl, hm, -, hf, hb, hw⟩ := h
  have hd : (s.modDrum d fun y => y.fillLine s.beat (s.drum d).seq.pc).drum d = (s.drum d).fetched s.beat := by
    rw [s.drum_modDrum hl, Drum.fetched, hp]
  have he : s.modDrum d (fun y => y.fillLine s.beat (s.drum d).seq.pc) = s.fetched d := by
    rw [State.fetched, State.modDrum, State.modDrum, Drum.fetched, hp]
  simp only [State.issue, hp, hm, hf, hb, hd, hw, ho, Bool.true_eq_false, Bool.false_eq_true, if_false]
  rw [he]; rfl

theorem drum_took (h : d < s.drums.length) (n : Nat) (w : Quad) :
    (s.took d n w).drum d = { s.drum d with seq := (s.drum d).seq.took n w } := s.drum_modSeq h _
theorem drum_took_ne {e : Nat} (h : e ≠ d) (n : Nat) (w : Quad) : (s.took d n w).drum e = s.drum e := s.drum_modSeq_ne h _

/-- Everything that the issue of an instruction of n words does to the sequencer when none was withdrawn. -/
theorem took_eq (q : Seq) (n : Nat) (w : Quad) (h : q.reissue = []) :
    q.took n w = { q with pc := q.pc + n, lastop := BitVec.ofNat 8 (opcode w), issued := q.issued + 1
                          ord := q.ord + 1, fuse := false, lastPc := q.pc } := by
  simp [Seq.took, Seq.nextPc, h]

theorem drum_access (h : d < s.drums.length) (l : List Range) :
    (s.access d l).drum d = { s.drum d with pad := (s.drum d).pad.accessAll s.beat ((s.drum d).abs 0) l } := s.drum_modDrum h _
theorem drum_access_ne {e : Nat} (h : e ≠ d) (l : List Range) : (s.access d l).drum e = s.drum e := s.drum_modDrum_ne h _

/-! ### Frames -/

theorem OnlyDrum.refl (s : State) (d : Nat) : OnlyDrum d s s := ⟨rfl, rfl, fun _ _ => rfl⟩
theorem OnlyDrum.trans {s t u : State} (h : OnlyDrum d s t) (k : OnlyDrum d t u) : OnlyDrum d s u := by
  refine ⟨?_, k.2.1.trans h.2.1, fun e he => (k.2.2 e he).trans (h.2.2 e he)⟩
  rw [k.1, h.1]
theorem onlyDrum_modDrum (s : State) (d : Nat) (f : Drum → Drum) : OnlyDrum d s (s.modDrum d f) :=
  ⟨rfl, s.modDrum_length d f, fun _ h => s.drum_modDrum_ne h f⟩
theorem onlyDrum_setDrum (s : State) (d : Nat) (x : Drum) : OnlyDrum d s (s.setDrum d x) :=
  ⟨rfl, s.setDrum_length d x, fun _ h => s.drum_setDrum_ne h x⟩
theorem onlyDrum_fetched (s : State) (d : Nat) : OnlyDrum d s (s.fetched d) := onlyDrum_modDrum s d _
theorem onlyDrum_took (s : State) (d n : Nat) (w : Quad) : OnlyDrum d s (s.took d n w) := by
  unfold State.took State.modSeq; exact onlyDrum_modDrum s d _
theorem onlyDrum_access (s : State) (d : Nat) (l : List Range) : OnlyDrum d s (s.access d l) := onlyDrum_modDrum s d _

theorem onlyDrum_takeFront (s : State) (d : Nat) (u : UnitId) : OnlyDrum d s (s.takeFront d u) := onlyDrum_modDrum s d _
theorem onlyDrum_noteRows (s : State) (d lo n : Nat) : OnlyDrum d s (s.noteRows d lo n) := by
  unfold State.noteRows State.modSeq; exact onlyDrum_modDrum s d _

end Sys2Proof.Machine
end

