-- ==== Sys2Proof/Laws/Sound.lean ====
section
/-! SUPPORT. Laws/Sound.lean: a sound check without flaws passes. -/

namespace Sys2Proof.Machine

theorem sum_split (l : List Nat) (p : Nat → Bool) (f : Nat → Nat) :
    (l.map fun k => if p k then f k else 0).sum + (l.map fun k => if p k then 0 else f k).sum = (l.map f).sum := by
  induction l with
  | nil => rfl
  | cons a l ih => cases h : p a <;> simp only [List.map_cons, List.sum_cons, h, if_true, Bool.false_eq_true, if_false] <;> omega

/-- What a strike of a pattern counts is what the load signature foretells. -/
theorem Skin.struck_eq (x : Skin) (pat j u c : Nat) : x.struck pat j u c = x.foretold pat j u c := by
  have h := sum_split (sigRows u) (fun k => decide (k % 2 = 0)) fun k => x.latchBit k c j
  simp only [decide_eq_true_eq] at h
  match pat with
  | 0 => simp [Skin.struck, Skin.foretold, checkBit]
  | 1 => simp [Skin.struck, Skin.foretold, checkBit, Skin.sigAll]
  | 2 => simp [Skin.struck, Skin.foretold, checkBit, Skin.sigEven, ite_mul]
  | n + 3 =>
    have e : (fun k => checkBit (n + 3) k * x.latchBit k c j) = fun k => if k % 2 = 0 then 0 else x.latchBit k c j := by
      funext k; by_cases hk : k % 2 = 0 <;> simp [checkBit, hk]
    simp only [Skin.struck, Skin.foretold, e, Skin.sigAll, Skin.sigEven]
    omega

/-- A check whose path shows no flaw passes, whatever tile the latches hold and whatever the order of the patterns. -/
theorem Skin.checkPasses_nil (x : Skin) (v : Nat) : x.checkPasses v [] = true := by
  have e : x.struck = x.foretold := by funext a b c d; exact x.struck_eq a b c d
  have i : x.checkInt v [] = segmentInt x.foretold v := by
    funext a b c; simp [Skin.checkInt, flawInt, e]
  simp [Skin.checkPasses, Skin.checkValue, i, flawBits]

end Sys2Proof.Machine
end

