-- ==== Sys2Proof/WellFormed.lean ====
section
/-! DEFINITION. WellFormed.lean: which commands name units, rings, ports, vectors and banks that the part has. A meaning
on an ill-formed command stops (`Fault.noSuchUnit`) or changes nothing. -/

namespace Sys2Proof

/-- Physical drums 0x00 to 0x87 (R26). -/
def drumOk (d : Nat) : Bool := decide (d < 136)
/-- Command rings 0 to 4,095 (R279). -/
def ringOk (q : Nat) : Bool := decide (q < 4096)
/-- Link ports 0 to 19 (R322). -/
def portOk (p : Nat) : Bool := decide (p < 20)
/-- Link errors of the bursts of one access to a block, which is a read, a write, or one after the other: 8 bursts of 64 bytes
each (R301, R302), and at the fifth error the retries of a burst are exhausted (R309). -/
def burstsOk (l : List Nat) : Bool := decide (l.length ≤ 16) && l.all fun e => decide (e ≤ 5)

/-- Memory channels 0 to 63 (R301). -/
def chanOk (c : Nat) : Bool := decide (c < 64)
/-- Sticks 0 to 15 (R31). -/
def stickOk (k : Nat) : Bool := decide (k < 16)
/-- Coordinates fit the fields of R334. -/
def coordOk (c : Coord) : Bool := decide (c.x < 16 ∧ c.y < 16 ∧ c.z < 64)
/-- Widths that a register access of the table's rows has (R277); one that no register takes is a bad access, which is still a
command. -/
def widthOk (w : Nat) : Bool := w == 1 || w == 2 || w == 4 || w == 8

/-- A flit whose header fields fit R327. -/
def flitOk (f : Flit) : Bool :=
  decide (f.kind < 256 ∧ f.vc < 8 ∧ f.seq < 4096 ∧ f.ackseq < 4096 ∧ f.acktype < 4 ∧ f.cvc < 8 ∧ f.ccnt < 256 ∧
    f.payload.length ≤ 256)

/-- Bridges 0 to 7 (R356). -/
def NocVerdict.wellFormed : NocVerdict → Bool
  | .badBond b => decide (b < 8)
  | _ => true

def Instr.wellFormed : Instr → Bool
  | .strike d | .weightLoadEnd d | .dequantiseRow d _ | .leafDone d _ | .tap d _ | .check d _ | .narrow d _ | .widen d _
  | .convert d _ | .amax d _ | .close d _ | .shareReductionDone d _ | .ldscale d | .stscale d _ | .qsave d _ | .qload d
  | .rollScale d _ | .rollMask d _ | .softmax d _ | .rmsnorm d _ | .layernorm d _ | .gelu d _ | .silu d _ | .rope d _ | .topk d _
  | .fill d | .copy d | .send d | .wait d | .waitComplete d | .waitTimeout d | .fence d | .fenceComplete d
  | .endRun d | .claimRetry d | .shellClearDone d | .preemptSave d | .preemptRestore d | .sknCntClr d | .tunCntClr d
  | .shlCntClr d | .seqCntClr d | .rolCntClr d | .tapCntClr d | .padCntClr d => drumOk d
  | .workClaim d r => drumOk d && r.net.wellFormed
  | .nodeArrival d src v | .bellStatsArrival d src v | .sendArrival d src v | .sendAckArrival d src v =>
    decide (d ≤ 136 ∧ src ≤ 136) && v.wellFormed
  | .padReread d word _ => drumOk d && decide (word < 262144)
  | .bankGate d b | .bankWakeEnd d b => drumOk d && decide (b < 64)
  | .damperFinish d slot => drumOk d && decide (slot ≤ 8)
  | .score q | .scoreBind q | .drain q | .kill q | .groupHoldExpire q | .irqTimerExpire q | .submissionEntryFault q =>
    ringOk q
  | .taskDispatch _ task target => decide (task < 262144 ∧ target < 256)
  | .taskEnd _ task | .liveOverrun _ task => decide (task < 262144)
  | .liveReserveApply l => decide (l < 128)
  | .metRelease _ => true
  | .metStkdone k _ | .stickTrap k => stickOk k
  | .stickApertureAccess k _ w _ _ => stickOk k && widthOk w
  | .stickDeviceAccess k _ _ data v => stickOk k && decide (data.length ≤ 64) && v.net.wellFormed
  | .ringEnable q _ | .ringDisable q _ => ringOk q
  | .doorbellSqtail p _ | .doorbellCqhead p _ => decide (p < 4096)
  | .msixVectorUnmask v => decide (v < 2048)
  | .forwardedAccess _ w _ _ => widthOk w
  | .forwardTimeout => true
  | .followerHostTraffic src _ _ _ _ => coordOk src
  | .followerMsixRequest src v => coordOk src && decide (v < 2048)
  | .functionLevelReset | .perstAssert | .linkDown => true
  | .memoryRead ch _ cls e _ => chanOk ch && decide (cls < 5) && burstsOk e
  | .memoryWrite ch _ lo cls e data _ => chanOk ch && decide (cls < 5 ∧ lo + data.length ≤ 480) && burstsOk e
  | .eccWriteback ch _ | .patrolScrub ch _ _ | .mr4Poll ch _ | .mchCntClr ch => chanOk ch
  | .memoryReady | .pageTableClear | .streamTableClear => true
  | .pgtDataAccess agent w _ _ => decide (agent ≤ 16) && widthOk w
  | .linkHandshake p r => portOk p && coordOk r.peer.coord && coordOk r.peer.dims
  | .flitSend p | .replayTimeout p | .linkRetrain ⟨p, _⟩ | .lnkRetrainWrite p | .alignmentSend p | .lnkCntClr p => portOk p
  | .flitReceive p a => portOk p && flitOk a.flit && decide (a.fec.length ≤ 8)
  | .retrainEnd p _ _ => portOk p
  | .alignmentReceive p _ _ => portOk p
  | .syncInEdge | .syncOutPulse | .syncInTimeout => true
  | .abortReceive p g o _ _ => portOk p && decide (g < 1024) && coordOk o
  | .groupReopen _ => true
  | .graceExpire src | .faultClear src | .faultInject src _ => decide (src < 512)
  | .faultnPulseEnd => true
  | .drmRetire d _ => drumOk d
  | .soundCheck d _ _ => drumOk d
  | .idleStrikeSlot => true
  | .dutyUpdate est => decide (est < 65536)
  | .pwrcapAssert => true
  | .sensorSample l => decide (l.length = 24)
  | .thermalFault => true
  | .railFault pair => decide (pair < 12)
  | .powerOn | .pllLock _ _ | .pllLockLoss | .resetnAssert | .pwrRst _ | .powerDown => true
  | .bootComplete _ _ => true
  | .writeImage _ | .commit _ | .abandon _ | .writeRepair _ | .writePlace _ => true
  | .updateOpComplete _ _ => true
  | .doeDiscovery i => decide (i < 256)
  | .getVersion _ | .getCapabilities _ | .negotiateAlgorithms _ | .getDigests _ => true
  | .getCertificate slot off len => decide (slot < 16 ∧ off < 65536 ∧ len < 65536)
  | .challenge nonce => decide (nonce.length = 32)
  | .getMeasurements i _ nonce => decide (i < 256 ∧ nonce.length ≤ 32)
  | .pqsig | .pqchain _ _ => true
  | .smbReadTmax | .smbReadPower | .smbCapRead | .smbCapWrite _ | .smbReadStatus | .smbReadFaults | .jtagIdcode => true
  | .diagModeEnter | .diagModeLeave => true
  | .bar4Read _ _ _ => true
  | .broadcastWrite _ w _ | .broadcastRead _ w => widthOk w
  | .metCntClr | .wkcCntClr | .pciCntClr => true
  | .registerWrite _ w _ => widthOk w
  | .resetnRelease _ | .pwrcapRelease | .perstRelease => true
  | .pcieLinkUp w g => decide (w < 64 ∧ g < 16)
  | .configurationRequest off _ _ => decide (off < 4096)
  | .completionTimeout q _ _ => ringOk q
  | .bar4Write _ _ | .tableClearDone _ => true
  | .jtagInstruction _ => true

end Sys2Proof
end

