-- ==== Sys2Proof/Tests/Slice0.lean ====
section
/-! SUPPORT. Tests/Slice0.lean: well-formed and ill-formed commands, small checks of single steps against words and values
of the spec, and, for the statements with hypotheses, states and operands that meet them together. -/

open Sys2Proof Sys2Proof.Machine

namespace Sys2Proof.Tests

set_option Elab.async false

/-! ## States -/

/-- State.Kept as a Bool. -/
def keptB (s : State) : Bool :=
  decide (s.drums.length = 136 ∧ s.mem.chans.length = 64 ∧ s.fab.ports.length = 20) && s.storesWf && s.drums.all Drum.kept

theorem kept_of {s : State} (h : keptB s = true) : s.Kept := by
  simp only [keptB, Bool.and_eq_true, decide_eq_true_eq] at h
  exact ⟨h.1.1.1, h.1.1.2.1, h.1.1.2.2, h.1.2, h.2⟩

theorem kept_reset : State.reset.Kept := kept_of (by decide +kernel)

/-- A 128-bit word from its fields: low bit and value of each. -/
def word (l : List (Nat × Nat)) : Quad := BitVec.ofNat 128 (l.foldl (fun a p => a + p.2 * 2 ^ p.1) 0)

/-- The part running: clocks locked, BAR0 open, memory up with all 64 channels. -/
def base : State :=
  { State.reset with
    beat := 1000
    power := { Power.reset with locked := true, refOk := true }
    boot := { Boot.reset with bar0 := true }
    met := { Met.reset with en := true }
    mem := { MainMem.reset with map := List.range 64, up := true } }

def drumTask (e tiles : Nat) : TaskRec :=
  { cls := 2, miss := 0, cmpl := false, stream := none, deps := 0, succs := [], work := 0, utag := 0, ledger := 0,
    body := .drum 1 0 e tiles 0 }

def stickRec : TaskRec := { drumTask 1 0 with body := .stick 1 0 0 }

/-- Job 0 of ring 0: task 0 runs on logical drum 0, task 1 on stick 0. -/
def job (t : TaskRec) : Job :=
  { num := 0, ring := 0, sqidx := 0, serial := 0, utag := 0, group := 0, order := 0
    score := { ntask := 2, seed := 0, ndrum := 1, live := false, rblk := 4, rres := 0, tcnt := 4, reskey := 0, deadline := 0,
               stream := none, mask := 1, tasks := [t, stickRec] }
    tasks := [{ Task.new t none none with state := .running, started := [0] },
              { Task.new stickRec none (some 0) with state := .running }]
    aborted := false, reserved := 0 }

def slot0 : Slot := { Slot.reset with base := 0, bound := 8, tcnt := 4, state := .bound, job := 0 }

/-- Physical drum 1 (logical 0) runs task 0 of job 0 at pattern position 256, in a region of 8 blocks. -/
def drum1 (l : List Byte) : Drum :=
  { Drum.factory 1 with
    pad := { Pad.reset with mem := putBytes [] 4096 l, slots := Pad.reset.slots.set 0 slot0 }
    seq := { Seq.reset with run := some ⟨0, 0, 0⟩, cls := 2, pc := 256, lastJob := some 0 } }

def withDrum (x : Drum) : State :=
  { base with drums := base.drums.set 1 x, met := { base.met with jobs := [job (drumTask 1 0)], sticks := [(0, some (0, 1))] } }

/-- The drum offers word w, after f has changed it. -/
def at_ (w : Quad) (f : Drum → Drum := id) : State := withDrum (f (drum1 (leBytes 16 w.toNat)))

theorem offers_of {s : State} {d : Nat} {w : Quad}
    (h : d < 136 ∧ d < s.drums.length ∧ (s.drum d).mayIssue = true ∧ (s.drum d).seq.reissue = [] ∧
      (s.drum d).fetchOk (s.drum d).seq.pc = true ∧ (s.drum d).lineFails (s.drum d).seq.pc = false ∧
      ((s.drum d).fillLine s.beat (s.drum d).seq.nextPc).cached (s.drum d).seq.pc = w) : s.offers d w := h

theorem still_of {x : Drum}
    (h : x.skin.jobs = [] ∧ x.skin.load = none ∧ x.skin.cur = none ∧ x.skin.laneQ = [] ∧ x.shell.leaves = [] ∧
      x.queues = ⟨[], [], [], []⟩ ∧ x.roll.cur = none ∧ x.tuner.cur = none ∧ x.tuner.share = none ∧ x.preempting = none ∧
      x.pad.failed = []) : x.still := h

theorem rest_of {x : Drum}
    (h : x.skin.jobs = [] ∧ x.skin.load = none ∧ x.skin.cur = none ∧ x.queues = ⟨[], [], [], []⟩ ∧ x.roll.cur = none ∧
      x.tuner.cur = none) : x.unitsRest := h

/-! ## Well-formed and ill-formed commands -/

def badFlit : Flit := { kind := 0, vc := 8, last := true, half := true, seq := 0, ackseq := 0, acktype := 0, cvc := 0, ccnt := 0,
                        payload := [], crc := 0 }
def goodHello : Hello := ⟨⟨15, 15, 63⟩, ⟨1, 1, 1⟩, 0, 0, true⟩

/-- The first value beyond each range. -/
theorem test_illFormed_units : ∀ i ∈ [Instr.strike 136, .workClaim 136 ⟨true, .arrives⟩, .nodeArrival 0 137 .arrives, .sendArrival 137 0 .arrives, .padReread 0 262144 ⟨true, false⟩,
    .bankGate 0 64, .damperFinish 0 9, .score 4096, .taskDispatch 0 262144 0, .taskDispatch 0 0 256, .taskEnd 0 262144,
    .liveReserveApply 128, .metStkdone 16 0, .stickApertureAccess 16 0 4 false 0, .stickApertureAccess 0 0 3 false 0,
    .stickDeviceAccess 16 0 false [] ⟨true, .arrives⟩, .stickDeviceAccess 0 0 true (List.replicate 65 0) ⟨false, .arrives⟩, .workClaim 0 ⟨true, .badBond 8⟩, .ringEnable 4096 0, .doorbellSqtail 4096 0, .msixVectorUnmask 2048, .drmRetire 136 0,
    .soundCheck 136 [] [], .sknCntClr 136, .completionTimeout 4096 false none], i.wellFormed = false := by decide
theorem test_illFormed_links : ∀ i ∈ [Instr.forwardedAccess 0 16 false 0, .followerHostTraffic ⟨16, 0, 0⟩ 5 false 0 [],
    .followerMsixRequest ⟨0, 16, 0⟩ 0, .followerMsixRequest ⟨0, 0, 0⟩ 2048, .memoryRead 64 0 0 [] .clean, .memoryRead 0 0 5 [] .clean,
    .memoryRead 0 0 0 [4, 6] .clean, .memoryRead 0 0 0 (List.replicate 17 0) .clean, .memoryWrite 0 0 480 0 [] [0] .clean,
    .memoryWrite 0 0 0 5 [] [] .clean, .eccWriteback 64 0,
    .pgtDataAccess 17 8 false 0, .linkHandshake 20 ⟨0, goodHello⟩, .linkHandshake 0 ⟨0, ⟨⟨0, 0, 64⟩, ⟨1, 1, 1⟩, 0, 0, true⟩⟩, .flitSend 20,
    .flitReceive 0 ⟨badFlit, []⟩, .flitReceive 0 ⟨{ badFlit with vc := 7 }, List.replicate 9 (0, 0)⟩, .retrainEnd 20 0 true, .alignmentReceive 20 0 true, .abortReceive 0 1024 ⟨0, 0, 0⟩ 0 0,
    .abortReceive 20 1 ⟨0, 0, 0⟩ 0 0], i.wellFormed = false := by decide
theorem test_illFormed_rest : ∀ i ∈ [Instr.graceExpire 512, .faultInject 512 0, .dutyUpdate 65536, .sensorSample (List.replicate 23 0),
    .railFault 12, .doeDiscovery 256, .getCertificate 16 0 0, .getCertificate 0 65536 0, .getCertificate 0 0 65536, .challenge [],
    .getMeasurements 256 true [], .getMeasurements 0 true (List.replicate 33 0), .broadcastRead 0 3, .registerWrite 0 5 0,
    .pcieLinkUp 64 0, .pcieLinkUp 0 16, .configurationRequest 4096 false 0], i.wellFormed = false := by decide
theorem test_wellFormed : ∀ i ∈ [Instr.strike 135, .nodeArrival 135 136 .arrives, .sendArrival 136 0 .arrives, .padReread 135 262143 ⟨false, true⟩, .bankGate 135 63, .damperFinish 0 8,
    .score 4095, .taskDispatch 65535 262143 255, .liveReserveApply 127, .metStkdone 15 0, .doorbellCqhead 4095 0, .msixVectorUnmask 2047,
    .memoryWrite 63 0 479 4 (List.replicate 16 5) [0] .clean, .pgtDataAccess 16 8 true 0, .linkHandshake 19 ⟨0xFF, goodHello⟩,
    .flitReceive 19 ⟨{ badFlit with vc := 7, payload := List.replicate 256 0 }, List.replicate 8 (3, 1)⟩, .abortReceive 19 1023 ⟨15, 15, 63⟩ 0 0,
    .faultClear 0x175, .dutyUpdate 65535, .sensorSample (List.replicate 24 150), .railFault 11, .challenge (List.replicate 32 0),
    .configurationRequest 4095 true 0, .metCntClr], i.wellFormed = true := by decide +kernel

/-- A command on a drum, ring, port or source that the part does not have stops under its name. -/
theorem test_noSuchUnit : ∀ i ∈ [Instr.strike 136, .score 4096, .flitSend 20, .graceExpire 0x88, .mr4Poll 64 0],
    exec i base = .fault .noSuchUnit := by
  intro i h
  fin_cases h <;> rfl

/-! ## Witnesses: the queue, reset and the sequencer -/

theorem quiet_of {s : State} (h : (List.range 136).all (fun d => !(s.drum d).hasWork && (s.drum d).sound.failIn == 0) = true ∧
    s.drums.length = 136 ∧ s.met.moves = [] ∧ s.rings = [] ∧
    s.fab.ports.all (fun p => p.ingress.isEmpty && (decide (p.stuck = [0, 0, 0, 0, 0, 0, 0]) && (!p.starved &&
      p.rxPart.all fun l => !s.transits l))) = true) :
    s.quiet := by
  obtain ⟨h1, h2, h3, h4, h5⟩ := h
  refine ⟨fun d => ?_, h3, by simp [h4], fun p hp => ?_⟩
  · by_cases hd : d < 136
    · have := List.all_eq_true.1 h1 d (List.mem_range.2 hd)
      simpa using this
    · rw [State.drum, List.getElem?_eq_none (show s.drums.length ≤ d by omega)]
      decide +kernel
  · have := List.all_eq_true.1 h5 p hp
    simpa using this
theorem test_wit_idle : base.pending = [] ∧ base.power.locked = true ∧ base.power.tripped = false ∧ base.quiet :=
  ⟨by decide +kernel, by decide +kernel, by decide +kernel, quiet_of (by decide +kernel)⟩
theorem test_wit_idle_stopped : State.reset.pending = [] ∧ State.reset.power.locked = false := by decide +kernel

def badOp : Quad := word [(120, 0x12)]
theorem test_wit_reservedOpcode : (at_ badOp).offers 1 badOp ∧ opcodes.contains (opcode badOp) = false ∧
    ((at_ badOp).drum 1).seq.run = some ⟨0, 0, 0⟩ ∧ ((at_ badOp).fault 1).valid = false :=
  ⟨offers_of (by decide +kernel), by decide +kernel⟩

/-- A FILL whose last byte is the first beyond a region of 8 blocks. -/
def fillOut : Quad := word [(120, 0x40), (101, 0x8000 - 1), (82, 2), (50, 7)]
theorem test_wit_fillOutOfRegion : (at_ fillOut).offers 1 fillOut ∧ ((at_ fillOut).drum 1).still ∧ ((at_ fillOut).drum 1).seq.run = some ⟨0, 0, 0⟩ ∧
    ((at_ fillOut).fault 1).valid = false ∧ ((at_ fillOut).drum 1).pad.failed = [] ∧ opcode fillOut = 0x40 ∧ (fillW fillOut).bad = false ∧
    ((at_ fillOut).drum 1).regionOk (fillW fillOut).ranges = false :=
  ⟨offers_of (by decide +kernel), still_of (by decide +kernel), by decide +kernel⟩

def copyOut : Quad := word [(120, 0x41), (102, 0), (84, 0x8000 - 1), (65, 2)]
theorem test_wit_copyOutOfRegion : (at_ copyOut).offers 1 copyOut ∧ ((at_ copyOut).drum 1).still ∧ ((at_ copyOut).drum 1).seq.run = some ⟨0, 0, 0⟩ ∧
    ((at_ copyOut).fault 1).valid = false ∧ ((at_ copyOut).drum 1).pad.failed = [] ∧ opcode copyOut = 0x41 ∧ (copyW copyOut).rsv = 0 ∧
    ((at_ copyOut).drum 1).regionOk ((copyW copyOut).readRanges ++ (copyW copyOut).writeRanges) = false :=
  ⟨offers_of (by decide +kernel), still_of (by decide +kernel), by decide +kernel⟩

/-- The last two units of the region. -/
def fillPad : Quad := word [(120, 0x40), (101, 0x8000 - 2), (82, 2), (50, 7)]
theorem test_wit_fillPad : (at_ fillPad).Kept ∧ (at_ fillPad).offers 1 fillPad ∧ ((at_ fillPad).drum 1).still ∧ opcode fillPad = 0x40 ∧
    (fillW fillPad).bad = false ∧ ((at_ fillPad).drum 1).regionOk (fillW fillPad).ranges = true ∧
    (fillW fillPad).shell = false :=
  ⟨kept_of (by decide +kernel), offers_of (by decide +kernel), still_of (by decide +kernel), by decide +kernel⟩

/-- The last row of the shell. -/
def fillShell : Quad := word [(120, 0x40), (119, 1), (101, 255), (82, 1), (50, 7)]
theorem test_wit_fillShell : (at_ fillShell).Kept ∧ (at_ fillShell).offers 1 fillShell ∧ ((at_ fillShell).drum 1).still ∧ opcode fillShell = 0x40 ∧
    (fillW fillShell).bad = false ∧ ((at_ fillShell).drum 1).regionOk (fillW fillShell).ranges = true ∧
    (fillW fillShell).shell = true :=
  ⟨kept_of (by decide +kernel), offers_of (by decide +kernel), still_of (by decide +kernel), by decide +kernel⟩

/-- Two rows of 32 words, set back to back: 64 words in all. -/
def copy64 : Quad := word [(120, 0x41), (102, 0x100), (84, 0x110), (65, 32), (53, 1), (35, 32), (17, 32)]
theorem test_wit_copy : (at_ copy64).Kept ∧ (at_ copy64).offers 1 copy64 ∧ ((at_ copy64).drum 1).still ∧ opcode copy64 = 0x41 ∧ (copyW copy64).rsv = 0 ∧ ((at_ copy64).drum 1).pad.failed = [] ∧
    ((at_ copy64).drum 1).regionOk ((copyW copy64).readRanges ++ (copyW copy64).writeRanges) = true ∧ (copyW copy64).len * (copyW copy64).rows ≤ 64 ∧
    (copyW copy64).len ≤ (copyW copy64).dstr :=
  ⟨kept_of (by decide +kernel), offers_of (by decide +kernel), still_of (by decide +kernel), by decide +kernel⟩

def sendLocal : Quad := word [(120, 0x50), (102, 0x100), (83, 8), (65, 0x200), (57, 127), (36, 3)]
theorem test_wit_send : (at_ sendLocal).offers 1 sendLocal ∧ ((at_ sendLocal).drum 1).still ∧ opcode sendLocal = 0x50 ∧ (sendW sendLocal).rsv = 0 ∧ ((sendW sendLocal).mc && (sendW sendLocal).remote) = false ∧
    ((at_ sendLocal).drum 1).seq.run = some ⟨0, 0, 0⟩ ∧ ((at_ sendLocal).drum 1).slot = some slot0 ∧
    (sendW sendLocal).faults ((at_ sendLocal).fetched 1) 1 ⟨0, 0, 0⟩ slot0 = [] ∧ (sendW sendLocal).remote = false ∧
    127 ∈ (sendW sendLocal).receivers ((at_ sendLocal).drum 1) ∧ ((at_ sendLocal).holder 127).isSome = true :=
  ⟨offers_of (by decide +kernel), still_of (by decide +kernel), by decide +kernel⟩

def sendRemote : Quad := word [(120, 0x50), (102, 0x100), (83, 8), (65, 0x200), (56, 1), (52, 1), (36, 3)]
/-- The job belongs to group 5 of a fabric of two parts. -/
def grouped (s : State) : State :=
  { s with met := { s.met with jobs := s.met.jobs.map fun j => { j with group := 5 } }
           fab := { s.fab with dims := ⟨2, 1, 1⟩ } }
theorem test_wit_sendRemote : (grouped (at_ sendRemote)).offers 1 sendRemote ∧ ((grouped (at_ sendRemote)).drum 1).still ∧ opcode sendRemote = 0x50 ∧ (sendW sendRemote).rsv = 0 ∧ ((sendW sendRemote).mc && (sendW sendRemote).remote) = false ∧
    ((grouped (at_ sendRemote)).drum 1).seq.run = some ⟨0, 0, 0⟩ ∧ ((grouped (at_ sendRemote)).drum 1).slot = some slot0 ∧
    (sendW sendRemote).faults ((grouped (at_ sendRemote)).fetched 1) 1 ⟨0, 0, 0⟩ slot0 = [] ∧
    (sendW sendRemote).remote = true :=
  ⟨offers_of (by decide +kernel), still_of (by decide +kernel), by decide +kernel⟩

def waitAt : Quad := word [(120, 0x60), (114, 3), (82, 2), (81, 1), (65, 5)]
theorem test_wit_wait : (at_ waitAt).offers 1 waitAt ∧ opcode waitAt = 0x60 ∧ (waitW waitAt).rsv = 0 ∧
    ((at_ waitAt).drum 1).slot = some slot0 ∧ (waitW waitAt).tally < slot0.tcnt :=
  ⟨offers_of (by decide +kernel), by decide +kernel⟩

def fenceBoth : Quad := word [(120, 0x61), (118, 3)]
theorem test_wit_fence : (at_ fenceBoth).offers 1 fenceBoth ∧ opcode fenceBoth = 0x61 ∧ wf fenceBoth 117 0 = 0 ∧
    wf fenceBoth 119 118 ≠ 0 :=
  ⟨offers_of (by decide +kernel), by decide +kernel⟩

def endWord : Quad := word [(120, 0x7F)]
theorem test_wit_end : (at_ endWord).offers 1 endWord ∧ opcode endWord = 0x7F ∧ wf endWord 119 0 = 0 ∧
    ((at_ endWord).drum 1).shell.anyBlock Stack.isOpen = false :=
  ⟨offers_of (by decide +kernel), by decide +kernel⟩

/-- Drum 1 waits for counter 3 to reach 2, for 3 us from beat 40 on; the beat is 1000. -/
def waits (n : Nat) : State := at_ endWord fun x =>
  { x with seq := { x.seq with waiting := some ⟨3, 2, true, 3, 40⟩ }
           pad := { x.pad with tallies := putCell 0#32 [] 3 (BitVec.ofNat 32 n) } }
theorem test_wit_waitEnds : (waits 2).Kept ∧ ((waits 2).drum 1).seq.waiting = some ⟨3, 2, true, 3, 40⟩ ∧
    (2 : Word) ≤ ((waits 2).drum 1).pad.tally 3 :=
  ⟨kept_of (by decide +kernel), by decide +kernel⟩
theorem test_wit_waitGoesOn : (waits 1).Kept ∧ ((waits 1).drum 1).seq.waiting = some ⟨3, 2, true, 3, 40⟩ ∧
    ((waits 1).drum 1).pad.tally 3 < 2 ∧ (40 : Dword).toNat + 320 * 3 ≤ (waits 1).beat.toNat ∧
    ((waits 1).drum 1).seq.run = some ⟨0, 0, 0⟩ ∧ ((waits 1).fault 1).valid = false :=
  ⟨kept_of (by decide +kernel), by decide +kernel⟩

/-- Drum 1 stands at a FENCE, or at an END of a task with or without tiles. -/
def fences (isEnd : Bool) (tiles : Nat) : State :=
  let s := at_ endWord fun x => { x with seq := { x.seq with fencing := some ⟨true, true, isEnd⟩ } }
  { s with met := { s.met with jobs := [job (drumTask 1 tiles)] } }
theorem test_wit_fenceDone : (fences false 0).Kept ∧ ((fences false 0).drum 1).seq.fencing = some ⟨true, true, false⟩ ∧
    ((fences false 0).drum 1).seq.run = some ⟨0, 0, 0⟩ ∧ ((fences false 0).drum 1).fenceDone ⟨true, true, false⟩ = true ∧
    ((fences false 0).drum 1).seq.stopped = false ∧ ((fences false 0).drum 1).preempting = none :=
  ⟨kept_of (by decide +kernel), by decide +kernel⟩
theorem test_wit_endDone : ∀ tiles ∈ [0, 3], (fences true tiles).Kept ∧
    ((fences true tiles).drum 1).seq.fencing = some ⟨true, true, true⟩ ∧
    ((fences true tiles).drum 1).seq.run = some ⟨0, 0, 0⟩ ∧ ((fences true tiles).drum 1).fenceDone ⟨true, true, true⟩ = true ∧
    ((fences true tiles).drum 1).seq.stopped = false ∧ ((fences true tiles).drum 1).preempting = none ∧
    ((fences true tiles).drum 1).shell.anyBlock Stack.isOpen = false ∧
    ((fences true tiles).task? 0 0).map (·.trec.body) = some (.drum 1 0 1 tiles 0) ∧
    ((fences true tiles).task? 0 0).map (·.trec.ledger) = some 0 := by
  intro tiles h
  fin_cases h <;> exact ⟨kept_of (by decide +kernel), by decide +kernel⟩

/-! ## Witnesses: the skin and the shell -/

/-- One row of 16 outputs over 8 weights of int2, one activation plane, chain 0 of descriptor 0. -/
def strike1 : Quad :=
  word [(120, 0x10), (111, 1), (100, 16), (89, 8), (81, 255), (73, 2), (23, 16), (14, 4)]
def strikeLoad : Quad := strike1 + word [(70, 1)]
def step1 : Step := walkStep (strikeW strike1) extNone false 0

/-- The drum holds an int2 tile, matching scales and a valid chain descriptor. -/
def armed (x : Drum) : Drum :=
  { x with
    skin := { x.skin with tile := some ⟨2, 0, 0, 0, false, step1⟩ }
    tuner := { x.tuner with fvalid := true, rsbTag := [(255, ⟨true, 0, 0⟩)] }
    shell := { x.shell with descs := [(0, { Desc.reset with valid := true })] } }

def loading (x : Drum) : Drum := { armed x with skin := { (armed x).skin with load := some step1 } }

/-- The drum as STRIKE's decode sees it, and the strike that it hands to the skin. -/
def seen (s : State) : Drum := (s.drum 1).fetched s.beat
theorem test_wit_strikeQueues : (at_ strike1 loading).offers 1 strike1 ∧ opcode strike1 = 0x10 ∧
    ((at_ strike1 loading).drum 1).skin.queued < 2 ∧ ((at_ strike1 loading).drum 1).pad.failed = [] ∧
    (strikeW strike1).ext = false ∧ badWalk (strikeW strike1) ((seen (at_ strike1 loading)).strikeJob strike1).ext = false ∧
    ((at_ strike1 loading).drum 1).skin.load.isSome = true ∧ ((at_ strike1 loading).drum 1).skin.cur = none ∧
    ((at_ strike1 loading).drum 1).queues = ⟨[], [], [], []⟩ ∧ ((at_ strike1 loading).drum 1).roll.cur = none ∧
    ((at_ strike1 loading).drum 1).tuner.cur = none :=
  ⟨offers_of (by decide +kernel), by decide +kernel⟩

theorem test_wit_strikeStarts : ∀ w ∈ [strike1, strikeLoad], (at_ w armed).offers 1 w ∧ ((at_ w armed).drum 1).still ∧
    opcode w = 0x10 ∧ ((at_ w armed).drum 1).skin.queued < 2 ∧ ((at_ w armed).drum 1).pad.failed = [] ∧
    (strikeW w).ext = false ∧
    let j := (seen (at_ w armed)).strikeJob w
    badWalk (strikeW w) j.ext = false ∧ ((at_ w armed).drum 1).regionOk (j.ranges ((at_ w armed).drum 1)) = true ∧
    j.step.faults ((at_ w armed).drum 1) = [] ∧ j.step.loadw = decide (w = strikeLoad) ∧
    j.step.loads = decide (w = strikeLoad) ∧ j.ext.steps = 1 ∧ j.step.empty = false ∧ j.step.bell = false := by
  intro w h
  fin_cases h <;> exact ⟨offers_of (by decide +kernel), still_of (by decide +kernel), by decide +kernel⟩

/-- A STRIKE of bell mode with LOADW, its only segment the first of the block. -/
def strikeBell : Quad := strikeLoad + word [(68, 3)]
def armedBell (x : Drum) : Drum :=
  { armed x with shell := { (armed x).shell with descs := [(0, { Desc.reset with valid := true, bell := true, ktot := 1 })] } }
theorem test_wit_strikeBell : (at_ strikeBell armedBell).offers 1 strikeBell ∧ ((at_ strikeBell armedBell).drum 1).still ∧
    opcode strikeBell = 0x10 ∧ ((at_ strikeBell armedBell).drum 1).skin.queued < 2 ∧
    ((at_ strikeBell armedBell).drum 1).pad.failed = [] ∧ (strikeW strikeBell).ext = false ∧
    let j := (seen (at_ strikeBell armedBell)).strikeJob strikeBell
    badWalk (strikeW strikeBell) j.ext = false ∧ ((at_ strikeBell armedBell).drum 1).regionOk (j.ranges ((at_ strikeBell armedBell).drum 1)) = true ∧
    j.step.faults ((at_ strikeBell armedBell).drum 1) = [] ∧ j.step.loadw = true ∧ j.step.bell = true ∧
    (((at_ strikeBell armedBell).drum 1).stack j.step.rd).early = [] :=
  ⟨offers_of (by decide +kernel), still_of (by decide +kernel), by decide +kernel⟩

def convertAny : Quad := word [(120, 0x20), (116, 2)]
/-- A shared TUNE is under way, and n others wait behind it. -/
def tunersWait (n : Nat) : State := at_ convertAny fun x =>
  { x with tuner := { x.tuner with share := some ⟨false, 0, 0, ⟨0, 255, convertAny, true, false⟩, true⟩ }
           queues := ⟨List.replicate n ⟨0, 256, convertAny, true, false⟩, [], [], []⟩ }
theorem test_wit_unitQueue : ∀ n ∈ [1, 2], (tunersWait n).offers 1 convertAny ∧ opcode convertAny = 0x20 ∧
    (tuneW convertAny).op = 2 ∧ (tuneW convertAny).rsv = false ∧ ((tunersWait n).drum 1).skin.jobs = [] ∧
    ((tunersWait n).drum 1).skin.load = none ∧ ((tunersWait n).drum 1).skin.cur = none ∧
    ((tunersWait n).drum 1).roll.cur = none ∧ ((tunersWait n).drum 1).tuner.cur = none ∧
    ((tunersWait n).drum 1).queues = ⟨List.replicate n ⟨0, 256, convertAny, true, false⟩, [], [], []⟩ ∧
    ((tunersWait n).drum 1).tuner.share.isSome = true := by
  intro n h
  fin_cases h <;> exact ⟨offers_of (by decide +kernel), by decide +kernel⟩

def load1 : Step := walkStep (strikeW strikeLoad) extNone false 0
/-- A weight image with one weight bit set (row 0, column 0, plane 0), its map marking plane 0 of lane 0 or not. -/
def loads (marked : Bool) : State := at_ endWord fun x =>
  { armed x with
    skin := { (armed x).skin with tile := none, load := some load1 }
    pad := { x.pad with mem := putBytes (putBytes (putBytes x.pad.mem 32768 (leBytes 1 marked.toNat)) 32800 [2#8]) 32832 [1#8] } }
theorem test_wit_weightLoad : (loads true).Kept ∧ ((loads true).drum 1).skin.load = some load1 ∧ load1.loadw = true ∧
    ((loads true).drum 1).skin.jobs = [] ∧ ((loads true).drum 1).skin.cur = none ∧
    ((loads true).drum 1).queues = ⟨[], [], [], []⟩ ∧ ((loads true).drum 1).roll.cur = none ∧ ((loads true).drum 1).preempting = none ∧
    ((loads true).drum 1).tuner.cur = none ∧ ((loads true).drum 1).pad.failed = [] ∧
    (((loads true).drum 1).loadTile load1).2 ++ ((((loads true).drum 1).loadTile load1).1.loadScales load1).2 = [] ∧
    (load1.ownScales && load1.skew ((((loads true).drum 1).loadTile load1).1.loadScales load1).1) = false ∧
    load1.src = 0 :=
  ⟨kept_of (by decide +kernel), by decide +kernel⟩
theorem test_wit_weightLoadFault : (loads false).Kept ∧ ((loads false).drum 1).skin.load = some load1 ∧ load1.loadw = true ∧
    ((loads false).drum 1).skin.jobs = [] ∧ ((loads false).drum 1).skin.cur = none ∧
    ((loads false).drum 1).queues = ⟨[], [], [], []⟩ ∧ ((loads false).drum 1).roll.cur = none ∧
    ((loads false).drum 1).preempting = none ∧ ((loads false).drum 1).tuner.cur = none ∧ ((loads false).drum 1).pad.failed = [] ∧
    load1.src = 0 ∧ load1.wscl = none ∧
    load1.ascl = none ∧ (((loads false).drum 1).loadTile load1).2 = [0x11] ∧
    ((loads false).drum 1).seq.run = some ⟨0, 0, 0⟩ ∧ ((loads false).fault 1).valid = false :=
  ⟨kept_of (by decide +kernel), by decide +kernel⟩

/-- Eight planes of int8 in the widest segment. -/
def widest : Step := { step1 with a := 8, n := 512, k := 1024, wfmt := 5, group := 2 }
theorem test_wit_segmentSum : widest.badOperands = false ∧ (List.replicate 8 (2 ^ 1024 - 1)).length = widest.a ∧
    1 ≤ widest.a ∧ widest.a ≤ 8 := by decide +kernel

/-- A row of one strike in the lane queues: of a chain, or of the block of descriptor 0. -/
def queued (acc : BitVec 2) (leaf : Bool) (rows : Nat := 1) : State := at_ endWord fun x =>
  let st : Step := { step1 with acc := acc, row0 := 0, m := rows }
  { armed x with
    skin := { (armed x).skin with laneQ := [⟨0, st, 1, [], putCell 0#24 [] 0 5⟩] }
    shell := { (armed x).shell with
      descs := [(0, { Desc.reset with valid := true, bell := decide (2 ≤ acc.toNat), blk := 1, ktot := 2 })]
      blocks := [(0, { Stack.reset with started := true, m := 1, n := 16, next := 1 })]
      leaves := if leaf then [⟨0, 0, false, 0⟩] else [] } }
theorem test_wit_dequantiseChain : ∀ acc ∈ [0#2, 1#2], (queued acc false).Kept ∧ ((queued acc false).drum 1).unitsRest ∧
    ((queued acc false).drum 1).skin.laneQ.length = 1 ∧
    (((queued acc false).drum 1).skin.laneQ.all fun r => decide (r.step.n ≤ 1024) && !r.step.bell) = true := by
  intro acc h
  fin_cases h <;> exact ⟨kept_of (by decide +kernel), rest_of (by decide +kernel), by decide +kernel⟩
theorem test_wit_dequantiseFirstRow : (queued 2#2 false 2).Kept ∧ ((queued 2#2 false 2).drum 1).unitsRest ∧
    (((queued 2#2 false 2).drum 1).skin.laneQ.all fun r => decide (r.step.n ≤ 1024) && r.step.bell &&
      decide (r.m + 1 ≠ r.step.m)) = true ∧ ((queued 2#2 false 2).drum 1).shell.leaves = [] :=
  ⟨kept_of (by decide +kernel), rest_of (by decide +kernel), by decide +kernel⟩
theorem test_wit_dequantiseBell : ∀ held ∈ [false, true], (queued 2#2 held).Kept ∧ ((queued 2#2 held).drum 1).unitsRest ∧
    ((queued 2#2 held).drum 1).skin.laneQ.length = 1 ∧
    (((queued 2#2 held).drum 1).skin.laneQ.all fun r => decide (r.step.n ≤ 1024) && r.step.bell &&
      decide (r.m + 1 = r.step.m) && ((queued 2#2 held).drum 1).shell.leaves.any (fun l => l.rd == r.step.rd) == held) = true := by
  intro held h
  fin_cases h <;> exact ⟨kept_of (by decide +kernel), rest_of (by decide +kernel), by decide +kernel⟩

/-- A leaf is done: an even one of a block of two, or the only one of a block that receives and sends nothing. -/
def leafAt (last : Bool) : State := at_ endWord fun x =>
  { x with shell := { x.shell with
      rows := putCell 0#32 [] 0 0x3F800000
      descs := [(0, { Desc.reset with valid := true, bell := true, blk := if last then 0 else 1, ktot := 2 ^ 24 })]
      blocks := [(0, { Stack.reset with started := true, ended := last, m := 1, n := 16, next := 1 })]
      leaves := [⟨0, 0, last, 0⟩] } }
theorem test_wit_leafDone : ∀ last ∈ [false, true], (leafAt last).Kept ∧
    ((leafAt last).drum 1).unitsRest ∧ ((leafAt last).drum 1).shell.leaves = [⟨0, 0, last, 0⟩] ∧ (((leafAt last).drum 1).stack 0).n ≤ 1024 ∧
    ((leafAt last).drum 1).desc 0 = { Desc.reset with valid := true, bell := true, blk := if last then 0 else 1, ktot := 2 ^ 24 } ∧
    (0 - (((leafAt last).drum 1).desc 0).kbase) % 2 = 0 ∧ (((leafAt last).drum 1).stack 0).misaligned = false := by
  intro last h
  fin_cases h <;> exact ⟨kept_of (by decide +kernel), rest_of (by decide +kernel), by decide +kernel⟩

/-! ## Witnesses: packets, pads and claims -/

/-- A packet of this part's logical drum 2, from drum 3 to drum 1. -/
def packet (j : Half) (body : Body) : Packet :=
  { src := 3, dst := 1, job := some j, group := 0, from_ := ⟨0, 0, 0⟩, fromDrum := 2, body := body }
def nodePk (j : Half) : Packet := packet j (.node 7 0 1 16 0 0 [(0, 0x3F800000)])
/-- A node for descriptor 0 (RID 7) of job 0, whose block has started and receives at level 0. -/
def nodes (j : Half) (rid : Nat) : State :=
  { (at_ endWord fun x => { x with shell := { x.shell with
      descs := [(0, { Desc.reset with valid := true, bell := true, ktot := 2, rxmask := 1, rid := rid })]
      blocks := [(0, { Stack.reset with started := true, m := 1, n := 16, next := 1 })] } }) with noc := [nodePk j] }
theorem test_wit_node : (nodes 0 7).Kept ∧ ((nodes 0 7).drum 1).unitsRest ∧ (nodes 0 7).stationFull 1 = false ∧
    takePacket (fun p => p.src == 3 && p.dst == 1) (nodes 0 7).noc = some (nodePk 0, []) ∧
    ((nodePk 0).job.bind (nodes 0 7).job?).isSome = true ∧
    ((nodes 0 7).drum 1).seq.run.map (·.job) = (nodePk 0).job ∧ findRid ((nodes 0 7).drum 1).shell.descs 7 = some 0 ∧
    (((nodes 0 7).drum 1).stack 0).takes (((nodes 0 7).drum 1).desc 0) 0 1 16 0 = true ∧
    (((nodes 0 7).drum 1).stack 0).started = true ∧ (((nodes 0 7).drum 1).stack 0).climb = none ∧
    (((nodes 0 7).drum 1).stack 0).n ≤ 1024 :=
  ⟨kept_of (by decide +kernel), rest_of (by decide +kernel), by decide +kernel, by decide +kernel⟩
theorem test_wit_nodeHeld : (nodes 0 8).Kept ∧ ((nodes 0 8).drum 1).unitsRest ∧ (nodes 0 8).stationFull 1 = false ∧
    takePacket (fun p => p.src == 3 && p.dst == 1) (nodes 0 8).noc = some (nodePk 0, []) ∧
    ((nodePk 0).job.bind (nodes 0 8).job?).isSome = true ∧ ((nodes 0 8).drum 1).saved = none ∧
    findRid ((nodes 0 8).drum 1).shell.descs 7 = none :=
  ⟨kept_of (by decide +kernel), rest_of (by decide +kernel), by decide +kernel⟩
theorem test_wit_nodeDiscarded : (nodes 9 7).Kept ∧ ((nodes 9 7).drum 1).unitsRest ∧ (nodes 9 7).stationFull 1 = false ∧
    takePacket (fun p => p.src == 3 && p.dst == 1) (nodes 9 7).noc = some (nodePk 9, []) ∧
    ((nodePk 9).job.bind (nodes 9 7).job?).isSome = false :=
  ⟨kept_of (by decide +kernel), rest_of (by decide +kernel), by decide +kernel⟩

def statsPk : Packet := { packet 0 (.stats 4 1 16 0 7 [0x40000000] [0xC0000000]) with span := (8, 9) }
/-- The last of the nodes that the statistics answer; one of an earlier reduction went the same way. -/
def answered : SentNode := ⟨9, 0, ⟨0, 0, 0⟩, 2, 7, 5, []⟩
/-- Drum 1 sent the node that the statistics answer, and holds a valid record 4 of job 0, or it did not send one. -/
def statsAt (sent : Bool) : State :=
  { (at_ endWord fun x => { x with
      tuner := { x.tuner with recs := [(4, ⟨putBytes [] 0 [1#8], some 0⟩)] }
      shell := { x.shell with sent := { answered with serial := 7 } :: if sent then [answered] else [] } }) with noc := [statsPk] }
theorem test_wit_stats : ∀ sent ∈ [false, true], (statsAt sent).Kept ∧ (statsAt sent).stationFull 1 = false ∧
    takePacket (fun p => p.src == 3 && p.dst == 1) (statsAt sent).noc = some (statsPk, []) ∧
    (((statsAt sent).drum 1).shell.sent.filter (·.answers statsPk 7)) = (if sent then [answered] else []) ∧ statsPk.job = some 0 ∧ 3 ≠ 1 ∧
    (((statsAt sent).drum 1).tuner.foldTree 0 4 1 16 0 ([0x40000000#32].zip [0xC0000000#32])).isSome = true := by
  intro sent h
  fin_cases h <;> exact ⟨kept_of (by decide +kernel), by decide +kernel⟩

def sendPk0 : Packet := packet 0 (.send ⟨3, 9, 0⟩ 0x100 3 [1, 2, 3])
/-- A SEND for the slot of job 0 in a given state. -/
def sends (st : SlotState) : State :=
  { (at_ endWord fun x => { x with pad := { x.pad with slots := x.pad.slots.set 0 { slot0 with state := st } } }) with
    noc := [sendPk0] }
/-- The same SEND from drum 71, of the other die. -/
def crossing : State := { sends .bound with noc := [{ sendPk0 with src := 71 }] }
theorem test_wit_lost : ∀ p ∈ [(3, sends .bound), (71, crossing)], p.2.Kept ∧ p.2.stationFull 1 = false ∧
    takePacket (fun k => k.src == p.1 && k.dst == 1) p.2.noc = some ({ sendPk0 with src := p.1 }, []) ∧
    (p.2.fault 1).valid = false ∧ (p.2.fault 0x170).valid = false := by
  intro p h
  fin_cases h <;> exact ⟨kept_of (by decide +kernel), by decide +kernel⟩
theorem test_bridges : bridgesOf 3 1 = [] ∧ bridgesOf 71 1 = [4, 0] ∧ bridgesOf 136 67 = [3] := by decide +kernel
theorem test_wit_sendWrites : (sends .bound).Kept ∧ (sends .bound).stationFull 1 = false ∧
    takePacket (fun p => p.src == 3 && p.dst == 1) (sends .bound).noc = some (sendPk0, []) ∧
    sendPk0.from_ = (sends .bound).pcie.coord ∧
    ((sends .bound).drum 1).pad.jobSlot sendPk0.job (· == .bound) = some slot0 ∧ slot0.accepts 0x100 3 3 = true ∧
    ((sends .bound).drum 1).pad.asleep (slot0.start + 0x100) 3 = false ∧
    ((sends .bound).drum 1).pad.tally (slot0.tbase + 3) ≠ 0xFFFFFFFF :=
  ⟨kept_of (by decide +kernel), by decide +kernel⟩
def asleepSend : State :=
  { (at_ endWord fun x => { x with pad := { x.pad with banks := putCell Bank.awake [] 16 .gated } }) with noc := [sendPk0] }
theorem test_wit_sendAsleep : asleepSend.Kept ∧ asleepSend.stationFull 1 = false ∧ takePacket (fun p => p.src == 3 && p.dst == 1) asleepSend.noc = some (sendPk0, []) ∧
    sendPk0.from_ = asleepSend.pcie.coord ∧ (asleepSend.drum 1).pad.jobSlot sendPk0.job (· == .bound) = some slot0 ∧
    slot0.accepts 0x100 3 3 = true ∧ (asleepSend.drum 1).pad.asleep (slot0.start + 0x100) 3 = true :=
  ⟨kept_of (by decide +kernel), by decide +kernel⟩
theorem test_wit_sendDiscarded : ∀ st ∈ [SlotState.damp, .purge, .free], (sends st).Kept ∧ (sends st).stationFull 1 = false ∧
    takePacket (fun p => p.src == 3 && p.dst == 1) (sends st).noc = some (sendPk0, []) ∧
    sendPk0.from_ = (sends st).pcie.coord ∧ ((sends st).drum 1).pad.jobSlot sendPk0.job (· == .bound) = none ∧
    (((sends st).drum 1).pad.jobSlot sendPk0.job (fun st => st == .damp || st == .purge)).isSome = decide (st ≠ .free) := by
  intro st h
  fin_cases h <;> exact ⟨kept_of (by decide +kernel), by decide +kernel⟩

def ackPk (ok : Bool) : Packet := packet 0 (.ack ⟨1, 0, 2⟩ ok)
def acks (ok : Bool) : State :=
  { (at_ endWord fun x => { x with seq := { x.seq with outstanding := [⟨1, 0, 2⟩, ⟨1, 0, 5⟩] } }) with noc := [ackPk ok] }
theorem test_wit_sendAck : ∀ ok ∈ [false, true], (acks ok).Kept ∧ (acks ok).stationFull 1 = false ∧
    takePacket (fun p => p.src == 3 && p.dst == 1) (acks ok).noc = some (ackPk ok, []) ∧
    ((acks ok).drum 1).seq.outstanding.any (SendId.answers ⟨1, 0, 2⟩) = true ∧
    ((acks ok).drum 1).seq.run = some ⟨0, 0, 0⟩ ∧ ((acks ok).fault 1).valid = false := by
  intro ok h
  fin_cases h <;> exact ⟨kept_of (by decide +kernel), by decide +kernel⟩

/-- Gating is on after 1 us (320 ac); bank 63 is awake or waking and was last touched, or began to wake, at a beat. -/
def banks (b : Bank) (at0 : Nat) : State := at_ endWord fun x =>
  { x with pad := { x.pad with idle := 1, banks := putCell Bank.awake [] 63 b, touched := putCell 0 [] 63 (BitVec.ofNat 64 at0)
                               wakes := putCell 0 [] 63 (BitVec.ofNat 64 at0) } }
theorem test_wit_padEvents : ∀ p ∈ [(Bank.awake, 680), (.awake, 681), (.waking, 360)], (banks p.1 p.2).Kept ∧
    (banks p.1 p.2).leaving = [] ∧ ((banks p.1 p.2).drum 1).seq.run = some ⟨0, 0, 0⟩ ∧
    ((banks p.1 p.2).fault 1).valid = false ∧ ((banks p.1 p.2).drum 1).pad.idle ≠ 0 ∧
    ((banks p.1 p.2).drum 1).pad.saveEn = false ∧ getCell Bank.awake ((banks p.1 p.2).drum 1).pad.banks 63 = p.1 ∧
    ((banks p.1 p.2).drum 1).skinReader (16 * 7) = none ∧ ((banks p.1 p.2).drum 1).rowReader (16 * 7) = none ∧
    ((getCell 0#64 ((banks p.1 p.2).drum 1).pad.touched 63).toNat + 320 * ((banks p.1 p.2).drum 1).pad.idle.toNat ≤
      (banks p.1 p.2).beat.toNat ↔ p.2 ≤ 680) ∧
    ((getCell 0#64 ((banks p.1 p.2).drum 1).pad.wakes 63).toNat + 640 ≤ (banks p.1 p.2).beat.toNat ↔ p.2 ≤ 360) ∧
    ((banks p.1 p.2).drum 1).pad.eject = [] := by
  intro p h
  fin_cases h <;> exact ⟨kept_of (by decide +kernel), by decide +kernel⟩

/-- No ring's head waits; the job's slot is in a given state, and so is a dirty save area. -/
theorem test_wit_slots : ∀ st ∈ [SlotState.damp, .purge, .held], (sends st).Kept ∧
    (sends st).rings.all (fun p => p.2.head.isNone) = true ∧
    ((sends st).drum 1).pad.slots[0]? = some { slot0 with state := st } ∧ (sends st).boot.bar0 = true ∧
    (sends st).boot.mode ≠ 2 := by
  intro st h
  fin_cases h <;> exact ⟨kept_of (by decide +kernel), by decide +kernel⟩
def dirty (on : Bool) : State :=
  { base with drums := base.drums.set 1 { Drum.factory 1 with liveHeld := some on, pad := { Pad.reset with saveDirty := true } } }
theorem test_wit_reserve : ∀ on ∈ [false, true], (dirty on).Kept ∧ (dirty on).rings.all (fun p => p.2.head.isNone) = true ∧
    ((dirty on).drum 1).pad.saveDirty = true ∧ (dirty on).physOf 0 = some 1 ∧ ((dirty on).drum 1).liveHeld = some on ∧
    ((dirty on).drum 1).hasJob = false := by
  intro on h
  fin_cases h <;> exact ⟨kept_of (by decide +kernel), by decide +kernel⟩
def reserveWaits : State := at_ endWord fun x => { x with liveHeld := some true }
theorem test_wit_reserveWaits : reserveWaits.Kept ∧ reserveWaits.rings.all (fun p => p.2.head.isNone) = true ∧
    reserveWaits.physOf 0 = some 1 ∧ (reserveWaits.drum 1).liveHeld = some true ∧ (reserveWaits.drum 1).hasJob = true :=
  ⟨kept_of (by decide +kernel), by decide +kernel⟩

/-- Drum 1 waits for claim 2 of task 0 with 3 tiles: the counter stands at n, its stored answer is p, and f tries failed. -/
def claims (n f : Nat) (p : Nat × Nat) : State :=
  let s := at_ endWord fun x => { x with seq := x.seq.stop, claim := some ⟨0, 0, 2, f⟩ }
  { s with met := { s.met with jobs := [job (drumTask 1 3)], counters := [⟨0, 0, n, putCell (0, 0) [] 0 p⟩] } }
theorem test_wit_claims : ∀ a ∈ [(2, 0, (2, 1)), (3, 0, (2, 1)), (4, 3, (3, 3))],
    (claims a.1 a.2.1 a.2.2).Kept ∧ ((claims a.1 a.2.1 a.2.2).drum 1).claim = some ⟨0, 0, 2, a.2.1⟩ ∧
    (claims a.1 a.2.1 a.2.2).counter? 0 0 = some ⟨0, 0, a.1, putCell (0, 0) [] 0 a.2.2⟩ ∧
    ((claims a.1 a.2.1 a.2.2).task? 0 0).map (·.trec.body) = some (.drum 1 0 1 3 0) ∧
    ((claims a.1 a.2.1 a.2.2).drum 1).preempting = none ∧ ((claims a.1 a.2.1 a.2.2).drum 1).shell.clearing = false ∧
    getCell (0, 0) (putCell (0, 0) [] 0 a.2.2) ((claims a.1 a.2.1 a.2.2).drum 1).logical.toNat = a.2.2 ∧
    ((claims a.1 a.2.1 a.2.2).drum 1).pad.held = [] ∧ ((claims a.1 a.2.1 a.2.2).fault 1).valid = false ∧
    ((claims a.1 a.2.1 a.2.2).fault 0x141).valid = false := by
  intro a h
  fin_cases h <;> exact ⟨kept_of (by decide +kernel), by decide +kernel⟩

/-- The task of the claim has faulted. -/
def claimFaulted : State :=
  let s := claims 2 0 (2, 1)
  { s with met := { s.met with jobs := s.met.jobs.map fun j => { j with tasks := j.tasks.map fun t => { t with code := .faulted } } } }
theorem test_wit_claimFaulted : claimFaulted.Kept ∧ (claimFaulted.drum 1).claim = some ⟨0, 0, 2, 0⟩ ∧
    claimFaulted.counter? 0 0 = some ⟨0, 0, 2, putCell (0, 0) [] 0 (2, 1)⟩ ∧
    (claimFaulted.task? 0 0).map (·.trec.body) = some (.drum 1 0 1 3 0) ∧
    (claimFaulted.task? 0 0).map (·.code.good) = some false ∧
    (claimFaulted.drum 1).preempting = none ∧ (claimFaulted.drum 1).shell.clearing = false :=
  ⟨kept_of (by decide +kernel), by decide +kernel⟩


/-! ## Witnesses: the tuner -/

def bytesAt (l : List (Nat × List Byte)) (x : Drum) : Drum :=
  { x with pad := { x.pad with mem := l.foldl (fun m p => putBytes m p.1 p.2) x.pad.mem } }
def withRec (x : Drum) : Drum := { x with tuner := { x.tuner with recs := [(31, ⟨putBytes [] 0 [1#8], some 0⟩)] } }
/-- The task of the drum runs on two drums. -/
def onTwo (s : State) : State :=
  { s with met := { s.met with jobs := [job { drumTask 1 0 with body := .drum 3 0 1 0 0 }] } }

/-- TUNE on one row of 32 elements, source at 16,384, destination at 32,768, scale block at 49,152. -/
def tune (op sfmt dfmt : Nat) (more : List (Nat × Nat)) : Quad :=
  word ([(120, 0x20), (116, op), (112, sfmt), (108, dfmt), (93, 1), (82, 32), (73, 31), (41, 16), (29, 32), (17, 48)] ++ more)

/-- Every operation's word finds the drum's units still and meets no fault. -/
def TuneOk (s : State) (w : Quad) : Prop :=
  (s.drum 1).still ∧ opcode w = 0x20 ∧ (s.drum 1).seq.run = some ⟨0, 0, 0⟩ ∧ (tuneW w).rsv = false ∧
    (s.drum 1).shell.openRow (tuneW w).rowsRead = false ∧ (tuneW w).faults s 1 ⟨0, 0, 0⟩ = []
theorem tuneOk_of {s : State} {w : Quad}
    (h : ((s.drum 1).skin.jobs = [] ∧ (s.drum 1).skin.load = none ∧ (s.drum 1).skin.cur = none ∧ (s.drum 1).skin.laneQ = [] ∧
      (s.drum 1).shell.leaves = [] ∧ (s.drum 1).queues = ⟨[], [], [], []⟩ ∧ (s.drum 1).roll.cur = none ∧
      (s.drum 1).tuner.cur = none ∧ (s.drum 1).tuner.share = none ∧ (s.drum 1).preempting = none ∧ (s.drum 1).pad.failed = []) ∧
      opcode w = 0x20 ∧ (s.drum 1).seq.run = some ⟨0, 0, 0⟩ ∧ (tuneW w).rsv = false ∧
      (s.drum 1).shell.openRow (tuneW w).rowsRead = false ∧ (tuneW w).faults s 1 ⟨0, 0, 0⟩ = []) : TuneOk s w :=
  ⟨still_of h.1, h.2⟩

def convert1 : Quad := tune 2 0xD 0xE []
theorem test_wit_convert : (at_ convert1).offers 1 convert1 ∧ TuneOk (at_ convert1) convert1 ∧ (tuneW convert1).op = 2 ∧
    (tuneW convert1).m = 1 ∧ (tuneW convert1).n ≠ 0 ∧ tfmt (tuneW convert1).sfmt = some .bf ∧
    tfmt (tuneW convert1).dfmt = some .f32 ∧ TFmt.f32.float? = some fp32 :=
  ⟨offers_of (by decide +kernel), tuneOk_of (by decide +kernel), by decide +kernel⟩

/-- NARROW of BF16 to signed int4 codes under a scale of the row itself. -/
def narrow1 : Quad := tune 0 0xD 4 [(107, 1), (102, 1), (78, 2)]
theorem test_wit_narrow : (at_ narrow1).offers 1 narrow1 ∧ TuneOk (at_ narrow1) narrow1 ∧ (tuneW narrow1).op = 0 ∧
    (tuneW narrow1).m = 1 ∧ (tuneW narrow1).n ≠ 0 ∧ (tuneW narrow1).sclOut = false ∧ (tuneW narrow1).smode ≠ 3 ∧
    tfmt (tuneW narrow1).sfmt = some .bf ∧ tfmt (tuneW narrow1).dfmt = some (.int 4) ∧
    (∀ g, g < (tuneW narrow1).groups → (((at_ narrow1).drum 1).narrowScale (tuneW narrow1) (.int 4)
      (((at_ narrow1).drum 1).sharedScales (tuneW narrow1) (.int 4)) (((at_ narrow1).drum 1).wideRow (tuneW narrow1) .bf 0) 0 g).isSome = true) :=
  ⟨offers_of (by decide +kernel), tuneOk_of (by decide +kernel), by decide +kernel⟩
def narrowBlock : Quad := tune 0 0xD 4 [(107, 1), (102, 1), (78, 3)]
def blockAt (sc : Half) : Drum → Drum := bytesAt [(49152, [0x40, 0, 1, 0]), (49152 + 16, leBytes 2 sc.toNat)]
theorem test_wit_narrowBlock : let s := at_ narrowBlock (blockAt 0x3F80)
    s.offers 1 narrowBlock ∧ TuneOk s narrowBlock ∧ (tuneW narrowBlock).smode = 3 ∧
    ((s.drum 1).sclHdr (tuneW narrowBlock).scl).ok = true ∧ ((s.drum 1).sclHdr (tuneW narrowBlock).scl).kind = 1 ∧
    1 ≤ ((s.drum 1).sclHdr (tuneW narrowBlock).scl).count ∧
    ((s.drum 1).sclHdr (tuneW narrowBlock).scl).group = (tuneW narrowBlock).group ∧
    ((s.drum 1).sclHdr (tuneW narrowBlock).scl).zp = (tuneW narrowBlock).zp ∧
    (∀ g, g < (tuneW narrowBlock).groups → ((s.drum 1).narrowScale (tuneW narrowBlock) (.int 4)
      ((s.drum 1).sharedScales (tuneW narrowBlock) (.int 4)) ((s.drum 1).wideRow (tuneW narrowBlock) .bf 0) 0 g).isSome = true) :=
  ⟨offers_of (by decide +kernel), tuneOk_of (by decide +kernel), by decide +kernel⟩

/-- What a conversion reads lies apart from what it writes, and its scale block fits it, with legal scales. -/
def apart (s : State) (w : Quad) : Bool :=
  (tuneW w).writeRanges.all fun a => ((tuneW w).readRanges (s.drum 1)).all fun b => !a.meets b
def BlockLegal (s : State) (w : Quad) : Prop := (tuneW w).hdrBad (s.drum 1) = false ∧
  ∀ m g, m < (tuneW w).m → g < (tuneW w).groups → scaleLegal ((((s.drum 1).blockRow (tuneW w).scl m)[g]?).getD 0#16) = true
theorem blockLegal_of {s : State} {w : Quad} (h : (tuneW w).hdrBad (s.drum 1) = false ∧
    ∀ m, m < (tuneW w).m → ∀ g, g < (tuneW w).groups → scaleLegal ((((s.drum 1).blockRow (tuneW w).scl m)[g]?).getD 0#16) = true) :
    BlockLegal s w := ⟨h.1, fun m g hm hg => h.2 m hm g hg⟩
theorem test_wit_narrowBlockCounts : (tuneW narrowBlock).m ≠ 0 ∧ (tuneW narrowBlock).n ≠ 0 ∧
    apart (at_ narrowBlock (blockAt 0x3F80)) narrowBlock = true ∧ BlockLegal (at_ narrowBlock (blockAt 0x3F80)) narrowBlock :=
  ⟨by decide +kernel, by decide +kernel, by decide +kernel, blockLegal_of (by decide +kernel)⟩
def widen1 : Quad := tune 1 4 0xE [(107, 1), (104, 1)]
theorem test_wit_widen : ∀ sc ∈ [0x3F80#16, 0xBF80#16], (at_ widen1 (blockAt sc)).offers 1 widen1 ∧
    TuneOk (at_ widen1 (blockAt sc)) widen1 ∧ (tuneW widen1).op = 1 ∧ (tuneW widen1).m = 1 ∧ (tuneW widen1).n ≠ 0 ∧
    tfmt (tuneW widen1).sfmt = some (.int 4) ∧ tfmt (tuneW widen1).dfmt = some .f32 ∧ (tuneW widen1).slay ≠ 3 ∧
    (((at_ widen1 (blockAt sc)).drum 1).sclHdr (tuneW widen1).scl).ok = true ∧
    (((at_ widen1 (blockAt sc)).drum 1).sclHdr (tuneW widen1).scl).kind = 1 ∧
    (((at_ widen1 (blockAt sc)).drum 1).sclHdr (tuneW widen1).scl).count = 1 ∧
    (((at_ widen1 (blockAt sc)).drum 1).sclHdr (tuneW widen1).scl).group = (tuneW widen1).group ∧
    (((at_ widen1 (blockAt sc)).drum 1).sclHdr (tuneW widen1).scl).zp = (tuneW widen1).zp ∧
    (∀ g, g < (tuneW widen1).groups →
      scaleLegal (((((at_ widen1 (blockAt sc)).drum 1).blockRow (tuneW widen1).scl 0)[g]?).getD 0#16) = decide (sc = 0x3F80)) ∧
    ((at_ widen1 (blockAt sc)).fault 1).valid = false := by
  intro sc h
  fin_cases h <;> exact ⟨offers_of (by decide +kernel), tuneOk_of (by decide +kernel), by decide +kernel⟩
theorem test_wit_widenCounts : apart (at_ widen1 (blockAt 0x3F80)) widen1 = true ∧ BlockLegal (at_ widen1 (blockAt 0x3F80)) widen1 :=
  ⟨by decide +kernel, blockLegal_of (by decide +kernel)⟩
/-- A WIDEN of a row that carries its own scale. -/
def widenRow : Quad := widen1 + word [(104, 2)]
theorem test_wit_widenRow : let s := at_ widenRow (bytesAt [(16384, List.replicate 64 0 ++ leBytes 2 0x3F80)])
    s.offers 1 widenRow ∧ TuneOk s widenRow ∧ (tuneW widenRow).op = 1 ∧ tfmt (tuneW widenRow).sfmt = some (.int 4) ∧
    (tuneW widenRow).slay = 3 ∧ apart s widenRow = true ∧
    ∀ g, g < (tuneW widenRow).groups → scaleLegal (rowScaleAt (.int 4) ((s.drum 1).padBytes
      (rowOff (tuneW widenRow).src 3 (.int 4) (tuneW widenRow).zp (tuneW widenRow).sstride 0)
      (rowBytes 3 (.int 4) (tuneW widenRow).zp (tuneW widenRow).n)) (tuneW widenRow).n g) = true :=
  ⟨offers_of (by decide +kernel), tuneOk_of (by decide +kernel), by decide +kernel⟩
def widen0 : Quad := tune 1 4 0xE [(107, 1), (104, 1)] - word [(93, 1)]
theorem test_wit_widenNothing : (at_ widen0).offers 1 widen0 ∧ TuneOk (at_ widen0) widen0 ∧ (tuneW widen0).op = 1 ∧
    (tuneW widen0).m = 0 :=
  ⟨offers_of (by decide +kernel), tuneOk_of (by decide +kernel), by decide +kernel⟩

def close1 (share : Nat) : Quad := tune 4 0 0 [(54, share)]
def amax1 (share : Nat) : Quad := tune 3 0xD 0 [(72, 1), (54, share)]
theorem test_wit_amax : ∀ b ∈ [0, 1], (onTwo (at_ (amax1 b) withRec)).offers 1 (amax1 b) ∧ TuneOk (onTwo (at_ (amax1 b) withRec)) (amax1 b) ∧
    (tuneW (amax1 b)).op = 3 ∧ (tuneW (amax1 b)).share = decide (b = 1) ∧ (tuneW (amax1 b)).m ≠ 0 ∧
    (tuneW (amax1 b)).n ≠ 0 ∧ tfmt (tuneW (amax1 b)).sfmt = some .bf := by
  intro b h
  fin_cases h <;> exact ⟨offers_of (by decide +kernel), tuneOk_of (by decide +kernel), by decide +kernel⟩
/-- A CLOSE that is shared under its own bit, or under the record's. -/
def sharedRec (x : Drum) : Drum :=
  { x with tuner := { x.tuner with recs := [(31, ⟨putBytes [] 0 [9#8], some 0⟩)] } }
theorem test_wit_closeRecord : (onTwo (at_ (close1 0) sharedRec)).offers 1 (close1 0) ∧
    TuneOk (onTwo (at_ (close1 0) sharedRec)) (close1 0) ∧ (tuneW (close1 0)).op = 4 ∧ (tuneW (close1 0)).share = false ∧
    ((((onTwo (at_ (close1 0) sharedRec)).drum 1).tuner.recAt (tuneW (close1 0)).qid).shares &&
      decide (1 < drumSet (onTwo (at_ (close1 0) sharedRec)) ⟨0, 0, 0⟩)) = true :=
  ⟨offers_of (by decide +kernel), tuneOk_of (by decide +kernel), by decide +kernel⟩
theorem test_wit_close : ∀ b ∈ [0, 1], (onTwo (at_ (close1 b) withRec)).offers 1 (close1 b) ∧
    TuneOk (onTwo (at_ (close1 b) withRec)) (close1 b) ∧ (tuneW (close1 b)).op = 4 ∧
    (tuneW (close1 b)).share = decide (b = 1) := by
  intro b h
  fin_cases h <;> exact ⟨offers_of (by decide +kernel), tuneOk_of (by decide +kernel), by decide +kernel⟩
def shareWait : ShareWait := ⟨true, 31, 0, ⟨0, 256, close1 1, true, false⟩, true⟩
/-- Drum 1 waits for a shared CLOSE of two drums, of which n have offered. -/
def shares (n : Nat) : State :=
  let s := onTwo (at_ endWord fun x => { withRec x with tuner := { (withRec x).tuner with share := some shareWait } })
  { s with met := { s.met with shares := (List.range n).map fun l => ⟨0, 0, 0, true, l, [], [], 0, 0, false⟩ } }
theorem test_wit_share : ∀ n ∈ [1, 2], (shares n).Kept ∧ ((shares n).drum 1).tuner.share = some shareWait ∧
    ((shares n).drum 1).seq.run = some ⟨0, 0, 0⟩ ∧ ((shares n).drum 1).unitsRest ∧
    ((shares n).met.shares.filter fun e => e.job == 0 && e.task == 0 && e.ord == 0 && e.close == true).length = n ∧
    drumSet (shares n) ⟨0, 0, 0⟩ = 2 := by
  intro n h
  fin_cases h <;> exact ⟨kept_of (by decide +kernel), by decide +kernel, by decide +kernel, rest_of (by decide +kernel),
    by decide +kernel⟩

theorem getCell_out {α : Type} {d : α} {a : Nat} : ∀ {c : Cells α}, (∀ p ∈ c, p.1 < a) → getCell d c a = d
  | [], _ => rfl
  | (k, v) :: r, h => by
    have hk : k < a := h (k, v) (by simp)
    have : k ≠ a := by omega
    simp only [getCell, this, if_false]
    exact getCell_out fun p hp => h p (by simp [hp])
theorem getBytes_out {m : Memory} : ∀ (n : Nat) {a : Nat}, (∀ p ∈ m, p.1 < a) → getBytes m a n = List.replicate n 0
  | 0, _, _ => rfl
  | n + 1, a, h => by
    have e : getByte m a = 0 := getCell_out h
    have r := getBytes_out n (a := a + 1) fun p hp => by have := h p hp; omega
    simp only [getBytes, e, r, List.replicate_succ]
theorem putBytes_zeros : ∀ (n a : Nat), putBytes [] a (List.replicate n 0) = []
  | 0, _ => rfl
  | n + 1, a => by simpa [List.replicate_succ, putBytes, putByte, putCell, blankByte] using putBytes_zeros n (a + 1)

def ldscale1 : Quad := tune 5 0 0 []
def fileBlock : Drum → Drum := bytesAt [(49152, [0x00, 2, 0, 4])]
theorem test_wit_ldscaleFile : (at_ ldscale1 fileBlock).offers 1 ldscale1 ∧ TuneOk (at_ ldscale1 fileBlock) ldscale1 ∧
    (tuneW ldscale1).op = 5 ∧ (((at_ ldscale1 fileBlock).drum 1).sclHdr (tuneW ldscale1).scl).kind = 0 ∧
    (((at_ ldscale1 fileBlock).drum 1).readFile (tuneW ldscale1).scl).isSome = true := by
  refine ⟨offers_of (by decide +kernel), tuneOk_of (by decide +kernel), by decide +kernel, by decide +kernel, ?_⟩
  have hm : (((at_ ldscale1 fileBlock).drum 1).pad.mem.all fun p =>
      decide (p.1 < ((at_ ldscale1 fileBlock).drum 1).abs ((tuneW ldscale1).scl + 16))) = true := by decide +kernel
  have hh : ∀ i, halfAt ((at_ ldscale1 fileBlock).drum 1) ((tuneW ldscale1).scl + 16 + 2 * i) = 0#16 := fun i => by
    have h := getBytes_out (m := ((at_ ldscale1 fileBlock).drum 1).pad.mem) 2
      (a := ((at_ ldscale1 fileBlock).drum 1).abs ((tuneW ldscale1).scl + 16 + 2 * i)) fun p hp => by
        have h := of_decide_eq_true (List.all_eq_true.mp hm p hp)
        simp only [Drum.abs] at h ⊢
        omega
    rw [halfAt, Drum.padNat, getNat, h]
    decide
  have hk : (((at_ ldscale1 fileBlock).drum 1).sclHdr (tuneW ldscale1).scl).ok = true ∧
      (((at_ ldscale1 fileBlock).drum 1).sclHdr (tuneW ldscale1).scl).kind == 0 := by decide +kernel
  have hz : scaleLegal 0#16 = true := by decide +kernel
  rw [Drum.readFile, if_pos (by simp only [hh, hk.1, hk.2, Bool.and_self, Bool.true_and]; exact List.all_eq_true.mpr fun _ _ => hz)]
  rfl
theorem test_wit_ldscaleRows : let s := at_ ldscale1 (blockAt 0x3F80)
    s.offers 1 ldscale1 ∧ TuneOk s ldscale1 ∧ (tuneW ldscale1).op = 5 ∧
    ((s.drum 1).sclHdr (tuneW ldscale1).scl).kind ≠ 0 ∧
    (tuneW ldscale1).drow0 + ((s.drum 1).sclHdr (tuneW ldscale1).scl).count ≤ 256 ∧
    ((s.drum 1).readRows (tuneW ldscale1).scl (tuneW ldscale1).drow0 ((s.drum 1).sclHdr (tuneW ldscale1).scl).count).isSome =
      true :=
  ⟨offers_of (by decide +kernel), tuneOk_of (by decide +kernel), by decide +kernel⟩
theorem test_wit_stscaleQsave : ∀ op ∈ [6, 7], (at_ (tune op 0 0 [])).offers 1 (tune op 0 0 []) ∧
    TuneOk (at_ (tune op 0 0 [])) (tune op 0 0 []) ∧ (tuneW (tune op 0 0 [])).op = op ∧
    (tuneW (tune op 0 0 [])).m ≠ 0 := by
  intro op h
  fin_cases h <;> exact ⟨offers_of (by decide +kernel), tuneOk_of (by decide +kernel), by decide +kernel⟩
def qload1 : Quad := tune 8 0 0 []
theorem test_wit_qload : (at_ qload1).offers 1 qload1 ∧ TuneOk (at_ qload1) qload1 ∧ (tuneW qload1).op = 8 ∧
    QRec.loadFaults ⟨putBytes [] 0 (((at_ qload1).drum 1).padBytes (tuneW qload1).src 2368), some 0⟩ = [] := by
  refine ⟨offers_of (by decide +kernel), tuneOk_of (by decide +kernel), by decide +kernel, ?_⟩
  have hm : (((at_ qload1).drum 1).pad.mem.all fun p =>
      decide (p.1 < ((at_ qload1).drum 1).abs (tuneW qload1).src)) = true := by decide +kernel
  rw [Drum.padBytes, getBytes_out 2368 fun p hp => of_decide_eq_true (List.all_eq_true.mp hm p hp), putBytes_zeros]
  decide +kernel


def qsave1 : Quad := tune 7 0 0 []
theorem test_wit_qsaveParity : (at_ qsave1 withRec).offers 1 qsave1 ∧ TuneOk (at_ qsave1 withRec) qsave1 ∧
    (tuneW qsave1).op = 7 ∧ (((at_ qsave1 withRec).drum 1).tuner.recAt (tuneW qsave1).qid).valid = true :=
  ⟨offers_of (by decide +kernel), tuneOk_of (by decide +kernel), by decide +kernel⟩
/-! ## Witnesses: the roll unit and the tap -/

/-- A ROLL of one row of 16 elements, the last row of the shell. -/
def roll (func arg0 arg1 : Nat) (dsel : Bool) : Quad :=
  word [(120, 0x30), (112, func), (104, 255), (95, 1), (84, 16), (57, arg0), (41, arg1), (29, 16), (28, dsel.toNat), (16, 48)]
def RollOk (s : State) (w : Quad) : Prop :=
  s.Kept ∧ (s.drum 1).still ∧ opcode w = 0x30 ∧ (rollW w).instrBad = false ∧ (s.drum 1).shell.openRow ((rollW w).rowsFrom 0) = false ∧
    (rollW w).faults s 1 = [] ∧ (rollW w).m = 1 ∧ (rollW w).n ≠ 0 ∧ (rollW w).span = 1 ∧ (s.drum 1).seq.run = some ⟨0, 0, 0⟩ ∧
    (s.fault 1).valid = false
theorem rollOk_of {s : State} {w : Quad}
    (h : keptB s = true ∧ ((s.drum 1).skin.jobs = [] ∧ (s.drum 1).skin.load = none ∧ (s.drum 1).skin.cur = none ∧
      (s.drum 1).skin.laneQ = [] ∧ (s.drum 1).shell.leaves = [] ∧ (s.drum 1).queues = ⟨[], [], [], []⟩ ∧
      (s.drum 1).roll.cur = none ∧ (s.drum 1).tuner.cur = none ∧ (s.drum 1).tuner.share = none ∧
      (s.drum 1).preempting = none ∧ (s.drum 1).pad.failed = []) ∧ opcode w = 0x30 ∧ (rollW w).instrBad = false ∧ (s.drum 1).shell.openRow ((rollW w).rowsFrom 0) = false ∧
      (rollW w).faults s 1 = [] ∧ (rollW w).m = 1 ∧ (rollW w).n ≠ 0 ∧ (rollW w).span = 1 ∧ (s.drum 1).seq.run = some ⟨0, 0, 0⟩ ∧
      (s.fault 1).valid = false) : RollOk s w :=
  ⟨kept_of h.1, still_of h.2.1, h.2.2⟩
/-- The same drum in the live reserve: a class-0 task may preempt its run. -/
def inReserve (x : Drum) : Drum := { x with pad := { x.pad with saveEn := true } }
/-- An activation table of one segment of degree 0 from -1 to 1, at 16,384. -/
def table (func : Nat) : Drum → Drum :=
  bytesAt [(16384, [BitVec.ofNat 8 func, 0, 1, 0]), (16384 + 32, leBytes 4 0xBF800000 ++ leBytes 4 0x3F800000)]
theorem test_wit_rollRows : ∀ p ∈ [(0x02, 0), (0x10, 0x3F80), (0x20, 0), (0x21, 0)],
    (at_ (roll p.1 p.2 0 false)).offers 1 (roll p.1 p.2 0 false) ∧ RollOk (at_ (roll p.1 p.2 0 false)) (roll p.1 p.2 0 false) ∧
    ((at_ (roll p.1 p.2 0 false)).drum 1).preemptible = false ∧
    (rollW (roll p.1 p.2 0 false)).func = p.1 ∧ (rollW (roll p.1 p.2 0 false)).dsel = false := by
  intro p h
  fin_cases h <;> exact ⟨offers_of (by decide +kernel), rollOk_of (by decide +kernel), by decide +kernel⟩
theorem test_wit_rollTables : ∀ f ∈ [0x30, 0x31], (at_ (roll f 0 0 false) (table f)).offers 1 (roll f 0 0 false) ∧
    RollOk (at_ (roll f 0 0 false) (table f)) (roll f 0 0 false) ∧ (rollW (roll f 0 0 false)).func = f ∧
    (rollW (roll f 0 0 false)).dsel = false ∧
    ((at_ (roll f 0 0 false) (table f)).drum 1).preemptible = false ∧
    actBad (((at_ (roll f 0 0 false) (table f)).drum 1).padBytes (rollW (roll f 0 0 false)).aux 2368)
      (rollW (roll f 0 0 false)).func = false := by
  intro f h
  fin_cases h <;> exact ⟨offers_of (by decide +kernel), rollOk_of (by decide +kernel), by decide +kernel⟩
theorem test_wit_rollPreemptible : ∀ p ∈ [(0x02, 0), (0x10, 0x3F80), (0x20, 0), (0x21, 0)],
    (at_ (roll p.1 p.2 0 false) inReserve).offers 1 (roll p.1 p.2 0 false) ∧
    RollOk (at_ (roll p.1 p.2 0 false) inReserve) (roll p.1 p.2 0 false) ∧
    ((at_ (roll p.1 p.2 0 false) inReserve).drum 1).preemptible = true ∧ (rollW (roll p.1 p.2 0 false)).func = p.1 ∧
    (rollW (roll p.1 p.2 0 false)).dsel = false := by
  intro p h
  fin_cases h <;> exact ⟨offers_of (by decide +kernel), rollOk_of (by decide +kernel), by decide +kernel⟩
theorem test_wit_rollTablesPreemptible : ∀ f ∈ [0x30, 0x31],
    (at_ (roll f 0 0 false) (inReserve ∘ table f)).offers 1 (roll f 0 0 false) ∧
    RollOk (at_ (roll f 0 0 false) (inReserve ∘ table f)) (roll f 0 0 false) ∧
    ((at_ (roll f 0 0 false) (inReserve ∘ table f)).drum 1).preemptible = true ∧ (rollW (roll f 0 0 false)).func = f ∧
    actBad (((at_ (roll f 0 0 false) (inReserve ∘ table f)).drum 1).padBytes (rollW (roll f 0 0 false)).aux 2368)
      (rollW (roll f 0 0 false)).func = false := by
  intro f h
  fin_cases h <;> exact ⟨offers_of (by decide +kernel), rollOk_of (by decide +kernel), by decide +kernel⟩
/-- The SCALE of a run that may be preempted, under way. -/
def scaling : UnitJob := ⟨0, 256, roll 1 0x3F80 0 false, true, false⟩
def scales : State := at_ endWord fun x => { inReserve x with roll := { x.roll with cur := some scaling, row := 0 } }
theorem test_wit_rollTick : scales.Kept ∧ scales.pending = [] ∧ scales.power.locked = true ∧ scales.power.tripped = false ∧
    (∀ e, e ≠ 1 → (scales.drum e).hasWork = false) ∧ (∀ e, (scales.drum e).sound.failIn = 0) ∧ scales.met.moves = [] ∧ (∀ p ∈ scales.rings, p.2.out = []) ∧
    (∀ p ∈ scales.fab.ports, p.ingress = [] ∧ p.stuck = [0, 0, 0, 0, 0, 0, 0] ∧ p.starved = false ∧
      ∀ l ∈ p.rxPart, scales.transits l = false) ∧ (scales.drum 1).tuner.cur = none ∧ (scales.drum 1).pad.failed = [] ∧
    (scales.drum 1).roll.cur = some scaling ∧ (scales.drum 1).preemptible = true ∧ (scales.drum 1).preempting = none ∧
    (scales.drum 1).skin.jobs = [] ∧ (scales.drum 1).skin.load = none ∧ (scales.drum 1).skin.cur = none ∧
    (scales.drum 1).queues = ⟨[], [], [], []⟩ ∧ (scales.drum 1).rollRowHeld scaling = false ∧ (rollW scaling.w).func = 0x01 ∧
    (rollW scaling.w).dsel = false ∧ (rollW scaling.w).n ≤ 1024 ∧ (scales.drum 1).roll.row < (rollW scaling.w).m ∧
    (rollW scaling.w).span = 1 := by
  have h : (List.range 136).all (fun e => e == 1 || !(scales.drum e).hasWork) = true := by decide +kernel
  have h' : (List.range 136).all (fun e => (scales.drum e).sound.failIn == 0) = true := by decide +kernel
  have out (e : Nat) (hl : ¬ e < 136) : scales.drum e = Drum.factory 0 := by
    have hn : scales.drums.length = 136 := by decide +kernel
    rw [State.drum, List.getElem?_eq_none (by omega)]; rfl
  refine ⟨kept_of (by decide +kernel), by decide +kernel, by decide +kernel, by decide +kernel, fun e he => ?_, fun e => ?_, by decide +kernel⟩
  · by_cases hl : e < 136
    · simpa [he] using List.all_eq_true.mp h e (List.mem_range.mpr hl)
    · rw [out e hl]
      decide +kernel
  · by_cases hl : e < 136
    · simpa using List.all_eq_true.mp h' e (List.mem_range.mpr hl)
    · rw [out e hl]
      decide +kernel
theorem test_wit_rollScale : ∀ b ∈ [false, true], (at_ (roll 1 0x3F80 0 b)).offers 1 (roll 1 0x3F80 0 b) ∧
    RollOk (at_ (roll 1 0x3F80 0 b)) (roll 1 0x3F80 0 b) ∧ (rollW (roll 1 0x3F80 0 b)).func = 0x01 ∧
    ((at_ (roll 1 0x3F80 0 b)).drum 1).preemptible = false ∧
    (rollW (roll 1 0x3F80 0 b)).dsel = b := by
  intro b h
  fin_cases h <;> exact ⟨offers_of (by decide +kernel), rollOk_of (by decide +kernel), by decide +kernel⟩
/-- A table of rotations, its first entry finite or not. -/
def rotations (fin : Bool) : Drum → Drum := bytesAt [(16384, if fin then [0x80, 0x3F] else [0x80, 0x7F])]
theorem test_wit_rope : ∀ b ∈ [false, true], (at_ (roll 0x40 1 0 false) (rotations b)).offers 1 (roll 0x40 1 0 false) ∧
    RollOk (at_ (roll 0x40 1 0 false) (rotations b)) (roll 0x40 1 0 false) ∧ (rollW (roll 0x40 1 0 false)).func = 0x40 ∧
    ((at_ (roll 0x40 1 0 false) (rotations b)).drum 1).preemptible = false ∧
    (rollW (roll 0x40 1 0 false)).dsel = false ∧
    (((at_ (roll 0x40 1 0 false) (rotations b)).drum 1).ropeRow (rollW (roll 0x40 1 0 false)) 0
      (((at_ (roll 0x40 1 0 false) (rotations b)).drum 1).rollIn (rollW (roll 0x40 1 0 false)) 0)).isSome = b := by
  intro b h
  fin_cases h <;> exact ⟨offers_of (by decide +kernel), rollOk_of (by decide +kernel), by decide +kernel⟩
theorem test_wit_topk : (at_ (roll 0x50 16 0 true)).offers 1 (roll 0x50 16 0 true) ∧
    RollOk (at_ (roll 0x50 16 0 true)) (roll 0x50 16 0 true) ∧ (rollW (roll 0x50 16 0 true)).func = 0x50 ∧
    ((at_ (roll 0x50 16 0 true)).drum 1).preemptible = false :=
  ⟨offers_of (by decide +kernel), rollOk_of (by decide +kernel), by decide +kernel⟩

/-- A TAP of one row of 16 outputs by the threshold 0, its map at 16,384. -/
def tap1 : Quad := word [(120, 0x11), (111, 1), (100, 16), (89, 8), (81, 255), (73, 2), (33, 8)]
theorem test_wit_tap : (at_ tap1 armed).Kept ∧ (at_ tap1 armed).offers 1 tap1 ∧ ((at_ tap1 armed).drum 1).still ∧ opcode tap1 = 0x11 ∧
    (tapW tap1).sel ≠ 3 ∧ (tapW tap1).rsv = 0 ∧ (tapW tap1).faults (at_ tap1 armed) 1 = [] :=
  ⟨kept_of (by decide +kernel), offers_of (by decide +kernel), still_of (by decide +kernel), by decide +kernel⟩

/-- The CHECK of an open map of the last row, 1024 outputs, none kept, standing behind the replay position 255. -/
def check1 : Quad := word [(120, 0x11), (111, 1), (100, 1024), (81, 255), (69, 3), (33, 8)]
def checks (miss : Nat) : State := at_ check1 fun x =>
  { bytesAt [(16384 + 2048, (MapHdr.bytes ⟨true, false, 0, false, 255, 1, 1024, 0, 0, 0, x.tap.serial, 0, 255, 0⟩))] x with
    seq := { x.seq with miss := miss }, shell := x.shell.put 255 368 0x3F800000 }
theorem test_wit_check : ∀ n ∈ [0, 1, 3], (checks n).Kept ∧ (checks n).offers 1 check1 ∧ ((checks n).drum 1).still ∧
    opcode check1 = 0x11 ∧ (tapW check1).sel = 3 ∧ (tapW check1).rsv = 0 ∧
    ((checks n).drum 1).shell.openRow (rowMask (tapW check1).row0 (min 256 (tapW check1).m)) = false ∧
    ((checks n).drum 1).tap.replay = none ∧ (tapW check1).checkFaults (checks n) 1 ((checks n).drum 1).seq.pc = [] ∧
    (tapW check1).n ≤ 1024 ∧ ((checks n).drum 1).seq.miss = n ∧ ((checks n).drum 1).tap.mapTile (tapW check1).mout = none ∧
    0 < (((checks n).drum 1).auditRow (((checks n).drum 1).mapHdr (tapW check1).mout) 0 (tapW check1).mout
      (tapW check1).row0 0).1 ∧
    (tapW check1).m = 1 ∧ ((checks n).drum 1).seq.run = some ⟨0, 0, 0⟩ ∧ ((checks n).fault 1).valid = false := by
  intro n h
  fin_cases h <;> exact ⟨kept_of (by decide +kernel), offers_of (by decide +kernel), still_of (by decide +kernel), by decide +kernel⟩
/-- The same map over dropped outputs of which none is missed. -/
def checksClean (miss : Nat) : State := at_ check1 fun x =>
  { bytesAt [(16384 + 2048, (MapHdr.bytes ⟨true, false, 0, false, 255, 1, 1024, 0, 0, 0, x.tap.serial, 0, 255, 0⟩))] x with
    seq := { x.seq with miss := miss } }
theorem test_wit_checkClean : ∀ n ∈ [1, 3], (checksClean n).Kept ∧ (checksClean n).offers 1 check1 ∧ ((checksClean n).drum 1).still ∧
    ((checksClean n).drum 1).shell.openRow (rowMask (tapW check1).row0 (min 256 (tapW check1).m)) = false ∧
    ((checksClean n).drum 1).tap.replay = none ∧
    (tapW check1).checkFaults (checksClean n) 1 ((checksClean n).drum 1).seq.pc = [] ∧
    ((checksClean n).drum 1).seq.miss = n ∧ ((checksClean n).drum 1).tap.mapTile (tapW check1).mout = none ∧
    ∀ m, m < (tapW check1).m → (((checksClean n).drum 1).auditRow (((checksClean n).drum 1).mapHdr (tapW check1).mout) 0
      (tapW check1).mout (tapW check1).row0 m).1 = 0 := by
  intro n h
  fin_cases h <;> exact ⟨kept_of (by decide +kernel), offers_of (by decide +kernel), still_of (by decide +kernel), by decide +kernel⟩

/-! ## Witnesses: rings' entries, scores and jobs -/

/-- Ring q runs, with one entry at its head that stands at 4096 in the host's memory. -/
def ringOn (q : Nat) (s : State) (entry : List Byte) (f : Ring → Ring := id) : State :=
  { s with hostMem := putBytes s.hostMem 4096 entry
           rings := [(q, f { Ring.reset with en := true, sqbase := 4096, cqbase := 65536, sqtail := 1 })] }
/-- A score of one barrier task of class 1, or of class 0, at device address 32,768. -/
def scoreBytes (live : Bool) : List Byte :=
  leBytes 4 1 ++ leBytes 12 0 ++ [1, BitVec.ofNat 8 live.toNat, 1] ++ leBytes 9 0 ++ leBytes 4 live.toNat ++ leBytes 16 0 ++
    leBytes 16 1 ++ leBytes 64 0 ++ [if live then 3 else 0x13]
def scoreEntry (addr : Nat) : List Byte := [1, 0, 0, 0, 7, 0, 0, 0] ++ leBytes 8 addr
def scoreAt (l : List Byte) (addr : Nat := 32768) : State :=
  let s := ringOn 4095 base (scoreEntry addr)
  { s with mem := { s.mem with data := putBytes [] addr l } }
/-- Everything that the statement asks of the ring, its entry and the score's bytes, which stand at addr. -/
def ScoreReady (s : State) (addr : Nat) (f : Fetched) : Prop :=
  s.Kept ∧ s.canTake 4095 = true ∧ s.entryAt 4095 = some (entryOf (getBytes s.hostMem 4096 64)) ∧
    (entryOf (getBytes s.hostMem 4096 64)).op = 1 ∧ (entryOf (getBytes s.hostMem 4096 64)).addr = addr ∧
    s.entryBad (entryOf (getBytes s.hostMem 4096 64)) = false ∧ s.readable 4095 = true ∧ (s.scoreRead 4095 addr).1 = f ∧
    (s.scoreRead 4095 addr).2.rings = s.rings ∧
    (s.scoreRead 4095 addr).2.fab.closed.contains (getCell 0#10 (s.scoreRead 4095 addr).2.fab.groups 4095).toNat = false ∧
    ((s.scoreRead 4095 addr).2.fault 0x140).valid = false
theorem scoreReady_of {s : State} {addr : Nat} {f : Fetched} (h : keptB s = true ∧ s.canTake 4095 = true ∧
    s.entryAt 4095 = some (entryOf (getBytes s.hostMem 4096 64)) ∧
    (entryOf (getBytes s.hostMem 4096 64)).op = 1 ∧ (entryOf (getBytes s.hostMem 4096 64)).addr = addr ∧
    s.entryBad (entryOf (getBytes s.hostMem 4096 64)) = false ∧ s.readable 4095 = true ∧ (s.scoreRead 4095 addr).1 = f ∧
    (s.scoreRead 4095 addr).2.rings = s.rings ∧
    (s.scoreRead 4095 addr).2.fab.closed.contains (getCell 0#10 (s.scoreRead 4095 addr).2.fab.groups 4095).toNat = false ∧
    ((s.scoreRead 4095 addr).2.fault 0x140).valid = false) : ScoreReady s addr f := ⟨kept_of h.1, h.2⟩
theorem test_wit_score : ∀ b ∈ [false, true],
    ScoreReady (scoreAt (scoreBytes b)) 32768 (.data (getBytes (putBytes [] 32768 (scoreBytes b)) 32768 256)) ∧
    ((scoreOf (fun a => sub (getBytes (putBytes [] 32768 (scoreBytes b)) 32768 256) (a - 32768) 128) 32768
      ((scoreAt (scoreBytes b)).scoreRead 4095 32768).2.met.mask).map fun sc =>
      ((scoreAt (scoreBytes b)).scoreRead 4095 32768).2.capable sc && sc.live == b && decide (1 + sc.cmplCount ≤ ringSize 0)) =
        some true ∧
    ((scoreAt (scoreBytes b)).ring 4095).live = false := by
  intro b h
  fin_cases h <;> exact ⟨scoreReady_of (by decide +kernel), by decide +kernel⟩
theorem test_wit_scoreFault : ScoreReady (scoreAt []) 32768 (.data (List.replicate 128 0)) ∧
    scoreOf (fun a => sub (List.replicate 128 0) (a - 32768) 128) 32768 ((scoreAt []).scoreRead 4095 32768).2.met.mask = none :=
  ⟨scoreReady_of (by decide +kernel), by decide +kernel⟩
/-- A score whose second half would lie past the capacity. -/
def lastBytes : Nat := 515396075520 - 128
theorem test_wit_scoreOutside : ScoreReady (scoreAt ((scoreBytes false).take 128) lastBytes) lastBytes .error :=
  scoreReady_of (by decide +kernel)

def binds (ntask : Nat) (mask : BitVec 128) (live : Bool) : State :=
  ringOn 4095 (withDrum (drum1 [])) [] fun r =>
    { r with sqhead := 1, reserved := 1, taken := 1, pendingScores := [0]
             head := some ⟨{ (job stickRec).score with ntask := ntask, mask := mask, tasks := [stickRec], live := live }, [], [], 7, 0,
               0, true, 5⟩ }
def bindReady (s : State) (sc : Score) : Bool :=
  let r := s.ring 4095
  let g := (getCell 0#10 s.fab.groups 4095).toNat
  keptB s && !s.crashed && !s.fab.closed.contains g && s.capable sc && !(r.pendingScores.any fun n => decide (n < 0)) &&
    !(g != 0 && s.met.jobs.any (·.group == g)) && decide (r.reserved + sc.cmplCount ≤ ringSize r.cqsz)
theorem test_wit_scoreBind : ∀ live ∈ [false, true],
    (((binds 1 (1 <<< 127) live).ring 4095).head.map fun h => bindReady (binds 1 (1 <<< 127) live) h.score &&
      (live || decide (h.score.ntask ≤ (binds 1 (1 <<< 127) live).sharedFree)) && h.score.live == live && h.engs.isEmpty &&
      !(settleTasks (binds 1 (1 <<< 127) live).beat [Task.new stickRec none none]).all (fun t => t.state == .ended) &&
      !(binds 1 (1 <<< 127) live).jobNumbersHeld.contains (skipHeld (binds 1 (1 <<< 127) live).jobNumbersHeld 65536
        (binds 1 (1 <<< 127) live).met.nextJob) &&
      (match (binds 1 (1 <<< 127) live).physSet h.score.mask with
       | [some d] => decide (h.score.rblk ≤ ((binds 1 (1 <<< 127) live).drum d).pad.blockLimit) &&
           (((binds 1 (1 <<< 127) live).drum d).pad.plan h.score).isSome
       | _ => false)) = some true := by
  intro live h
  fin_cases h <;> decide +kernel
theorem test_wit_scoreBindWaits :
    (((binds 262144 1 false).ring 4095).head.map fun h => bindReady (binds 262144 1 false) h.score &&
      decide ((binds 262144 1 false).sharedFree < h.score.ntask) && !h.score.live) = some true := by decide +kernel

/-- An entry of ring 0 with this OP and JOB, one score of the ring not yet recorded or none. -/
def entries (op j : Nat) (pend : List Nat) : State :=
  ringOn 0 (withDrum (drum1 [])) ([BitVec.ofNat 8 op, 0] ++ leBytes 2 j ++ [7]) fun r => { r with pendingScores := pend, taken := 1 }
theorem test_wit_drain : ∀ l ∈ [[], [0]], (entries 2 0 l).Kept ∧ (entries 2 0 l).canTake 0 = true ∧ ((entries 2 0 l).ring 0).out = [] ∧
    (((entries 2 0 l).entryAt 0).map fun e => e.op == 2 && !(entries 2 0 l).entryBad e) = some true ∧
    ((entries 2 0 l).ring 0).drains = [] ∧ ((entries 2 0 l).ring 0).pendingScores = l ∧ ((entries 2 0 l).ring 0).taken = 1 := by
  intro l h
  fin_cases h <;> exact ⟨kept_of (by decide +kernel), by decide +kernel⟩
theorem test_wit_kill : ∀ n ∈ [0, 65535], (entries 3 n []).Kept ∧ (entries 3 n []).canTake 0 = true ∧
    ((entries 3 n []).ring 0).out = [] ∧
    (((entries 3 n []).entryAt 0).map fun e => e.op == 3 && !(entries 3 n []).entryBad e &&
      ((entries 3 n []).job? e.job).map (·.ring) == if n = 0 then some 0 else none) = some true := by
  intro n h
  fin_cases h <;> exact ⟨kept_of (by decide +kernel), by decide +kernel⟩
theorem test_wit_badEntry : ∀ n ∈ [0, 4], (entries n 0 []).Kept ∧ (entries n 0 []).canTake 0 = true ∧
    ((entries n 0 []).ring 0).out = [] ∧ (((entries n 0 []).entryAt 0).map fun e => e.op == 0 || decide (3 < e.op)) = some true ∧
    ((entries n 0 []).fault 0x150).valid = false := by
  intro n h
  fin_cases h <;> exact ⟨kept_of (by decide +kernel), by decide +kernel⟩

/-! ## Witnesses: dispatch -/

/-- Drum 1 idle in job 0, whose task 0 has this body and is ready. -/
def ready (b : TaskBody) (f : Drum → Drum := id) (cls : Nat := 2) : State :=
  let t : TaskRec := { drumTask 1 0 with body := b, cls := cls }
  let x := f { drum1 [] with seq := { Seq.reset with lastJob := some 0 } }
  { base with
    drums := base.drums.set 1 x
    met := { base.met with jobs := [{ job t with tasks :=
      [{ Task.new t none none with state := .ready }, { Task.new stickRec none (some 0) with state := .running }] }] } }
def dispatches (s : State) (target : Nat) : Bool :=
  keptB s && s.leaving.isEmpty && !s.crashed && (match s.job? 0 with
    | some j => match j.tasks[0]? with
      | some t => t.wants target && s.dispatchable j 0 t && !s.outrun j 0 t target
      | none => false
    | none => false)
theorem test_wit_dispatchStick : dispatches (ready (.stick 0x8000 0 0)) 15 = true ∧
    (ready (.stick 0x8000 0 0)).stickFree 15 = true ∧ (ready (.stick 0x8000 0 0)).backed 0 4 = true ∧
    (ready (.stick 0x8000 0 0)).padRefused 0 0 4 = false ∧ ∀ k, k < 15 → (0x8000#16).getLsbD k = false := by decide +kernel
theorem test_wit_dispatchDrum : ∀ e ∈ [0, 1], dispatches (ready (.drum 1 0 e 2 0)) 0 = true ∧
    (ready (.drum 1 0 e 2 0)).physOf 0 = some 1 ∧ (((ready (.drum 1 0 e 2 0)).drum 1).pad.slotOf 0).isSome = true ∧
    (ready (.drum 1 0 e 2 0)).halted 1 = false ∧ ((ready (.drum 1 0 e 2 0)).drum 1).idleFor 2 = true := by
  intro e h
  fin_cases h <;> decide +kernel
/-- Drum 1 is of the live reserve and runs task 1 of job 0. -/
def runsLower (x : Drum) : Drum := { x with pad := { x.pad with saveEn := true }, seq := { x.seq with run := some ⟨0, 1, 0⟩, cls := 1 } }
theorem test_wit_preemptRequest : dispatches (ready (.drum 1 0 1 0 0) runsLower 0) 0 = true ∧
    (ready (.drum 1 0 1 0 0) runsLower 0).physOf 0 = some 1 ∧
    (((ready (.drum 1 0 1 0 0) runsLower 0).drum 1).pad.slotOf 0).isSome = true ∧
    (ready (.drum 1 0 1 0 0) runsLower 0).halted 1 = false ∧ ((ready (.drum 1 0 1 0 0) runsLower 0).drum 1).pad.saveEn = true ∧
    ((ready (.drum 1 0 1 0 0) runsLower 0).drum 1).seq.run.isSome = true ∧
    ((ready (.drum 1 0 1 0 0) runsLower 0).drum 1).seq.cls ≠ 0 ∧
    ((ready (.drum 1 0 1 0 0) runsLower 0).drum 1).preempting = none ∧
    ((ready (.drum 1 0 1 0 0) runsLower 0).drum 1).skin.load = none ∧
    ((ready (.drum 1 0 1 0 0) runsLower 0).drum 1).saved = none := by decide +kernel
theorem test_wit_dispatchDma : dispatches (ready (.dma 0 4096 2048 false false)) 13 = true ∧
    (ready (.dma 0 4096 2048 false false)).engineFree 13 = true := by decide +kernel

/-- The last 48 bytes of a copy from 4,096 to 65,536 in LPDDR5, under task 0 of job 0. -/
def move1 : Move :=
  ⟨13, 0, 0, false, ⟨4096, none, []⟩, ⟨65536, none, []⟩, 2096, false, false, .copy, 2048, [], [], false, 0⟩
def moves : State :=
  let s := ready (.dma 4096 65536 2096 false false)
  { s with
    mem := { s.mem with data := putBytes [] (4096 + 2048) [1, 2, 3] }
    met := { s.met with moves := [move1] } }
theorem test_wit_dmaMoves : moves.Kept ∧ moves.pending = [] ∧ moves.power.locked = true ∧ moves.power.tripped = false ∧
    (∀ d, (moves.drum d).hasWork = false ∧ (moves.drum d).sound.failIn = 0) ∧ (∀ p ∈ moves.rings, p.2.out = []) ∧
    (∀ p ∈ moves.fab.ports, p.ingress = [] ∧ p.stuck = [0, 0, 0, 0, 0, 0, 0] ∧ p.starved = false ∧
      ∀ l ∈ p.rxPart, moves.transits l = false) ∧ moves.met.moves = [move1] ∧
    moves.fates.blocks = [] ∧ move1.phase = .copy ∧ move1.spoilt = false ∧
    (moves.task? 0 0).isSome = true ∧ move1.src.stream = none ∧ move1.dst.stream = none ∧ move1.pos < move1.len ∧
    move1.len ≤ move1.pos + 2048 ∧ moves.memHeld = false ∧ (∀ c ∈ moves.mem.chans, c.bad = []) ∧
    moves.inMem (4096 + 2048) 48 = true ∧ moves.inMem (65536 + 2048) 48 = true := by
  have h : (List.range 136).all (fun e => !(moves.drum e).hasWork && (moves.drum e).sound.failIn == 0) = true := by decide +kernel
  refine ⟨kept_of (by decide +kernel), by decide +kernel, by decide +kernel, by decide +kernel, fun e => ?_, by decide +kernel⟩
  by_cases hl : e < 136
  · simpa using List.all_eq_true.mp h e (List.mem_range.mpr hl)
  · have hn : moves.drums.length = 136 := by decide +kernel
    have hd : moves.drum e = Drum.factory 0 := by rw [State.drum, List.getElem?_eq_none (by omega)]; rfl
    rw [hd]
    decide +kernel

/-- A bucket table at 4,096 that names the pattern at 8,192 for an E up to 8. -/
def bucketTable : Drum → Drum := bytesAt [(4096, leBytes 8 (8 + 0x200 * 2 ^ 32 + 2 ^ 63))]
def loadState : State := ready (.drum 1 256 8 0 5) bucketTable
theorem test_wit_drumTaskLoads : dispatches loadState 0 = true ∧ loadState.physOf 0 = some 1 ∧
    ((loadState.drum 1).pad.slotOf 0).isSome = true ∧ loadState.halted 1 = false ∧ (loadState.drum 1).idleFor 2 = true ∧
    (loadState.drum 1).seq.lastJob = some 0 ∧ (loadState.drum 1).boundaryDue = false ∧ (loadState.drum 1).pad.held = [] ∧
    (loadState.drum 1).pad.failed = [] ∧ (loadState.drum 1).skin.jobs = [] ∧
    (let y : Drum := { loadState.drum 1 with seq := { (loadState.drum 1).seq with run := some ⟨0, 0, 0⟩ } }
     let bs := (List.range 8).map fun n => bucketOf (y.padNat (16 * 256 + 8 * n) 8)
     let z := y.padPut 0 (leBytes 8 8 ++ leBytes 8 5 ++ leBytes 8 0)
     y.regionOk [⟨16 * 256, 64⟩] = true ∧ bucketsOk bs = true ∧ pickBucket 8 bs = some (0, 0x200) ∧
     y.regionOk [⟨16 * 0x200 - 512, 512⟩] = true ∧
     loadState.descFault 0 0 ((List.range 16).map fun n => (descOf (z.padBytes (16 * 0x200 - 512 + 32 * n) 32),
       descRsvZero (z.padBytes (16 * 0x200 - 512 + 32 * n) 32))) = none) := by decide +kernel
/-! ## Witnesses: the end of tasks, preemption, sticks -/

/-- Task 0 of job 0 stands as f says, with task 1 running. -/
def withTask (f : Task → Task) (s : State := withDrum (drum1 [])) : State :=
  { s with met := { s.met with jobs := s.met.jobs.map fun j => { j with tasks := j.tasks.modify 0 f } } }
theorem goesOn_of {s : State} {x : Job} {t : Task} (hj : s.job? 0 = some x) (ht : x.tasks[1]? = some t)
    (hr : t.state = .running) : s.goesOn 0 0 := ⟨x, 1, t, hj, by decide, ht, hr⟩
def ends (l : List Nat) : State := withTask fun t => { t with finished := l }
theorem test_wit_taskEnd : ∀ l ∈ [[], [0]], (ends l).Kept ∧ (ends l).leaving = [] ∧ (ends l).goesOn 0 0 ∧
    (((ends l).task? 0 0).map fun t => t.state == .running && t.code.good && (maskDrums 1).all t.finished.contains == l.contains 0 &&
      (match t.trec.body with | .drum 1 .. => true | _ => false)) = some true := by
  intro l h
  fin_cases h <;> exact ⟨kept_of (by decide +kernel), by decide +kernel, goesOn_of rfl rfl rfl, by decide +kernel⟩
def stickEnds : State := withTask fun t => { t with trec := { t.trec with body := .stick 1 0 0, succs := [1] }, finished := [0] }
theorem test_wit_taskEndStick : stickEnds.Kept ∧ stickEnds.leaving = [] ∧ stickEnds.goesOn 0 0 ∧
    ((stickEnds.task? 0 0).map fun t => t.state == .running && t.code.good && !t.isDrum && !t.finished.isEmpty) = some true :=
  ⟨kept_of (by decide +kernel), by decide +kernel, goesOn_of rfl rfl rfl, by decide +kernel⟩

/-- Task 0 promised to end at a beat; the beat is 1000. -/
def promised (f : Dword) : State := withTask fun t => { t with finish := some f }
theorem test_wit_overrun : ∀ f ∈ [1001#64, 1000#64], (promised f).Kept ∧ ((promised f).fault 0x140).valid = false ∧
    (((promised f).task? 0 0).map fun t => t.finish == some f && !t.overrun && t.state != .ended) = some true := by
  intro f h
  fin_cases h <;> exact ⟨kept_of (by decide +kernel), by decide +kernel⟩

/-- A record of ring 4095 that is held to a beat, or of an aborted group. -/
def record (until_ : Option Dword) (ab : Bool) : Record :=
  { opRecord .done 7 0 900 0 true with group := 5, holdTo := until_, aborted := ab }
def holds (r : Record) : State :=
  { base with rings := [(4095, { Ring.reset with en := true, cqbase := 65536, out := [r], reserved := 1 })] }
theorem test_wit_heldAlone (p : Nat) (h : p ≠ 4095) (r : Record) : ((holds r).ring p).out = [] := by
  simp [State.ring, holds, getCell, Ne.symm h, Ring.reset]
theorem test_wit_held : ∀ p ∈ [(some 1000#64, false, true), (some 999#64, false, false), (none, false, false), (none, true, false)],
    (holds (record p.1 p.2.1)).Kept ∧ ((holds (record p.1 p.2.1)).ring 4095).out = [record p.1 p.2.1] ∧
    (holds (record p.1 p.2.1)).recordHeld (record p.1 p.2.1) = p.2.2 ∧ codeGood (record p.1 p.2.1).status = true := by
  intro p h
  fin_cases h <;> exact ⟨kept_of (by decide +kernel), by decide +kernel⟩

/-- Drum 1 runs task 1 of job 0; class-0 task 0, whose E is e, waits for it. -/
def preempts (e : Nat) (busy : Bool) : State :=
  let s := ready (.drum 1 0 e 2 0) (fun x => { runsLower x with
    preempting := some (0, 0), shell := (x.shell.put 255 1023 0x3F800000).setStatus 255 1
    skin := { x.skin with cur := if busy then some step1 else none } }) 0
  s
theorem test_wit_preemptSave : ∀ p ∈ [(0, false), (1, false), (1, true)], (preempts p.1 p.2).Kept ∧
    ((preempts p.1 p.2).drum 1).preempting = some (0, 0) ∧ (preempts p.1 p.2).fates.arrays = [] ∧
    ((preempts p.1 p.2).task? 0 0).map (·.trec.body) = some (.drum 1 0 p.1 2 0) ∧
    ((preempts p.1 p.2).drum 1).stoppedUnits = !p.2 := by
  intro p h
  fin_cases h <;> exact ⟨kept_of (by decide +kernel), by decide +kernel⟩
/-- Drum 1 holds a saved run; class-0 task 0 of job 0 is ready, runs on, or has ended. -/
def saved (st : TaskState) : State :=
  let s := ready (.drum 1 0 1 0 0) (fun x => { x with saved := some { x.toSaved with seq := { x.seq with run := some ⟨0, 1, 0⟩, pc := 256 } } }) 0
  withTask (fun t => { t with state := st, started := if st = .running then [0] else [] }) s
theorem test_wit_preemptRestore : ∀ st ∈ [TaskState.ready, TaskState.running, TaskState.ended], (saved st).Kept ∧
    (((saved st).drum 1).saved.map fun v => v.jobs.isEmpty && v.tile.isNone && v.rollCur.isNone &&
      (List.range 16).all fun rd => (getCell Stack.reset v.blocks rd).climb.isNone) = some true ∧
    (saved st).liveReadyFor ((saved st).drum 1).logical.toNat = decide (st = .ready) ∧
    (saved st).liveStill ((saved st).drum 1).logical.toNat = decide (st = .running) ∧ ((saved st).drum 1).idleFor 0 = true ∧
    ((saved st).drum 1).shell.clearing = false ∧ ((saved st).drum 1).pad.held = [] ∧ ((saved st).drum 1).skin.cur = none ∧
    ((saved st).drum 1).skin.load = none ∧ ((saved st).drum 1).queues = ⟨[], [], [], []⟩ ∧ ((saved st).drum 1).tuner.cur = none ∧
    ((saved st).drum 1).pad.failed = [] ∧ (saved st).halted 1 = false := by
  intro st h
  fin_cases h <;> exact ⟨kept_of (by decide +kernel), by decide +kernel⟩
theorem test_wit_saveThenRestore : ((preempts 1 false).drum 1).kept = true := by decide +kernel

/-- Stick 15 runs task 0 of job 0. -/
def onStick : State :=
  let s := withTask (fun t => { t with trec := { t.trec with body := .stick 0x8000 0 0 }, unit := some 15 })
  { s with met := { s.met with sticks := [(15, some (0, 0))] } }
theorem test_wit_stick : onStick.Kept ∧ onStick.stickTask 15 = some (0, 0) ∧ onStick.goesOn 0 0 ∧
    (onStick.task? 0 0).map (·.state) = some .running ∧ (onStick.fault (0xA0 + 15)).valid = false ∧
    (2 : Word).toNat % 16 = Code.num .faulted ∧ 2 < (3 : Word).toNat % 16 ∧ apertureOk 15 0x1000 8 false = false ∧
    onStick.backed (padSpace - 1) 1 = false ∧ onStick.padRefused 0 (padSpace + 9 * 65536) 1 = true ∧
    onStick.backed 4096 8 = true ∧ onStick.padRefused 0 4096 8 = false :=
  ⟨kept_of (by decide +kernel), by decide +kernel, goesOn_of rfl rfl rfl, by decide +kernel⟩
/-- LPDDR5 at 4,096, the last bytes of the job's slot on logical drum 0, and the last bytes of the host's window. -/
theorem test_wit_stickAccess : keptB (withDrum (drum1 [])) = true ∧ (withDrum (drum1 [])).stickTask 15 = none ∧ apertureOk 15 0x18 8 false = true ∧
    apertureOk 15 0x1000 8 false = false ∧ ((withDrum (drum1 [])).fault (0xA0 + 15)).valid = false ∧ onStick.fates.blocks = [] ∧
    (∀ a ∈ [4096, padSpace + 8 * 65536 - 8, 2 * hostSpace - 8], onStick.slotTaken (onStick.rangeChans a 8) = false ∧
      onStick.padRefused 0 a 8 = false) ∧
    onStick.inMem 4096 8 = true ∧ onStick.memHeld = false ∧ (∀ c ∈ onStick.mem.chans, c.bad = []) ∧
    onStick.inPads (padSpace + 8 * 65536 - 8) 8 = true ∧ onStick.inMem (padSpace + 8 * 65536 - 8) 1 = false ∧
    onStick.inMem (padSpace + 8 * 65536 - 8) 8 = false ∧ onStick.holder (padPlace (padSpace + 8 * 65536 - 8)).1 = some 1 ∧
    (padPlace (padSpace + 8 * 65536 - 8)).2 + 8 ≤ padSize ∧ (onStick.drum 1).pad.failed = [] ∧
    inHost (2 * hostSpace - 8) 8 = true ∧ onStick.mem.capacity ≤ padSpace ∧ onStick.pcie.role ≠ 2 := by decide +kernel
/-- R431: the beat counter reads at 0x18 of the aperture; a write of 0x4002000 sets the stick's own PGT_IDX and AUTOINC. -/
theorem test_aperture : (match exec (.stickApertureAccess 15 0x18 8 false 0) onStick with
      | .next t => t.resp == leBytes 8 1000 | _ => false) = true ∧
    (match exec (.stickApertureAccess 15 0x4002000 4 true 0x801FFFFF) onStick with
      | .next t => t.mem.agentIdx 15 == (true, 0x1FFFFF#21) && t.mem == { onStick.mem with stickIdx := t.mem.stickIdx }
      | _ => false) = true := by decide +kernel
/-! ## Witnesses: the host interface -/

def host (f : Ring → Ring) (role : BitVec 2 := 0) : State :=
  { base with rings := [(4095, f { Ring.reset with sqbase := 4096, cqbase := 65536 })], pcie := { base.pcie with role := role } }
theorem test_wit_rings : (host id).Kept ∧ (host id).boot.bar0 = true ∧ (host id).boot.mode ≠ 2 ∧ ((host id).ring 4095).en = false ∧
    ({ (host id).ring 4095 with sqsz := BitVec.ofNat 4 (0x1AA1 / 16), cqsz := BitVec.ofNat 4 (0x1AA1 / 256),
                                live := (0x1AA1 : Word).getLsbD 12 } : Ring).cfgOk 0 = true ∧
    ({ (host id).ring 4095 with sqsz := BitVec.ofNat 4 (0xB1 / 16), cqsz := BitVec.ofNat 4 (0xB1 / 256), live := false } : Ring).cfgOk
      0 = false ∧ ((host id).fault 0x150).valid = false ∧ ((host fun r => { r with en := true }).ring 4095).en = true :=
  ⟨kept_of (by decide +kernel), by decide +kernel⟩
/-- Page 4095 leads to ring 4095, which runs or stands, with 3 records not yet released. -/
def bells (en : Bool) : State :=
  host fun r => { r with en := en, cqhead := 62, cqtail := 1, unreleased := 3, reserved := 5 }
theorem test_wit_doorbells : ∀ b ∈ [true, false], (bells b).Kept ∧ bit ((bells b).dbmapOf 4095).toNat 31 = false ∧
    fld ((bells b).dbmapOf 4095).toNat 0 12 = 4095 ∧ ((bells b).ring 4095).en = b ∧ ((bells b).ring 4095).err = false ∧
    (bells b).boot.bar0 = true ∧ ringSize ((bells b).ring 4095).sqNow = 64 ∧ ringSize ((bells b).ring 4095).cqNow = 64 ∧ ((bells b).fault 0x150).valid = false ∧
    -- 63 is the last index of the ring; the head moves from 62 to 1 over 3 records, to 2 over 4
    (1 + 64 - ((bells b).ring 4095).cqhead.toNat) % 64 = ((bells b).ring 4095).unreleased ∧
    ((bells b).ring 4095).unreleased < (2 + 64 - ((bells b).ring 4095).cqhead.toNat) % 64 := by
  intro b h
  fin_cases h <;> exact ⟨kept_of (by decide +kernel), by decide +kernel⟩

theorem test_wit_earlyDoorbell : ({ bells true with boot := { base.boot with bar0 := false } } : State).Kept := kept_of (by decide +kernel)
/-- The coalescing timer of ring 4095 started at beat 360 and runs for time us; vector 2047 is masked or pending. -/
def vectors (time : BitVec 10) (role : BitVec 2) (masked pend : Bool) (en : Bool := true) (quiet : Bool := false) : State :=
  let s := host (fun r => { r with en := true, oldest := some 360, time := time, count := 1, vec := 2047 }) role
  { s with pcie := { s.pcie with table := [(2047, ⟨0xFEE00000, 5, masked⟩)], pba := if pend then [(2047, true)] else [], linkUp := true, msixEn := en, quiet := quiet } }
theorem test_wit_vectors : ∀ p ∈ [(3#10, true, true), (2#10, true, true), (2#10, false, false)],
    (vectors p.1 1 p.2.1 p.2.2).Kept ∧ ((vectors p.1 1 p.2.1 p.2.2).ring 4095).oldest = some 360 ∧
    ((vectors p.1 1 p.2.1 p.2.2).ring 4095).time = p.1 ∧ ((vectors p.1 1 p.2.1 p.2.2).ring 4095).vec.toNat = 2047 ∧
    (vectors p.1 1 p.2.1 p.2.2).vectorMasked 2047 = p.2.1 ∧ (vectors p.1 1 p.2.1 p.2.2).pcie.role = 1 ∧
    getCell false (vectors p.1 1 p.2.1 p.2.2).pcie.pba 2047 = p.2.2 ∧ (vectors p.1 1 p.2.1 p.2.2).pcie.funcMask = false ∧
    (vectors p.1 1 p.2.1 p.2.2).pcie.msixEn = true ∧ (vectors p.1 1 p.2.1 p.2.2).pcie.linkUp = true ∧
    (vectors p.1 1 p.2.1 p.2.2).pcie.quiet = false ∧ (vectors p.1 1 p.2.1 p.2.2).deaf = false ∧
    ((vectors p.1 1 p.2.1 p.2.2).beat.toNat < 360 + 320 * p.1.toNat ↔ p.1 = 3) := by
  intro p h
  fin_cases h <;> exact ⟨kept_of (by decide +kernel), by decide +kernel⟩

/-- The same part after the link down fault, or with MSI-X disabled, or while it boots. -/
theorem test_wit_vectorsQuiet : (vectors 2 1 false true true true).Kept ∧ (vectors 2 1 false true true true).pcie.quiet = true ∧
    ({ vectors 2 1 false false with crashed := true } : State).Kept ∧ ({ vectors 2 1 false false with crashed := true } : State).deaf = true ∧
    (vectors 2 1 false false false).deaf = false ∧ (vectors 2 1 false true true true).deaf = false ∧
    (vectors 2 1 false true true true).pcie.role = 1 :=
  ⟨kept_of (by decide +kernel), by decide +kernel, kept_of (by decide +kernel), by decide +kernel, by decide +kernel⟩
theorem test_wit_vectorsOff : (vectors 2 1 false false false).Kept ∧ (vectors 2 1 false false false).pcie.msixEn = false ∧
    (vectors 2 1 false false false).pcie.role = 1 ∧ getCell false (vectors 2 1 false false false).pcie.pba 2047 = false :=
  ⟨kept_of (by decide +kernel), by decide +kernel⟩

/-- A lead of a chassis of 2 parts, whose window looks at one of them, or at nothing. -/
def lead (valid : Bool) (rd : List FwdRead) : State :=
  { base with
    fab := { base.fab with dims := ⟨2, 1, 1⟩, ports := base.fab.ports.set 19 { Port.reset with state := .up, dir := 0 } }
    pcie := { base.pcie with role := 1, nfol := 1, fwdValid := valid, fwdSel := ⟨1, 0, 0⟩, fwdReads := rd, linkUp := valid }
    power := { base.power with ac := 33000 } }
theorem test_wit_lead : (lead true []).Kept ∧ (lead true []).boot.bar0 = true ∧ (lead true []).boot.mode ≠ 2 ∧
    (lead true []).pcie.role = 1 ∧ (lead true []).pcie.fwdValid = true ∧
    (lead true []).inChassis (lead true []).pcie.fwdSel = true ∧ (lead true []).crashed = false ∧ (lead true []).deaf = false ∧
    (lead true []).pcie.quiet = false ∧ (lead true []).pcie.linkUp = true ∧ (lead false []).pcie.linkUp = false ∧ (lead false []).deaf = false ∧
    (lead false []).pcie.role = 1 ∧ ({ lead true [] with crashed := true } : State).deaf = true ∧
    (lead false []).pcie.fwdValid = false ∧ keptB (lead false []) = true ∧ keptB { lead true [] with crashed := true } = true :=
  ⟨kept_of (by decide +kernel), by decide +kernel⟩
/-- 513 requests of a follower are under way or wait, and the host's completion ends the first of them. -/
def asked : State := { lead true [] with pcie := { (lead true []).pcie with fetches := List.replicate 513 ⟨⟨1, 0, 0⟩, 64, 4⟩ } }
theorem test_wit_askedHost : asked.Kept ∧ asked.pcie.role = 1 ∧ asked.crashed = false ∧
    (asked.pcie.fetches.take 512).findIdx? (fun f => f.ends ⟨1, 0, 0⟩ 64 4) = some 0 ∧ (asked.pcie.fetches[512]?).isSome = true ∧
    (asked.pcie.fetches.take 512).findIdx? (fun f => f.ends ⟨1, 0, 0⟩ 64 3) = none :=
  ⟨kept_of (by decide +kernel), by decide +kernel⟩
/-- Two reads wait; the first left 100 us ago, or one ac less. -/
def fwdWait (since : Dword) : List FwdRead := [⟨⟨1, 0, 0⟩, 0x7FFFFFC, 4, since⟩, ⟨⟨1, 0, 0⟩, 0, 8, 32999⟩]
theorem test_wit_leadTimeout : ∀ b ∈ [1000#64, 1001#64], (lead true (fwdWait b)).Kept ∧
    ((lead true (fwdWait b)).fault 0x150).valid = false ∧ (lead true (fwdWait b)).pcie.fwdReads = fwdWait b ∧
    (b.toNat + 32000 ≤ (lead true (fwdWait b)).power.ac.toNat ↔ b = 1000) := by
  intro b h
  fin_cases h <;> exact ⟨kept_of (by decide +kernel), by decide +kernel⟩

/-- A job runs, on a part of this role with an enabled ring or none. -/
def endpoint (role : BitVec 2) (en : Bool) : State :=
  let s := withDrum (drum1 [])
  { s with rings := if en then [(0, { Ring.reset with en := true })] else [], pcie := { s.pcie with role := role, linkUp := true } }
theorem test_wit_endpoint : ∀ p ∈ [(2#2, false), (2#2, true), (1#2, true), (0#2, false)], (endpoint p.1 p.2).Kept ∧
    (endpoint p.1 p.2).pcie.role = p.1 ∧ (endpoint p.1 p.2).anyRing = p.2 ∧ ((endpoint p.1 p.2).fault 0x150).valid = false ∧
    (endpoint p.1 p.2).pcie.perst = false ∧ (endpoint p.1 p.2).boot.bar0 = true ∧ linkOk 16 5 = true ∧ linkOk 2 5 = false ∧
    linkOk 16 9 = false := by
  intro p h
  fin_cases h <;> exact ⟨kept_of (by decide +kernel), by decide +kernel⟩
/-- One of four address registers, whichever is no word with a field that R272 gives. -/
theorem test_wit_configWrite : ∃ off ∈ [0x10, 0x14, 0x18, 0x1C], off % 4 = 0 ∧ base.configId off = none ∧ off ≠ Config.msixCap ∧
    (barWord off).isSome = true ∧ 0xFFFFFFFF#32 ≠ configBlank off ∧ (capField off).1 = 0 := by
  have free (off : Nat) (h : off ≠ Config.msixCap ∧ off + 4 ≠ Config.devCtl ∧ off ≠ Config.devCtl + 0x1C) : (capField off).1 = 0 := by
    simp [capField, h.1, h.2.1, h.2.2]
  have blank (off : Nat) (h : (barWord off).isSome = true) : (0xFFFFFFFF#32 : Word) ≠ configBlank off := by simp [configBlank, h]
  by_cases h : (0x10 : Nat) ≠ Config.msixCap ∧ 0x10 + 4 ≠ Config.devCtl ∧ 0x10 ≠ Config.devCtl + 0x1C
  · exact ⟨0x10, by decide, by decide, by decide +kernel, h.1, by decide, blank _ (by decide), free _ h⟩
  by_cases h' : (0x14 : Nat) ≠ Config.msixCap ∧ 0x14 + 4 ≠ Config.devCtl ∧ 0x14 ≠ Config.devCtl + 0x1C
  · exact ⟨0x14, by decide, by decide, by decide +kernel, h'.1, by decide, blank _ (by decide), free _ h'⟩
  by_cases h'' : (0x18 : Nat) ≠ Config.msixCap ∧ 0x18 + 4 ≠ Config.devCtl ∧ 0x18 ≠ Config.devCtl + 0x1C
  · exact ⟨0x18, by decide, by decide, by decide +kernel, h''.1, by decide, blank _ (by decide), free _ h''⟩
  · exact ⟨0x1C, by decide, by decide, by decide +kernel, by omega, by decide, blank _ (by decide), free _ (by omega)⟩
theorem test_wit_configurationHeader : base.pcie.role ≠ 2 ∧ base.pcie.perst = false ∧ base.boot.bar0 = true ∧
    State.reset.pcie.role ≠ 2 ∧ State.reset.pcie.perst = false ∧ State.reset.boot.bar0 = false := by decide +kernel
/-- Ring 4095 holds the entry of a score in the host's memory; engine 15 copies for job 0. -/
def timeouts : State :=
  let s := ringOn 4095 (withDrum (drum1 [])) ([1, 0, 0, 0, 7, 0, 0, 0] ++ leBytes 8 hostSpace)
  { s with met := { s.met with engines := [(13, some (0, 0))], moves := [move1] } }
theorem test_wit_timeouts : timeouts.Kept ∧ timeouts.met.moves.find? (·.engine == 13) = some move1 ∧
    (timeouts.fault 0x140).valid = false ∧ timeouts.canTake 4095 = true ∧ (timeouts.fault 0x150).valid = false ∧
    ((timeouts.entryAt 4095).map fun e => e.op == 1 && inHost e.addr 1 && !timeouts.entryBad e) = some true :=
  ⟨kept_of (by decide +kernel), by decide +kernel⟩
/-! ## Witnesses: memory, tables, links -/

theorem test_wit_placement : base.mem.map.Nodup ∧ (List.range 48).Nodup ∧
    48 ≤ ({ base.mem with map := List.range 48 } : MainMem).map.length := by decide +kernel

/-- Channel 63 stands as f says; block 4 of it holds the address 480 · (4 · 64 + 63). -/
def channel (f : Channel → Channel) : State := base.modChan 63 f
theorem test_wit_memory : ∀ f ∈ [id, fun c : Channel => { c with bad := [4], patrol := 0 }, fun c : Channel => { c with fix := [4], patrol := 1 }],
    (channel f).Kept ∧ (channel f).mem.blockAddr 63 4 = some (480 * (4 * 64 + 63)) ∧ (channel f).mem.up = true ∧
    ((channel f).fault (0xC0 + 63)).valid = false := by
  intro f h
  simp only [List.mem_cons, List.not_mem_nil, or_false] at h
  obtain rfl | rfl | rfl := h <;> exact ⟨kept_of (by decide +kernel), by decide +kernel⟩
theorem test_wit_memoryBlocks : ((channel id).chan 63).bad.contains 4 = false ∧ ((channel id).chan 63).fix.contains 4 = false ∧
    ((channel fun c => { c with bad := [4], patrol := 0 }).chan 63).bad.contains 4 = true ∧
    ((channel fun c => { c with bad := [4], patrol := 0 }).chan 63).patrol = 0 ∧
    ((channel fun c => { c with fix := [4], patrol := 1 }).chan 63).fix.contains 4 = true ∧
    ((channel fun c => { c with fix := [4], patrol := 1 }).chan 63).patrol ≠ 0 := by decide +kernel
/-- A class-0 transfer asks for channel 63; the beat lies in a reserved slot or behind it. -/
def wanted (beat : Dword) : State :=
  let s := channel fun c => { c with patrol := 1 }
  { s with beat := beat, met := { s.met with moves := [{ move1 with live := true, src := ⟨480 * (4 * 64 + 63) - 2048, none, []⟩ }] } }
theorem test_wit_memoryServed : (channel id).slotTaken [63] = false ∧ (channel id).reservedSlot = false ∧
    (channel id).chanWanted 63 = false ∧ (wanted 1024).Kept ∧ (wanted 1024).mem.blockAddr 63 4 = some (480 * (4 * 64 + 63)) ∧
    (wanted 1024).reservedSlot = true ∧ (wanted 1024).slotTaken [63] = true ∧ (wanted 1036).reservedSlot = true ∧
    (wanted 1037).reservedSlot = false ∧ (wanted 1037).chanWanted 63 = true ∧ (wanted 1037).slotTaken [63] = false :=
  ⟨by decide +kernel, by decide +kernel, by decide +kernel, kept_of (by decide +kernel), by decide +kernel⟩
/-- The link fails the next block access for good, or the check bytes do. -/
def meets (f : BlockFate) : State := { channel fun c => { c with fix := [4], patrol := 1 } with fates := { base.fates with blocks := [f] } }
theorem test_wit_memoryFates : ∀ p ∈ [(BlockFate.mk [4, 5] .clean, true), (⟨[], .uncorrectable⟩, false)], (meets p.1).Kept ∧
    (meets p.1).fates.blocks = [p.1] ∧ linkSpent p.1.errs = p.2 ∧ (meets p.1).mem.blockAddr 63 4 = some (480 * (4 * 64 + 63)) ∧
    (meets p.1).mem.up = true ∧ ((meets p.1).fault (0xC0 + 63)).valid = false ∧ ((meets p.1).chan 63).patrol ≠ 0 ∧
    ((meets p.1).chan 63).bad.contains 4 = false ∧ ((meets p.1).chan 63).fix.contains 4 = true ∧
    (meets p.1).reservedSlot = false ∧ (meets p.1).chanWanted 63 = false ∧ (channel id).fates.blocks = [] ∧
    linkSpent (List.replicate 8 4) = false := by
  intro p h
  fin_cases h <;> exact ⟨kept_of (by decide +kernel), by decide +kernel⟩
theorem test_wit_rawBlocks : (16777215 < if base.mem.dense16 then 16777216 else 8388608) ∧ (List.replicate 480 (0#8)).length = 480 := by
  decide +kernel
def notReady : State := { base with mem := { base.mem with up := false } }
theorem test_wit_memoryReady : notReady.Kept ∧ notReady.memHeld = true ∧ notReady.mem.training = none := ⟨kept_of (by decide +kernel), by decide +kernel⟩
/-- Agent 15 looks at entry 2^21 - 1 of the page table. -/
def tables (busy : Bool) : State :=
  { base with mem := { base.mem with pgt := [(2 ^ 21 - 1, 5)], str := [(3, 7)], stickIdx := [(15, (true, 2 ^ 21 - 1))], pgtBusy := busy } }
theorem test_wit_tables : ∀ b ∈ [false, true], (tables b).Kept ∧ (tables b).boot.bar0 = true ∧ (tables b).boot.mode ≠ 2 ∧
    (tables b).mem.pgtBusy = b ∧ (tables b).mem.strBusy = false ∧ (tables b).mem.agentIdx 15 = (true, 2 ^ 21 - 1) := by
  intro b h
  fin_cases h <;> exact ⟨kept_of (by decide +kernel), by decide +kernel⟩

theorem test_wit_routes : inTorus ⟨16, 16, 64⟩ ⟨15, 0, 63⟩ ∧ inTorus ⟨16, 16, 64⟩ ⟨0, 8, 31⟩ ∧ inTorus ⟨1, 1, 1⟩ ⟨0, 0, 0⟩ ∧
    (⟨15, 0, 63⟩ : Coord) ≠ ⟨0, 8, 31⟩ := by unfold inTorus; decide
/-- A packet at the edges of its fields. -/
def edgePk : Pk := ⟨0x11, 1023, ⟨15, 15, 63⟩, ⟨0, 15, 0⟩, 255, 255, List.replicate 16 0xFF, List.replicate 300 0xA5⟩
theorem test_wit_packet : edgePk.legal := by unfold Pk.legal inTorus; decide +kernel

/-- Port 19 stands as f says. -/
def port (f : Port → Port) : State := base.modPort 19 f
def queued1 : Queued := { flit := { kind := 1, vc := 6, last := true, half := true, seq := 9, ackseq := 0, acktype := 0, cvc := 0,
                                    ccnt := 0, payload := [1, 2], crc := 0 }, pair := ⟨⟨0, 0, 0⟩, 255, ⟨1, 0, 0⟩, 255⟩, first := true, moved := false, tag := none, owes := none }
def agrees : Hello := ⟨⟨0, 0, 0⟩, ⟨1, 1, 1⟩, 1, 0, false⟩
def trains : State := port fun x => { x with state := .training, lanes := 0xFF }
/-- Two lanes fail their training, or three. -/
theorem test_wit_handshake : trains.Kept ∧ (trains.port 19).state = .training ∧ popByte ((trains.port 19).lanes &&& ~~~0x81) = 6 ∧
    popByte ((trains.port 19).lanes &&& ~~~0x83) = 5 ∧ agrees.coord = (trains.port 19).peer ∧ agrees.dims = trains.fab.dims ∧
    agrees.floor = trains.boot.floor.toNat ∧ (trains.fault (0x100 + 19)).valid = false :=
  ⟨kept_of (by decide +kernel), by decide +kernel⟩
def up (f : Port → Port) : State := port fun x => f { x with state := .up }
theorem test_wit_flitSend : ∀ f ∈ [id, fun x : Port => { x with txSeq := 4095, txq := x.txq.set 6 [queued1] },
      fun x : Port => { x with resend := [queued1], replay := [queued1] }], (up f).Kept ∧ ((up f).port 19).state = .up ∧
    ((up f).port 19).impEn = false ∧ ((up f).port 19).heldFlits = [] := by
  intro f h
  simp only [List.mem_cons, List.not_mem_nil, or_false] at h
  obtain rfl | rfl | rfl := h <;> exact ⟨kept_of (by decide +kernel), by decide +kernel⟩
theorem test_wit_flitSendKinds : ((up id).port 19).resend = [] ∧ ((up id).port 19).pick = none ∧
    ((up fun x => { x with txSeq := 4095, txq := x.txq.set 6 [queued1] }).port 19).resend = [] ∧
    ((up fun x => { x with txSeq := 4095, txq := x.txq.set 6 [queued1] }).port 19).pick = some 6 ∧
    ((up fun x => { x with txSeq := 4095, txq := x.txq.set 6 [queued1] }).port 19).txq[6]? = some [queued1] ∧
    ((up fun x => { x with resend := [queued1], replay := [queued1] }).port 19).resend = [queued1] := by decide +kernel

/-- The port expects SEQ 0 and has accepted 4095 last. -/
def arriving (nak : Bool) : State := up fun x => { x with nakSent := nak }
def flit (kind seq : Nat) (last good : Bool) : Flit :=
  let f := sealFlit { kind := kind, vc := 6, last := last, half := true, seq := seq, ackseq := 4095, acktype := 0, cvc := 6, ccnt := 3,
                      payload := [0xFF], crc := 0 }
  if good then f else { f with crc := f.crc + 1 }
theorem test_wit_arriving : ∀ b ∈ [false, true], (arriving b).Kept ∧ ((arriving b).port 19).state = .up ∧
    (arriving b).fab.waitingTx = [] ∧ ((arriving b).port 19).rxPart.length = 7 ∧ ((arriving b).port 19).owed.length = 7 ∧
    ((arriving b).port 19).credits.length = 7 ∧ cellsWf 0#64 ((arriving b).port 19).counters = true ∧
    ((arriving b).port 19).ingress = [] ∧ ((arriving b).port 19).stuck = [0, 0, 0, 0, 0, 0, 0] ∧ ((arriving b).port 19).cutRx = [] ∧
    ((arriving b).port 19).cutWays = [] ∧ ((arriving b).port 19).ways = List.replicate 7 none ∧
    (((arriving b).port 19).rxPart.all fun l => !(arriving b).transits l) = true ∧ (arriving b).holdsReq 19 = false ∧
    ((arriving b).port 19).nakSent = b ∧ ((arriving b).port 19).heldFlits = [] ∧ ((arriving b).port 19).rxSeq = 0 := by
  intro b h
  fin_cases h <;> exact ⟨kept_of (by decide +kernel), by decide +kernel⟩
theorem flitGood_flit (kind seq : Nat) (last good : Bool) : flitGood (flit kind seq last good) = good := by
  cases good
  · simp [flit, flitGood, sealFlit, flitBytes, flitHeader]
  · simp [flit, flitGood, sealFlit, flitBytes, flitHeader]
/-- 3584 is the oldest of the 512 duplicates of a port that has taken 4095 last, 3583 lies before them. -/
theorem test_wit_flits : (∀ b, flitGood (flit 1 0 b false) = false) ∧ (∀ n, flitGood (flit 1 n false true) = true) ∧
    flitGood (flit 0 4095 false true) = true ∧ flitGood (flit 1 0 true true) = true ∧ (flit 1 3583 false true).seq = 3583 ∧
    512 ≤ (0 + 4095 - 3583) % 4096 ∧ (0 + 4095 - 3584) % 4096 < 512 ∧ Pk.ofBytes (padTo 128 [0xFF]) = none :=
  ⟨fun _ => flitGood_flit .., fun _ => flitGood_flit .., flitGood_flit .., flitGood_flit .., rfl, by decide +kernel⟩

/-- A SEND of group 5, of which no job is in flight: its last flit on channel 3, and the bytes that the port then has. -/
def early : List Byte := Pk.bytes ⟨1, 5, ⟨0, 0, 0⟩, ⟨1, 0, 0⟩, 0, 0, List.replicate 16 0, [1, 2, 3]⟩
theorem test_wit_heldPacket : (arriving false).waitsBytes (padTo 128 early) = true ∧ isReq 3 = true ∧
    ((((arriving false).port 19).rxPart[3]?).getD [] ++ padTo 128 early) = padTo 128 early ∧
    flitGood (sealFlit { flit 1 0 true true with vc := 3, payload := early }) = true :=
  ⟨by decide +kernel, by decide +kernel, by decide +kernel, by simp [flit, flitGood, sealFlit, flitBytes, flitHeader]⟩

/-- The first flit of a packet in transit: it came over +Y, and its way on is port 3, over +X (R337). -/
def passingPk : Pk := ⟨1, 5, ⟨1, 0, 0⟩, ⟨2, 0, 0⟩, 0, 0, List.replicate 16 0, List.replicate 300 7⟩
def passing : List Byte := passingPk.bytes.take 256
def crossroads (w : Option Onward) : State :=
  let s := (up fun x => { x with dir := 2, ways := x.ways.set 6 w }).modPort 3 fun x => { x with state := .up, dir := 0 }
  { s with fab := { s.fab with dims := ⟨4, 4, 1⟩ } }
theorem test_wit_transit : (crossroads none).Kept ∧ (crossroads none).transits passing = true ∧
    (Pk.ofBytes passing).map (·.pair) = some passingPk.pair ∧ passing.length = 256 ∧ isReq 6 = false ∧
    (crossroads none).fab.pairHeld passingPk.pair = false ∧
    hopDir (crossroads none).fab.dims (crossroads none).pcie.coord passingPk.dst (some ((crossroads none).port 19).dir.toNat) = some 0 ∧
    choosePort (crossroads none).fab.ports passingPk.pair 0 = some (3, 0) ∧ ((crossroads none).port 3).txq.length = 7 ∧
    (crossroads none).transits (padTo 128 [0xFF]) = false ∧ ((crossroads none).port 19).ways[6]? = some none :=
  ⟨kept_of (by decide +kernel), by decide +kernel⟩
/-- The rest of such a packet comes, all that came before having been sent. -/
theorem test_wit_follows : let w : Onward := ⟨passingPk.pair, (19, 6), some (3, 5), false, false⟩
    (crossroads (some w)).Kept ∧ ((crossroads (some w)).port 19).ways[6]? = some (some w) ∧
    ((crossroads (some w)).port 3).txq[5]? = some [] :=
  ⟨kept_of (by decide +kernel), by decide +kernel⟩
/-- A flit in port 19's queue that came to channel 5 of port 3 (R331). -/
def leaving : State := (up fun x => { x with txq := x.txq.set 6 [{ queued1 with owes := some (3, 5) }] }).modPort 3 fun x =>
  { x with through := [0, 0, 0, 0, 0, 1, 0] }
theorem test_wit_leaving : leaving.Kept ∧ (leaving.port 19).state = .up ∧ (leaving.port 19).impEn = false ∧
    (leaving.port 19).heldFlits = [] ∧ (leaving.port 19).resend = [] ∧ (leaving.port 19).pick = some 6 ∧
    (leaving.port 19).txq[6]? = some [{ queued1 with owes := some (3, 5) }] ∧ 0 < ((leaving.port 3).through[5]?).getD 0 :=
  ⟨kept_of (by decide +kernel), by decide +kernel⟩

def retraining (failed : Nat) : State := port fun x => { x with state := .retraining, lanes := 0x7F, failedRetrains := failed }
theorem test_wit_retrain : (retraining 2).Kept ∧ ((retraining 2).port 19).state = .retraining ∧
    ((retraining 2).fault (0x100 + 19)).valid = false ∧ 2 ≤ ((retraining 2).port 19).failedRetrains ∧
    popByte (((retraining 2).port 19).lanes &&& ~~~0x80) = 7 ∧ ((retraining 2).port 19).lanes &&& 0x80 = 0 ∧
    popByte (((retraining 2).port 19).lanes &&& ~~~1) = 6 ∧ ((retraining 2).port 19).lanes &&& 1 ≠ 0 ∧
    popByte (((retraining 2).port 19).lanes &&& ~~~3) < 6 ∧ (retraining 1).Kept ∧ ((retraining 1).port 19).state = .retraining ∧
    ((retraining 1).port 19).failedRetrains < 2 :=
  ⟨kept_of (by decide +kernel), by decide +kernel, by decide +kernel, by decide +kernel, by decide +kernel, by decide +kernel,
    by decide +kernel, by decide +kernel, by decide +kernel, kept_of (by decide +kernel), by decide +kernel⟩
/-- Port 19 has resent n times without progress, and lane 7 last had an uncorrectable codeword at a time. -/
def tired (n : Nat) (at0 : Option Dword) : State := up fun x => { x with noProgress := n, fecAt := x.fecAt.set 7 at0 }
theorem test_wit_retrainDue : ∀ p ∈ [(16, none), (15, none), (0, some 0#64)], (tired p.1 p.2).Kept ∧
    ((tired p.1 p.2).port 19).state = .up ∧ cellsWf 0#64 ((tired p.1 p.2).port 19).counters = true ∧
    ((tired p.1 p.2).port 19).noProgress = p.1 ∧ ((tired p.1 p.2).port 19).fecAt = List.replicate 7 none ++ [p.2] ∧ (tired p.1 p.2).power.ac.toNat ≤ 0 + 3200000 ∧
    (tired p.1 p.2).boot.bar0 = true ∧ (tired p.1 p.2).boot.mode ≠ 2 := by
  intro p h
  fin_cases h <;> exact ⟨kept_of (by decide +kernel), by decide +kernel⟩
theorem test_wit_replay : (up fun x => { x with replay := [queued1] }).Kept ∧
    ((up fun x => { x with replay := [queued1] }).port 19).state = .up ∧ ((up fun x => { x with replay := [queued1] }).port 19).replay ≠ [] ∧
    cellsWf 0#64 ((up fun x => { x with replay := [queued1] }).port 19).counters = true ∧ (port fun x => { x with state := .retired }).Kept ∧
    ((port fun x => { x with state := .retired }).port 19).state = .retired := 
  ⟨kept_of (by decide +kernel), by decide +kernel, by decide +kernel, by decide +kernel, kept_of (by decide +kernel), by decide +kernel⟩

/-- Port 19 is the way to the root; n packets in a row were beyond 4 ticks. -/
def aligned (synced : Bool) (n : Nat) : State :=
  let s := up fun x => { x with dir := 1, delay := 10 }
  { s with fab := { s.fab with synced := synced, dims := ⟨2, 1, 1⟩, parent := 19, outOfStep := n, lockBeat := some 0 }
           pcie := { s.pcie with coord := ⟨1, 0, 0⟩, role := 1 } }
theorem test_wit_alignment : ∀ p ∈ [(false, 0), (true, 14), (true, 15)], (aligned p.1 p.2).Kept ∧
    ((aligned p.1 p.2).port 19).inService = true ∧ (aligned p.1 p.2).fab.synced = p.1 ∧ (aligned p.1 p.2).fab.root = false ∧
    ((aligned p.1 p.2).port (aligned p.1 p.2).fab.parent.toNat).peer = ((aligned p.1 p.2).port 19).peer ∧ (aligned p.1 p.2).fab.parent.toNat = 19 ∧ (aligned p.1 p.2).fab.outOfStep = p.2 ∧
    ((aligned p.1 p.2).modPort 19 fun y => { y with peerSynced := true }).sourcePort = some 19 ∧
    ((aligned p.1 p.2).fault (0x100 + 19)).valid = false ∧ (aligned p.1 p.2).power.locked = true ∧
    (aligned p.1 p.2).pcie.role = 1 ∧ (aligned p.1 p.2).fab.lockBeat.isSome = true ∧ ((aligned p.1 p.2).fault 0x160).valid = false ∧
    -- the peer's beat 995 plus the delay lies 5 ahead of this part's 1000
    4 < ((995 + ((aligned p.1 p.2).port 19).delay : Nat) : Int) - ((aligned p.1 p.2).beat.toNat : Int) := by
  intro p h
  fin_cases h <;> exact ⟨kept_of (by decide +kernel), by decide +kernel⟩
/-- 50 ms after the lock of a part that starts with the others, or 500 ms after that of one that rejoins a running fabric. -/
def rejoining (b late : Bool) (ac : Dword) : State :=
  let s := aligned false 0
  { s with fab := { s.fab with rejoin := b, late := late }, power := { s.power with ac := ac } }
theorem test_wit_syncLimits : ∀ p ∈ [(false, 15999999#64), (false, 16000000#64), (true, 159999999#64), (true, 160000000#64)],
    ∀ l ∈ [false, true], let s := rejoining p.1 l p.2
    s.Kept ∧ s.power.locked = true ∧ s.pcie.role ≠ 0 ∧ s.fab.synced = false ∧ s.fab.lockBeat.isSome = true ∧ s.fab.late = l ∧
    (16000000 ≤ s.power.ac.toNat ∧ s.fab.rejoin = false ∧ (∀ x ∈ s.fab.ports, x.state ≠ .training) ∨
      160000000 ≤ s.power.ac.toNat ∧ (s.fab.rejoin = false ∨ s.fab.synced = false) ↔ p.2.toNat % 2 = 0) ∧
    (s.fault 0x160).valid = false := by
  intro p h l hl
  fin_cases h <;> fin_cases hl <;> exact ⟨kept_of (by decide +kernel), by decide +kernel⟩
/-- No edge is awaited any more. -/
theorem test_wit_syncNone : base.Kept ∧ base.fab.lockBeat = none := ⟨kept_of (by decide +kernel), by decide +kernel⟩
/-- A lead 20 ms after its lock, or one ac less; its pulse is out or not. -/
def pulses (done : Bool) (ac : Dword) : State :=
  let s := aligned true 0
  { s with fab := { s.fab with pulsed := done }, power := { s.power with ac := ac } }
theorem test_wit_syncOut : ∀ p ∈ [(false, 6400000#64), (false, 6399999#64), (true, 6400000#64)], (pulses p.1 p.2).Kept ∧
    (pulses p.1 p.2).power.locked = true ∧ (pulses p.1 p.2).pcie.role = 1 ∧ (pulses p.1 p.2).fab.pulsed = p.1 ∧
    (6400000 ≤ (pulses p.1 p.2).power.ac.toNat ↔ p.2 = 6400000) := by
  intro p h
  fin_cases h <;> exact ⟨kept_of (by decide +kernel), by decide +kernel⟩
/-- Group 1023 has a job; its abort 7 of (1, 0, 0) has been seen or not. -/
def aborts (seen : Bool) : State :=
  let s := up id
  { s with met := { s.met with jobs := [{ job (drumTask 1 0) with group := 1023, tasks := [] }] }
           fab := { s.fab with seen := if seen then [⟨⟨1, 0, 0⟩, 7⟩] else [], closed := if seen then [1023, 1] else [] } }
theorem test_wit_aborts : ∀ b ∈ [false, true], (aborts b).Kept ∧ ((aborts b).port 19).inService = true ∧
    (aborts b).fab.seen.contains ⟨⟨1, 0, 0⟩, 7⟩ = b ∧ (aborts b).boot.bar0 = true ∧ (aborts b).boot.mode ≠ 2 ∧
    (1023 : Word).toNat % 1024 = 1023 := by
  intro b h
  fin_cases h <;> exact ⟨kept_of (by decide +kernel), by decide +kernel⟩
/-! ## Witnesses: faults, retirement, power -/

def after (i : Instr) (s : State) : Option State := match exec i s with
  | .next t => some t
  | _ => none

/-- Source src holds a record at this level whose grace time of 2 us began at ac b, 1000 ac after the lock at the latest. -/
def climbs (src : Nat) (level : BitVec 2) (b : Dword) : State :=
  { withDrum (drum1 []) with power := { base.power with ac := 1000 } } |>.setFault src
    { FaultSet.reset with valid := true, real := true, sub := 1, level := level, grace := 2, origin := some b, stamp := b }
theorem test_wit_climbs : ∀ p ∈ [(0#2, 361#64, false), (0#2, 360#64, true), (1#2, 360#64, true), (2#2, 360#64, true)],
    (climbs 0x171 p.1 p.2.1).Kept ∧ isSource 0x171 = true ∧ ((climbs 0x171 p.1 p.2.1).fault 0x171).expired (climbs 0x171 p.1 p.2.1).power.ac = p.2.2 ∧
    ((climbs 0x171 p.1 p.2.1).fault 0x171).level = p.1 ∧
    ((climbs 0x171 p.1 p.2.1).fault 0x171).jobv = false ∧ (climbs 0x171 p.1 p.2.1).windowOpen 0x171 = true ∧
    ((climbs 0x171 p.1 p.2.1).fault 0x171).valid = true := by
  intro p h
  fin_cases h <;> exact ⟨kept_of (by decide +kernel), by decide +kernel⟩
/-- The record of drum 1 or of stick 15, whose task it is, or one with the job. -/
def strikes (src : Nat) (jobv : Bool) : State :=
  let s := onStick.setFault src { FaultSet.reset with
    valid := true, real := true, sub := 1, grace := 2, origin := some 360, stamp := 360, jobv := jobv, job := 0 }
  { s with power := { s.power with ac := 1000 } }
theorem test_wit_strokes : ∀ p ∈ [(1, false), (0xA0 + 15, false), (0x171, true)], (strikes p.1 p.2).Kept ∧ isSource p.1 = true ∧
    ((strikes p.1 p.2).fault p.1).expired (strikes p.1 p.2).power.ac = true ∧ ((strikes p.1 p.2).fault p.1).level = 0 ∧
    ((strikes p.1 p.2).fault p.1).jobv = p.2 ∧ ((strikes p.1 p.2).fault p.1).job = 0 ∧
    ((strikes p.1 p.2).drum 1).ownTask = some (0, 0) ∧ getCell none (strikes p.1 p.2).met.sticks 15 = some (0, 0) ∧
    ((strikes p.1 p.2).task? 0 0).map (·.state) = some .running ∧ (strikes p.1 p.2).goesOn 0 0 := by
  intro p h
  fin_cases h <;> exact ⟨kept_of (by decide +kernel), by decide +kernel, by decide +kernel, by decide +kernel, by decide +kernel,
    by decide +kernel, by decide +kernel, by decide +kernel, by decide +kernel, goesOn_of rfl rfl rfl⟩
/-- Sub-source 5 has met that record in the tick of ac 1000, at beat 999; or the record itself is of that tick. -/
def inTick (stamp : Dword) : State := (climbs 0x171 0 361#64).modFault 0x171 fun f =>
  { f with stamp := stamp, recent := [(999, ⟨0x171, 5, none, none, false⟩)], tick := 312 }
theorem test_wit_clearInTick : ∀ b ∈ [361#64, 999#64], (inTick b).Kept ∧ (inTick b).windowOpen 0x171 = true ∧
    ((inTick b).fault 0x171).valid = true ∧ ((inTick b).fault 0x171).expired (inTick b).power.ac = false ∧
    (inTick b).tickFaults 0x171 = [(999, ⟨0x171, 5, none, none, false⟩)] ∧ ((inTick b).fault 0x171).stamp = b ∧
    (climbs 0x171 1 360#64).tickFaults 0x171 = [] := by
  intro b h
  fin_cases h <;> exact ⟨kept_of (by decide +kernel), by decide +kernel⟩
/-- A fault of the tick of a clear stands afterwards as a new record (R359). -/
theorem test_clearInTick : (after (.faultClear 0x171) (inTick 361)).map
    (fun t => ((t.fault 0x171).valid, (t.fault 0x171).sub, (t.fault 0x171).level, (t.fault 0x171).stamp, (t.fault 0x171).ovf)) =
      some (true, 5, 0, 999, false) := by decide +kernel
/-- Of two records at crash that are due, the lower source is 0x160. -/
def gongs : State := (climbs 0x171 2 360#64).setFault 0x160 ((climbs 0x171 2 360#64).fault 0x171)
theorem test_wit_gong : gongs.Kept ∧ gongs.gongDue 0x171 = true ∧ gongs.gongDue 0x160 = true ∧ gongs.gongDue 0x170 = false ∧
    (climbs 0x171 2 360#64).gongDue 0x171 = true ∧ (gongs.faults.map (·.1)) = [0x160, 0x171] :=
  ⟨kept_of (by decide +kernel), by decide +kernel⟩
def pulse : State := { base with power := { base.power with faultnPulse := true } }
/-- The part is in this mode; no record stands. -/
def inMode (m : BitVec 2) : State := { base with boot := { base.boot with mode := m } }
theorem test_wit_inject : pulse.power.faultnPulse = true ∧ pulse.Kept ∧ (∀ m ∈ [0#2, 1#2], (inMode m).Kept ∧
    (inMode m).windowOpen 0x171 = true ∧ ((inMode m).fault 0x171).valid = false ∧ (inMode m).boot.mode = m ∧
    (inMode m).boot.bar0 = true) ∧
    (0x82000005 : Word).getLsbD 31 = true ∧ (0x82000005 : Word).getLsbD 25 = true := by
  refine ⟨by decide +kernel, kept_of (by decide +kernel), ?_, by decide +kernel⟩
  intro m h
  fin_cases h <;> exact ⟨kept_of (by decide +kernel), by decide +kernel⟩

theorem test_wit_retire : base.Kept ∧ base.windowOpen 134 = true ∧ (base.drum 134).status = .active ∧
    (base.drum 134).logical ≠ 0xFF ∧ (base.drum 134).hasJob = false ∧ base.leaving = [] ∧ (base.spareFor 134).isSome = true :=
  ⟨kept_of (by decide +kernel), by decide +kernel⟩
/-- Drum 134 holds a HELD slot. -/
def keeps : State := { base with drums := base.drums.modify 134 fun x =>
  { x with pad := { x.pad with slots := x.pad.slots.set 7 { slot0 with state := .held } } } }
theorem test_wit_retireHeld : keeps.Kept ∧ keeps.windowOpen 134 = true ∧ (keeps.drum 134).status = .active ∧
    (keeps.drum 134).logical ≠ 0xFF ∧ (keeps.drum 134).hasJob = false ∧ keeps.leaving = [] ∧ (keeps.spareFor 134).isSome = true ∧
    (keeps.drum 134).pad.slots[7]? = some { slot0 with state := .held } :=
  ⟨kept_of (by decide +kernel), by decide +kernel⟩
/-- The check of drum 135 is due at 79,380 of each 80,000. -/
def checkAt (b : Dword) : State := { base with beat := b }
theorem test_wit_soundCheck : ∀ b ∈ [239379#64, 239380#64], (checkAt b).Kept ∧ ((checkAt b).drum 135).status ≠ .retired ∧
    (checkAt b).power.locked = true ∧ ((checkAt b).fault 135).valid = false ∧
    ((checkAt b).beat.toNat % 80000 = 588 * 135 ↔ b = 239380) := by
  intro b h
  fin_cases h <;> exact ⟨kept_of (by decide +kernel), by decide +kernel⟩

/-- A check of drum 135 has failed twice: it is told n ac later. -/
def failing (n : Nat) : State := { base with drums := base.drums.modify 135 fun x => { x with sound := { x.sound with failIn := n } } }
theorem test_wit_soundFails : ∀ n ∈ [2, 1], (failing n).Kept ∧ ((failing n).drum 135).status ≠ .retired ∧ (failing n).power.locked = true ∧
    ((failing n).drum 135).sound.failIn = n ∧ ((failing n).fault 135).valid = false ∧
    ∀ e, e ≠ 135 → ((failing n).drum e).sound.failIn = 0 := by
  intro n h
  have out (e : Nat) (hl : ¬ e < 136) : (failing n).drum e = Drum.factory 0 := by
    have hn : (failing n).drums.length = 136 := by simp [failing, base, State.reset]
    rw [State.drum, List.getElem?_eq_none (by omega)]; rfl
  have inn : (List.range 136).all (fun e => e == 135 || ((failing n).drum e).sound.failIn == 0) = true := by
    fin_cases h <;> decide +kernel
  have last (e : Nat) (he : e ≠ 135) : ((failing n).drum e).sound.failIn = 0 := by
    by_cases hl : e < 136
    · simpa [he] using List.all_eq_true.mp inn e (List.mem_range.mpr hl)
    · rw [out e hl]; decide +kernel
  fin_cases h <;> exact ⟨kept_of (by decide +kernel), by decide +kernel, by decide +kernel, by decide +kernel, by decide +kernel, last⟩

/-- The governor stands at this duty, at ac 1001 = 41 mod 64, with every sensor good. -/
def heat (duty : BitVec 7) (blind : Bool) (hot : Option Dword) : State :=
  { base with
    beat := 1001
    power := { base.power with duty := duty, dcap := 64, dtherm := 8, hotSince := hot, temps := List.replicate 24 (blind, 50)
                               tmax := 97 } }
theorem test_wit_heat : ∀ p ∈ [(64#7, false), (8#7, true)], (heat p.1 p.2 none).Kept ∧ (heat p.1 p.2 none).power.locked = true ∧
    idleSlot (heat p.1 p.2 none).power.duty.toNat ((heat p.1 p.2 none).beat.toNat % 64) = p.2 ∧
    8 ≤ (heat p.1 p.2 none).power.dcap ∧ (heat p.1 p.2 none).power.dcap ≤ 64 ∧ 8 ≤ (heat p.1 p.2 none).power.dtherm ∧
    (heat p.1 p.2 none).power.dtherm ≤ 64 ∧ (heat p.1 p.2 none).power.blindDie = p.2 ∧ (heat p.1 p.2 none).power.pwrcapN = true ∧
    (heat p.1 p.2 none).power.tripped = false ∧ ((heat p.1 p.2 none).fault 0x160).valid = false := by
  intro p h
  fin_cases h <;> exact ⟨kept_of (by decide +kernel), by decide +kernel⟩
/-- All 24 sensors at 110 deg C but the last, at 115 or 114. -/
def samples (t : Int) : List Int := List.replicate 23 110 ++ [t]
theorem test_wit_samples : ∀ t ∈ [115, 114], (samples t).length = 24 ∧
    (heat 64 false none).power.faulty (samples t) = List.replicate 24 false := by decide +kernel
theorem test_wit_thermal : (∀ b ∈ [1#64, 0#64], ({ heat 64 false (some b) with power := { (heat 64 false (some b)).power with ac := 320000 } } : State).Kept) ∧
    (320000 : Dword).toNat < (1 : Dword).toNat + 320000 ∧ (0 : Dword).toNat + 320000 ≤ (320000 : Dword).toNat := by
  refine ⟨?_, by decide +kernel⟩
  intro b h
  fin_cases h <;> exact kept_of (by decide +kernel)

/-! ## Witnesses: resets, boot, updates, attestation -/

theorem test_wit_soundFlaw : 7 < 8 ∧ 511 < checkCols 3 7 ∧ 15 < 1024 / checkGroup 3 7 ∧ 1023 < checkCols 0 7 ∧ 7 < 1024 / checkGroup 0 7 := by
  decide +kernel
/-- The check tile has 16 + 16 set cells of planes 0 and 1 in a segment of 32 rows, in even and odd rows. -/
theorem test_checkTile : (List.range 4).map (fun j => ((Skin.reset).sigAll j 31 1023, (Skin.reset).sigEven j 31 1023)) =
      [(16, 16), (16, 0), (16, 16), (16, 0)] := by decide +kernel

/-- A part with a job, its rails up or not, its PLL locked or not, RESET_N high or low. -/
def rails (pwrok locked resetN : Bool) : State :=
  let s := withDrum (drum1 [])
  { s with power := { s.power with pwrok := pwrok, locked := locked, resetN := resetN } }
theorem test_wit_resets : ∀ p ∈ [(true, true, true), (true, false, true), (true, true, false), (false, false, true)],
    (rails p.1 p.2.1 p.2.2).Kept ∧ (rails p.1 p.2.1 p.2.2).power.pwrok = p.1 ∧ (rails p.1 p.2.1 p.2.2).power.locked = p.2.1 ∧
    (rails p.1 p.2.1 p.2.2).power.resetN = p.2.2 ∧ (rails p.1 p.2.1 p.2.2).power.tripped = false ∧
    ((rails p.1 p.2.1 p.2.2).fault 0x161).valid = false ∧ (rails p.1 p.2.1 p.2.2).boot.bar0 = true ∧
    (rails p.1 p.2.1 p.2.2).boot.mode ≠ 2 := by
  intro p h
  fin_cases h <;> exact ⟨kept_of (by decide +kernel), by decide +kernel⟩

/-- An image with one empty section behind its manifest, for root keys of one byte each. -/
def image (v : Half) (k : Bool) : FlashSlot :=
  { FlashSlot.empty with present := true, magic := true, svn := v, keyEd := [1], keyMldsa := [2], sigEd := true, sigMldsa := true
                         sections := [⟨Boot.reset.slotBase k, 0, sha512 []⟩] }
/-- The boot runs; slot A passes its checks or not, slot B holds an image of SVN v; the counter is 1. A record is good, or of a
later counter value; the channels come up as before a warm reset. -/
def boots (a : Bool) (v : Half) (puf : Bool) (ctr : Half := 1) : State :=
  { base with
    mem := { base.mem with up := false, training := some (BitVec.allOnes 64, true) }
    boot := { Boot.reset with
      booting := true, pufOk := puf, counter := 1, rootEd := [1], rootMldsa := [2], slotA := { image 1 false with sigMldsa := a }
      slotB := image v true, records := [⟨.repair, [], ctr, true, true⟩] } }
theorem test_wit_boots : ∀ p ∈ [(true, 1#16), (false, 1#16), (false, 0#16)], (boots p.1 p.2 true).Kept ∧
    (boots p.1 p.2 true).boot.booting = true ∧ (boots p.1 p.2 true).power.resetN = true ∧ (boots p.1 p.2 true).power.locked = true ∧
    ((boots p.1 p.2 true).fault 0x161).valid = false ∧ (boots p.1 p.2 true).boot.firstSlot = false ∧
    ((boots p.1 p.2 true).boot.verdict false = .bootable ↔ p.1 = true) ∧
    ((boots p.1 p.2 true).boot.verdict true = .bootable ↔ p.2 = 1) ∧ (boots p.1 p.2 false).boot.pufOk = false ∧
    (boots p.1 p.2 true).boot.pufOk = true ∧ ((boots p.1 p.2 true).boot.records.all (·.verifies 1)) = true ∧
    (boots p.1 p.2 true).mem.training = some (BitVec.allOnes 64, true) := by
  intro p h
  fin_cases h <;> exact ⟨kept_of (by decide +kernel), by decide +kernel⟩

/-- The same with a record of a later counter value. -/
theorem test_wit_bootsRecord : (boots true 1 true 2).Kept ∧ (boots true 1 true 2).boot.verdict false = .bootable ∧
    (boots true 1 true 2).boot.counter = 1 ∧ ((boots true 1 true 2).boot.records.all (·.verifies 1)) = false ∧
    ((boots true 1 true 2).fault 0x161).valid = false :=
  ⟨kept_of (by decide +kernel), by decide +kernel⟩

/-- The update engine has this operation or none; slot B is booted on trial. -/
def updates (op : Option UpdateOp) : State :=
  { base with boot := { base.boot with busy := op, slot := true, trial := true, trialSlot := some true, rootEd := [1], rootMldsa := [2]
                                       slotA := image 1 false, slotB := image 3 true } }
theorem test_wit_updates : ∀ op ∈ [none, some (.writeImage 33554432), some .commit, some .abandon, some (.writeRepair 4),
      some (.writePlace 4)], (updates op).Kept ∧ (updates op).boot.bar0 = true ∧ (updates op).boot.busy = op ∧
    (updates op).boot.spdmWait = [] ∧ ((updates op).fault 0x161).valid = false ∧ (updates op).updData 33554432 = true ∧
    (updates op).boot.trialSlot = some (updates op).boot.slot ∧ (updates op).boot.trial = true := by
  intro op h
  fin_cases h <;> exact ⟨kept_of (by decide +kernel), by decide +kernel⟩

/-- The data of a write of four bytes lie in LPDDR5 or in the host's memory, and come at once; before READY they are awaited. -/
def writes (op : UpdateOp) (addr : Dword) (up : Bool) : State :=
  let s := updates (some op)
  { s with boot := { s.boot with updAddr := addr }, mem := { s.mem with up := up, data := putBytes [] 4096 [1, 2, 3, 4] }
           hostMem := putBytes [] 0 [5, 6] }
theorem test_wit_updateData : (∀ op ∈ [UpdateOp.writeImage 4, .writeRepair 4, .writePlace 4], (writes op 4096 true).Kept ∧
      (writes op 4096 true).boot.busy = some op ∧ (writes op 4096 true).boot.bar0 = true ∧ (writes op 4096 true).boot.spdmWait = [] ∧
      ((writes op 4096 true).updFetch 4).1 = some [1, 2, 3, 4] ∧
      ((writes op 4096 true).updFetch 4).2.boot = (writes op 4096 true).boot ∧
      (((writes op 4096 true).updFetch 4).2.fault 0x161).valid = false ∧
      ((writes op 4096 false).updFetch 4).1 = none ∧ (writes op 4096 false).Kept ∧
      ((writes op 4096 false).updFetch 4).2.boot = (writes op 4096 false).boot) ∧
    (writes (.writeImage 4) 0x800000000000 true).inMem (writes (.writeImage 4) 0x800000000000 true).boot.updAddr.toNat 4 = false ∧
    inHost (writes (.writeImage 4) 0x800000000000 true).boot.updAddr.toNat 4 = true ∧
    (writes (.writeImage 4) 0x800000000000 true).pcie.role ≠ 2 := by
  refine ⟨?_, by decide +kernel⟩
  intro op h
  fin_cases h <;> exact ⟨kept_of (by decide +kernel), by decide +kernel, by decide +kernel, by decide +kernel, by decide +kernel,
    by decide +kernel, by decide +kernel, by decide +kernel, kept_of (by decide +kernel), by decide +kernel⟩

/-- The part has an identity; a flash operation runs or not, a signed answer came last or not. -/
def attesting (busy pq : Bool) : State :=
  { base with boot := { base.boot with keys := some ⟨5, 6, 7, 8⟩, busy := if busy then some .abandon else none
                                       signedHash := if pq then some 9 else none, vca := [1, 2] } }
theorem test_wit_attests : ∀ p ∈ [(false, false), (false, true), (true, false)], (attesting p.1 p.2).attests = true ∧
    (attesting p.1 p.2).boot.busy.isSome = p.1 ∧ (attesting p.1 p.2).boot.signedHash.isSome = p.2 ∧
    ((attesting p.1 p.2).boot.measOf 23).isSome = true := by decide +kernel

/-! ## Witnesses: diagnosis and registers -/

/-- Diagnostic mode, the LPDDR5 window at its base 1. -/
def diagnosing (on : Bool) : State := { inMode 0 with boot := { base.boot with diag := on, lpbase := 1 } }
theorem test_wit_diag : (diagnosing true).Kept ∧ (diagnosing true).boot.bar0 = true ∧ (diagnosing true).boot.diag = true ∧
    (diagnosing false).boot.diag = false ∧ (diagnosing false).boot.bar0 = true ∧
    (diagnosing true).inMem ((diagnosing true).boot.lpbase.toNat * 0x10000000 + 0xFFFFFFC) 4 = true ∧
    (diagnosing true).memHeld = false ∧ (diagnosing true).fates.blocks = [] ∧ (diagnosing true).fates.mesh = [] ∧
    (diagnosing true).slotTaken ((diagnosing true).rangeChans (0x10000000 + 0xFFFFFFC) 4) = false ∧
    ((diagnosing true).drum 135).pad.failed = [] ∧
    ((List.range 2).all fun n => !((diagnosing true).chan
      ((diagnosing true).mem.place ((0x10000000 + 0xFFFFFFC) / 480 + n)).1).bad.contains
      ((diagnosing true).mem.place ((0x10000000 + 0xFFFFFFC) / 480 + n)).2) = true ∧
    base.power.locked = true ∧ (inMode 1).power.locked = true ∧ (inMode 1).boot.mode = 1 :=
  ⟨kept_of (by decide +kernel), by decide +kernel⟩
/-- A class-0 transfer asks for every channel in a reserved slot. -/
def pushed : State :=
  let s := diagnosing true
  { s with beat := 1024, met := { s.met with moves := [{ move1 with live := true, pos := 0, len := 65536, src := ⟨0x10000000, none, []⟩ }] } }
theorem test_wit_diagTaken : pushed.Kept ∧ pushed.boot.bar0 = true ∧ pushed.boot.diag = true ∧
    pushed.slotTaken (pushed.rangeChans 0x10000000 4) = true ∧ pushed.fates.blocks = [] ∧ pushed.fates.mesh = [] :=
  ⟨kept_of (by decide +kernel), by decide +kernel⟩

/-- The last word of drum 135's pad fails its re-read, block 0 of the window gives an error; or LPDDR5 is not up. -/
def damaged (up : Bool) : State :=
  let s := diagnosing true
  let p := s.mem.place (0x10000000 / 480)
  let s := s.modChan p.1 fun c => { c with bad := [p.2] }
  { s with mem := { s.mem with up := up }, drums := s.drums.modify 135 fun x => { x with pad := { x.pad with failed := [0x3FFFF] } } }
theorem test_wit_diagLost : (damaged true).Kept ∧ (damaged true).boot.bar0 = true ∧ (damaged true).boot.diag = true ∧
    ((damaged true).drum 135).pad.anyFailed 0x3FFFFF 1 = true ∧ (damaged true).inMem 0x10000000 1 = true ∧
    (damaged true).boot.lpbase.toNat * 0x10000000 + 0 = 0x10000000 ∧ (damaged true).memHeld = false ∧ (damaged true).fates.blocks = [] ∧ (damaged true).fates.mesh = [] ∧
    (damaged true).slotTaken ((damaged true).rangeChans 0x10000000 1) = false ∧
    ((damaged true).chan ((damaged true).mem.place (0x10000000 / 480)).1).bad.contains
      ((damaged true).mem.place (0x10000000 / 480)).2 = true ∧ (damaged false).memHeld = true :=
  ⟨kept_of (by decide +kernel), by decide +kernel⟩

/-- The units 135, 63 and 19 stand or are retired. -/
def units (retired : Bool) : State :=
  let s := { base with drums := base.drums.modify 135 fun x => { x with status := if retired then .retired else .active, logical := 0xFF } }
  (s.modChan 63 fun c => { c with retired := retired }).modPort 19 fun x => { x with state := if retired then .retired else .up, counters := [(11, 4)] }
theorem test_wit_units : ∀ b ∈ [false, true], (units b).Kept ∧ (units b).boot.bar0 = true ∧ (units b).boot.mode ≠ 2 ∧
    ((units b).drum 135).status = (if b then DrumState.retired else DrumState.active) ∧ ((units b).chan 63).retired = b ∧
    ((units b).port 19).state = (if b then PortState.retired else PortState.up) ∧
    ((List.range 136).find? fun p => ((units b).drum p).status != .retired && (units b).boot.bcastMask.getLsbD (p / 17)) = some 0 := by
  intro b h
  fin_cases h <;> exact ⟨kept_of (by decide +kernel), by decide +kernel⟩
/-! ## The spec's worked examples and tables -/

/-- FP8 conversions at scale 1.0 (after R95): x = 0.3, 1.0625, 500 and +inf, to E4M3 and E5M2. -/
theorem test_fp8 : e4m3.round .even (val 0x3E99999A) = 0x2A ∧ e5m2.round .even (val 0x3E99999A) = 0x35 ∧
    e4m3.round .even (val 0x3F880000) = 0x38 ∧ e4m3.round .away (val 0x3F880000) = 0x39 ∧
    e5m2.round .even (val 0x3F880000) = 0x3C ∧ e5m2.round .even (val 0x43FA0000) = 0x60 ∧
    (narrowOne .fp8a true false .even 0x3F80 0 0x43FA0000).code = 0x7E ∧
    (narrowOne .fp8a true false .even 0x3F80 0 posInf32).code = 0x7E ∧
    (narrowOne .fp8b true false .even 0x3F80 0 posInf32).code = 0x7C := by decide +kernel
/-- A delayed int4 quantiser: amax 2.8125 gives 0x3ECE, and 3.5 doubled gives 1.0. -/
theorem test_fitScale : fitScale (.int 4) true false 0x40340000 0xBFC00000 0 .even = (0x3ECE, 0) ∧
    fitScale (.int 4) true false 0x40600000 0xC0600000 1 .even = (0x3F80, 0) := by decide +kernel
/-- The codes of that example: 1.005859375 under both roundings, 3.125 and -3.5 with their saturations, -3.25. -/
theorem test_narrowCodes : (narrowOne (.int 4) true false .even 0x3ECE 0 0x3F80C000).code = 2 ∧
    (narrowOne (.int 4) true false .away 0x3ECE 0 0x3F80C000).code = 3 ∧
    narrowOne (.int 4) true false .even 0x3ECE 0 0x40480000 = ⟨7, true, false⟩ ∧
    narrowOne (.int 4) true false .even 0x3ECE 0 0xC0500000 = ⟨8, false, false⟩ ∧
    narrowOne (.int 4) true false .even 0x3ECE 0 0xC0600000 = ⟨8, true, false⟩ := by decide +kernel
/-- One sum split four ways: the nodes (1, 0), (1, 1) and the root of the fixed tree. -/
theorem test_bellTree : fadd 0x4B800000 0x3F800000 = 0x4B800000 ∧ fadd 0x3F800000 0xCB800000 = 0xCB7FFFFF ∧
    fadd 0x4B800000 0xCB7FFFFF = 0x3F800000 := by decide +kernel
/-- Zero point example: C = 4 under the scales 0.375 and 0.0625 is 0.09375. -/
theorem test_dequantise : dequant 4 0 0x3EC0 0x3D80 = 0x3DC00000 := by decide +kernel
/-- Weights 1, -2, -1 and 1 as int2 codes in rows 0 to 3 of column 0. -/
def cells4 : Cells (BitVec 4) := putCell 0#4 (putCell 0#4 (putCell 0#4 (putCell 0#4 [] 0 1) 1024 2) 2048 3) 3072 1
/-- One segment, bit-plane by bit-plane: activations 5, -3, 7, -8 against those weights sum to -4. -/
theorem test_segment : segSum { Drum.factory 0 with skin := { Skin.reset with cells := cells4 } }
    { step1 with sgn := true, a := 4, k := 4, wfmt := 2, n := 1 } [0b0111, 0b0100, 0b0111, 0b1010] 0 0 = -4 := by decide +kernel
/-- One 8-bit weight: -93 from the nibbles 0x3 and 0xA. -/
theorem test_columnPair : weightAt (putCell 0#4 (putCell 0#4 [] 0 3) 1 10) 5 0 0 = -93 := by decide +kernel
/-- A column of 64 words from 0x3_0050 meets all 64 banks, at stride 2 KiB 32 of them. -/
theorem test_banks : ((List.range 64).map fun r => bankOf (0x30050 + 1024 * r)).Nodup ∧
    (List.range 32).map (fun r => bankOf (0x30050 + 2048 * r)) = (List.range 32).map fun r => bankOf (0x30050 + 2048 * (r + 32)) := by
  decide +kernel
/-- The ROPE example of R186: 1.5 and -2.0 under cos 0.5 and sin 0.8671875 give 2.484375 and 0.30078125. -/
theorem test_rope : (((at_ (roll 0x40 1 2 false) fun x =>
      let x := bytesAt [(16384, [0x00, 0x3F, 0x5E, 0x3F])] x
      { x with shell := (x.shell.put 255 0 0x3FC00000).put 255 1 0xC0000000 }).drum 1).ropeRow (rollW (roll 0x40 1 2 false)) 0
      [0x3FC00000, 0xC0000000]) = some [0x401F0000, 0x3E9A0000] := by decide +kernel
/-- Admitting a live score: four tasks on drums 124 and 125 and engine 15 finish by beat 65,286. -/
theorem test_admission :
    let t (w : Nat) (succs : List Nat) (b : TaskBody) : TaskRec := { drumTask 0 0 with work := w, succs := succs, body := b }
    let sc := [t 10486 [1, 2] (.dma 0 0 0 false false), t 20000 [3] (.drum (1 <<< 124) 0 1 0 0),
      t 12000 [3] (.drum (1 <<< 125) 0 1 0 0), t 6000 [] (.drum (1 <<< 124) 0 1 0 0)]
    sc.zipIdx.foldl (fun a p => admitTask sc 0 a p.2 p.1) ⟨[], [], [(124, 5000), (142, 2000)], 0⟩ =
      ⟨[20086, 49686, 41686, 65286], [some 15, none, none, none], [(124, 65286), (125, 41686), (142, 2000), (143, 20086)], 65286⟩ := by
  decide +kernel
/-- The CRC of R327 (ECMA-182, initial value all ones, final inversion) over the digits 1 to 9: the catalogue's check value. -/
theorem test_crc64 : crc64 [0x31, 0x32, 0x33, 0x34, 0x35, 0x36, 0x37, 0x38, 0x39] = 0x62EC59E3F1A4F00A := by decide +kernel
/-- The hashes that R382 to R388 name: the published examples of FIPS 180-4 ("abc"), FIPS 202 (the empty message) and RFC 4231. -/
theorem test_hashes : sha512 [0x61, 0x62, 0x63] =
      0x9fa44ca54fc99a2a0ee83c6423444d45bdebfea3233cba36a8c14f272a9992219ad3554be6ee9e0aa27ea9894efae612314120ae497341ccba7a6193a135afdd ∧
    shake256 [] =
      0xbec4b7b3ac2e294086b49a47491c82fcf692b5679d0105cb00f2c0d8ddc45dd72f76d56e64270cb5821bb862ea52cd3f24eb3e74eb3f3b23138da80b2bddb946 ∧
    (hmacSha512 (List.replicate 20 0x0B) [0x48, 0x69, 0x20, 0x54, 0x68, 0x65, 0x72, 0x65]).take 8 =
      [0x87, 0xAA, 0x7C, 0xDE, 0xA5, 0xEF, 0x61, 0x9D] := by decide +kernel
/-- Of two equal ways round a ring the + one is taken (R335): from 0 to 8 of 16, and from 3 to 1 of 4 in Z. -/
theorem test_ties : nextDir ⟨16, 16, 64⟩ ⟨0, 0, 0⟩ ⟨8, 5, 1⟩ = some 0 ∧ nextDir ⟨1, 1, 4⟩ ⟨0, 0, 3⟩ ⟨0, 0, 1⟩ = some 4 ∧
    nextDir ⟨16, 16, 64⟩ ⟨0, 0, 0⟩ ⟨9, 0, 0⟩ = some 1 := by decide +kernel
/-- Duty 32 idles every second ac of a frame (R410). -/
theorem test_duty : (List.range 8).map (idleSlot 32) = [false, true, false, true, false, true, false, true] := by decide +kernel

/-! ## Single steps -/

/-- A FILL of the last two units of the region writes 32 bytes; one unit further it raises the region fault 0x60. -/
theorem test_fill : (after (.fill 1) (at_ fillPad)).map (fun t => getBytes (t.drum 1).pad.mem (16 * (0x8000 - 2)) 33) =
      some ((List.replicate 8 [7, 0, 0, 0]).flatten ++ [0]) ∧
    (after (.fill 1) (at_ fillOut)).map (fun t => ((t.fault 1).valid, (t.fault 1).sub, (t.drum 1).seq.stopped)) =
      some (true, 0x60, true) := by decide +kernel
/-- A reserved opcode raises the instruction fault 0x01. -/
theorem test_reserved : (after (.fill 1) (at_ badOp)).map (fun t => ((t.fault 1).valid, (t.fault 1).sub)) = some (true, 0x01) := by
  decide +kernel
/-- SCALE by 2.0 plus 1.0 of a shell row that holds 3.0 and +0 (R187). -/
theorem test_scale : (after (.rollScale 1 true) (at_ (roll 1 0x4000 0x3F80 false) fun x =>
      { x with shell := x.shell.put 255 15 0x40400000 })).map (fun t => (shellAt (t.drum 1).shell 255 15, shellAt (t.drum 1).shell 255 0)) =
      some (0x40E00000, 0x3F800000) := by decide +kernel
/-- TOPK writes value and index of its two largest, the largest first (R189). -/
theorem test_topk : (after (.topk 1 true) (at_ (roll 0x50 2 0 true) fun x =>
      { x with shell := (x.shell.put 255 3 0x3F800000).put 255 9 0x40000000 })).map (fun t => getBytes (t.drum 1).pad.mem 49152 16) =
    some (leBytes 4 0x40000000 ++ leBytes 4 9 ++ leBytes 4 0x3F800000 ++ leBytes 4 3) := by decide +kernel
/-- A doorbell of the ring's size disables the ring (R284); fault 0x02 of source 0x150 is latched. -/
theorem test_doorbell : (after (.doorbellSqtail 4095 64) (bells true)).map
    (fun t => ((t.ring 4095).en, (t.ring 4095).err, (t.fault 0x150).sub)) = some (false, true, 0x02) := by decide +kernel
/-- A cap below 50 written over SMBus is held at 50 (R418). -/
theorem test_cap : (after (.smbCapWrite ⟨3, none⟩) base).map (·.power.bmcCap) = some 50 := by decide +kernel
/-- The check value of SMBus's CRC-8 over the digits 1 to 9. -/
theorem test_pec : pec [0x31, 0x32, 0x33, 0x34, 0x35, 0x36, 0x37, 0x38, 0x39] = 0xF4 ∧
    some (pec ([0xB4, 0x03] ++ leBytes 2 60) + 1) ≠ some (pec ([0xB4, 0x03] ++ leBytes 2 60)) := by decide +kernel
/-- A SEND whose flit fails twice, or fails at bridge B0 of die 1 (source 0x174), is gone, with its job (R357). -/
theorem test_lost : (after (.sendArrival 1 3 .badFlit) (sends .bound)).map (fun t => ((t.fault 1).sub, t.noc.length, t.met.jobs.length)) =
      some (0x71, 0, 0) ∧
    (after (.sendArrival 1 71 (.badBond 4)) crossing).map (fun t => ((t.fault 0x174).sub, (t.fault 0x174).job, t.noc.length,
      t.met.jobs.length)) = some (0x01, 0, 0, 0) := by decide +kernel
/-- A shell row that fails its parity under a SCALE (R357). -/
theorem test_parity : (after (.rollScale 1 false) (at_ (roll 1 0x4000 0x3F80 false))).map
    (fun t => ((t.fault 1).sub, (t.drum 1).seq.stopped, (t.drum 1).shell.rows)) = some (0x72, true, []) := by decide +kernel

end Sys2Proof.Tests
end

section
/-! The idle step (O2): each thing that goes on by itself leaves a quiet part as it is, so that an ac on an empty queue is the
clock's tick alone. -/

namespace Sys2Proof.Machine

/-! ### Updates that change nothing -/

theorem loop_fixed {σ : Type} {f : Nat → σ → σ} {s : σ} (hf : ∀ i, f i s = s) : ∀ n, loop f n s = s
  | 0 => rfl
  | n + 1 => by rw [loop, loop_fixed hf n, hf]

theorem modAt_fixed {α : Type} {l : List α} {i : Nat} {f : α → α} (h : ∀ x, l[i]? = some x → f x = x) : modAt l i f = l := by
  unfold modAt
  split
  next x hx =>
    obtain ⟨_, rfl⟩ := List.getElem?_eq_some_iff.1 hx
    rw [h _ hx, List.set_getElem_self]
  next => rfl

theorem State.modPort_fixed {s : State} {p : Nat} {f : Port → Port} (h : ∀ x, s.fab.ports[p]? = some x → f x = x) :
    s.modPort p f = s := by
  rw [State.modPort, State.modFab, modAt_fixed h]

/-! ### The tick -/

theorem clock_runs {s : State} (hl : s.power.locked = true) (ht : s.power.tripped = false) :
    (s.power.locked && !s.power.tripped) = true := by simp [hl, ht]

/-- While the control clock runs, a tick moves the two counts of ac, MET_RINGWAIT and, at a frame's start, the duty. -/
theorem State.tick_running {s : State} (hl : s.power.locked = true) (ht : s.power.tripped = false) :
    s.tick = { s with
      beat := s.beat + 1
      met := { s.met with ringwait := s.tick.met.ringwait }
      power := { s.power with
        ac := s.power.ac + 1
        duty := if (s.beat + 1).toNat % 64 = 0 then ({ s.power with ac := s.power.ac + 1 } : Power).limit else s.power.duty } } := by
  by_cases room : s.rings.any (fun p => p.2.waitsForRoom) = true <;>
    by_cases frame : (s.beat + 1).toNat % 64 = 0 <;>
    simp only [State.tick, clock_runs hl ht, State.modPower, State.modMet, room, frame, if_true, if_false, Bool.false_eq_true]

theorem State.quiet.quiet_tick {s : State} (q : s.quiet) (hl : s.power.locked = true) (ht : s.power.tripped = false) :
    s.tick.quiet := by
  rw [State.tick_running hl ht]
  exact q

/-! ### Drums, transfers and records -/

theorem State.quiet.soundTick_eq {s : State} (q : s.quiet) : s.soundTick = s := by
  obtain ⟨drums, -⟩ := q
  refine List.foldl_fixed' (fun d => ?_) _
  rw [(drums d).2]

theorem State.quiet.idle_eq_tick {s : State} (q : s.quiet) (hl : s.power.locked = true) (ht : s.power.tripped = false) :
    s.idle = s.tick := by
  obtain ⟨drums, -⟩ := q.quiet_tick hl ht
  rw [State.idle, if_pos (clock_runs hl ht)]
  refine loop_fixed (fun d => ?_) 136
  rw [(drums d).1, if_neg Bool.false_ne_true]

theorem State.quiet.runMoves_eq {s : State} (q : s.quiet) : s.runMoves = s := by
  obtain ⟨-, moves, -⟩ := q
  simp [State.runMoves, moves]

theorem State.quiet.flushAll_eq {s : State} (q : s.quiet) : s.flushAll = s := by
  obtain ⟨-, -, out, -⟩ := q
  have none_waits : s.rings.filter (fun p => !p.2.out.isEmpty) = [] := by
    rw [List.filter_eq_nil_iff]
    intro p hp
    simp [out p hp]
  have count : (s.rings.map fun p => p.2.out.length).sum = 0 := by
    rw [List.sum_eq_zero_iff]
    intro n hn
    obtain ⟨p, hp, rfl⟩ := List.mem_map.1 hn
    simp [out p hp]
  simp only [State.flushAll, count, urgentGo, none_waits, List.map_nil, List.foldl_nil]

/-! ### Ports -/

theorem State.transits_nil (s : State) : s.transits [] = false := rfl

/-- A port that is not there reads as `Port.reset`, which holds nothing either. -/
theorem State.quiet.port_empty {s : State} (q : s.quiet) (p : Nat) :
    (s.port p).ingress = [] ∧ (s.port p).stuck = [0, 0, 0, 0, 0, 0, 0] ∧ (s.port p).starved = false ∧
      ∀ l ∈ (s.port p).rxPart, s.transits l = false := by
  obtain ⟨-, -, -, ports⟩ := q
  cases h : s.fab.ports[p]? with
  | some x => simpa only [State.port, h, Option.getD_some] using ports x (List.mem_of_getElem? h)
  | none =>
    simp only [State.port, h, Option.getD_none]
    exact ⟨rfl, rfl, by decide, by simp [Port.reset, s.transits_nil]⟩

theorem getD_stuck_none (v : Nat) : ([0, 0, 0, 0, 0, 0, 0][v]?).getD 0 = 0 := by
  rcases h : ([0, 0, 0, 0, 0, 0, 0] : List Nat)[v]? with _ | n
  · rfl
  · simpa using List.mem_of_getElem? h

theorem Port.unstick_zero (x : Port) (v : Nat) : x.unstick v 0 = x := by
  have stuck : modAt x.stuck v (· - 0) = x.stuck := modAt_fixed fun _ _ => rfl
  have owed : modAt x.owed v (· + 0) = x.owed := modAt_fixed fun _ _ => rfl
  simp only [Port.unstick, Nat.zero_min, stuck, owed]

theorem State.quiet.letChannelGo_eq {s : State} (q : s.quiet) (p v : Nat) : s.letChannelGo p v = s := by
  obtain ⟨-, stuck, -, arriving⟩ := q.port_empty p
  have here : s.transits (((s.port p).rxPart[v]?).getD []) = false := by
    cases h : (s.port p).rxPart[v]? with
    | some l => exact arriving l (List.mem_of_getElem? h)
    | none => exact s.transits_nil
  have kept : (s.modPort p fun x => s.letGo x (((s.port p).rxPart[v]?).getD []) v ((x.stuck[v]?).getD 0)) = s := by
    refine State.modPort_fixed fun x hx => ?_
    have hs : x.stuck = [0, 0, 0, 0, 0, 0, 0] := by simpa only [State.port, hx, Option.getD_some] using stuck
    rw [State.letGo, here, if_neg Bool.false_ne_true, hs, getD_stuck_none, Port.unstick_zero]
  rw [State.letChannelGo]
  simp only [kept, here, Bool.false_eq_true, if_false]

theorem State.quiet.drainPort_eq {s : State} (q : s.quiet) (p : Nat) : s.drainPort p = s := by
  obtain ⟨held, -⟩ := q.port_empty p
  have go : s.letAllGo p = s := List.foldl_fixed' (q.letChannelGo_eq p) _
  simp only [State.drainPort, held, List.isEmpty_nil, if_true, go, ite_self]

theorem State.quiet.drainPorts_eq {s : State} (q : s.quiet) : s.drainPorts = s := List.foldl_fixed' q.drainPort_eq _

theorem State.quiet.creditWait_eq {s : State} (q : s.quiet) : s.creditWait = s := by
  refine List.foldl_fixed' (fun p => ?_) _
  obtain ⟨-, -, fed, -⟩ := q.port_empty p
  rw [fed, if_neg Bool.false_ne_true]

/-! ### The step on an empty queue -/

theorem State.quiet.pass_eq_tick {s : State} (q : s.quiet) (hl : s.power.locked = true) (ht : s.power.tripped = false) :
    s.pass = s.tick := by
  have r := q.quiet_tick hl ht
  rw [State.pass, if_pos (clock_runs hl ht), q.idle_eq_tick hl ht, r.soundTick_eq, r.runMoves_eq, r.drainPorts_eq,
    r.creditWait_eq, r.flushAll_eq]

theorem State.pass_stopped {s : State} (h : s.power.locked = false ∨ s.power.tripped = true) : s.pass = s := by
  have clock : (s.power.locked && !s.power.tripped) = false := by rcases h with h | h <;> simp [h]
  rw [State.pass, clock, if_neg Bool.false_ne_true]

theorem step_empty {s : State} (h : s.pending = []) : step s = .next s.pass := by
  rw [step, h]

/-- Settles O2: on a quiet part everything but the tick is the identity, and without clock the pass is. -/
theorem emptyQueueLetsOneAcPass : Obligations.EmptyQueueLetsOneAcPass := by
  intro s empty
  rw [step_empty empty]
  constructor
  · intro hl ht q
    have tick := State.tick_running hl ht
    have beat : s.tick.beat = s.beat + 1 := by rw [tick]
    have duty : s.tick.power.duty = if s.tick.beat.toNat % 64 = 0 then ({ s.power with ac := s.power.ac + 1 } : Power).limit
        else s.power.duty := by rw [beat, tick]
    refine ⟨s.tick, by rw [q.pass_eq_tick hl ht], beat, ?_, duty⟩
    rw [duty, beat]
    exact tick
  · intro stopped
    rw [State.pass_stopped stopped]

end Sys2Proof.Machine
end

section
/-! Every step keeps the part and its stores (O4): the invariant by component. -/

namespace Sys2Proof.Machine

set_option Elab.async false

/-- An empty store is canonical. -/
theorem cellsWf_nil {α : Type} [DecidableEq α] {d : α} : cellsWf d [] = true := rfl

theorem cellsFrom_map {α : Type} [DecidableEq α] {d : α} {g : Nat × α → Nat × α} (key : ∀ p, (g p).1 = p.1)
    (val : ∀ p, p.2 ≠ d → (g p).2 ≠ d) : ∀ {c : Cells α} {lo : Nat}, cellsFrom d lo c = true →
      cellsFrom d lo (c.map g) = true
  | [], _, h => h
  | (k, v) :: c, lo, h => by
    simp only [List.map_cons, cellsFrom, Bool.and_eq_true, decide_eq_true_eq, key] at h ⊢
    obtain ⟨⟨hk, hv⟩, hc⟩ := h
    exact ⟨⟨hk, val (k, v) hv⟩, cellsFrom_map key val hc⟩

/-- A change of the values that makes none the default keeps the canonical form. -/
theorem cellsWf_map {α : Type} [DecidableEq α] {d : α} {g : Nat × α → Nat × α} (key : ∀ p, (g p).1 = p.1)
    (val : ∀ p, p.2 ≠ d → (g p).2 ≠ d) {c : Cells α} (h : cellsWf d c = true) : cellsWf d (c.map g) = true :=
  cellsFrom_map key val h

theorem cellsFrom_mapFilter {α : Type} [DecidableEq α] {d : α} {f : α → α} : ∀ {c : Cells α} {lo : Nat},
    cellsFrom d lo c = true → cellsFrom d lo ((c.map fun p => (p.1, f p.2)).filter fun p => decide (p.2 ≠ d)) = true
  | [], _, h => h
  | (k, v) :: c, lo, h => by
    simp only [cellsFrom, Bool.and_eq_true, decide_eq_true_eq] at h
    obtain ⟨⟨hk, -⟩, hc⟩ := h
    have ih := cellsFrom_mapFilter (f := f) hc
    simp only [List.map_cons, List.filter_cons]
    split
    · next hv =>
      simp only [cellsFrom, Bool.and_eq_true, decide_eq_true_eq]
      exact ⟨⟨hk, of_decide_eq_true hv⟩, ih⟩
    · exact cellsFrom_mono (by omega) ih

/-- A change of the values after which the defaults are dropped keeps the canonical form. -/
theorem cellsWf_mapFilter {α : Type} [DecidableEq α] {d : α} {f : α → α} {c : Cells α} (h : cellsWf d c = true) :
    cellsWf d ((c.map fun p => (p.1, f p.2)).filter fun p => decide (p.2 ≠ d)) = true := cellsFrom_mapFilter h

/-- A ring whose waiting records change is still no ring at its reset value. -/
theorem Ring.mapOut_ne_reset {r : Ring} (f : Record → Record) (h : r ≠ Ring.reset) :
    { r with out := r.out.map f } ≠ Ring.reset := by
  intro e
  apply h
  cases r
  simp only [Ring.reset, Ring.mk.injEq, List.map_eq_nil_iff] at e ⊢
  exact e

/-- A record that freezes is still no record at its reset value. -/
theorem FaultSet.freeze_ne_reset {f : FaultSet} (h : f ≠ FaultSet.reset) : f.freeze ≠ FaultSet.reset := by
  unfold FaultSet.freeze
  split
  · intro e; simpa [FaultSet.reset] using congrArg FaultSet.frozen e
  · exact h

/-! ### The invariant of a drum -/

/-- The stores of a pad are in canonical form. -/
def Pad.Kept (p : Pad) : Prop :=
  Memory.wf p.mem = true ∧ cellsWf 0#32 p.tallies = true ∧ cellsWf Bank.awake p.banks = true

/-- The stores of a shell are in canonical form. -/
def Shell.Kept (h : Shell) : Prop := cellsWf 0#32 h.rows = true ∧ cellsWf 0#32 h.tstat = true

/-- `Drum.kept`, by the drum's units. -/
def Drum.Kept (x : Drum) : Prop := x.pad.Kept ∧ x.shell.Kept

theorem Drum.kept_iff {x : Drum} : x.kept = true ↔ x.Kept := by
  simp only [Drum.kept, Drum.Kept, Pad.Kept, Shell.Kept, Bool.and_eq_true, and_assoc]

theorem Drum.Kept.reset : Drum.reset.Kept := Drum.kept_iff.1 (by decide)

/-- A change that leaves pad and shell alone. -/
theorem Drum.Kept.congr {x y : Drum} (h : x.Kept) (pad : y.pad = x.pad) (shell : y.shell = x.shell) : y.Kept := by
  rw [Drum.Kept, pad, shell]; exact h

/-! ### The invariant of the part -/

section State
variable {s t : State} {d : Nat}

/-- The drums of the part are all there, their stores in canonical form. -/
def State.DrumsKept (s : State) : Prop := s.drums.length = 136 ∧ ∀ x ∈ s.drums, x.Kept

/-- The base die's channels and ports are all there, its stores and the host's memory in canonical form. -/
def State.BaseKept (s : State) : Prop :=
  s.mem.chans.length = 64 ∧ s.fab.ports.length = 20 ∧ Memory.wf s.hostMem = true ∧ Memory.wf s.mem.data = true ∧
  cellsWf 0#64 s.mem.pgt = true ∧ cellsWf 0#64 s.mem.str = true ∧ cellsWf Ring.reset s.rings = true ∧
  cellsWf FaultSet.reset s.faults = true ∧ cellsWf false s.pcie.pba = true

theorem State.kept_iff : s.Kept ↔ s.DrumsKept ∧ s.BaseKept := by
  simp only [State.Kept, State.DrumsKept, State.BaseKept, State.storesWf, Bool.and_eq_true, List.all_eq_true, Drum.kept_iff]
  tauto

theorem State.Kept.drums (h : s.Kept) : s.DrumsKept := (State.kept_iff.1 h).1
theorem State.Kept.base (h : s.Kept) : s.BaseKept := (State.kept_iff.1 h).2

theorem State.Kept.drum (h : s.Kept) (d : Nat) : (s.drum d).Kept := by
  unfold State.drum
  rcases hx : s.drums[d]? with _ | x
  · exact Drum.Kept.reset
  · exact h.drums.2 x (List.mem_of_getElem? hx)

theorem State.Kept.setDrum (h : s.Kept) {x : Drum} (hx : x.Kept) : (s.setDrum d x).Kept := by
  refine State.kept_iff.2 ⟨⟨(s.setDrum_length d x).trans h.drums.1, fun y hy => ?_⟩, h.base⟩
  rcases List.mem_or_eq_of_mem_set hy with hy | rfl
  · exact h.drums.2 y hy
  · exact hx

theorem State.Kept.modDrum (h : s.Kept) {f : Drum → Drum} (hf : ∀ x, x.Kept → (f x).Kept) : (s.modDrum d f).Kept :=
  h.setDrum (hf _ (h.drum d))

/-- Every drum changes. -/
theorem State.Kept.mapDrums (h : s.Kept) {f : Drum → Drum} (hf : ∀ x, x.Kept → (f x).Kept) :
    State.Kept { s with drums := s.drums.map f } := by
  refine State.kept_iff.2 ⟨⟨List.length_map f |>.trans h.drums.1, fun y hy => ?_⟩, h.base⟩
  obtain ⟨x, hx, rfl⟩ := List.mem_map.1 hy
  exact hf x (h.drums.2 x hx)

theorem State.Kept.modPad (h : s.Kept) {f : Pad → Pad} (hf : ∀ p, p.Kept → (f p).Kept) : (s.modPad d f).Kept :=
  h.modDrum fun x hx => ⟨hf x.pad hx.1, hx.2⟩
theorem State.Kept.modShell (h : s.Kept) {f : Shell → Shell} (hf : ∀ p, p.Kept → (f p).Kept) : (s.modShell d f).Kept :=
  h.modDrum fun x hx => ⟨hx.1, hf x.shell hx.2⟩
theorem State.Kept.modSeq (h : s.Kept) {f : Seq → Seq} : (s.modSeq d f).Kept := h.modDrum fun _ hx => hx
theorem State.Kept.modSkin (h : s.Kept) {f : Skin → Skin} : (s.modSkin d f).Kept := h.modDrum fun _ hx => hx
theorem State.Kept.modTuner (h : s.Kept) {f : Tuner → Tuner} : (s.modTuner d f).Kept := h.modDrum fun _ hx => hx
theorem State.Kept.modTap (h : s.Kept) {f : Tap → Tap} : (s.modTap d f).Kept := h.modDrum fun _ hx => hx
theorem State.Kept.modRoll (h : s.Kept) {f : Roll → Roll} : (s.modRoll d f).Kept := h.modDrum fun _ hx => hx

theorem State.Kept.modMet (h : s.Kept) {f : Met → Met} : (s.modMet f).Kept := h
theorem State.Kept.modPower (h : s.Kept) {f : Power → Power} : (s.modPower f).Kept := h
theorem State.Kept.modBoot (h : s.Kept) {f : Boot → Boot} : (s.modBoot f).Kept := h
theorem State.Kept.emit (h : s.Kept) {o : Out} : (s.emit o).Kept := h
theorem State.Kept.answer (h : s.Kept) {l : List Byte} : (s.answer l).Kept := h
theorem State.Kept.badacc (h : s.Kept) : s.badacc.Kept := h
theorem State.Kept.modJob (h : s.Kept) {j : Half} {f : Job → Job} : (s.modJob j f).Kept := h
theorem State.Kept.modTask (h : s.Kept) {j : Half} {i : Nat} {f : Task → Task} : (s.modTask j i f).Kept := h

/-- The changes of the PCIe block that leave the pending bits canonical. -/
theorem State.Kept.modPcie (h : s.Kept) {f : Pcie → Pcie}
    (hf : cellsWf false s.pcie.pba = true → cellsWf false (f s.pcie).pba = true) :
    (s.modPcie f).Kept := by
  obtain ⟨hd, h1, h2, h3, h4, h5, h6, h7, h8, h9⟩ := State.kept_iff.1 h
  exact State.kept_iff.2 ⟨hd, h1, h2, h3, h4, h5, h6, h7, h8, hf h9⟩

/-- The stores of the memory, and its number of channels. -/
def MainMem.Kept (m : MainMem) : Prop :=
  m.chans.length = 64 ∧ Memory.wf m.data = true ∧ cellsWf 0#64 m.pgt = true ∧ cellsWf 0#64 m.str = true

theorem State.Kept.mem (h : s.Kept) : s.mem.Kept := by
  obtain ⟨hd, h1, h2, h3, h4, h5, h6, h7, h8, h9⟩ := State.kept_iff.1 h
  exact ⟨h1, h4, h5, h6⟩

theorem State.Kept.modMem (h : s.Kept) {f : MainMem → MainMem} (hf : s.mem.Kept → (f s.mem).Kept) : (s.modMem f).Kept := by
  obtain ⟨k1, k2, k3, k4⟩ := hf h.mem
  obtain ⟨hd, h1, h2, h3, h4, h5, h6, h7, h8, h9⟩ := State.kept_iff.1 h
  exact State.kept_iff.2 ⟨hd, k1, h2, h3, k2, k3, k4, h7, h8, h9⟩

theorem State.Kept.ports (h : s.Kept) : s.fab.ports.length = 20 := h.base.2.1

theorem State.Kept.modFab (h : s.Kept) {f : Fabric → Fabric} (hf : (f s.fab).ports.length = s.fab.ports.length) :
    (s.modFab f).Kept := by
  obtain ⟨hd, h1, h2, h3, h4, h5, h6, h7, h8, h9⟩ := State.kept_iff.1 h
  exact State.kept_iff.2 ⟨hd, h1, hf.trans h2, h3, h4, h5, h6, h7, h8, h9⟩

theorem State.Kept.modPort (h : s.Kept) {p : Nat} {f : Port → Port} : (s.modPort p f).Kept :=
  h.modFab (modAt_length ..)

theorem State.Kept.modChan (h : s.Kept) {c : Nat} {f : Channel → Channel} : (s.modChan c f).Kept :=
  h.modMem fun hm => ⟨(modAt_length ..).trans hm.1, hm.2⟩

theorem State.Kept.withRings (h : s.Kept) {r : Cells Ring} (hr : cellsWf Ring.reset r = true) :
    State.Kept { s with rings := r } := by
  obtain ⟨hd, h1, h2, h3, h4, h5, h6, h7, h8, h9⟩ := State.kept_iff.1 h
  exact State.kept_iff.2 ⟨hd, h1, h2, h3, h4, h5, h6, hr, h8, h9⟩

theorem State.Kept.rings (h : s.Kept) : cellsWf Ring.reset s.rings = true := h.base.2.2.2.2.2.2.1

theorem State.Kept.setRing (h : s.Kept) {q : Nat} {r : Ring} : (s.setRing q r).Kept := h.withRings (putCell_wf q r h.rings)
theorem State.Kept.modRing (h : s.Kept) {q : Nat} {f : Ring → Ring} : (s.modRing q f).Kept := h.setRing

theorem State.Kept.setFault (h : s.Kept) {n : Nat} {f : FaultSet} : (s.setFault n f).Kept := by
  obtain ⟨hd, h1, h2, h3, h4, h5, h6, h7, h8, h9⟩ := State.kept_iff.1 h
  exact State.kept_iff.2 ⟨hd, h1, h2, h3, h4, h5, h6, h7, putCell_wf n f h8, h9⟩

theorem State.Kept.modFault (h : s.Kept) {n : Nat} {f : FaultSet → FaultSet} : (s.modFault n f).Kept := h.setFault

theorem State.Kept.hostMem (h : s.Kept) : Memory.wf s.hostMem = true := h.base.2.2.1

end State

/-! ### Repetition -/

theorem State.Kept.foldl {α : Type} {f : State → α → State} (hf : ∀ s a, s.Kept → (f s a).Kept) : ∀ {l : List α} {s : State},
    s.Kept → (l.foldl f s).Kept
  | [], _, h => h
  | a :: l, s, h => State.Kept.foldl (l := l) hf (hf s a h)

theorem State.Kept.foldlFst {α β : Type} {f : State × β → α → State × β} (hf : ∀ q a, q.1.Kept → (f q a).1.Kept) :
    ∀ {l : List α} {q : State × β}, q.1.Kept → (l.foldl f q).1.Kept
  | [], _, h => h
  | a :: l, q, h => State.Kept.foldlFst (l := l) hf (hf q a h)

theorem State.Kept.loop {f : Nat → State → State} (hf : ∀ i s, s.Kept → (f i s).Kept) : ∀ {n : Nat} {s : State},
    s.Kept → (loop f n s).Kept
  | 0, _, h => h
  | n + 1, _, h => hf n _ (State.Kept.loop hf h)

theorem Drum.Kept.foldl {α : Type} {f : Drum → α → Drum} (hf : ∀ x a, x.Kept → (f x a).Kept) : ∀ {l : List α} {x : Drum},
    x.Kept → (l.foldl f x).Kept
  | [], _, h => h
  | a :: l, x, h => Drum.Kept.foldl (l := l) hf (hf x a h)

theorem Drum.Kept.loop {f : Nat → Drum → Drum} (hf : ∀ i x, x.Kept → (f i x).Kept) : ∀ {n : Nat} {x : Drum},
    x.Kept → (loop f n x).Kept
  | 0, _, h => h
  | n + 1, _, h => hf n _ (Drum.Kept.loop hf h)

theorem Pad.Kept.foldl {α : Type} {f : Pad → α → Pad} (hf : ∀ x a, x.Kept → (f x a).Kept) : ∀ {l : List α} {x : Pad},
    x.Kept → (l.foldl f x).Kept
  | [], _, h => h
  | a :: l, x, h => Pad.Kept.foldl (l := l) hf (hf x a h)

theorem Shell.Kept.foldl {α : Type} {f : Shell → α → Shell} (hf : ∀ x a, x.Kept → (f x a).Kept) : ∀ {l : List α} {x : Shell},
    x.Kept → (l.foldl f x).Kept
  | [], _, h => h
  | a :: l, x, h => Shell.Kept.foldl (l := l) hf (hf x a h)

theorem Pad.Kept.loop {f : Nat → Pad → Pad} (hf : ∀ i x, x.Kept → (f i x).Kept) : ∀ {n : Nat} {x : Pad},
    x.Kept → (loop f n x).Kept
  | 0, _, h => h
  | n + 1, _, h => hf n _ (Pad.Kept.loop hf h)

theorem Shell.Kept.loop {f : Nat → Shell → Shell} (hf : ∀ i x, x.Kept → (f i x).Kept) : ∀ {n : Nat} {x : Shell},
    x.Kept → (loop f n x).Kept
  | 0, _, h => h
  | n + 1, _, h => hf n _ (Shell.Kept.loop hf h)

end Sys2Proof.Machine
end

section
/-! Every step keeps the part and its stores (O4), Machine/Route.lean: the way of packets and their flits keeps the
number of ports. -/

namespace Sys2Proof.Machine

set_option Elab.async false

theorem queueFlits_length {ports : List Port} {i vc : Nat} {fs : List Queued} :
    (queueFlits ports i vc fs).length = ports.length :=
  modAt_length ..

theorem Fabric.leave_ports {f : Fabric} {o : Option (Nat × Nat)} :
    (f.leave o).ports.length = f.ports.length := by
  cases o with
  | none => rfl
  | some o => exact modAt_length ..

theorem Fabric.dropFlits_ports {f : Fabric} {l : List Queued} :
    (f.dropFlits l).ports.length = f.ports.length := by
  unfold Fabric.dropFlits
  induction l generalizing f with
  | nil => rfl
  | cons q l ih => rw [List.foldl_cons, ih, Fabric.leave_ports]

theorem Fabric.mapWays_ports {f : Fabric} {g : Onward → Onward} :
    (f.mapWays g).ports.length = f.ports.length :=
  List.length_map _

theorem Fabric.setWay_ports {f : Fabric} {tag out : Option (Nat × Nat)} {waits : Bool} :
    (f.setWay tag out waits).ports.length = f.ports.length := Fabric.mapWays_ports

theorem Fabric.routeFrom_ports {f : Fabric} {cur : Coord} {p : Pk} {w : WaitTx} :
    (f.routeFrom cur p w).1.ports.length = f.ports.length := by
  unfold Fabric.routeFrom
  grind [Fabric.setWay_ports, Fabric.dropFlits_ports, queueFlits_length]

theorem Fabric.route_ports {f : Fabric} {cur : Coord} {p : Pk} {live : Bool} :
    (f.route cur p live).1.ports.length = f.ports.length := Fabric.routeFrom_ports

end Sys2Proof.Machine
end

section
/-! Every step keeps the part and its stores (O4), Machine/Ops.lean: the operations that every family shares. -/

namespace Sys2Proof.Machine

set_option Elab.async false

theorem State.Kept.draw {s : State} (h : s.Kept) : (s.draw).2.Kept := h

theorem State.Kept.nextBlock {s : State} (h : s.Kept) : (s.nextBlock).2.Kept := by
  unfold State.nextBlock
  grind [State.kept_iff, State.DrumsKept, State.BaseKept]

theorem State.Kept.nextMesh {s : State} (h : s.Kept) : (s.nextMesh).2.Kept := by
  unfold State.nextMesh
  grind [State.kept_iff, State.DrumsKept, State.BaseKept]

theorem State.Kept.nextArray {s : State} (h : s.Kept) : (s.nextArray).2.Kept := by
  unfold State.nextArray
  grind [State.kept_iff, State.DrumsKept, State.BaseKept]

theorem State.Kept.sendPk {s : State} {p : Pk} {live : Bool} (h : s.Kept) : (s.sendPk p live).Kept := by
  unfold State.sendPk
  grind [State.Kept.modFab, Fabric.route_ports]

theorem State.Kept.sendOut {s : State} {d : Nat} {job : Option Half} {p : Pk} (h : s.Kept) :
    (s.sendOut d job p).Kept := h

theorem State.Kept.sendVector {s : State} {v : Nat} (h : s.Kept) : (s.sendVector v).Kept := h

theorem State.Kept.issueVector {s : State} {v : Nat} (h : s.Kept) : (s.issueVector v).Kept := by
  unfold State.issueVector
  grind [State.Kept.modPcie, putCell_wf, State.Kept.sendVector]

theorem State.Kept.requestVector {s : State} {v : Nat} {live : Bool} (h : s.Kept) :
    (s.requestVector v live).Kept := by
  unfold State.requestVector
  grind [State.Kept.issueVector, State.Kept.sendPk]

theorem State.Kept.toLead {s : State} {pkind : Nat} {spec data : List Byte} {live : Bool}
    (h : s.Kept) : (s.toLead pkind spec data live).Kept := by
  unfold State.toLead
  grind [State.Kept.sendPk]

theorem State.Kept.issueWrite {s : State} {a : Nat} {l : List Byte} {relaxed : Bool} (h : s.Kept) :
    (s.issueWrite a l relaxed).Kept := by
  unfold State.issueWrite
  grind [State.Kept.emit, putBytes_wf, State.Kept.foldl, State.kept_iff, State.DrumsKept,
    State.BaseKept]

theorem State.Kept.hostWrite {s : State} {a : Nat} {l : List Byte} {live relaxed : Bool}
    (h : s.Kept) : (s.hostWrite a l live relaxed).Kept := by
  unfold State.hostWrite
  grind [State.Kept.issueWrite, State.Kept.toLead]

theorem State.Kept.hostRead {s : State} {who : Reader} {a n : Nat} {live : Bool} (h : s.Kept) :
    (s.hostRead who a n live).2.Kept := by
  unfold State.hostRead
  grind [State.Kept.modPcie, State.Kept.toLead]

theorem State.Kept.hostGot {s : State} {a : Nat} {l : List Byte} (h : s.Kept) : (s.hostGot a l).Kept := by
  unfold State.hostGot
  grind [State.Kept.modPcie]

theorem State.Kept.dropAsks {s : State} {p : Reader → Bool} (h : s.Kept) : (s.dropAsks p).Kept := h

theorem State.Kept.ringIrq {s : State} {q : Nat} {live : Bool} (h : s.Kept) :
    (s.ringIrq q live).Kept := by
  unfold State.ringIrq
  grind [State.Kept.modRing, State.Kept.requestVector]

theorem State.Kept.writeRecord {s : State} {q : Nat} {rec : Record} (h : s.Kept) :
    (s.writeRecord q rec).Kept := by
  unfold State.writeRecord
  grind [State.Kept.hostWrite, State.Kept.modPcie, State.Kept.modRing, State.Kept.ringIrq]

theorem State.Kept.pushRecord {s : State} {q : Nat} {r : Record} (h : s.Kept) :
    (s.pushRecord q r).Kept := by
  unfold State.pushRecord
  grind [State.Kept.modRing]

theorem State.Kept.drained {s : State} {q : Nat} (h : s.Kept) : (s.drained q).Kept := by
  unfold State.drained
  grind [State.Kept.modRing, State.Kept.pushRecord, State.Kept.foldl]

theorem State.Kept.afterScore {s : State} {q : Nat} {rec : Record} (h : s.Kept) :
    (s.afterScore q rec).Kept := by
  unfold State.afterScore
  grind [State.Kept.drained, State.Kept.modRing, State.Kept.pushRecord, State.Kept.foldl]

theorem flushGo_kept {q : Nat} : ∀ {n : Nat} {s : State}, s.Kept → (flushGo q n s).Kept
  | 0, _, h => h
  | n + 1, s, h => by
    have ih (t : State) (ht : t.Kept) : (flushGo q n t).Kept := flushGo_kept ht
    unfold flushGo
    grind [State.Kept.modRing, State.Kept.writeRecord, State.Kept.afterScore]

theorem State.Kept.flush {s : State} {q : Nat} (h : s.Kept) : (s.flush q).Kept := by
  unfold State.flush
  grind [flushGo_kept]

theorem State.Kept.flushUrgent {s : State} {q : Nat} (h : s.Kept) : (s.flushUrgent q).Kept := by
  unfold State.flushUrgent
  grind [flushGo_kept]

theorem urgentGo_kept : ∀ {n : Nat} {s : State}, s.Kept → (urgentGo n s).Kept
  | 0, _, h => h
  | n + 1, s, h => by
    have ih (t : State) (ht : t.Kept) : (urgentGo n t).Kept := urgentGo_kept ht
    unfold urgentGo
    grind [State.Kept.flushUrgent]

theorem State.Kept.flushAll {s : State} (h : s.Kept) : (s.flushAll).Kept := by
  unfold State.flushAll
  grind [State.Kept.flush, urgentGo_kept, State.Kept.foldl]

theorem Drum.Kept.idleUnits {x : Drum} (h : x.Kept) : (x.idleUnits).Kept := h

theorem Drum.Kept.clear {x : Drum} (h : x.Kept) : (x.clear).Kept := by
  unfold Drum.clear
  grind [Drum.Kept.idleUnits, Drum.Kept, Shell.Kept, cellsWf_nil]

theorem Drum.Kept.clearBeside {x : Drum} (h : x.Kept) : (x.clearBeside).Kept := by
  unfold Drum.clearBeside
  grind [Drum.Kept.clear, Drum.Kept, Shell.Kept]

theorem State.Kept.bankSeq {s : State} {q : Seq} (h : s.Kept) : (s.bankSeq q).Kept := by
  unfold State.bankSeq
  grind [State.Kept.modTask]

theorem State.Kept.bankRun {s : State} {d : Nat} (h : s.Kept) : (s.bankRun d).Kept := by
  unfold State.bankRun
  grind [State.Kept.bankSeq]

theorem State.Kept.bankJob {s : State} {d : Nat} {j : Half} (h : s.Kept) : (s.bankJob d j).Kept := by
  unfold State.bankJob
  grind [State.Kept.bankRun, State.Kept.bankSeq]

theorem Drum.Kept.dropJob {x : Drum} {j : Half} (h : x.Kept) : (x.dropJob j).Kept := by
  unfold Drum.dropJob
  grind [Drum.Kept.idleUnits, Drum.Kept, Pad.Kept, Shell.Kept]

theorem Drum.Kept.dropHeld {x : Drum} {j : Half} (h : x.Kept) : (x.dropHeld j).Kept := by
  unfold Drum.dropHeld
  grind [Drum.Kept, Pad.Kept]

theorem Drum.Kept.endJob {x : Drum} {j : Half} (h : x.Kept) : (x.endJob j).Kept := by
  unfold Drum.endJob
  grind [Drum.Kept.clearBeside, Drum.Kept.dropJob, Drum.Kept, Pad.Kept]

theorem State.Kept.noteTurn {s : State} {o : Nat} {l : List (Task × Nat)} (h : s.Kept) :
    (s.noteTurn o l).Kept := by
  unfold State.noteTurn
  grind [State.Kept.modMet]

theorem State.Kept.pushTasks {s : State} {j : Job} {before after : List Task} (h : s.Kept) :
    (s.pushTasks j before after).Kept := by
  unfold State.pushTasks
  grind [State.Kept.pushRecord, State.Kept.foldl]

theorem State.Kept.freeUnits {s : State} {j : Half} {i : Nat} (h : s.Kept) :
    (s.freeUnits j i).Kept := h

theorem State.Kept.finishJob {s : State} {j : Half} (h : s.Kept) : (s.finishJob j).Kept := by
  unfold State.finishJob
  grind [Drum.Kept.dropHeld, Drum.Kept.endJob, State.Kept.modDrum, State.Kept.modMet,
    State.Kept.pushRecord, State.Kept.foldl, State.kept_iff, State.DrumsKept, State.BaseKept]

theorem State.Kept.endTask {s : State} {j : Half} {i : Nat} {c : Code} (h : s.Kept) :
    (s.endTask j i c).Kept := by
  unfold State.endTask
  grind [State.Kept.finishJob, State.Kept.freeUnits, State.Kept.modJob, State.Kept.noteTurn,
    State.Kept.pushTasks]

theorem State.Kept.markFaulted {s : State} {j : Half} {i : Nat} (h : s.Kept) :
    (s.markFaulted j i).Kept := h

theorem State.Kept.stopJob {s : State} {j : Half} (h : s.Kept) : (s.stopJob j).Kept := by
  unfold State.stopJob
  grind [State.Kept.bankJob, State.Kept.dropAsks, Drum.Kept.dropJob, State.Kept.modDrum,
    State.Kept.modMet, State.Kept.foldl]

theorem State.Kept.abortTasks {s : State} {j : Half} (h : s.Kept) : (s.abortTasks j).Kept := by
  unfold State.abortTasks
  grind [State.Kept.finishJob, State.Kept.modJob, State.Kept.noteTurn, State.Kept.pushTasks,
    State.Kept.stopJob]

theorem State.Kept.abortRecords {s : State} {j : Half} (h : s.Kept) : (s.abortRecords j).Kept := by
  unfold State.abortRecords
  exact h.withRings (cellsWf_map (fun _ => by rfl) (fun _ hv => Ring.mapOut_ne_reset _ hv) h.rings)

theorem State.Kept.spreadAbort {s : State} {g : Nat} {id : AbortId} {stamp : Dword}
    {skip : Option Nat} (h : s.Kept) : (s.spreadAbort g id stamp skip).Kept := by
  unfold State.spreadAbort
  grind [State.Kept.modFab, queueFlits_length, State.Kept.foldl]

theorem State.Kept.refuseSend {s : State} {k : Packet} {serial : Nat} (h : s.Kept) :
    (s.refuseSend k serial).Kept := by
  unfold State.refuseSend
  grind [State.Kept.sendPk]

theorem State.Kept.originateAbort {s : State} {g : Nat} {stamp : Dword} (h : s.Kept) :
    (s.originateAbort g stamp).Kept := by
  unfold State.originateAbort
  grind [State.Kept.modFab, State.Kept.spreadAbort]

theorem State.Kept.abortOf {s : State} {j : Half} {g : Nat} {stamp : Dword} (h : s.Kept) :
    (s.abortOf j g stamp).Kept := by
  unfold State.abortOf
  grind [State.Kept.abortRecords, State.Kept.abortTasks, State.Kept.originateAbort]

theorem State.Kept.abortJob {s : State} {j : Half} {stamp : Dword} (h : s.Kept) :
    (s.abortJob j stamp).Kept := by
  unfold State.abortJob
  grind [State.Kept.abortOf]

theorem State.Kept.abortAll {s : State} {stamp : Dword} (h : s.Kept) : (s.abortAll stamp).Kept := by
  unfold State.abortAll
  grind [State.Kept.abortJob, State.Kept.foldl]

theorem State.Kept.interrupt {s : State} {src : Nat} (h : s.Kept) : (s.interrupt src).Kept := by
  unfold State.interrupt
  grind [State.Kept.requestVector]

theorem State.Kept.moveDrum {s : State} {p : Nat} (h : s.Kept) : (s.moveDrum p).Kept := by
  unfold State.moveDrum
  grind [State.Kept.modDrum, Drum.Kept, Pad.Kept]

theorem State.Kept.applyMap {s : State} (h : s.Kept) : (s.applyMap).Kept := by
  unfold State.applyMap
  grind [State.Kept.moveDrum, State.Kept.loop]

theorem State.Kept.raiseBoot {s : State} {src sub : Nat} (h : s.Kept) : (s.raiseBoot src sub).Kept := by
  unfold State.raiseBoot
  grind [State.Kept.interrupt, State.Kept.setFault]

theorem State.Kept.bringUp {s : State} {mask : Dword} {keep : Bool} (h : s.Kept) :
    (s.bringUp mask keep).Kept := by
  unfold State.bringUp
  extract_lets old chans inUse failed lst t u
  have ht : t.Kept := State.Kept.modMem (s := { s with free := s.free + 64 }) h fun hm => ⟨by simp [chans, hm.1], hm.2⟩
  have hu : u.Kept := by
    unfold u
    split
    · exact ht
    · exact ht.modMem fun hm => ⟨(List.length_map _).trans hm.1, rfl, rfl, rfl⟩
  exact State.Kept.foldl (fun _ _ hk => hk.raiseBoot) hu

theorem State.Kept.trainMem {s : State} {mask : Dword} {keep : Bool} (h : s.Kept) :
    (s.trainMem mask keep).Kept := h

theorem State.Kept.bringMem {s : State} (h : s.Kept) : (s.bringMem).Kept := by
  unfold State.bringMem
  grind [State.Kept.bringUp, State.Kept.modMem, MainMem.Kept]

theorem Drum.Kept.warm {x : Drum} : x.warm.Kept := Drum.Kept.reset.congr rfl rfl

theorem State.Kept.warmCore {s : State} {cause : Nat} (h : s.Kept) : (s.warmCore cause).Kept := by
  unfold State.warmCore
  extract_lets js t lost
  have ht : t.Kept := State.Kept.foldl (fun _ _ hk => hk.originateAbort) h
  obtain ⟨-, h1, h2, h3, h4, h5, h6, h7, h8, -⟩ := State.kept_iff.1 ht
  have faults : cellsWf FaultSet.reset (t.faults.map fun p => (p.1, p.2.freeze)) = true :=
    cellsWf_map (fun _ => by rfl) (fun _ hv => FaultSet.freeze_ne_reset hv) h8
  exact State.kept_iff.2 ⟨(ht.mapDrums fun _ _ => Drum.Kept.warm).drums, (List.length_map _).trans h1,
    (List.length_map _).trans h2, h3, h4, h5, h6, cellsWf_mapFilter h7, faults, rfl⟩

theorem State.Kept.warmReset {s : State} {cause : Nat} (h : s.Kept) : (s.warmReset cause).Kept := by
  unfold State.warmReset
  grind [State.Kept.applyMap, State.Kept.draw, State.Kept.trainMem, State.Kept.warmCore]

theorem State.Kept.coldReset {s : State} (h : s.Kept) : s.coldReset.Kept :=
  State.kept_iff.2 ⟨Tests.kept_reset.drums, rfl, rfl, h.hostMem, rfl, rfl, rfl, rfl, rfl, rfl⟩

theorem Drum.Kept.noteRun {x : Drum} {group : Nat} {beat : Dword} {r : RunId} (h : x.Kept) :
    (x.noteRun group beat r).Kept := h

theorem State.Kept.noteOwnRun {s : State} {d : Nat} (h : s.Kept) : (s.noteOwnRun d).Kept := by
  unfold State.noteOwnRun
  grind [State.Kept.modDrum, Drum.Kept.noteRun]

theorem State.Kept.haltUnit {s : State} {src : Nat} (h : s.Kept) : (s.haltUnit src).Kept := by
  unfold State.haltUnit
  grind [State.Kept.bankRun, Drum.Kept.clear, State.Kept.endTask, State.Kept.modDrum,
    State.Kept.modTask, State.Kept.noteOwnRun, Drum.Kept]

theorem State.Kept.stroke {s : State} {src : Nat} {jobs : List Half} {stamp : Dword} (h : s.Kept) :
    (s.stroke src jobs stamp).Kept := by
  unfold State.stroke
  grind [State.Kept.abortJob, State.Kept.endTask, State.Kept.haltUnit, State.Kept.foldl]

theorem State.Kept.crash {s : State} {stamp : Dword} (h : s.Kept) : (s.crash stamp).Kept := by
  unfold State.crash
  grind [State.Kept.abortAll, State.Kept.emit, State.Kept.modPower, State.kept_iff, State.DrumsKept,
    State.BaseKept]

theorem State.Kept.gong {s : State} {src : Nat} (h : s.Kept) : (s.gong src).Kept := by
  unfold State.gong
  grind [State.Kept.interrupt, State.Kept.modFault, State.Kept.modPower, State.Kept.warmReset,
    State.Kept.foldl]

theorem State.Kept.escalate {s : State} {src : Nat} {extra : List Half} (h : s.Kept) :
    (s.escalate src extra).Kept := by
  unfold State.escalate
  grind [State.Kept.crash, State.Kept.gong, State.Kept.interrupt, State.Kept.setFault,
    State.Kept.stroke]

theorem State.Kept.joinGong {s : State} {r : Raised} (h : s.Kept) : (s.joinGong r).Kept := by
  unfold State.joinGong
  grind [State.Kept.modFault, State.Kept.modPower]

theorem State.Kept.latchFault {s : State} {r : Raised} {beat : Dword} (h : s.Kept) :
    (s.latchFault r beat).Kept := by
  unfold State.latchFault
  grind [State.Kept.escalate, State.Kept.interrupt, State.Kept.joinGong, State.Kept.modFault,
    State.Kept.setFault, State.Kept.stroke]

theorem State.Kept.raiseWith {s : State} {r : Raised} (h : s.Kept) : (s.raiseWith r).Kept := by
  unfold State.raiseWith
  grind [State.Kept.latchFault, State.Kept.modFault]

theorem State.Kept.raise {s : State} {src : Nat} {sub : Nat} (h : s.Kept) : (s.raise src sub).Kept := by
  unfold State.raise
  grind [State.Kept.raiseWith]

theorem State.Kept.raiseJob {s : State} {src : Nat} {sub : Nat} {j : Half} {run : Option RunId}
    (h : s.Kept) : (s.raiseJob src sub j run).Kept := by
  unfold State.raiseJob
  grind [State.Kept.raiseWith]

theorem State.Kept.drumFault {s : State} {d : Nat} {sub : Nat} (h : s.Kept) :
    (s.drumFault d sub).Kept := by
  unfold State.drumFault
  grind [State.Kept.markFaulted, State.Kept.modSeq, State.Kept.raise, State.Kept.raiseJob]

theorem State.Kept.arrivalFault {s : State} {d : Nat} {sub : Nat} {j : Option Half} (h : s.Kept) :
    (s.arrivalFault d sub j).Kept := by
  unfold State.arrivalFault
  grind [State.Kept.drumFault, State.Kept.raiseWith]

theorem State.Kept.tick {s : State} (h : s.Kept) : (s.tick).Kept := by
  unfold State.tick
  grind [State.Kept.modMet, State.Kept.modPower, State.kept_iff, State.DrumsKept, State.BaseKept]

end Sys2Proof.Machine
end

section
/-! Every step keeps the part and its stores (O4), Machine/Flags.lean: shell rows. -/

namespace Sys2Proof.Machine

set_option Elab.async false

theorem Shell.Kept.put {h : Shell} {row col : Nat} {v : Word} (hk : h.Kept) : (h.put row col v).Kept := by
  unfold Shell.put
  grind [putCell_wf, Shell.Kept]

theorem Shell.Kept.setStatus {h : Shell} {row : Nat} {w : Word} (hk : h.Kept) :
    (h.setStatus row w).Kept := by
  unfold Shell.setStatus
  grind [putCell_wf, Shell.Kept]

theorem Shell.Kept.putRow {row : Nat} : ∀ {l : List Word} {c : Nat} {x : Shell}, x.Kept →
    (x.putRow row c l).Kept
  | [], _, _, h => h
  | _ :: l, _, _, h => Shell.Kept.putRow (l := l) h.put

theorem State.Kept.noteRows {s : State} {d lo n : Nat} (h : s.Kept) : (s.noteRows d lo n).Kept := by
  unfold State.noteRows
  grind [State.Kept.modSeq]

end Sys2Proof.Machine
end

section
/-! Every step keeps the part and its stores (O4), Machine/Operands.lean: pad accesses, fetch and issue. -/

namespace Sys2Proof.Machine

set_option Elab.async false

theorem Pad.Kept.touch {p : Pad} {beat : Dword} {hit : List Nat} (h : p.Kept) :
    (p.touch beat hit).Kept := by
  unfold Pad.touch
  extract_lets q wake
  split
  · exact h
  · refine ⟨h.1, h.2.1, cellsWf_map (fun b => ?_) (fun b hb => ?_) h.2.2⟩ <;> split <;> simp_all

theorem Pad.Kept.countSet {p : Pad} {l : List Nat} (h : p.Kept) : (p.countSet l).Kept := by
  unfold Pad.countSet
  refine Pad.Kept.foldl (fun q c hq => ?_) ⟨h.1, h.2⟩
  split
  · exact ⟨hq.1, hq.2⟩
  · exact hq

theorem Pad.Kept.conflictIn {p : Pad} {b : Nat} (h : p.Kept) : (p.conflictIn b).Kept := h

theorem Pad.Kept.setConflicts {p : Pad} {a n : Nat} (h : p.Kept) : (p.setConflicts a n).Kept := by
  unfold Pad.setConflicts
  split
  · exact h
  · exact Pad.Kept.loop (fun _ _ hq => hq.conflictIn) h

theorem Pad.Kept.reach {p : Pad} {beat : Dword} {a n : Nat} (h : p.Kept) : (p.reach beat a n).Kept := by
  unfold Pad.reach
  grind [Pad.Kept.touch]

theorem Pad.Kept.access {p : Pad} {beat : Dword} {a n : Nat} (h : p.Kept) : (p.access beat a n).Kept := by
  unfold Pad.access
  grind [Pad.Kept.reach, Pad.Kept.setConflicts]

theorem Pad.Kept.accessGo {beat : Dword} {base : Nat} : ∀ {n : Nat} {l : List Range} {p : Pad},
    p.Kept → (accessGo beat base n l p).Kept
  | 0, _, _, h => h
  | _ + 1, [], _, h => h
  | _ + 1, _ :: _, _, h => by
    unfold Machine.accessGo
    split
    · exact Pad.Kept.accessGo h.access
    · exact Pad.Kept.accessGo h.touch.countSet

theorem Pad.Kept.accessAll {p : Pad} {beat : Dword} {base : Nat} {l : List Range} (h : p.Kept) :
    (p.accessAll beat base l).Kept := h.accessGo

theorem Pad.Kept.markPurge {p : Pad} {a : Nat} (h : p.Kept) : (p.markPurge a).Kept := h

theorem Pad.Kept.reread {p : Pad} {a n : Nat} (h : p.Kept) : (p.reread a n).Kept :=
  Pad.Kept.foldl (f := fun p w => { p.markPurge (16 * w) with rereads := p.rereads + 1 }) (fun _ _ hq => hq) h

theorem Pad.Kept.put {p : Pad} {a : Nat} {l : List Byte} (h : p.Kept) : (p.put a l).Kept := by
  unfold Pad.put
  grind [putBytes_wf, Pad.Kept]

theorem Pad.Kept.zero {p : Pad} {lo hi : Nat} (h : p.Kept) : (p.zero lo hi).Kept := by
  unfold Pad.zero
  grind [zeroRange_mem_wf, Pad.Kept]

theorem Drum.Kept.padPut {x : Drum} {off : Nat} {l : List Byte} (h : x.Kept) : (x.padPut off l).Kept := by
  unfold Drum.padPut
  grind [Pad.Kept.put, Drum.Kept]

theorem State.Kept.rereads {s : State} {d : Nat} {l : List Range} (h : s.Kept) :
    (s.rereads d l).Kept := by
  refine h.modDrum fun x hx => ?_
  split
  · refine ⟨Pad.Kept.foldl (fun p r hp => ?_) hx.1, hx.2⟩
    split
    · exact hp
    · exact hp.reread
  · exact hx

theorem Drum.Kept.fillLine {x : Drum} {beat : Dword} {pc : Nat} (h : x.Kept) :
    (x.fillLine beat pc).Kept := by
  unfold Drum.fillLine
  grind [Pad.Kept.access, Drum.Kept]

theorem State.Kept.took {s : State} {d n : Nat} {w : Quad} (h : s.Kept) : (s.took d n w).Kept := by
  unfold State.took
  grind [State.Kept.modSeq]

theorem State.Kept.drumFaults {s : State} {d : Nat} {l : List Nat} (h : s.Kept) :
    (s.drumFaults d l).Kept := by
  unfold State.drumFaults
  grind [State.Kept.markFaulted, State.Kept.modSeq, State.Kept.raiseJob, State.Kept.foldl]

theorem State.Kept.issue {s : State} {d opc : Nat} {fits : Quad → Bool}
    {run : Quad → State → State → State} (h : s.Kept)
    (hr : ∀ w t, t.Kept → (run w s t).Kept) : (s.issue d opc fits run).Kept := by
  unfold State.issue
  grind [State.Kept.drumFault, State.Kept.modDrum, Drum.Kept.fillLine, State.Kept.rereads,
    State.Kept.took]

theorem State.Kept.reach {s : State} {d : Nat} {l : List Range} (h : s.Kept) : (s.reach d l).Kept :=
  h.modDrum fun _ hx => ⟨Pad.Kept.foldl (fun _ _ hp => hp.reach) hx.1, hx.2⟩

theorem State.Kept.access {s : State} {d : Nat} {l : List Range} (h : s.Kept) : (s.access d l).Kept := by
  unfold State.access
  grind [Pad.Kept.accessAll, State.Kept.modDrum, Drum.Kept]

theorem Drum.Kept.setQueue {x : Drum} {u : UnitId} {l : List UnitJob} (h : x.Kept) :
    (x.setQueue u l).Kept := h

theorem Drum.Kept.dropOrd {x : Drum} {o : Nat} (h : x.Kept) : (x.dropOrd o).Kept := h

theorem State.Kept.unitFault {s : State} {d o : Nat} {l : List Nat} (h : s.Kept) :
    (s.unitFault d o l).Kept := by
  unfold State.unitFault
  grind [Drum.Kept.dropOrd, State.Kept.drumFaults, State.Kept.modDrum]

theorem State.Kept.reading {s : State} {d o : Nat} {l : List Range} {effect : State → State}
    (h : s.Kept)
    (he : (effect s).Kept) : (s.reading d o l effect).Kept := by
  unfold State.reading
  grind [State.Kept.rereads, State.Kept.unitFault]

theorem State.Kept.readWrite {s : State} {d o : Nat} {reads writes : List Range}
    {effect : State → State} (h : s.Kept)
    (he : ∀ t, t.Kept → (effect t).Kept) : (s.readWrite d o reads writes effect).Kept :=
  h.access.reading (he _ h.access.access)

theorem State.Kept.rowAccess {s : State} {d o : Nat} {reads writes : List Range}
    {effect : State → State} (h : s.Kept)
    (he : ∀ t, t.Kept → (effect t).Kept) : (s.rowAccess d o reads writes effect).Kept :=
  h.reach.reading (he _ h.reach.reach)

theorem State.Kept.checked {s : State} {d : Nat} {j : UnitJob} {reads : Bool}
    {effect : State → State} (h : s.Kept)
    (he : (effect s).Kept) : (s.checked d j reads effect).Kept := by
  unfold State.checked
  grind [State.Kept.unitFault]

end Sys2Proof.Machine
end

section
/-! Every step keeps the part and its stores (O4), Machine/Device.lean: accesses at device addresses. -/

namespace Sys2Proof.Machine

set_option Elab.async false

theorem State.Kept.noteLive {s : State} {ch : Nat} {live : Bool} (h : s.Kept) :
    (s.noteLive ch live).Kept := by
  unfold State.noteLive
  grind [State.Kept.modChan]

theorem State.Kept.putChan {s : State} {ch : Nat} {c : Channel} (h : s.Kept) : (s.putChan ch c).Kept := by
  unfold State.putChan
  grind [State.Kept.modChan]

theorem State.Kept.noteFound {s : State} {ch : Nat} {f : Found} (h : s.Kept) :
    (s.noteFound ch f).Kept := by
  unfold State.noteFound
  grind [State.Kept.raise]

theorem State.Kept.readBlock {s : State} {ch b addr : Nat} {errs : List Nat} {e : EccVerdict}
    {live : Bool} (h : s.Kept) : (s.readBlock ch b addr errs e live).1.Kept := by
  unfold State.readBlock
  grind [State.Kept.noteFound, State.Kept.noteLive, State.Kept.putChan]

theorem State.Kept.writeBlock {s : State} {ch b addr lo : Nat} {errs : List Nat} {data : List Byte}
    {e : EccVerdict} {live : Bool} (h : s.Kept) :
    (s.writeBlock ch b addr lo errs data e live).1.Kept := by
  unfold State.writeBlock
  grind [State.Kept.modMem, MainMem.Kept, State.Kept.noteLive, putBytes_wf, State.Kept.putChan,
    State.Kept.raise]

theorem State.Kept.fetchMem {s : State} {a n : Nat} {live : Bool} (h : s.Kept) :
    (s.fetchMem a n live).1.Kept := by
  unfold State.fetchMem
  grind [State.Kept.nextBlock, State.Kept.readBlock, State.Kept.foldlFst]

theorem State.Kept.storeMem {s : State} {a : Nat} {l : List Byte} {live : Bool} (h : s.Kept) :
    (s.storeMem a l live).1.Kept := by
  unfold State.storeMem
  grind [State.Kept.nextBlock, State.Kept.writeBlock, State.Kept.foldlFst]

theorem State.Kept.fetchPads {s : State} {a n : Nat} (h : s.Kept) : (s.fetchPads a n).1.Kept := by
  unfold State.fetchPads
  grind [Pad.Kept.access, State.Kept.modPad, State.Kept.raise, Pad.Kept.reread, State.Kept.foldlFst]

theorem State.Kept.storePads {s : State} {a : Nat} {l : List Byte} (h : s.Kept) :
    (s.storePads a l).Kept := by
  unfold State.storePads
  grind [Pad.Kept.access, State.Kept.modPad, Pad.Kept.put, State.Kept.foldl]

theorem State.Kept.fetchDev {s : State} {who : Reader} {a n : Nat} {live : Bool} (h : s.Kept) :
    (s.fetchDev who a n live).2.Kept := by
  have pads := h.fetchPads (a := a) (n := n)
  rcases hq : s.fetchPads a n with ⟨t, b⟩
  rw [hq] at pads
  simp only [State.fetchDev, hq, apply_ite Prod.snd]
  split
  · exact h
  · split
    · exact h.fetchMem
    · split
      · exact pads
      · exact h.hostRead

theorem State.Kept.storeDev {s : State} {a : Nat} {l : List Byte} {live : Bool} (h : s.Kept) :
    (s.storeDev a l live).1.Kept := by
  unfold State.storeDev
  grind [State.Kept.hostWrite, State.Kept.storeMem, State.Kept.storePads]

end Sys2Proof.Machine
end

section
/-! Every step keeps the part and its stores (O4), Machine/Tree.lean: the bell tree. -/

namespace Sys2Proof.Machine

set_option Elab.async false

theorem Drum.Kept.modStack {x : Drum} {e : Nat} {f : Stack → Stack} (h : x.Kept) :
    (x.modStack e f).Kept := h

theorem Shell.Kept.nodeRow {h : Shell} {b : Stack} {j i level : Nat} {vals : List Word}
    {flags : Word} (hk : h.Kept) : (h.nodeRow b j i level vals flags).Kept := by
  unfold Shell.nodeRow
  grind [Shell.Kept.putRow, Shell.Kept.setStatus]

theorem Drum.Kept.noteRows {x : Drum} {lo n : Nat} (h : x.Kept) : (x.noteRows lo n).Kept := h

theorem Drum.Kept.combine {x : Drum} {rd j dst l kt : Nat} (h : x.Kept) :
    (x.combine rd j dst l kt).Kept := by
  unfold Drum.combine
  grind [Shell.Kept.nodeRow, Drum.Kept.noteRows, Shell.Kept.loop, Drum.Kept, Shell.Kept]

theorem Drum.Kept.moveLeaf {x : Drum} {rd : Nat} (h : x.Kept) : (x.moveLeaf rd).Kept := by
  unfold Drum.moveLeaf
  grind [Shell.Kept.nodeRow, Drum.Kept.noteRows, Shell.Kept.loop, Drum.Kept]

theorem carries_kept {rd t p : Nat} {stay : Bool} : ∀ {n l : Nat} {x : Drum}, x.Kept →
    (carries rd t p stay n l x).1.Kept
  | 0, _, _, h => h
  | n + 1, l, x, h => by
    unfold carries
    split
    · exact carries_kept h.combine.modStack
    · exact h

theorem foldUp_kept {rd t p : Nat} : ∀ {n l : Nat} {x : Drum}, x.Kept → (foldUp rd t p n l x).Kept
  | 0, _, _, h => h
  | n + 1, l, x, h => by
    unfold foldUp
    split
    · split
      · exact foldUp_kept h.combine.modStack
      · exact foldUp_kept h
    · exact h

theorem climbGo_kept {rd : Nat} : ∀ {n lv : Nat} {x : Drum}, x.Kept → (climbGo rd n lv x).1.Kept
  | 0, _, _, h => h
  | n + 1, lv, x, h => by
    rw [climbGo]
    extract_lets de kt
    split
    · split
      · exact climbGo_kept h.combine.modStack
      · exact h.modStack
    · exact climbGo_kept h

theorem Drum.Kept.slot0Flags {x : Drum} {rd : Nat} {f : Word} (h : x.Kept) :
    (x.slot0Flags rd f).Kept := by
  unfold Drum.slot0Flags
  grind [Shell.Kept.setStatus, Shell.Kept.loop, Drum.Kept]

theorem Drum.Kept.setDone {x : Drum} {rd : Nat} (h : x.Kept) : (x.setDone rd).Kept := by
  unfold Drum.setDone
  grind [Drum.Kept.modStack, Shell.Kept.setStatus, Shell.Kept.loop, Drum.Kept]

theorem State.Kept.nodeSend {s : State} {d rd : Nat} (h : s.Kept) : (s.nodeSend d rd).Kept := by
  unfold State.nodeSend
  extract_lets x de b flags part n
  split
  · exact h
  · extract_lets t
    have ht : State.Kept t := h.modShell fun _ hp => hp
    split
    · exact ht.sendOut
    · split
      · exact ht
      · exact ht.drumFault

theorem State.Kept.statsDown {s : State} {d : Nat} {j : Half} {rid qid m n group : Nat}
    {his los : List Word} {senders : List (Coord × Nat × Nat)} (h : s.Kept) :
    (s.statsDown d j rid qid m n group his los senders).Kept := by
  unfold State.statsDown
  grind [State.Kept.sendOut, State.Kept.foldl, State.kept_iff, State.DrumsKept, State.BaseKept]

theorem State.Kept.rootStats {s : State} {d rd : Nat} (h : s.Kept) : (s.rootStats d rd).Kept := by
  unfold State.rootStats
  grind [State.Kept.drumFault, State.Kept.modTuner, State.Kept.statsDown]

theorem State.Kept.blockDone {s : State} {d rd : Nat} (h : s.Kept) : (s.blockDone d rd).Kept := by
  unfold State.blockDone
  grind [State.Kept.modDrum, State.Kept.nodeSend, State.Kept.rootStats, Drum.Kept.setDone,
    Drum.Kept.slot0Flags]

theorem State.Kept.ownDone {s : State} {d rd lv : Nat} (h : s.Kept) : (s.ownDone d rd lv).Kept := by
  unfold State.ownDone
  grind [State.Kept.blockDone, climbGo_kept, State.Kept.drum, Drum.Kept.modStack,
    State.Kept.setDrum]

theorem State.Kept.leafDone {s : State} {d rd t : Nat} {last : Bool} (h : s.Kept) :
    (s.leafDone d rd t last).Kept := by
  unfold State.leafDone
  grind [carries_kept, State.Kept.drum, foldUp_kept, Drum.Kept.modStack, Drum.Kept.moveLeaf,
    State.Kept.ownDone, State.Kept.setDrum, Drum.Kept.slot0Flags, Drum.Kept, Shell.Kept]

theorem Drum.Kept.placeNode {x : Drum} {rd level : Nat} {flags : Word} {vals : Cells Word}
    (h : x.Kept) : (x.placeNode rd level flags vals).Kept := by
  unfold Drum.placeNode
  grind [Drum.Kept.modStack, Shell.Kept.nodeRow, Drum.Kept.noteRows, Shell.Kept.loop, Drum.Kept]

theorem State.Kept.resumeClimb {s : State} {d rd : Nat} {par : Bool} (h : s.Kept) :
    (s.resumeClimb d rd par).Kept := by
  unfold State.resumeClimb
  grind [State.Kept.drumFault, State.Kept.modDrum, Drum.Kept.modStack, State.Kept.ownDone]

theorem State.Kept.takeNode {s : State} {d rd : Nat} {pk : Packet} {level : Nat} {flags : Word}
    {vals : Cells Word} {par : Bool} (h : s.Kept) :
    (s.takeNode d rd pk level flags vals par).Kept := by
  unfold State.takeNode
  grind [State.Kept.modDrum, State.Kept.modShell, Drum.Kept.modStack, Drum.Kept.placeNode,
    State.Kept.resumeClimb, Shell.Kept]

theorem State.Kept.placeEarly {s : State} {d rd : Nat} (h : s.Kept) : (s.placeEarly d rd).Kept := by
  unfold State.placeEarly
  grind [State.Kept.drumFault, State.Kept.modDrum, Drum.Kept.modStack, Drum.Kept.placeNode,
    State.Kept.foldl]

theorem Drum.Kept.placeSaved {x : Drum} {v : Saved} {rd level : Nat} {flags : Word}
    {vals : Cells Word} (h : x.Kept) :
    (x.placeSaved v rd level flags vals).Kept := by
  obtain ⟨⟨mem, tallies, banks⟩, shell⟩ := h
  refine ⟨⟨?_, tallies, banks⟩, shell⟩
  exact loop_wf (fun i m hm => putNat_wf _ _ _ (loop_wf (fun k m hm => putNat_wf _ _ _ hm) _ hm)) _ mem

theorem State.Kept.nodeArrives {s : State} {d : Nat} {pk : Packet} {prid level m n row0 : Nat}
    {flags : Word} {vals : Cells Word} {par : Bool} (h : s.Kept) :
    (s.nodeArrives d pk prid level m n row0 flags vals par).Kept := by
  unfold State.nodeArrives
  grind [State.Kept.arrivalFault, State.Kept.drumFault, State.Kept.modDrum, State.Kept.modPad,
    State.Kept.modShell, Drum.Kept.placeSaved, State.Kept.takeNode, Drum.Kept, Pad.Kept, Shell.Kept]

end Sys2Proof.Machine
end

section
/-! Every step keeps the part and its stores (O4), Machine/Skin.lean: strikes. -/

namespace Sys2Proof.Machine

set_option Elab.async false

theorem onDrum_kept {d : Nat} {s t : State} {f : State → State} (hf : (f s).Kept)
    (e : onDrum d s f = .next t) : t.Kept := by
  unfold onDrum at e
  split at e
  · cases e; exact hf
  · cases e

theorem Drum.Kept.noTile {x : Drum} (h : x.Kept) : (x.noTile).Kept := h

theorem Drum.Kept.loadTile {x : Drum} {t : Step} (h : x.Kept) : (x.loadTile t).1.Kept := by
  unfold Drum.loadTile
  grind [Drum.Kept.noTile, Drum.Kept]

theorem Drum.Kept.loadScales {x : Drum} {t : Step} (h : x.Kept) : (x.loadScales t).1.Kept := by
  unfold Drum.loadScales
  grind [Drum.Kept]

theorem Drum.Kept.feedRow {x : Drum} {t : Step} {r : Nat} (h : x.Kept) : (x.feedRow t r).Kept := h

theorem Drum.Kept.enterBlock {x : Drum} {t : Step} (h : x.Kept) : (x.enterBlock t).Kept := h

theorem Drum.Kept.zeroLeaf {x : Drum} {t : Step} (h : x.Kept) : (x.zeroLeaf t).Kept := by
  unfold Drum.zeroLeaf
  grind [Drum.Kept.noteRows, Shell.Kept.putRow, Shell.Kept.setStatus, Shell.Kept.loop, Drum.Kept,
    Shell.Kept]

theorem State.Kept.enterBlock {s : State} {d : Nat} {t : Step} (h : s.Kept) :
    (s.enterBlock d t).Kept := by
  unfold State.enterBlock
  grind [Drum.Kept.enterBlock, State.Kept.modDrum, State.Kept.placeEarly]

theorem State.Kept.beginStep {s : State} {d : Nat} {t : Step} {cont : Bool} (h : s.Kept) :
    (s.beginStep d t cont).Kept := by
  unfold State.beginStep
  grind [State.Kept.modDrum, Drum.Kept.zeroLeaf, Drum.Kept]

theorem State.Kept.stepFault {s : State} {d : Nat} {t : Step} {l : List Nat} (h : s.Kept) :
    (s.stepFault d t l).Kept := by
  unfold State.stepFault
  grind [State.Kept.modSkin, State.Kept.unitFault]

theorem State.Kept.loadsDone {s : State} {d : Nat} {t : Step} (h : s.Kept) : (s.loadsDone d t).Kept := by
  unfold State.loadsDone
  grind [State.Kept.beginStep, State.Kept.drum, State.Kept.enterBlock, Drum.Kept.loadScales,
    Drum.Kept.loadTile, State.Kept.rereads, State.Kept.setDrum, State.Kept.stepFault, Drum.Kept]

theorem State.Kept.startStep {s : State} {d : Nat} {t : Step} (h : s.Kept) : (s.startStep d t).Kept := by
  unfold State.startStep
  grind [State.Kept.beginStep, State.Kept.enterBlock, State.Kept.loadsDone, State.Kept.modDrum,
    State.Kept.modSkin, State.Kept.readWrite, State.Kept.stepFault, Drum.Kept]

theorem State.Kept.startStrike {s : State} {d : Nat} {j : SkinJob} (h : s.Kept) :
    (s.startStrike d j).Kept := by
  unfold State.startStrike
  grind [State.Kept.startStep, State.Kept.stepFault]

theorem Drum.Kept.takeRow {x : Drum} {r : SkinRow} (h : x.Kept) : (x.takeRow r).Kept := by
  unfold Drum.takeRow
  extract_lets t de kt row on cols g set i0 col adds sr k vals old fl g1 vals' g2 g3
  have hg : Shell.Kept g := h.2
  split
  · exact Drum.Kept.noteRows ⟨h.1, hg.putRow.setStatus⟩
  · split
    · exact h
    · exact Drum.Kept.noteRows ⟨h.1, (Shell.Kept.foldl (fun _ _ hk => hk.put) hg).setStatus⟩

theorem Drum.Kept.dequantise {x : Drum} {r : SkinRow} {rest : List SkinRow} (h : x.Kept) :
    (x.dequantise r rest).Kept := by
  unfold Drum.dequantise
  grind [Drum.Kept.takeRow, Drum.Kept, Shell.Kept]

theorem State.Kept.strikeLost {s : State} {d o : Nat} {f : Nat} (h : s.Kept) :
    (s.strikeLost d o f).Kept := by
  unfold State.strikeLost
  grind [State.Kept.modSkin, State.Kept.unitFault]

theorem State.Kept.feed {s : State} {d : Nat} {t : Step} (h : s.Kept) : (s.feed d t).Kept := by
  unfold State.feed
  grind [State.Kept.access, Drum.Kept.feedRow, State.Kept.modDrum, State.Kept.rereads,
    State.Kept.strikeLost]

end Sys2Proof.Machine
end

section
/-! Every step keeps the part and its stores (O4), Machine/Bell.lean: packets on the NoC. -/

namespace Sys2Proof.Machine

set_option Elab.async false

theorem State.Kept.packetLost {s : State} {unit sub : Nat} {j : Option Half} (h : s.Kept) :
    (s.packetLost unit sub j).Kept := by
  unfold State.packetLost
  grind [State.Kept.abortJob, State.Kept.raiseWith]

theorem State.Kept.deliver {s : State} {dst src : Nat} {kind : Packet → Bool} {net : NocVerdict}
    {land : Bool → Packet → State → State} (h : s.Kept) (hl : ∀ b k t, t.Kept → (land b k t).Kept) :
    (s.deliver dst src kind net land).Kept := by
  unfold State.deliver
  split
  · exact h
  · next k rest _ =>
    have ht : State.Kept { s with noc := rest } := h
    split
    · exact h
    · grind [State.Kept.packetLost]

theorem onStation_kept {d : Nat} {s t : State} {f : State → State} (hf : (f s).Kept)
    (e : onStation d s f = .next t) : t.Kept := by
  unfold onStation at e
  split at e
  · cases e; exact hf
  · cases e

theorem State.Kept.takeLeaf {s : State} {d : Nat} {par : Bool} (h : s.Kept) :
    (s.takeLeaf d par).Kept := by
  unfold State.takeLeaf
  grind [State.Kept.leafDone, State.Kept.modShell, State.Kept.strikeLost, Shell.Kept]

theorem State.Kept.landNode {s : State} {d : Nat} {par : Bool} {k : Packet} (h : s.Kept) :
    (s.landNode d par k).Kept := by
  unfold State.landNode
  grind [State.Kept.modPad, State.Kept.nodeArrives, State.Kept.sendPk, Pad.Kept]

theorem State.Kept.statsArrive {s : State} {d : Nat} {k : Packet} {par : Bool}
    {qid m n group rid : Nat} {his los : List Word} (h : s.Kept) :
    (s.statsArrive d k par qid m n group rid his los).Kept := by
  unfold State.statsArrive
  grind [State.Kept.arrivalFault, State.Kept.modShell, State.Kept.modTuner, State.Kept.statsDown,
    State.Kept.foldl, Shell.Kept]

theorem State.Kept.landStats {s : State} {d : Nat} {par : Bool} {k : Packet} (h : s.Kept) :
    (s.landStats d par k).Kept := by
  unfold State.landStats
  grind [State.Kept.sendPk, State.Kept.statsArrive]

end Sys2Proof.Machine
end

section
/-! Every step keeps the part and its stores (O4), Machine/Runs.lean: the runs of a drum task. -/

namespace Sys2Proof.Machine

set_option Elab.async false

theorem State.Kept.loadDescs {s : State} {d : Nat} {l : List Desc} (h : s.Kept) :
    (s.loadDescs d l).Kept := by
  unfold State.loadDescs
  grind [State.Kept.modPad, State.Kept.modShell, State.Kept.nodeArrives, State.Kept.foldl, Pad.Kept,
    Shell.Kept]

theorem State.Kept.loadTable {s : State} {d group : Nat} {seed : Dword} {tile n : Nat}
    {t : TaskRec} {e k a : Nat} (h : s.Kept) : (s.loadTable d group seed tile n t e k a).Kept := by
  unfold State.loadTable
  grind [State.Kept.access, State.Kept.drumFault, State.Kept.loadDescs, State.Kept.modDrum,
    Drum.Kept.padPut, State.Kept.rereads, Drum.Kept, Shell.Kept]

theorem State.Kept.loadPattern {s : State} {d : Nat} {group : Nat} {seed : Dword} {tile n : Nat}
    {t : TaskRec} (h : s.Kept) : (s.loadPattern d group seed tile n t).Kept := by
  unfold State.loadPattern
  grind [State.Kept.access, State.Kept.drumFault, State.Kept.loadTable, State.Kept.rereads]

theorem State.Kept.boundary {s : State} {d : Nat} {j : Half} (h : s.Kept) : (s.boundary d j).Kept := by
  unfold State.boundary
  grind [Drum.Kept.clearBeside, State.Kept.modDrum]

theorem State.Kept.beginRun {s : State} {d : Nat} {j : Half} {i : Nat} {t : TaskRec} {tile n : Nat}
    (h : s.Kept) : (s.beginRun d j i t tile n).Kept := by
  unfold State.beginRun
  grind [State.Kept.loadPattern, State.Kept.modDrum, Drum.Kept]

theorem State.Kept.finishShare {s : State} {d : Nat} {j : Half} {i : Nat} (h : s.Kept) :
    (s.finishShare d j i).Kept := by
  unfold State.finishShare
  grind [State.Kept.modDrum, State.Kept.modTask, Drum.Kept]

theorem State.Kept.ledgerRead {s : State} {ledger tile : Nat} (h : s.Kept) :
    (s.ledgerRead ledger tile).2.Kept := by
  unfold State.ledgerRead
  grind [State.Kept.fetchDev]

theorem State.Kept.setLedger {s : State} {j : Half} {i : Nat} {ledger tile : Nat} {b : Byte}
    (h : s.Kept) : (s.setLedger j i ledger tile b).Kept := by
  unfold State.setLedger
  grind [State.Kept.modMet, State.Kept.modTask, State.Kept.storeDev]

theorem State.Kept.markLedger {s : State} {j : Half} {i : Nat} {ledger tile : Nat} {f : Fetched}
    (h : s.Kept) : (s.markLedger j i ledger tile f).Kept := by
  unfold State.markLedger
  grind [State.Kept.markFaulted, State.Kept.raiseJob, State.Kept.setLedger]

theorem State.Kept.finishRun {s : State} {d : Nat} {r : RunId} {f : Fetched} (h : s.Kept) :
    (s.finishRun d r f).Kept := by
  unfold State.finishRun
  grind [State.Kept.bankRun, State.Kept.finishShare, State.Kept.markLedger, State.Kept.modDrum,
    State.Kept.modTask, Drum.Kept.noteRun, Drum.Kept]

theorem State.Kept.endRun {s t : State} {d : Nat} {r : RunId} (h : s.Kept) (ht : t.Kept) :
    (s.endRun t d r).Kept := by
  unfold State.endRun
  grind [State.Kept.finishRun, State.Kept.ledgerRead, State.kept_iff, State.DrumsKept,
    State.BaseKept]

end Sys2Proof.Machine
end

section
/-! Every step keeps the part and its stores (O4), Machine/PadEngine.lean: the pad engine and the NoC port. -/

namespace Sys2Proof.Machine

set_option Elab.async false

theorem Drum.Kept.fillShell {x : Drum} {q : FillW} (h : x.Kept) : (x.fillShell q).Kept := by
  unfold Drum.fillShell
  grind [Drum.Kept.noteRows, Shell.Kept.putRow, Shell.Kept.setStatus, Shell.Kept.loop, Drum.Kept]

theorem Drum.Kept.fillPad {x : Drum} {q : FillW} (h : x.Kept) : (x.fillPad q).Kept := by
  unfold Drum.fillPad
  grind [Drum.Kept.padPut]

theorem State.Kept.startFill {s : State} {d : Nat} {j : UnitJob} (h : s.Kept) :
    (s.startFill d j).Kept := by
  unfold State.startFill
  grind [Drum.Kept.fillPad, Drum.Kept.fillShell, State.Kept.modDrum, State.Kept.reach,
    State.Kept.unitFault]

theorem Drum.Kept.copySet {q : CopyW} {k : Nat} {x : Drum} (h : x.Kept) : (x.copySet q k).Kept := by
  unfold Drum.copySet
  grind [Pad.Kept.countSet, Drum.Kept.padPut, Drum.Kept.foldl, Drum.Kept]

theorem State.Kept.startCopy {s : State} {d : Nat} {j : UnitJob} (h : s.Kept) :
    (s.startCopy d j).Kept := by
  unfold State.startCopy
  extract_lets q f
  split
  · exact h.unitFault
  · exact h.reach.reading (h.reach.reach.modDrum fun x hx => Drum.Kept.loop (fun _ _ hy => Drum.Kept.copySet hy) hx)

theorem State.Kept.sendOne {s : State} {d : Nat} {r : RunId} {serial l : Nat} {q : SendW}
    {data : List Byte} (h : s.Kept) : (s.sendOne d r serial l q data).Kept := by
  unfold State.sendOne
  grind [State.Kept.modSeq, State.kept_iff, State.DrumsKept, State.BaseKept]

theorem State.Kept.runSend {s : State} {d : Nat} {q : SendW} (h : s.Kept) : (s.runSend d q).Kept := by
  unfold State.runSend
  grind [State.Kept.modSeq, State.Kept.sendOne, State.Kept.sendOut, State.Kept.foldl]

theorem State.Kept.startSend {s : State} {d : Nat} {j : UnitJob} (h : s.Kept) :
    (s.startSend d j).Kept := by
  unfold State.startSend
  grind [State.Kept.reach, State.Kept.reading, State.Kept.runSend, State.Kept.unitFault]

theorem waitRun_kept {d : Nat} {w : Quad} {s s1 : State} (h : s.Kept) (hs1 : s1.Kept) :
    (waitRun d w s s1).Kept := by
  unfold waitRun
  grind [State.Kept.drumFaults, State.Kept.modSeq, State.Kept.took]

theorem Pad.Kept.setTally {p : Pad} {t : Nat} {v : Word} (h : p.Kept) : (p.setTally t v).Kept := by
  unfold Pad.setTally
  grind [putCell_wf, Pad.Kept]

theorem State.Kept.waitDone {s : State} {d : Nat} (h : s.Kept) : (s.waitDone d).Kept := by
  unfold State.waitDone
  grind [State.Kept.drum, State.Kept.setDrum, Pad.Kept.setTally, Drum.Kept]

theorem State.Kept.waitLate {s : State} {d : Nat} (h : s.Kept) : (s.waitLate d).Kept := by
  unfold State.waitLate
  grind [State.Kept.drumFault]

theorem fenceRun_kept {d : Nat} {w : Quad} {_s s1 : State} (h : s1.Kept) : (fenceRun d w _s s1).Kept := by
  unfold fenceRun
  grind [State.Kept.drumFaults, State.Kept.modSeq, State.Kept.took]

theorem endRunOf_kept {d : Nat} {w : Quad} {_s s1 : State} (h : s1.Kept) : (endRunOf d w _s s1).Kept := by
  unfold endRunOf
  grind [State.Kept.drumFault, State.Kept.drumFaults, State.Kept.modSeq, State.Kept.took]

theorem State.Kept.fenceDone {s : State} {d : Nat} (h : s.Kept) : (s.fenceDone d).Kept := by
  unfold State.fenceDone
  grind [State.Kept.drumFault, State.Kept.endRun, State.Kept.modSeq]

end Sys2Proof.Machine
end

section
/-! Every step keeps the part and its stores (O4), Machine/TapPass.lean: TAP and CHECK. -/

namespace Sys2Proof.Machine

set_option Elab.async false

theorem Drum.Kept.tapRow {x : Drum} {t : Step} {cont : Bool} {m : Nat} (h : x.Kept) :
    (x.tapRow t cont m).Kept := by
  unfold Drum.tapRow
  grind [Drum.Kept.noteRows, Shell.Kept.putRow, Shell.Kept.setStatus, Drum.Kept, Shell.Kept]

theorem Drum.Kept.runTap {x : Drum} {q : TapW} {pc : Nat} (h : x.Kept) : (x.runTap q pc).Kept := by
  unfold Drum.runTap
  extract_lets t old cont x0 x1 keeps seq x2 kept hd x3 src
  have h0 : x0.Kept := h
  have h1 : x1.Kept := by
    unfold x1
    split
    · exact h0
    · split
      · exact Drum.Kept.noteRows (x := { x0 with shell := _ }) ⟨h0.1, Shell.Kept.loop (fun _ _ hg => hg.setStatus) h0.2⟩
      · exact Drum.Kept.loop (fun _ _ hy => Drum.Kept.tapRow hy) h0
  have h2 : x2.Kept := Drum.Kept.foldl (fun _ _ hy => hy.padPut.padPut) h1
  have h3 : x3.Kept := h2.padPut
  clear_value x3
  exact Drum.Kept.congr h3 rfl rfl

theorem State.Kept.startTap {s : State} {d : Nat} {j : SkinJob} (h : s.Kept) : (s.startTap d j).Kept := by
  unfold State.startTap
  grind [State.Kept.checked, Drum.Kept.dropOrd, State.Kept.drumFaults, State.Kept.modDrum,
    State.Kept.readWrite, Drum.Kept.runTap]

theorem Drum.Kept.overwriteRow {x : Drum} {hd : MapHdr} {mout row0 m : Nat} (h : x.Kept) :
    (x.overwriteRow hd mout row0 m).Kept := by
  unfold Drum.overwriteRow
  refine Drum.Kept.noteRows ⟨h.1, Shell.Kept.setStatus (Shell.Kept.foldl (fun g n hg => ?_) h.2)⟩
  split
  · exact hg
  · exact hg.put

theorem Drum.Kept.closeMap {x : Drum} {mout : Nat} {h : MapHdr} {madeup : Bool} (hk : x.Kept) :
    (x.closeMap mout h madeup).Kept := by
  unfold Drum.closeMap
  grind [Drum.Kept.padPut]

theorem Drum.Kept.reload {x : Drum} {t : Step} (h : x.Kept) : (x.reload t).1.Kept := by
  unfold Drum.reload
  grind [Drum.Kept.loadTile, Drum.Kept]

theorem State.Kept.runCheck {s : State} {d : Nat} {q : TapW} {j : UnitJob} (h : s.Kept) :
    (s.runCheck d q j).Kept := by
  unfold State.runCheck
  extract_lets x hd tile f
  clear_value f tile
  split
  extract_lets t u v w
  have hu : State.Kept u := h.modTap.modSeq
  split
  · exact hu.modDrum fun y hy => Drum.Kept.closeMap (Drum.Kept.loop (fun _ _ hz => Drum.Kept.overwriteRow hz) hy)
  · split
    · have hw : State.Kept w := hu.modTap.modSeq
      split
      · next _ i =>
        refine hw.readWrite fun t ht => ?_
        have hy := ht.setDrum (d := d) (Drum.Kept.reload (t := i) (ht.drum d))
        dsimp only
        split
        · exact hy
        · exact hy.unitFault
      · exact hw
    · exact hu.unitFault

theorem State.Kept.startCheck {s : State} {d : Nat} {j : SkinJob} (h : s.Kept) :
    (s.startCheck d j).Kept := by
  unfold State.startCheck
  grind [State.Kept.checked, Drum.Kept.dropOrd, State.Kept.drumFaults, State.Kept.modDrum,
    State.Kept.readWrite, State.Kept.runCheck]

theorem Drum.Kept.endReplay {x : Drum} {q : TapW} (h : x.Kept) : (x.endReplay q).Kept := by
  unfold Drum.endReplay
  grind [Drum.Kept.closeMap, Drum.Kept]

end Sys2Proof.Machine
end

section
/-! Every step keeps the part and its stores (O4), Machine/RollUnit.lean: the roll unit. -/

namespace Sys2Proof.Machine

set_option Elab.async false

theorem Drum.Kept.rollOut {x : Drum} {q : RollW} {m : Nat} {l : List Word} (h : x.Kept) :
    (x.rollOut q m l).Kept := by
  unfold Drum.rollOut
  extract_lets bad _ y
  have hy : y.Kept := h
  split
  · exact hy.padPut
  · refine Drum.Kept.foldl (fun x _ hz => ?_) hy
    exact Drum.Kept.noteRows (x := { x with shell := _ }) ⟨hz.1, hz.2.putRow.setStatus⟩

theorem Drum.Kept.rollCount {x : Drum} {elems empty tails : Nat} (h : x.Kept) :
    (x.rollCount elems empty tails).Kept := h

theorem Drum.Kept.topRow {x : Drum} {q : RollW} {m : Nat} {l : List Word} (h : x.Kept) :
    (x.topRow q m l).Kept := by
  unfold Drum.topRow
  grind [Drum.Kept.padPut, Drum.Kept.rollCount, Drum.Kept]

theorem Drum.Kept.rollRow {x y : Drum} {q : RollW} {m : Nat} (h : x.Kept)
    (e : x.rollRow q m = some y) : y.Kept := by
  unfold Drum.rollRow at e
  split at e
  · cases e; exact h.topRow
  · obtain ⟨r, -, rfl⟩ := Option.map_eq_some_iff.1 e
    exact h.rollOut.rollCount

theorem State.Kept.startRoll {s : State} {d : Nat} {j : UnitJob} (h : s.Kept) :
    (s.startRoll d j).Kept := by
  unfold State.startRoll
  grind [State.Kept.access, State.Kept.checked, State.Kept.modRoll, State.Kept.reading,
    State.Kept.unitFault]

theorem State.Kept.nextRollRow {s : State} {d : Nat} {j : UnitJob} (h : s.Kept) :
    (s.nextRollRow d j).Kept := by
  refine h.rowAccess fun t ht => ?_
  extract_lets x
  split
  · next y e => exact ht.setDrum (Drum.Kept.congr (x := y) (Drum.Kept.rollRow (ht.drum d) e) rfl rfl)
  · exact ht.unitFault

end Sys2Proof.Machine
end

section
/-! Every step keeps the part and its stores (O4), Machine/Tune.lean: the tuner. -/

namespace Sys2Proof.Machine

set_option Elab.async false

theorem Drum.Kept.counted {x : Drum} {l : List Coded} (h : x.Kept) : (x.counted l).Kept := h

theorem Drum.Kept.foldRows {x : Drum} {q : TuneW} {folds : Bool} {rows : List (List Word)}
    {c : Seen} (h : x.Kept) : (x.foldRows q folds rows c).Kept := by
  unfold Drum.foldRows
  grind [Drum.Kept]

theorem narrowRow_kept {q : TuneW} {sf df : TFmt} {m : Nat} {k : NarrowRun} (h : k.drum.Kept) :
    (narrowRow q sf df m k).drum.Kept := by
  unfold narrowRow
  extract_lets x row g ss ss' codes scales zs
  split
  · exact h
  · split
    · exact h
    · exact (Drum.Kept.counted h).padPut

theorem State.Kept.endNarrow {s : State} {d : Nat} {q : TuneW} {j : UnitJob} {folds : Bool}
    {k : NarrowRun} (h : s.Kept)
    (hk : k.drum.Kept) : (s.endNarrow d q j folds k).Kept := by
  unfold State.endNarrow
  split
  · exact (h.setDrum hk).unitFault
  · extract_lets y0 y1 y2
    have h0 : y0.Kept := hk.foldRows
    have h1 : y1.Kept := by unfold y1; split <;> exact h0
    have h2 : y2.Kept := by
      unfold y2
      split
      · exact h1.padPut
      · exact h1
    exact h.setDrum h2

theorem State.Kept.runNarrow {s : State} {d : Nat} {q : TuneW} {sf df : TFmt} {j : UnitJob}
    (h : s.Kept) :
    (s.runNarrow d q sf df j).Kept := by
  unfold State.runNarrow
  split
  · exact h.unitFault
  · exact h.endNarrow (List.foldlRecOn (motive := fun k : NarrowRun => k.drum.Kept) _ _ (h.drum d)
      fun _ hk _ _ => narrowRow_kept hk)

theorem widenRow_kept {q : TuneW} {sf df : TFmt} {u : Fmt} {m : Nat} {k : WideRun}
    (h : k.drum.Kept) :
    (widenRow q sf df u m k).drum.Kept := by
  unfold widenRow
  extract_lets x g l rs blk ss zs codes codes'
  split
  · exact h
  · split
    · exact h
    · exact (Drum.Kept.counted h).padPut

theorem State.Kept.runWiden {s : State} {d : Nat} {q : TuneW} {sf df : TFmt} {j : UnitJob}
    (h : s.Kept) :
    (s.runWiden d q sf df j).Kept := by
  unfold State.runWiden
  extract_lets x k
  have hk : k.drum.Kept :=
    List.foldlRecOn (motive := fun k : WideRun => k.drum.Kept) _ _ (h.drum d) fun _ hk _ _ => widenRow_kept hk
  split
  · exact h.unitFault
  · split
    · exact (h.setDrum hk).unitFault
    · exact h.setDrum hk.foldRows

theorem convertRow_kept {q : TuneW} {sf df : TFmt} {u : Fmt} {m : Nat} {k : WideRun}
    (h : k.drum.Kept) :
    (convertRow q sf df u m k).drum.Kept := h.counted.padPut

theorem State.Kept.endConvert {s : State} {d : Nat} {q : TuneW} {folds : Bool} {k : WideRun}
    (h : s.Kept) (hk : k.drum.Kept) :
    (s.endConvert d q folds k).Kept := h.setDrum hk.foldRows

theorem State.Kept.runConvert {s : State} {d : Nat} {q : TuneW} {sf df : TFmt} (h : s.Kept) :
    (s.runConvert d q sf df).Kept :=
  h.endConvert (List.foldlRecOn (motive := fun k : WideRun => k.drum.Kept) _ _ (h.drum d) fun _ hk _ _ => convertRow_kept hk)

theorem State.Kept.offer {s : State} {d : Nat} {r : RunId} {q : TuneW} {j : UnitJob}
    {close folds : Bool} {k : QRec} (h : s.Kept) : (s.offer d r q j close folds k).Kept := by
  unfold State.offer
  grind [State.Kept.modMet, State.Kept.modTuner]

theorem State.Kept.endAmax {s : State} {d : Nat} {q : TuneW} {r : RunId} {j : UnitJob}
    {folds : Bool} {rows : List (List Word)} (h : s.Kept) :
    (s.endAmax d q r j folds rows).Kept := by
  unfold State.endAmax
  grind [State.Kept.modTuner, State.Kept.offer]

theorem State.Kept.runAmax {s : State} {d : Nat} {q : TuneW} {r : RunId} {sf : TFmt} {j : UnitJob}
    (h : s.Kept) : (s.runAmax d q r sf j).Kept := by
  unfold State.runAmax
  grind [State.Kept.endAmax]

theorem State.Kept.runClose {s : State} {d : Nat} {q : TuneW} {r : RunId} {j : UnitJob}
    (h : s.Kept) : (s.runClose d q r j).Kept := by
  unfold State.runClose
  grind [State.Kept.modTuner, State.Kept.offer]

theorem State.Kept.takeReduction {s : State} {d : Nat} {par : Bool} (h : s.Kept) :
    (s.takeReduction d par).Kept := by
  unfold State.takeReduction
  grind [State.Kept.modTuner, State.Kept.unitFault]

theorem State.Kept.runLdscale {s : State} {d : Nat} {q : TuneW} {j : UnitJob} (h : s.Kept) :
    (s.runLdscale d q j).Kept := by
  unfold State.runLdscale
  grind [State.Kept.modTuner, State.Kept.unitFault]

theorem Drum.Kept.runStscale {x : Drum} {q : TuneW} (h : x.Kept) : (x.runStscale q).Kept := by
  unfold Drum.runStscale
  grind [Drum.Kept.padPut]

theorem Drum.Kept.runQsave {x : Drum} {q : TuneW} {r : RunId} (h : x.Kept) : (x.runQsave q r).Kept := by
  unfold Drum.runQsave
  grind [Drum.Kept.padPut]

theorem State.Kept.runQload {s : State} {d : Nat} {q : TuneW} {r : RunId} {j : UnitJob}
    (h : s.Kept) : (s.runQload d q r j).Kept := by
  unfold State.runQload
  extract_lets k
  split
  · exact h.modTuner
  · exact h.unitFault

theorem State.Kept.runTune {s : State} {d : Nat} {q : TuneW} {r : RunId} {j : UnitJob}
    (h : s.Kept) : (s.runTune d q r j).Kept := by
  unfold State.runTune
  grind [State.Kept.checked, State.Kept.modDrum, State.Kept.runAmax, State.Kept.runClose,
    State.Kept.runConvert, State.Kept.runLdscale, State.Kept.runNarrow, State.Kept.runQload,
    Drum.Kept.runQsave, Drum.Kept.runStscale, State.Kept.runWiden]

theorem State.Kept.beginTune {s : State} {d : Nat} {j : UnitJob} (h : s.Kept) :
    (s.beginTune d j).Kept := by
  unfold State.beginTune
  grind [State.Kept.modTuner, State.Kept.unitFault]

theorem State.Kept.tuneRow {s : State} {d : Nat} {c : TuneRun} (h : s.Kept) : (s.tuneRow d c).Kept := by
  unfold State.tuneRow
  extract_lets q last t keep
  have ht : State.Kept t := h.modTuner
  split
  · extract_lets k
    have hk : k.drum.Kept := narrowRow_kept (ht.drum d)
    split
    · exact ht.endNarrow hk
    · exact ht.setDrum hk
  · extract_lets k
    have hk : k.drum.Kept := convertRow_kept (ht.drum d)
    split
    · exact ht.endConvert hk
    · exact ht.setDrum hk
  · split
    · exact ht.endAmax
    · exact ht.modDrum fun _ hy => hy
  · exact ht

theorem State.Kept.nextTuneRow {s : State} {d : Nat} {c : TuneRun} (h : s.Kept) :
    (s.nextTuneRow d c).Kept := by
  unfold State.nextTuneRow
  grind [State.Kept.rowAccess, State.Kept.tuneRow]

theorem State.Kept.startTune {s : State} {d : Nat} {j : UnitJob} (h : s.Kept) :
    (s.startTune d j).Kept := by
  unfold State.startTune
  grind [State.Kept.beginTune, State.Kept.checked, State.Kept.readWrite, State.Kept.runTune,
    State.Kept.unitFault]

end Sys2Proof.Machine
end

section
/-! Every step keeps the part and its stores (O4), Machine/Pads.lean: arrivals, parity and bank gating. -/

namespace Sys2Proof.Machine

set_option Elab.async false

theorem Pad.Kept.zeroTallies {p : Pad} {t : Slot} (h : p.Kept) : (p.zeroTallies t).Kept := by
  unfold Pad.zeroTallies
  grind [zeroRange_wf, Pad.Kept]

theorem Pad.Kept.releaseEnded {p : Pad} (h : p.Kept) : (p.releaseEnded).Kept := by
  unfold Pad.releaseEnded
  grind [Pad.Kept.zeroTallies, Pad.Kept.foldl, Pad.Kept]

theorem execShellClearDone_kept {d : Nat} {s : State} {t : State} (h : s.Kept)
    (e : execShellClearDone d s = .next t) : t.Kept := by
  unfold execShellClearDone at e
  grind [State.Kept.applyMap, State.Kept.modDrum, onDrum_kept, Pad.Kept.releaseEnded, Drum.Kept,
    Shell.Kept]

theorem State.Kept.acknowledge {s : State} {d : Nat} {k : Packet} {id : SendId} {ok : Bool}
    (h : s.Kept) : (s.acknowledge d k id ok).Kept := by
  unfold State.acknowledge
  grind [State.Kept.sendOut, State.kept_iff, State.DrumsKept, State.BaseKept]

theorem State.Kept.bumpTally {s : State} {d t : Nat} {job : Option Half} (h : s.Kept) :
    (s.bumpTally d t job).Kept := by
  unfold State.bumpTally
  grind [State.Kept.arrivalFault, State.Kept.modPad, Pad.Kept.setTally]

theorem State.Kept.landSend {s : State} {d : Nat} {k : Packet} {t : Slot} {id : SendId}
    {dst tally : Nat} {data : List Byte} (h : s.Kept) : (s.landSend d k t id dst tally data).Kept := by
  unfold State.landSend
  grind [State.Kept.acknowledge, State.Kept.bumpTally, State.Kept.modPad, Pad.Kept.put,
    Pad.Kept.reach]

theorem State.Kept.takeSend {s : State} {d : Nat} {k : Packet} {id : SendId} {dst tally : Nat}
    {data : List Byte} (h : s.Kept) : (s.takeSend d k id dst tally data).Kept := by
  unfold State.takeSend
  grind [State.Kept.acknowledge, State.Kept.landSend, State.Kept.modPad, Pad.Kept.reach, Pad.Kept]

theorem execSendArrival_kept {d src : Nat} {net : NocVerdict} {s : State} {t : State} (h : s.Kept)
    (e : execSendArrival d src net s = .next t) : t.Kept := by
  unfold execSendArrival at e
  grind [State.Kept.deliver, onStation_kept, State.Kept.sendPk, State.Kept.takeSend]

theorem State.Kept.takeAck {s : State} {d : Nat} {id : SendId} {ok : Bool} (h : s.Kept) :
    (s.takeAck d id ok).Kept := by
  unfold State.takeAck
  grind [State.Kept.drum, State.Kept.drumFault, State.Kept.markFaulted, State.Kept.modSeq,
    State.Kept.raiseJob, State.Kept.setDrum, Drum.Kept]

theorem execSendAckArrival_kept {d src : Nat} {net : NocVerdict} {s : State} {t : State}
    (h : s.Kept) (e : execSendAckArrival d src net s = .next t) : t.Kept := by
  unfold execSendAckArrival at e
  grind [State.Kept.arrivalFault, State.Kept.deliver, onStation_kept, State.Kept.sendPk,
    State.Kept.takeAck]

theorem State.Kept.parityFault {s : State} {d word : Nat} {outside : Bool} (h : s.Kept) :
    (s.parityFault d word outside).Kept := by
  unfold State.parityFault
  grind [State.Kept.drumFault, State.Kept.raise, State.Kept.strikeLost, State.Kept.unitFault]

theorem execPadReread_kept {d word : Nat} {v : Reread} {s : State} {t : State} (h : s.Kept)
    (e : execPadReread d word v s = .next t) : t.Kept := by
  unfold execPadReread at e
  grind [Pad.Kept.markPurge, State.Kept.modPad, onDrum_kept, State.Kept.parityFault, Pad.Kept]

theorem execBankGate_kept {d bank : Nat} {s : State} {t : State} (h : s.Kept)
    (e : execBankGate d bank s = .next t) : t.Kept := by
  unfold execBankGate at e
  grind [State.Kept.modPad, onDrum_kept, putCell_wf, Pad.Kept]

theorem execBankWakeEnd_kept {d bank : Nat} {s t : State} (h : s.Kept)
    (e : execBankWakeEnd d bank s = .next t) : t.Kept := by
  refine onDrum_kept ?_ e
  extract_lets u held v
  have hu : State.Kept u := h.modPad fun _ hp => ⟨hp.1, hp.2.1, putCell_wf _ _ hp.2.2⟩
  have hv : State.Kept v := hu.modPad fun _ hp => hp
  split
  · refine State.Kept.foldl (fun w k hw => ?_) hv
    split
    · split
      · split
        · exact hw.modPad fun _ hp => Pad.Kept.reach hp
        · exact hw.landSend
      · exact hw.takeSend
    · exact hw
  · exact h

end Sys2Proof.Machine
end

section
/-! Every step keeps the part and its stores (O4), Machine/Metronome.lean: entries, scores and slots. -/

namespace Sys2Proof.Machine

set_option Elab.async false

theorem State.Kept.entryRead {s : State} {q : Nat} (h : s.Kept) : (s.entryRead q).2.Kept := by
  unfold State.entryRead
  grind [State.Kept.hostRead]

theorem State.Kept.take {s : State} {q : Nat} (h : s.Kept) : (s.take q).Kept := by
  unfold State.take
  grind [State.Kept.dropAsks, State.Kept.modMet, State.Kept.modRing]

theorem State.Kept.entryFault {s : State} {q : Nat} {e : Entry} {sqidx : Half} (h : s.Kept) :
    (s.entryFault q e sqidx).Kept := by
  unfold State.entryFault
  grind [State.Kept.pushRecord, State.Kept.raise]

theorem State.Kept.scoreWithout {s : State} {q : Nat} {c : Code} {utag : Word} {sqidx : Half}
    {serial : Nat} (h : s.Kept) : (s.scoreWithout q c utag sqidx serial).Kept := by
  unfold State.scoreWithout
  grind [State.Kept.pushRecord]

theorem Pad.Kept.bind {p : Pad} {sc : Score} {j : Half} {k b tb : Nat} (h : p.Kept) :
    (p.bind sc j k b tb).Kept := by
  unfold Pad.bind
  grind [zeroRange_wf, Pad.Kept]

theorem Pad.Kept.purge {p : Pad} {k : Nat} (h : p.Kept) : (p.purge k).Kept := by
  unfold Pad.purge
  grind [Pad.Kept.zeroTallies, Pad.Kept]

theorem Pad.Kept.makeRoom {p : Pad} {sc : Score} (h : p.Kept) : (p.makeRoom sc).Kept := by
  unfold Pad.makeRoom
  grind [Pad.Kept.purge]

theorem State.Kept.noteReady {s : State} (h : s.Kept) : (s.noteReady).Kept := h

theorem State.Kept.makeJob {s : State} {q : Nat} {h : Head} {g : Nat}
    {plans : List (Nat × Nat × Nat × Nat)} (hk : s.Kept) : (s.makeJob q h g plans).Kept := by
  unfold State.makeJob
  grind [Pad.Kept.bind, State.Kept.finishJob, State.Kept.modMet, State.Kept.modPad,
    State.Kept.modRing, State.Kept.noteReady, State.Kept.pushTasks, State.Kept.foldl]

theorem State.Kept.tryBind {s : State} {q : Nat} (h : s.Kept) : (s.tryBind q).Kept := by
  unfold State.tryBind
  extract_lets r g
  split
  · exact h
  · extract_lets sc gone ps ds never plans
    have freed : State.Kept (s.modRing q fun r => { r with head := none }) := h.modRing
    have hg (c : Code) : State.Kept (gone c) := freed.scoreWithout
    split
    · exact h
    split
    · exact hg _
    split
    · exact freed.raise.scoreWithout
    split
    · exact h
    split
    · exact h
    split
    · exact (State.Kept.foldl (fun _ _ ht => ht.raise) freed).scoreWithout
    split
    · exact h.makeJob
    · refine State.Kept.foldl (fun t p ht => ?_) h
      split
      · exact ht.modPad fun _ hp => Pad.Kept.makeRoom hp
      · exact ht

theorem execScoreBind_kept {q : Nat} {s : State} {t : State} (h : s.Kept)
    (e : execScoreBind q s = .next t) : t.Kept := by
  unfold execScoreBind at e
  grind [State.Kept.tryBind]

theorem State.Kept.scoreRead {s : State} {q addr : Nat} (h : s.Kept) : (s.scoreRead q addr).2.Kept := by
  unfold State.scoreRead
  grind [State.Kept.fetchDev]

theorem State.Kept.admitLive {s : State} {q : Nat} {sc : Score} {e : Entry} {sqidx : Half}
    {serial : Nat} {refuse : State → State}
    (h : s.Kept) (hr : ∀ t, t.Kept → (refuse t).Kept) : (s.admitLive q sc e sqidx serial refuse).Kept := by
  unfold State.admitLive
  split
  · exact hr s h
  · exact State.Kept.tryBind (State.Kept.modRing (h.modMet (f := _)))

theorem State.Kept.checkScore {s : State} {q : Nat} {e : Entry} {f : Fetched} {sqidx : Half}
    {serial : Nat} (h : s.Kept) : (s.checkScore q e f sqidx serial).Kept := by
  unfold State.checkScore
  grind [State.Kept.admitLive, State.Kept.modMet, State.Kept.modRing, State.Kept.raise,
    State.Kept.scoreWithout]

theorem State.Kept.withEntry {s : State} {q : Nat} {op : Nat → Bool} {run : Entry → State}
    (h : s.Kept) (hr : ∀ e, (run e).Kept) :
    (s.withEntry q op run).Kept := by
  unfold State.withEntry
  grind [State.Kept.entryRead, State.Kept.entryFault, State.Kept.take]

theorem execScore_kept {q : Nat} {s : State} {t : State} (h : s.Kept)
    (e : execScore q s = .next t) : t.Kept := by
  unfold execScore at e
  grind [State.Kept.checkScore, State.Kept.modRing, State.Kept.scoreRead, State.Kept.take,
    State.Kept.withEntry]

theorem execDrain_kept {q : Nat} {s : State} {t : State} (h : s.Kept)
    (e : execDrain q s = .next t) : t.Kept := by
  unfold execDrain at e
  grind [State.Kept.drained, State.Kept.modRing, State.Kept.take, State.Kept.withEntry]

theorem execKill_kept {q : Nat} {s : State} {t : State} (h : s.Kept) (e : execKill q s = .next t) :
    t.Kept := by
  unfold execKill at e
  grind [State.Kept.abortJob, State.Kept.modRing, State.Kept.pushRecord, State.Kept.take,
    State.Kept.withEntry]

theorem execSubmissionEntryFault_kept {q : Nat} {s : State} {t : State} (h : s.Kept)
    (e : execSubmissionEntryFault q s = .next t) : t.Kept := by
  unfold execSubmissionEntryFault at e
  grind [State.Kept.entryFault, State.Kept.take, State.Kept.withEntry]

theorem Pad.Kept.zeroBlocks {p : Pad} {beat : Dword} {lo hi : Nat} (h : p.Kept) :
    (p.zeroBlocks beat lo hi).Kept := by
  unfold Pad.zeroBlocks
  grind [Pad.Kept.touch, Pad.Kept.zero, Pad.Kept]

theorem Pad.Kept.dampSlot {p : Pad} {beat : Dword} {k serial : Nat} (h : p.Kept) :
    (p.dampSlot beat k serial).Kept := by
  unfold Pad.dampSlot
  grind [Pad.Kept.zeroBlocks, Pad.Kept]

theorem State.Kept.retryHeads {s : State} (h : s.Kept) : (s.retryHeads).Kept := by
  unfold State.retryHeads
  grind [State.Kept.tryBind, State.Kept.foldl]

theorem execDamperFinish_kept {d slot : Nat} {s : State} {t : State} (h : s.Kept)
    (e : execDamperFinish d slot s = .next t) : t.Kept := by
  unfold execDamperFinish at e
  grind [Pad.Kept.dampSlot, State.Kept.drum, State.Kept.modMet, State.Kept.modPad, onDrum_kept,
    State.Kept.retryHeads, Drum.Kept]

theorem Pad.Kept.releaseKey {p : Pad} {key : Word} (h : p.Kept) : (p.releaseKey key).Kept := by
  unfold Pad.releaseKey
  grind [Pad.Kept.purge, Pad.Kept.foldl]

theorem State.Kept.releaseKey {s : State} {key : Word} (h : s.Kept) : (s.releaseKey key).Kept :=
  h.mapDrums fun _ hx => ⟨Pad.Kept.releaseKey hx.1, hx.2⟩

theorem execMetRelease_kept {key : Word} {s : State} {t : State} (h : s.Kept)
    (e : execMetRelease key s = .next t) : t.Kept := by
  unfold execMetRelease at e
  grind [State.Kept.releaseKey]

theorem State.Kept.setReserve {s : State} {l d : Nat} {on : Bool} (h : s.Kept) :
    (s.setReserve l d on).Kept := by
  unfold State.setReserve
  grind [State.Kept.modDrum, State.Kept.modMet, Drum.Kept, Pad.Kept]

theorem State.Kept.changeReserve {s : State} {l d : Nat} {on : Bool} (h : s.Kept) :
    (s.changeReserve l d on).Kept := by
  unfold State.changeReserve
  extract_lets x high
  split
  · have ht : (s.modDrum d fun y => { y with liveHeld := some on }).Kept := h.modDrum fun _ hy => hy
    refine ht.modPad fun p hp => Pad.Kept.foldl (fun p k hp => ?_) hp
    split
    · exact hp.purge
    · exact hp
  · exact h.setReserve

theorem execLiveReserveApply_kept {l : Nat} {s : State} {t : State} (h : s.Kept)
    (e : execLiveReserveApply l s = .next t) : t.Kept := by
  unfold execLiveReserveApply at e
  grind [State.Kept.changeReserve]

end Sys2Proof.Machine
end

section
/-! Every step keeps the part and its stores (O4), Machine/FaultOps.lean: fault sets, retirement and sound checks. -/

namespace Sys2Proof.Machine

set_option Elab.async false

theorem execGraceExpire_kept {src : Nat} {s : State} {t : State} (h : s.Kept)
    (e : execGraceExpire src s = .next t) : t.Kept := by
  unfold execGraceExpire at e
  grind [State.Kept.escalate]

theorem execFaultnPulseEnd_kept {s : State} {t : State} (h : s.Kept)
    (e : execFaultnPulseEnd s = .next t) : t.Kept := by
  unfold execFaultnPulseEnd at e
  grind [State.Kept.emit, State.Kept.modPower]

theorem State.Kept.clearRecord {s : State} {src : Nat} (h : s.Kept) : (s.clearRecord src).Kept := by
  unfold State.clearRecord
  grind [State.Kept.latchFault, State.Kept.modFault, State.Kept.foldl]

theorem State.Kept.clearFault {s : State} {src : Nat} (h : s.Kept) : (s.clearFault src).Kept := by
  unfold State.clearFault
  grind [State.Kept.clearRecord, State.Kept.escalate]

theorem execFaultClear_kept {src : Nat} {s : State} {t : State} (h : s.Kept)
    (e : execFaultClear src s = .next t) : t.Kept := by
  unfold execFaultClear at e
  grind [State.Kept.clearFault]

theorem State.Kept.injectFault {s : State} {src : Nat} {v : Nat} (h : s.Kept) :
    (s.injectFault src v).Kept := by
  unfold State.injectFault
  grind [State.Kept.badacc, State.Kept.raiseWith]

theorem execFaultInject_kept {src : Nat} {value : Word} {s : State} {t : State} (h : s.Kept)
    (e : execFaultInject src value s = .next t) : t.Kept := by
  unfold execFaultInject at e
  grind [State.Kept.injectFault]

theorem State.Kept.withdraw {s : State} {d : Nat} (h : s.Kept) : (s.withdraw d).Kept := by
  unfold State.withdraw
  grind [State.Kept.abortJob, State.Kept.modDrum, State.Kept.foldl, Drum.Kept, Pad.Kept]

theorem State.Kept.retireDrum {s : State} {d : Nat} (h : s.Kept) : (s.retireDrum d).Kept := by
  unfold State.retireDrum
  extract_lets x t js u v out w
  have ht : State.Kept t := h.modDrum fun _ hy => hy
  have hu : State.Kept u := State.Kept.foldl (fun _ _ hk => hk.abortJob) ht
  have hv : State.Kept v := by
    refine hu.modPad fun p hp => Pad.Kept.foldl (fun p k hp => ?_) hp
    split
    · exact hp.purge
    · exact hp
  have hw : State.Kept w := by
    unfold w
    split
    · exact hv.withdraw
    · exact hv
  split
  · exact h
  · exact hw.applyMap

theorem execDrmRetire_kept {d : Nat} {value : Word} {s : State} {t : State} (h : s.Kept)
    (e : execDrmRetire d value s = .next t) : t.Kept := by
  unfold execDrmRetire at e
  grind [State.Kept.retireDrum]

theorem State.Kept.soundFail {s : State} {d : Nat} (h : s.Kept) : (s.soundFail d).Kept := by
  unfold State.soundFail
  grind [State.Kept.abortOf, State.Kept.bankRun, State.Kept.endTask, State.Kept.modDrum,
    State.Kept.raise, State.Kept.retireDrum, State.Kept.foldl, Drum.Kept]

theorem State.Kept.soundTick {s : State} (h : s.Kept) : (s.soundTick).Kept := by
  unfold State.soundTick
  grind [State.Kept.modDrum, State.Kept.soundFail, State.Kept.foldl, Drum.Kept]

theorem Drum.Kept.checkRow {x : Drum} {v : Nat} {l : List Flaw} (h : x.Kept) : (x.checkRow v l).Kept := by
  unfold Drum.checkRow
  grind [Drum.Kept, Shell.Kept]

theorem execSoundCheck_kept {d : Nat} {flaws1 flaws2 : List Flaw} {s t : State} (h : s.Kept)
    (e : execSoundCheck d flaws1 flaws2 s = .next t) : t.Kept := by
  unfold execSoundCheck at e
  extract_lets v pass1 pass2 u at e
  have hu : State.Kept u := by
    refine h.modDrum fun x hx => ?_
    extract_lets y
    have hy : Drum.Kept y := hx.checkRow
    clear_value y
    exact hy
  split at e
  · cases e
  · simp only [Host.Outcome.next.injEq] at e
    subst e
    split
    · exact h
    · split
      · exact hu.modDrum fun _ hy => hy
      · exact hu.modDrum fun _ hy => hy

end Sys2Proof.Machine
end

section
/-! Every step keeps the part and its stores (O4), Machine/PowerOps.lean: power, resets and sensors. -/

namespace Sys2Proof.Machine

set_option Elab.async false

theorem execIdleStrikeSlot_kept {s : State} {t : State} (h : s.Kept)
    (e : execIdleStrikeSlot s = .next t) : t.Kept := by
  unfold execIdleStrikeSlot at e
  grind [State.Kept.modPower]

theorem execDutyUpdate_kept {est : Nat} {s : State} {t : State} (h : s.Kept)
    (e : execDutyUpdate est s = .next t) : t.Kept := by
  unfold execDutyUpdate at e
  grind [State.Kept.modPower]

theorem execPwrcapAssert_kept {s : State} {t : State} (h : s.Kept)
    (e : execPwrcapAssert s = .next t) : t.Kept := by
  unfold execPwrcapAssert at e
  grind [State.Kept.modPower]

theorem execPwrcapRelease_kept {s : State} {t : State} (h : s.Kept)
    (e : execPwrcapRelease s = .next t) : t.Kept := by
  cases e; exact h

theorem State.Kept.trip {s : State} (h : s.Kept) : (s.trip).Kept := by
  unfold State.trip
  grind [State.Kept.coldReset, State.Kept.emit, State.Kept.modPower]

theorem execSensorSample_kept {readings : List Int} {s : State} {t : State} (h : s.Kept)
    (e : execSensorSample readings s = .next t) : t.Kept := by
  unfold execSensorSample at e
  grind [State.Kept.modPower, State.Kept.raise, State.Kept.trip, State.Kept.foldl]

theorem execThermalFault_kept {s : State} {t : State} (h : s.Kept)
    (e : execThermalFault s = .next t) : t.Kept := by
  unfold execThermalFault at e
  grind [State.Kept.modPower, State.Kept.raise]

theorem execRailFault_kept {pair : Nat} {s : State} {t : State} (h : s.Kept)
    (e : execRailFault pair s = .next t) : t.Kept := by
  unfold execRailFault at e
  grind [State.Kept.raise]

theorem State.Kept.releasePorts {s : State} (h : s.Kept) : s.releasePorts.Kept := h.modFab (by simp)

theorem State.Kept.publish {s : State} (h : s.Kept) : (s.publish).Kept := by
  unfold State.publish
  grind [State.Kept.modBoot, State.Kept.modFab, State.Kept.modPcie, State.Kept.retireDrum,
    State.Kept.foldl]

theorem execPowerOn_kept {s : State} {t : State} (h : s.Kept) (e : execPowerOn s = .next t) : t.Kept := by
  unfold execPowerOn at e
  grind [State.Kept.coldReset, State.Kept.modPower]

theorem State.Kept.bootFault {s : State} {same : Bool} {sub : Nat} (h : s.Kept) :
    (s.bootFault same sub).Kept := by
  unfold State.bootFault
  grind [State.Kept.draw, State.Kept.escalate, State.Kept.interrupt, State.Kept.setFault]

theorem execPllLock_kept {pufOk : Bool} {trained : Dword} {s : State} {t : State} (h : s.Kept)
    (e : execPllLock pufOk trained s = .next t) : t.Kept := by
  unfold execPllLock at e
  grind [State.Kept.bootFault, State.Kept.modBoot, State.Kept.modFab, State.Kept.modPower,
    State.Kept.trainMem, State.kept_iff, State.DrumsKept, State.BaseKept]

theorem State.Kept.dropPower {s : State} (h : s.Kept) : (s.dropPower).Kept := by
  unfold State.dropPower
  grind [State.Kept.coldReset, State.Kept.emit]

theorem execPllLockLoss_kept {s : State} {t : State} (h : s.Kept)
    (e : execPllLockLoss s = .next t) : t.Kept := by
  unfold execPllLockLoss at e
  grind [State.Kept.dropPower, State.Kept.modPower]

theorem execResetnAssert_kept {s : State} {t : State} (h : s.Kept)
    (e : execResetnAssert s = .next t) : t.Kept := by
  unfold execResetnAssert at e
  grind [State.Kept.modPower, State.Kept.warmReset]

theorem execResetnRelease_kept {trained : Dword} {s : State} {t : State} (h : s.Kept)
    (e : execResetnRelease trained s = .next t) : t.Kept := by
  unfold execResetnRelease at e
  grind [State.Kept.modPower, State.Kept.trainMem]

theorem State.Kept.writeRst {s : State} {v : Nat} (h : s.Kept) : (s.writeRst v).Kept := by
  unfold State.writeRst
  grind [State.Kept.badacc, State.Kept.warmReset]

theorem execPwrRst_kept {value : Word} {s : State} {t : State} (h : s.Kept)
    (e : execPwrRst value s = .next t) : t.Kept := by
  unfold execPwrRst at e
  grind [State.Kept.writeRst]

theorem execPowerDown_kept {s : State} {t : State} (h : s.Kept) (e : execPowerDown s = .next t) :
    t.Kept := by
  unfold execPowerDown at e
  grind [State.Kept.dropPower, State.Kept.modPower]

end Sys2Proof.Machine
end

section
/-! Every step keeps the part and its stores (O4), Machine/BootOps.lean: boot, updates and attestation. -/

namespace Sys2Proof.Machine

set_option Elab.async false

theorem State.Kept.enableBar0 {s : State} (h : s.Kept) : (s.enableBar0).Kept := by
  unfold State.enableBar0
  grind [State.Kept.bringMem, State.Kept.modBoot, State.Kept.setFault]

theorem State.Kept.recover {s : State} (h : s.Kept) : (s.recover).Kept := by
  unfold State.recover
  grind [State.Kept.enableBar0, State.Kept.modBoot, State.Kept.modFab, State.Kept.modMet]

theorem State.Kept.bootFrom {s : State} {k : Bool} (h : s.Kept) : (s.bootFrom k).Kept := by
  unfold State.bootFrom
  grind [State.Kept.enableBar0, State.Kept.modBoot, State.Kept.releasePorts]

theorem State.Kept.slotFault {s : State} {v : SlotVerdict} (h : s.Kept) : (s.slotFault v).Kept := by
  unfold State.slotFault
  grind [State.Kept.bootFault]

theorem State.Kept.checkRecords {s : State} (h : s.Kept) : (s.checkRecords).Kept := by
  unfold State.checkRecords
  grind [State.Kept.bootFault, State.Kept.foldl]

theorem State.Kept.markTried {s : State} (h : s.Kept) : (s.markTried).Kept := by
  unfold State.markTried
  grind [State.Kept.modBoot]

theorem State.Kept.bootSlots {s : State} (h : s.Kept) : (s.bootSlots).Kept := by
  unfold State.bootSlots
  grind [State.Kept.bootFault, State.Kept.bootFrom, State.Kept.markTried, State.Kept.recover,
    State.Kept.slotFault]

theorem State.Kept.flashFails {s : State} {counterOk : Bool} (h : s.Kept) :
    (s.flashFails counterOk).Kept := by
  unfold State.flashFails
  grind [State.Kept.bootFault, State.Kept.checkRecords, State.Kept.draw, State.Kept.markTried,
    State.Kept.publish, State.Kept.recover, State.Kept.slotFault]

theorem execBootComplete_kept {flashOk counterOk : Bool} {s : State} {t : State} (h : s.Kept)
    (e : execBootComplete flashOk counterOk s = .next t) : t.Kept := by
  unfold execBootComplete at e
  grind [State.Kept.bootFault, State.Kept.bootSlots, State.Kept.checkRecords, State.Kept.flashFails,
    State.Kept.publish, State.Kept.recover]

theorem State.Kept.badUpdate {s : State} (h : s.Kept) : (s.badUpdate).Kept := by
  unfold State.badUpdate
  grind [State.Kept.modBoot, State.Kept.raise]

theorem State.Kept.request {s : State} {op : UpdateOp} {len : Nat} {allowed : Bool} (h : s.Kept) :
    (s.request op len allowed).Kept := by
  unfold State.request
  grind [State.Kept.badUpdate, State.Kept.badacc, State.Kept.modBoot]

theorem execWriteImage_kept {len : Nat} {s : State} {t : State} (h : s.Kept)
    (e : execWriteImage len s = .next t) : t.Kept := by
  unfold execWriteImage at e
  grind [State.Kept.request]

theorem execCommit_kept {len : Nat} {s : State} {t : State} (h : s.Kept)
    (e : execCommit len s = .next t) : t.Kept := by
  unfold execCommit at e
  grind [State.Kept.request]

theorem execAbandon_kept {len : Nat} {s : State} {t : State} (h : s.Kept)
    (e : execAbandon len s = .next t) : t.Kept := by
  unfold execAbandon at e
  grind [State.Kept.request]

theorem execWriteRepair_kept {len : Nat} {s : State} {t : State} (h : s.Kept)
    (e : execWriteRepair len s = .next t) : t.Kept := by
  unfold execWriteRepair at e
  grind [State.Kept.request]

theorem execWritePlace_kept {len : Nat} {s : State} {t : State} (h : s.Kept)
    (e : execWritePlace len s = .next t) : t.Kept := by
  unfold execWritePlace at e
  grind [State.Kept.request]

theorem State.Kept.setResult {s : State} {r : BitVec 4} (h : s.Kept) : (s.setResult r).Kept := h

theorem State.Kept.updFetch {s : State} {len : Nat} (h : s.Kept) : (s.updFetch len).2.Kept := by
  unfold State.updFetch
  grind [State.Kept.dropAsks, State.Kept.fetchDev, State.kept_iff, State.DrumsKept, State.BaseKept]

theorem State.Kept.endImage {s : State} {l : List Byte} (h : s.Kept) : (s.endImage l).Kept := by
  unfold State.endImage
  grind [State.Kept.modBoot, State.Kept.raise, State.Kept.setResult]

theorem State.Kept.endCommit {s : State} {flashOk counterOk : Bool} (h : s.Kept) :
    (s.endCommit flashOk counterOk).Kept := by
  unfold State.endCommit
  grind [State.Kept.modBoot, State.Kept.raise, State.Kept.setResult]

theorem State.Kept.endRecord {s : State} {kind : RecordKind} {l : List Byte} (h : s.Kept) :
    (s.endRecord kind l).Kept := by
  unfold State.endRecord
  grind [State.Kept.modBoot, State.Kept.setResult]

theorem State.Kept.withData {s : State} {len : Nat} {f : State → List Byte → State} (h : s.Kept)
    (hf : ∀ t l, t.Kept → (f t l).Kept) : (s.withData len f).Kept := by
  unfold State.withData
  grind [State.Kept.updFetch]

theorem State.Kept.endUpdate {s : State} {flashOk counterOk : Bool} (h : s.Kept) :
    (s.endUpdate flashOk counterOk).Kept := by
  unfold State.endUpdate
  grind [State.Kept.endCommit, State.Kept.endImage, State.Kept.endRecord, State.Kept.modBoot,
    State.Kept.raise, State.Kept.setResult, State.Kept.withData]

theorem State.Kept.spdmAnswer {s : State} {p : Part} {code : Nat} {req content : List Byte}
    (h : s.Kept) : (s.spdmAnswer p code req content).Kept := h

theorem State.Kept.spdmSigned {s : State} {code : Nat} {before req content : List Byte}
    (h : s.Kept) : (s.spdmSigned code before req content).Kept := h

theorem State.Kept.spdmError {s : State} {code : Nat} (h : s.Kept) : (s.spdmError code).Kept := h

theorem State.Kept.spdm {s : State} {i : Instr} (h : s.Kept) : (s.spdm i).Kept := by
  unfold State.spdm
  grind [State.Kept.answer, State.Kept.modBoot, State.Kept.spdmAnswer, State.Kept.spdmError,
    State.Kept.spdmSigned]

theorem State.Kept.spdmRequest {s : State} {i : Instr} (h : s.Kept) : (s.spdmRequest i).Kept := by
  unfold State.spdmRequest
  grind [State.Kept.modBoot, State.Kept.spdm]

theorem execUpdateOpComplete_kept {flashOk counterOk : Bool} {s : State} {t : State} (h : s.Kept)
    (e : execUpdateOpComplete flashOk counterOk s = .next t) : t.Kept := by
  unfold execUpdateOpComplete at e
  grind [State.Kept.endUpdate, State.Kept.modBoot, State.Kept.spdm, State.Kept.foldl]

theorem execDoeDiscovery_kept {index : Nat} {s : State} {t : State} (h : s.Kept)
    (e : execDoeDiscovery index s = .next t) : t.Kept := by
  unfold execDoeDiscovery at e
  grind [State.Kept.answer]

theorem execGetVersion_kept {request : List Byte} {s : State} {t : State} (h : s.Kept)
    (e : execGetVersion request s = .next t) : t.Kept := by
  unfold execGetVersion at e
  grind [State.Kept.spdmRequest]

theorem execGetCapabilities_kept {request : List Byte} {s : State} {t : State} (h : s.Kept)
    (e : execGetCapabilities request s = .next t) : t.Kept := by
  unfold execGetCapabilities at e
  grind [State.Kept.spdmRequest]

theorem execNegotiateAlgorithms_kept {request : List Byte} {s : State} {t : State} (h : s.Kept)
    (e : execNegotiateAlgorithms request s = .next t) : t.Kept := by
  unfold execNegotiateAlgorithms at e
  grind [State.Kept.spdmRequest]

theorem execGetDigests_kept {request : List Byte} {s : State} {t : State} (h : s.Kept)
    (e : execGetDigests request s = .next t) : t.Kept := by
  unfold execGetDigests at e
  grind [State.Kept.spdmRequest]

theorem execGetCertificate_kept {slot offset length : Nat} {s : State} {t : State} (h : s.Kept)
    (e : execGetCertificate slot offset length s = .next t) : t.Kept := by
  unfold execGetCertificate at e
  grind [State.Kept.spdmRequest]

theorem execChallenge_kept {nonce : List Byte} {s : State} {t : State} (h : s.Kept)
    (e : execChallenge nonce s = .next t) : t.Kept := by
  unfold execChallenge at e
  grind [State.Kept.spdmRequest]

theorem execGetMeasurements_kept {index : Nat} {signed : Bool} {nonce : List Byte} {s : State}
    {t : State} (h : s.Kept) (e : execGetMeasurements index signed nonce s = .next t) : t.Kept := by
  unfold execGetMeasurements at e
  grind [State.Kept.spdmRequest]

theorem execPqsig_kept {s : State} {t : State} (h : s.Kept) (e : execPqsig s = .next t) : t.Kept := by
  unfold execPqsig at e
  grind [State.Kept.spdmRequest]

theorem execPqchain_kept {offset length : Nat} {s : State} {t : State} (h : s.Kept)
    (e : execPqchain offset length s = .next t) : t.Kept := by
  unfold execPqchain at e
  grind [State.Kept.spdmRequest]

theorem State.Kept.writeDiagKey {s : State} {v : Nat} (h : s.Kept) : (s.writeDiagKey v).Kept := by
  unfold State.writeDiagKey
  grind [State.Kept.badacc, State.Kept.modBoot]

theorem execDiagModeEnter_kept {s : State} {t : State} (h : s.Kept)
    (e : execDiagModeEnter s = .next t) : t.Kept := by
  unfold execDiagModeEnter at e
  grind [State.Kept.writeDiagKey]

theorem execDiagModeLeave_kept {s : State} {t : State} (h : s.Kept)
    (e : execDiagModeLeave s = .next t) : t.Kept := by
  unfold execDiagModeLeave at e
  grind [State.Kept.writeDiagKey]

end Sys2Proof.Machine
end

section
/-! Every step keeps the part and its stores (O4), Machine/Units.lean: the units' queues. -/

namespace Sys2Proof.Machine

set_option Elab.async false

theorem State.Kept.startSkin {s : State} {d : Nat} {j : SkinJob} (h : s.Kept) :
    (s.startSkin d j).Kept := by
  unfold State.startSkin
  split
  · exact h.startCheck
  split
  · exact h.startTap
  split
  · exact h.startStrike
  · exact h.startStep

theorem State.Kept.skinStep {s : State} {d : Nat} {t : State} (h : s.Kept)
    (e : s.skinStep d = some t) : t.Kept := by
  unfold State.skinStep at e
  grind [State.Kept.feed, State.Kept.startSkin]

theorem State.Kept.takeFront {s : State} {d : Nat} {u : UnitId} (h : s.Kept) :
    (s.takeFront d u).Kept := by
  unfold State.takeFront
  grind [State.Kept.modDrum, Drum.Kept.setQueue]

theorem State.Kept.tunerStep {s t : State} {d : Nat} (h : s.Kept) (e : s.tunerStep d = some t) :
    t.Kept := by
  unfold State.tunerStep at e
  extract_lets x at e
  split at e
  · split at e
    · cases e
    · cases e; exact h.nextTuneRow
  · obtain ⟨j, -, rfl⟩ := Option.map_eq_some_iff.1 e
    exact h.takeFront.startTune

theorem State.Kept.rollStep {s t : State} {d : Nat} (h : s.Kept) (e : s.rollStep d = some t) :
    t.Kept := by
  unfold State.rollStep at e
  extract_lets x at e
  split at e
  · split at e
    · cases e
    · cases e; exact h.nextRollRow
  · obtain ⟨j, -, rfl⟩ := Option.map_eq_some_iff.1 e
    exact h.takeFront.startRoll

theorem State.Kept.rollTick {s : State} {d : Nat} (h : s.Kept) : (s.rollTick d).Kept := by
  unfold State.rollTick
  grind [State.Kept.nextRollRow]

theorem State.Kept.padStep {s t : State} {d : Nat} (h : s.Kept) (e : s.padStep d = some t) : t.Kept := by
  obtain ⟨j, -, rfl⟩ := Option.map_eq_some_iff.1 e
  dsimp only
  split
  · exact h.takeFront.startFill
  · exact h.takeFront.startCopy

theorem State.Kept.nocStep {s t : State} {d : Nat} (h : s.Kept) (e : s.nocStep d = some t) : t.Kept := by
  obtain ⟨j, -, rfl⟩ := Option.map_eq_some_iff.1 e
  exact h.takeFront.startSend

theorem State.Kept.unitStep {s : State} {d : Nat} {t : State} (h : s.Kept)
    (e : s.unitStep d = some t) : t.Kept := by
  unfold State.unitStep at e
  grind [State.Kept.nocStep, State.Kept.padStep, State.Kept.rollStep, State.Kept.skinStep,
    State.Kept.tunerStep]

theorem unitsGo_kept {d : Nat} : ∀ {n : Nat} {s : State}, s.Kept → (unitsGo d n s).Kept
  | 0, _, h => h
  | n + 1, s, h => by
    unfold unitsGo
    split
    · next t e => exact unitsGo_kept (h.unitStep e)
    · exact h

theorem State.Kept.unitsRun {s : State} {d : Nat} (h : s.Kept) : (s.unitsRun d).Kept :=
    unitsGo_kept h

theorem State.Kept.idle {s : State} (h : s.Kept) : (s.idle).Kept := by
  unfold State.idle
  grind [State.Kept.rollTick, State.Kept.tick, State.Kept.unitsRun, State.Kept.loop]

theorem issueTo_kept {d : Nat} {u : UnitId} {par : Bool} {bad : Quad → Bool}
    {more : State → UnitJob → List Nat} {w : Quad} {s s1 : State} (h : s.Kept) (hs1 : s1.Kept) :
    (issueTo d u par bad more w s s1).Kept := by
  unfold issueTo
  grind [State.Kept.drumFaults, State.Kept.modDrum, Drum.Kept.setQueue, State.Kept.took,
    State.Kept.unitsRun]

theorem State.Kept.queueSkin {s : State} {d : Nat} {j : SkinJob} (h : s.Kept) :
    (s.queueSkin d j).Kept := by
  unfold State.queueSkin
  grind [State.Kept.modSkin]

theorem strikeRun_kept {d : Nat} {w : Quad} {s s1 : State} (h : s.Kept) (h1 : s1.Kept) :
    (strikeRun d w s s1).Kept := by
  unfold strikeRun
  extract_lets q pc t j u
  have ht : State.Kept t := by
    unfold t
    split
    · exact h1.modDrum fun _ hy => Drum.Kept.fillLine hy
    · exact h1
  have hu : State.Kept u := ht.took.modSeq
  split
  · exact h
  split
  · exact h1.drumFault
  split
  · exact h1.rereads.drumFault
  split
  · exact hu.drumFaults
  · exact hu.queueSkin.unitsRun

theorem tapRun_kept {d : Nat} {par : Bool} {w : Quad} {s s1 : State} (h : s.Kept) (hs1 : s1.Kept) :
    (tapRun d par w s s1).Kept := by
  unfold tapRun
  grind [State.Kept.drumFaults, State.Kept.queueSkin, State.Kept.took, State.Kept.unitsRun]

theorem checkRun_kept {d : Nat} {par : Bool} {w : Quad} {s s1 : State} (h : s.Kept)
    (hs1 : s1.Kept) : (checkRun d par w s s1).Kept := by
  unfold checkRun
  grind [State.Kept.drumFaults, Drum.Kept.endReplay, State.Kept.modDrum, State.Kept.queueSkin,
    State.Kept.took, State.Kept.unitsRun]

theorem State.Kept.tune {s : State} {d op : Nat} {par : Bool} (h : s.Kept) : (s.tune d op par).Kept := by
  unfold State.tune
  grind [State.Kept.issue, issueTo_kept]

theorem State.Kept.roll {s : State} {d func : Nat} {par : Bool} (h : s.Kept) :
    (s.roll d func par).Kept := by
  unfold State.roll
  grind [State.Kept.issue, issueTo_kept]

end Sys2Proof.Machine
end

section
/-! Every step keeps the part and its stores (O4), Machine/DrumOps.lean: the drum's commands. -/

namespace Sys2Proof.Machine

set_option Elab.async false

theorem execStrike_kept {d : Nat} {s : State} {t : State} (h : s.Kept)
    (e : execStrike d s = .next t) : t.Kept := by
  unfold execStrike at e
  grind [State.Kept.issue, onDrum_kept, strikeRun_kept]

theorem execWeightLoadEnd_kept {d : Nat} {s : State} {t : State} (h : s.Kept)
    (e : execWeightLoadEnd d s = .next t) : t.Kept := by
  unfold execWeightLoadEnd at e
  grind [State.Kept.loadsDone, onDrum_kept, State.Kept.unitsRun]

theorem execDequantiseRow_kept {d : Nat} {par : Bool} {s : State} {t : State} (h : s.Kept)
    (e : execDequantiseRow d par s = .next t) : t.Kept := by
  unfold execDequantiseRow at e
  grind [Drum.Kept.dequantise, State.Kept.drum, onDrum_kept, State.Kept.setDrum,
    State.Kept.strikeLost, State.Kept.unitsRun]

theorem execLeafDone_kept {d : Nat} {par : Bool} {s : State} {t : State} (h : s.Kept)
    (e : execLeafDone d par s = .next t) : t.Kept := by
  unfold execLeafDone at e
  grind [onDrum_kept, State.Kept.takeLeaf, State.Kept.unitsRun]

theorem execNodeArrival_kept {d src : Nat} {net : NocVerdict} {s : State} {t : State} (h : s.Kept)
    (e : execNodeArrival d src net s = .next t) : t.Kept := by
  unfold execNodeArrival at e
  grind [State.Kept.deliver, State.Kept.landNode, onStation_kept, State.Kept.unitsRun]

theorem execBellStatsArrival_kept {d src : Nat} {net : NocVerdict} {s : State} {t : State}
    (h : s.Kept) (e : execBellStatsArrival d src net s = .next t) : t.Kept := by
  unfold execBellStatsArrival at e
  grind [State.Kept.deliver, State.Kept.landStats, onStation_kept]

theorem execTap_kept {d : Nat} {par : Bool} {s : State} {t : State} (h : s.Kept)
    (e : execTap d par s = .next t) : t.Kept := by
  unfold execTap at e
  grind [State.Kept.issue, onDrum_kept, tapRun_kept]

theorem execCheck_kept {d : Nat} {par : Bool} {s : State} {t : State} (h : s.Kept)
    (e : execCheck d par s = .next t) : t.Kept := by
  unfold execCheck at e
  grind [checkRun_kept, State.Kept.issue, onDrum_kept]

theorem execNarrow_kept {d : Nat} {par : Bool} {s : State} {t : State} (h : s.Kept)
    (e : execNarrow d par s = .next t) : t.Kept := by
  unfold execNarrow at e
  grind [onDrum_kept, State.Kept.tune]

theorem execWiden_kept {d : Nat} {par : Bool} {s : State} {t : State} (h : s.Kept)
    (e : execWiden d par s = .next t) : t.Kept := by
  unfold execWiden at e
  grind [onDrum_kept, State.Kept.tune]

theorem execConvert_kept {d : Nat} {par : Bool} {s : State} {t : State} (h : s.Kept)
    (e : execConvert d par s = .next t) : t.Kept := by
  unfold execConvert at e
  grind [onDrum_kept, State.Kept.tune]

theorem execAmax_kept {d : Nat} {par : Bool} {s : State} {t : State} (h : s.Kept)
    (e : execAmax d par s = .next t) : t.Kept := by
  unfold execAmax at e
  grind [onDrum_kept, State.Kept.tune]

theorem execClose_kept {d : Nat} {par : Bool} {s : State} {t : State} (h : s.Kept)
    (e : execClose d par s = .next t) : t.Kept := by
  unfold execClose at e
  grind [onDrum_kept, State.Kept.tune]

theorem execLdscale_kept {d : Nat} {s : State} {t : State} (h : s.Kept)
    (e : execLdscale d s = .next t) : t.Kept := by
  unfold execLdscale at e
  grind [onDrum_kept, State.Kept.tune]

theorem execStscale_kept {d : Nat} {par : Bool} {s : State} {t : State} (h : s.Kept)
    (e : execStscale d par s = .next t) : t.Kept := by
  unfold execStscale at e
  grind [onDrum_kept, State.Kept.tune]

theorem execQsave_kept {d : Nat} {par : Bool} {s : State} {t : State} (h : s.Kept)
    (e : execQsave d par s = .next t) : t.Kept := by
  unfold execQsave at e
  grind [onDrum_kept, State.Kept.tune]

theorem execQload_kept {d : Nat} {s : State} {t : State} (h : s.Kept)
    (e : execQload d s = .next t) : t.Kept := by
  unfold execQload at e
  grind [onDrum_kept, State.Kept.tune]

theorem execShareReductionDone_kept {d : Nat} {par : Bool} {s : State} {t : State} (h : s.Kept)
    (e : execShareReductionDone d par s = .next t) : t.Kept := by
  unfold execShareReductionDone at e
  grind [onDrum_kept, State.Kept.takeReduction, State.Kept.unitsRun]

theorem execRollScale_kept {d : Nat} {par : Bool} {s : State} {t : State} (h : s.Kept)
    (e : execRollScale d par s = .next t) : t.Kept := by
  unfold execRollScale at e
  grind [onDrum_kept, State.Kept.roll]

theorem execRollMask_kept {d : Nat} {par : Bool} {s : State} {t : State} (h : s.Kept)
    (e : execRollMask d par s = .next t) : t.Kept := by
  unfold execRollMask at e
  grind [onDrum_kept, State.Kept.roll]

theorem execSoftmax_kept {d : Nat} {par : Bool} {s : State} {t : State} (h : s.Kept)
    (e : execSoftmax d par s = .next t) : t.Kept := by
  unfold execSoftmax at e
  grind [onDrum_kept, State.Kept.roll]

theorem execRmsnorm_kept {d : Nat} {par : Bool} {s : State} {t : State} (h : s.Kept)
    (e : execRmsnorm d par s = .next t) : t.Kept := by
  unfold execRmsnorm at e
  grind [onDrum_kept, State.Kept.roll]

theorem execLayernorm_kept {d : Nat} {par : Bool} {s : State} {t : State} (h : s.Kept)
    (e : execLayernorm d par s = .next t) : t.Kept := by
  unfold execLayernorm at e
  grind [onDrum_kept, State.Kept.roll]

theorem execGelu_kept {d : Nat} {par : Bool} {s : State} {t : State} (h : s.Kept)
    (e : execGelu d par s = .next t) : t.Kept := by
  unfold execGelu at e
  grind [onDrum_kept, State.Kept.roll]

theorem execSilu_kept {d : Nat} {par : Bool} {s : State} {t : State} (h : s.Kept)
    (e : execSilu d par s = .next t) : t.Kept := by
  unfold execSilu at e
  grind [onDrum_kept, State.Kept.roll]

theorem execRope_kept {d : Nat} {par : Bool} {s : State} {t : State} (h : s.Kept)
    (e : execRope d par s = .next t) : t.Kept := by
  unfold execRope at e
  grind [onDrum_kept, State.Kept.roll]

theorem execTopk_kept {d : Nat} {par : Bool} {s : State} {t : State} (h : s.Kept)
    (e : execTopk d par s = .next t) : t.Kept := by
  unfold execTopk at e
  grind [onDrum_kept, State.Kept.roll]

theorem execFill_kept {d : Nat} {s : State} {t : State} (h : s.Kept) (e : execFill d s = .next t) :
    t.Kept := by
  unfold execFill at e
  grind [State.Kept.issue, issueTo_kept, onDrum_kept]

theorem execCopy_kept {d : Nat} {s : State} {t : State} (h : s.Kept) (e : execCopy d s = .next t) :
    t.Kept := by
  unfold execCopy at e
  grind [State.Kept.issue, issueTo_kept, onDrum_kept]

theorem execSend_kept {d : Nat} {s : State} {t : State} (h : s.Kept) (e : execSend d s = .next t) :
    t.Kept := by
  unfold execSend at e
  grind [State.Kept.issue, issueTo_kept, onDrum_kept]

theorem execWait_kept {d : Nat} {s : State} {t : State} (h : s.Kept) (e : execWait d s = .next t) :
    t.Kept := by
  unfold execWait at e
  grind [State.Kept.issue, onDrum_kept, waitRun_kept]

theorem execWaitComplete_kept {d : Nat} {s : State} {t : State} (h : s.Kept)
    (e : execWaitComplete d s = .next t) : t.Kept := by
  unfold execWaitComplete at e
  grind [onDrum_kept, State.Kept.waitDone]

theorem execWaitTimeout_kept {d : Nat} {s : State} {t : State} (h : s.Kept)
    (e : execWaitTimeout d s = .next t) : t.Kept := by
  unfold execWaitTimeout at e
  grind [onDrum_kept, State.Kept.waitLate]

theorem execFence_kept {d : Nat} {s : State} {t : State} (h : s.Kept)
    (e : execFence d s = .next t) : t.Kept := by
  unfold execFence at e
  grind [fenceRun_kept, State.Kept.issue, onDrum_kept]

theorem execEndRun_kept {d : Nat} {s : State} {t : State} (h : s.Kept)
    (e : execEndRun d s = .next t) : t.Kept := by
  unfold execEndRun at e
  grind [endRunOf_kept, State.Kept.issue, onDrum_kept]

theorem execFenceComplete_kept {d : Nat} {s : State} {t : State} (h : s.Kept)
    (e : execFenceComplete d s = .next t) : t.Kept := by
  unfold execFenceComplete at e
  grind [State.Kept.fenceDone, onDrum_kept]

end Sys2Proof.Machine
end

section
/-! Every step keeps the part and its stores (O4), Machine/Dma.lean: DMA transfers. -/

namespace Sys2Proof.Machine

set_option Elab.async false

theorem State.Kept.fetchPlaces {e : Nat} {live : Bool} : ∀ {l : List (Nat × Nat)} {s : State},
    s.Kept →
    (State.fetchPlaces e live l s).2.Kept
  | [], _, h => h
  | p :: r, s, h => by
    have ha := h.fetchDev (who := .engine e) (a := p.1) (n := p.2) (live := live)
    have hb := State.Kept.fetchPlaces (e := e) (live := live) (l := r) ha
    unfold State.fetchPlaces
    dsimp only
    split
    · split
      · exact hb
      · exact hb
    · exact ha

theorem State.Kept.storePlaces {live : Bool} : ∀ {l : List (Nat × Nat)} {b : List Byte} {s : State},
    s.Kept →
    (State.storePlaces live l b s).1.Kept
  | [], _, _, h => h
  | p :: r, b, s, h => by
    have ha := h.storeDev (a := p.1) (l := b.take p.2) (live := live)
    unfold State.storePlaces
    dsimp only
    split
    · exact State.Kept.storePlaces ha
    · exact ha

theorem lostWay_kept : ∀ {l : List Nat} {s : State}, s.Kept → (lostWay l s).2.Kept
  | [], _, h => h
  | d :: r, s, h => by
    unfold lostWay
    have hv := h.nextMesh
    dsimp only
    split
    · exact hv
    · exact lostWay_kept hv

theorem State.Kept.lostPlace {l : List (Nat × Nat)} {s : State} (h : s.Kept) :
    (State.lostPlace l s).2.Kept := lostWay_kept h

theorem State.Kept.moveChunk {s : State} {k : Move} {c : Chunk} (h : s.Kept) :
    (s.moveChunk k c).1.Kept := by
  unfold State.moveChunk
  extract_lets places t
  have ht : State.Kept t := h.modMem fun hm => hm
  have hl := ht.lostPlace (l := places)
  split
  · exact h
  split
  · exact ht
  split
  · exact h
  split
  · next f u e =>
    rw [e] at hl
    dsimp only
    exact hl.packetLost
  · next u e =>
    rw [e] at hl
    extract_lets r
    have hr : State.Kept r.2 := State.Kept.fetchPlaces hl
    split
    · exact hr.modMem fun hm => hm
    · exact hr
    · extract_lets l' w
      have hw : State.Kept w.1 := hr.dropAsks.storePlaces
      split
      · exact hw
      split
      · exact hw.modMem fun hm => hm
      · exact hw

theorem State.Kept.dropMove {s : State} {e : Nat} (h : s.Kept) : (s.dropMove e).Kept := h

theorem State.Kept.setMove {s : State} {k : Move} (h : s.Kept) : (s.setMove k).Kept := h

theorem State.Kept.moveOver {s : State} {k : Move} (h : s.Kept) : (s.moveOver k).Kept := h

theorem State.Kept.moveFault {s : State} {k : Move} {subs : List Nat} (h : s.Kept) :
    (s.moveFault k subs).Kept := by
  unfold State.moveFault
  grind [State.Kept.dropMove, State.Kept.markFaulted, State.Kept.modTask, State.Kept.raiseJob,
    State.Kept.foldl]

theorem State.Kept.noteDrops {s : State} {k : Move} (h : s.Kept) : (s.noteDrops k).Kept := by
  unfold State.noteDrops
  grind [State.Kept.modTask]

theorem State.Kept.moveOn {s : State} {k : Move} (h : s.Kept) : (s.moveOn k).Kept := by
  unfold State.moveOn
  grind [State.Kept.draw, State.Kept.moveChunk, State.Kept.moveFault, State.Kept.moveOver,
    State.Kept.noteDrops, State.Kept.setMove]

theorem State.Kept.runMoves {s : State} (h : s.Kept) : (s.runMoves).Kept := by
  unfold State.runMoves
  grind [State.Kept.moveOn, State.Kept.foldl]

theorem State.Kept.runDma {s : State} {j : Half} {i : Nat} {e : Nat} {t : TaskRec} (h : s.Kept) :
    (s.runDma j i e t).Kept := by
  unfold State.runDma
  grind [State.Kept.modMet, State.Kept.moveOver]

end Sys2Proof.Machine
end

section
/-! Every step keeps the part and its stores (O4), Machine/WorkCounter.lean: claims. -/

namespace Sys2Proof.Machine

set_option Elab.async false

theorem State.Kept.answerClaim {s : State} {d : Nat} {c : Claim} {k : Counter} {t : Task}
    {delivered : Bool} (h : s.Kept) : (s.answerClaim d c k t delivered).Kept := by
  unfold State.answerClaim
  grind [State.Kept.beginRun, State.Kept.finishShare, State.Kept.modMet]

theorem execWorkClaim_kept {d : Nat} {reply : ClaimReply} {s : State} {t : State} (h : s.Kept)
    (e : execWorkClaim d reply s = .next t) : t.Kept := by
  unfold execWorkClaim at e
  grind [State.Kept.answerClaim, State.Kept.finishShare, onDrum_kept, State.Kept.packetLost]

theorem execClaimRetry_kept {d : Nat} {s : State} {t : State} (h : s.Kept)
    (e : execClaimRetry d s = .next t) : t.Kept := by
  unfold execClaimRetry at e
  grind [State.Kept.finishShare, State.Kept.markFaulted, State.Kept.modDrum, onDrum_kept,
    State.Kept.raiseJob, Drum.Kept]

end Sys2Proof.Machine
end

section
/-! Every step keeps the part and its stores (O4), Machine/Tasks.lean: dispatch, preemption and the end of tasks. -/

namespace Sys2Proof.Machine

set_option Elab.async false

theorem State.Kept.startOn {s : State} {d : Nat} {j : Half} {i : Nat} {t : Task} (h : s.Kept) :
    (s.startOn d j i t).Kept := by
  unfold State.startOn
  grind [State.Kept.beginRun, State.Kept.finishShare, State.Kept.modDrum, State.Kept.modMet,
    State.Kept.modTask, Drum.Kept.noteRun, Drum.Kept]

theorem Drum.Kept.abandonLoad {x : Drum} (h : x.Kept) : (x.abandonLoad).Kept := by
  unfold Drum.abandonLoad
  grind [Drum.Kept.modStack, Drum.Kept]

theorem Drum.Kept.preempt {x : Drum} {j : Half} {i : Nat} (h : x.Kept) : (x.preempt j i).Kept := by
  unfold Drum.preempt
  grind [Drum.Kept.abandonLoad, Drum.Kept]

theorem State.Kept.dispatchDrum {s : State} {l : Nat} {j : Job} {i : Nat} {t : Task} (h : s.Kept) :
    (s.dispatchDrum l j i t).Kept := by
  unfold State.dispatchDrum
  grind [State.Kept.boundary, State.Kept.modDrum, State.Kept.modMet, Drum.Kept.preempt,
    State.Kept.startOn]

theorem State.Kept.stickFault {s : State} {k sub : Nat} (h : s.Kept) : (s.stickFault k sub).Kept := by
  unfold State.stickFault
  grind [State.Kept.endTask, State.Kept.noteReady, State.Kept.raiseJob]

theorem State.Kept.dispatchStick {s : State} {k : Nat} {mask : Half} {entry arg : Dword} {j : Job}
    {i : Nat} (h : s.Kept) : (s.dispatchStick k mask entry arg j i).Kept := by
  unfold State.dispatchStick
  grind [State.Kept.modMet, State.Kept.modTask, State.Kept.stickFault]

theorem State.Kept.dispatchDma {s : State} {e : Nat} {j : Job} {i : Nat} {t : Task} (h : s.Kept) :
    (s.dispatchDma e j i t).Kept := by
  unfold State.dispatchDma
  grind [State.Kept.modMet, State.Kept.modTask, State.Kept.runDma]

theorem execTaskDispatch_kept {job : Half} {task target : Nat} {s : State} {t : State} (h : s.Kept)
    (e : execTaskDispatch job task target s = .next t) : t.Kept := by
  unfold execTaskDispatch at e
  grind [State.Kept.applyMap, State.Kept.dispatchDma, State.Kept.dispatchDrum,
    State.Kept.dispatchStick]

theorem Drum.saveBytes_wf {x : Drum} (h : Memory.wf x.pad.mem = true) : Memory.wf x.saveBytes = true := by
  unfold Drum.saveBytes
  exact loop_wf (fun _ _ hm => putNat_wf _ _ _ hm) _ <| loop_wf (fun _ _ hm => putNat_wf _ _ _ hm) _ <|
    loop_wf (fun _ _ hm => putBytes_wf _ _ hm) _ <| loop_wf (fun _ _ hm => putNat_wf _ _ _ hm) _ <|
    loop_wf (fun _ _ hm => loop_wf (fun _ _ hk => putNat_wf _ _ _ hk) _ hm) _ h

theorem State.Kept.saveOpen {s : State} {d : Nat} (h : s.Kept) : (s.saveOpen d).Kept := by
  unfold State.saveOpen
  extract_lets bytes
  have ht : State.Kept { s with free := s.free + 192 } := h
  clear_value bytes
  refine ht.modPad fun p hp => ?_
  exact And.intro (putBytes_wf _ _ (putBytes_wf _ _ hp.1)) hp.2

theorem State.Kept.touchAll {s : State} {d : Nat} (h : s.Kept) : (s.touchAll d).Kept := by
  unfold State.touchAll
  grind [State.Kept.modPad, Pad.Kept.touch]

theorem Drum.Kept.save {x : Drum} (h : x.Kept) : x.save.Kept := by
  have hm := Drum.saveBytes_wf h.1.1
  unfold Drum.save
  grind [Drum.Kept, Pad.Kept, Shell.Kept, cellsWf_nil]

theorem execPreemptSave_kept {d : Nat} {s : State} {t : State} (h : s.Kept)
    (e : execPreemptSave d s = .next t) : t.Kept := by
  unfold execPreemptSave at e
  grind [State.Kept.drum, State.Kept.drumFault, State.Kept.modDrum, State.Kept.nextArray,
    onDrum_kept, Drum.Kept.save, State.Kept.saveOpen, State.Kept.setDrum, State.Kept.startOn,
    State.Kept.touchAll, Drum.Kept]

theorem Drum.Kept.restoreShell {x : Drum} {v : Saved} : (x.restoreShell v).Kept := by
  unfold Drum.restoreShell
  exact Shell.Kept.loop (fun _ _ hg => hg.setStatus)
    (Shell.Kept.loop (fun _ _ hg => Shell.Kept.loop (fun _ _ hk => hk.put) hg) ⟨rfl, rfl⟩)

theorem Drum.Kept.restore {x : Drum} {v : Saved} (h : x.Kept) : (x.restore v).Kept :=
    ⟨h.1, Drum.Kept.restoreShell⟩

theorem State.Kept.retryHeld {s : State} {d : Nat} (h : s.Kept) : (s.retryHeld d).Kept := by
  unfold State.retryHeld
  grind [State.Kept.modPad, State.Kept.nodeArrives, State.Kept.foldl, Pad.Kept]

theorem State.Kept.resumeClimbs {s : State} {d : Nat} (h : s.Kept) : (s.resumeClimbs d).Kept := by
  unfold State.resumeClimbs
  grind [State.Kept.nextArray, State.Kept.resumeClimb, State.Kept.foldl]

theorem State.Kept.reload {s : State} {d : Nat} {tile : Option Tile} (h : s.Kept) :
    (s.reload d tile).Kept := by
  unfold State.reload
  grind [State.Kept.access, State.Kept.drum, State.Kept.drumFaults, Drum.Kept.loadTile,
    State.Kept.rereads, State.Kept.setDrum, Drum.Kept]

theorem State.Kept.restoreLost {s : State} {d : Nat} {v : Saved} (h : s.Kept) :
    (s.restoreLost d v).Kept := by
  unfold State.restoreLost
  grind [State.Kept.drumFaults, State.Kept.modDrum, Pad.Kept.reread, Drum.Kept, Pad.Kept]

theorem State.Kept.restore {s : State} {d : Nat} {v : Saved} (h : s.Kept) : (s.restore d v).Kept := by
  unfold State.restore
  grind [State.Kept.modDrum, State.Kept.reload, Drum.Kept.restore, State.Kept.restoreLost,
    State.Kept.resumeClimbs, State.Kept.retryHeld, State.Kept.touchAll, State.Kept.unitsRun]

theorem execPreemptRestore_kept {d : Nat} {s : State} {t : State} (h : s.Kept)
    (e : execPreemptRestore d s = .next t) : t.Kept := by
  unfold execPreemptRestore at e
  grind [onDrum_kept, State.Kept.restore]

theorem State.Kept.leaveDrum {s : State} {j : Half} {i l : Nat} (h : s.Kept) :
    (s.leaveDrum j i l).Kept := by
  unfold State.leaveDrum
  grind [State.Kept.bankRun, State.Kept.modDrum, Drum.Kept.noteRun, Drum.Kept]

theorem execTaskEnd_kept {job : Half} {task : Nat} {s : State} {t : State} (h : s.Kept)
    (e : execTaskEnd job task s = .next t) : t.Kept := by
  unfold execTaskEnd at e
  grind [State.Kept.applyMap, State.Kept.endTask, State.Kept.leaveDrum, State.Kept.noteReady,
    State.Kept.foldl]

theorem execLiveOverrun_kept {job : Half} {task : Nat} {s : State} {t : State} (h : s.Kept)
    (e : execLiveOverrun job task s = .next t) : t.Kept := by
  unfold execLiveOverrun at e
  grind [State.Kept.modMet, State.Kept.modTask, State.Kept.raiseJob]

theorem execGroupHoldExpire_kept {q : Nat} {s : State} {t : State} (h : s.Kept)
    (e : execGroupHoldExpire q s = .next t) : t.Kept := by
  unfold execGroupHoldExpire at e
  grind [State.Kept.flushAll]

theorem State.Kept.stickDone {s : State} {k : Nat} {c : Code} {count : Nat} (h : s.Kept) :
    (s.stickDone k c count).Kept := by
  unfold State.stickDone
  grind [State.Kept.endTask, State.Kept.modTask, State.Kept.noteReady]

theorem State.Kept.writeStkdone {s : State} {k value : Nat} (h : s.Kept) :
    (s.writeStkdone k value).Kept := by
  unfold State.writeStkdone
  grind [State.Kept.raiseJob, State.Kept.stickDone]

theorem execMetStkdone_kept {k : Nat} {value : Word} {s : State} {t : State} (h : s.Kept)
    (e : execMetStkdone k value s = .next t) : t.Kept := by
  unfold execMetStkdone at e
  grind [State.Kept.writeStkdone]

theorem execStickTrap_kept {k : Nat} {s : State} {t : State} (h : s.Kept)
    (e : execStickTrap k s = .next t) : t.Kept := by
  unfold execStickTrap at e
  grind [State.Kept.stickFault]

theorem State.Kept.fillCaches {s : State} {k a n : Nat} (h : s.Kept) : (s.fillCaches k a n).Kept := by
  unfold State.fillCaches
  grind [State.kept_iff, State.DrumsKept, State.BaseKept]

theorem State.Kept.stickReach {s : State} {k addr : Nat} {write : Bool} {data : List Byte}
    {live : Bool} (h : s.Kept) : (s.stickReach k addr write data live).Kept := by
  unfold State.stickReach
  grind [State.Kept.answer, State.Kept.dropAsks, State.Kept.fetchDev, State.Kept.fillCaches,
    State.Kept.stickFault, State.Kept.storeDev]

theorem execStickDeviceAccess_kept {k addr : Nat} {write : Bool} {data : List Byte}
    {path : StickPath} {s : State} {t : State} (h : s.Kept)
    (e : execStickDeviceAccess k addr write data path s = .next t) : t.Kept := by
  unfold execStickDeviceAccess at e
  grind [State.Kept.packetLost, State.Kept.stickFault, State.Kept.stickReach]

end Sys2Proof.Machine
end

section
/-! Every step keeps the part and its stores (O4), Machine/HostIf.lean: rings, interrupts and the endpoint. -/

namespace Sys2Proof.Machine

set_option Elab.async false

theorem State.Kept.releaseVector {s : State} {v : Nat} (h : s.Kept) : (s.releaseVector v).Kept := by
  unfold State.releaseVector
  grind [State.Kept.modPcie, putCell_wf, State.Kept.sendVector]

theorem State.Kept.releasePending {s : State} (h : s.Kept) : (s.releasePending).Kept := by
  unfold State.releasePending
  grind [State.Kept.releaseVector, State.Kept.foldl]

theorem State.Kept.endQuiet {s : State} (h : s.Kept) : (s.endQuiet).Kept := by
  unfold State.endQuiet
  grind [State.Kept.modPcie, State.Kept.releasePending]

theorem State.Kept.writeRqCfg {s : State} {q : Nat} {v : Nat} (h : s.Kept) : (s.writeRqCfg q v).Kept := by
  unfold State.writeRqCfg
  grind [State.Kept.dropAsks, State.Kept.endQuiet, State.Kept.raise, State.Kept.setRing]

theorem execRingEnable_kept {q : Nat} {value : Word} {s : State} {t : State} (h : s.Kept)
    (e : execRingEnable q value s = .next t) : t.Kept := by
  unfold execRingEnable at e
  grind [State.Kept.writeRqCfg]

theorem execRingDisable_kept {q : Nat} {value : Word} {s : State} {t : State} (h : s.Kept)
    (e : execRingDisable q value s = .next t) : t.Kept := by
  unfold execRingDisable at e
  grind [State.Kept.writeRqCfg]

theorem State.Kept.disableRing {s : State} {q : Nat} (h : s.Kept) : (s.disableRing q).Kept := by
  unfold State.disableRing
  grind [State.Kept.dropAsks, State.Kept.modRing]

theorem State.Kept.doorbellFault {s : State} {q : Nat} (h : s.Kept) : (s.doorbellFault q).Kept := by
  unfold State.doorbellFault
  grind [State.Kept.disableRing, State.Kept.raise]

theorem State.Kept.ringTail {s : State} {q v : Nat} (h : s.Kept) : (s.ringTail q v).Kept := by
  unfold State.ringTail
  grind [State.Kept.doorbellFault, State.Kept.modPcie, State.Kept.setRing]

theorem State.Kept.ringHead {s : State} {q v : Nat} (h : s.Kept) : (s.ringHead q v).Kept := by
  unfold State.ringHead
  grind [State.Kept.doorbellFault, State.Kept.modPcie, State.Kept.setRing]

theorem State.Kept.forwardPk {s : State} {dst : Coord} {off width : Nat} {write : Bool}
    {data : Dword} (h : s.Kept) : (s.forwardPk dst off width write data).Kept := by
  unfold State.forwardPk
  grind [State.Kept.sendPk]

theorem State.Kept.doorbell {s : State} {page reg : Nat} {value : Word} (h : s.Kept) :
    (s.doorbell page reg value).Kept := by
  unfold State.doorbell
  grind [State.Kept.badacc, State.Kept.forwardPk, State.Kept.modPcie, State.Kept.ringHead,
    State.Kept.ringTail]

theorem execDoorbellSqtail_kept {page : Nat} {value : Word} {s : State} {t : State} (h : s.Kept)
    (e : execDoorbellSqtail page value s = .next t) : t.Kept := by
  unfold execDoorbellSqtail at e
  grind [State.Kept.doorbell]

theorem execDoorbellCqhead_kept {page : Nat} {value : Word} {s : State} {t : State} (h : s.Kept)
    (e : execDoorbellCqhead page value s = .next t) : t.Kept := by
  unfold execDoorbellCqhead at e
  grind [State.Kept.doorbell]

theorem execIrqTimerExpire_kept {q : Nat} {s : State} {t : State} (h : s.Kept)
    (e : execIrqTimerExpire q s = .next t) : t.Kept := by
  unfold execIrqTimerExpire at e
  grind [State.Kept.ringIrq]

theorem State.Kept.setVectorMask {s : State} {v : Nat} {on : Bool} (h : s.Kept) :
    (s.setVectorMask v on).Kept := by
  unfold State.setVectorMask
  grind [State.Kept.modPcie, State.Kept.releaseVector]

theorem execMsixVectorUnmask_kept {v : Nat} {s : State} {t : State} (h : s.Kept)
    (e : execMsixVectorUnmask v s = .next t) : t.Kept := by
  unfold execMsixVectorUnmask at e
  grind [State.Kept.setVectorMask]

theorem State.Kept.forward {s : State} {dst : Coord} {off width : Nat} {write : Bool}
    {data : Dword} (h : s.Kept) : (s.forward dst off width write data).Kept := by
  unfold State.forward
  grind [State.Kept.endQuiet, State.Kept.forwardPk, State.Kept.modPcie]

theorem State.Kept.forwardAccess {s : State} {off width : Nat} {write : Bool} {data : Dword}
    (h : s.Kept) : (s.forwardAccess off width write data).Kept := by
  unfold State.forwardAccess
  grind [State.Kept.answer, State.Kept.badacc, State.Kept.forward]

theorem execForwardedAccess_kept {off width : Nat} {write : Bool} {data : Dword} {s : State}
    {t : State} (h : s.Kept) (e : execForwardedAccess off width write data s = .next t) : t.Kept := by
  unfold execForwardedAccess at e
  grind [State.Kept.forwardAccess]

theorem execForwardTimeout_kept {s : State} {t : State} (h : s.Kept)
    (e : execForwardTimeout s = .next t) : t.Kept := by
  unfold execForwardTimeout at e
  grind [State.Kept.answer, State.Kept.modPcie, State.Kept.raise]

theorem State.Kept.readPage {s : State} {page o len : Nat} (h : s.Kept) :
    (s.readPage page o len).Kept := by
  unfold State.readPage
  grind [State.Kept.answer, State.Kept.forward]

theorem State.Kept.writePage {s : State} {page o len : Nat} {value : Word} (h : s.Kept) :
    (s.writePage page o len value).Kept := by
  unfold State.writePage
  grind [State.Kept.badacc, State.Kept.doorbell]

theorem State.Kept.askHost {s : State} {f : Fetch} (h : s.Kept) : (s.askHost f).Kept := by
  unfold State.askHost
  grind [State.Kept.emit, State.Kept.modPcie]

theorem State.Kept.hostAnswered {s : State} {src : Coord} {addr n : Nat} (h : s.Kept) :
    (s.hostAnswered src addr n).Kept := by
  unfold State.hostAnswered
  grind [State.Kept.emit, State.Kept.modPcie]

theorem State.Kept.followerTraffic {s : State} {src : Coord} {pkind : Nat} {live : Bool}
    {addr : Nat} {data : List Byte} (h : s.Kept) :
    (s.followerTraffic src pkind live addr data).Kept := by
  unfold State.followerTraffic
  grind [State.Kept.askHost, State.Kept.hostAnswered, State.Kept.issueWrite, State.Kept.sendPk,
    State.Kept.foldl]

theorem State.Kept.noGroup {s : State} (h : s.Kept) : (s.noGroup).Kept := h

theorem execFollowerHostTraffic_kept {src : Coord} {pkind : Nat} {live : Bool} {addr : Nat}
    {data : List Byte} {s : State} {t : State} (h : s.Kept)
    (e : execFollowerHostTraffic src pkind live addr data s = .next t) : t.Kept := by
  unfold execFollowerHostTraffic at e
  grind [State.Kept.followerTraffic, State.Kept.noGroup]

theorem execFollowerMsixRequest_kept {_src : Coord} {vec : Nat} {s : State} {t : State}
    (h : s.Kept) (e : execFollowerMsixRequest _src vec s = .next t) : t.Kept := by
  unfold execFollowerMsixRequest at e
  grind [State.Kept.issueVector, State.Kept.noGroup]

theorem State.Kept.abortQuiet {s : State} (h : s.Kept) : (s.abortQuiet).Kept := by
  unfold State.abortQuiet
  grind [State.Kept.abortAll, State.kept_iff, State.DrumsKept, State.BaseKept]

theorem State.Kept.msixReset {s : State} (h : s.Kept) : (s.msixReset).Kept := by
  unfold State.msixReset
  grind [State.Kept.modPcie, cellsWf_nil]

theorem State.Kept.dropRings {s : State} (h : s.Kept) : s.dropRings.Kept := by
  unfold State.dropRings
  extract_lets t
  have ht : State.Kept t := h.dropAsks
  exact ht.withRings (cellsWf_mapFilter ht.rings)

theorem State.Kept.resetRings {s : State} (h : s.Kept) : (s.resetRings).Kept := by
  unfold State.resetRings
  grind [State.Kept.dropRings, State.kept_iff, State.DrumsKept, State.BaseKept, cellsWf_nil]

theorem execFunctionLevelReset_kept {s : State} {t : State} (h : s.Kept)
    (e : execFunctionLevelReset s = .next t) : t.Kept := by
  unfold execFunctionLevelReset at e
  grind [State.Kept.abortQuiet, State.Kept.modPcie, State.Kept.msixReset, State.Kept.resetRings]

theorem State.Kept.silence {s : State} (h : s.Kept) : (s.silence).Kept := by
  unfold State.silence
  grind [State.Kept.abortQuiet, State.Kept.dropRings, State.Kept.modPcie]

theorem State.Kept.linkLost {s : State} (h : s.Kept) : (s.linkLost).Kept := by
  unfold State.linkLost
  grind [State.Kept.modPcie, State.Kept.raise, State.Kept.silence]

theorem execPerstAssert_kept {s : State} {t : State} (h : s.Kept)
    (e : execPerstAssert s = .next t) : t.Kept := by
  unfold execPerstAssert at e
  grind [State.Kept.linkLost, State.Kept.modPcie, State.Kept.msixReset, State.Kept.resetRings]

theorem execPerstRelease_kept {s : State} {t : State} (h : s.Kept)
    (e : execPerstRelease s = .next t) : t.Kept := by
  unfold execPerstRelease at e
  grind [State.Kept.modPcie]

theorem execLinkDown_kept {s : State} {t : State} (h : s.Kept) (e : execLinkDown s = .next t) :
    t.Kept := by
  unfold execLinkDown at e
  grind [State.Kept.linkLost, State.Kept.silence]

theorem execPcieLinkUp_kept {width speed : Nat} {s : State} {t : State} (h : s.Kept)
    (e : execPcieLinkUp width speed s = .next t) : t.Kept := by
  unfold execPcieLinkUp at e
  grind [State.Kept.modPcie, State.Kept.modPower, State.Kept.releasePending]

theorem State.Kept.configWrite {s : State} {off : Nat} {data : Word} (h : s.Kept) :
    (s.configWrite off data).Kept := by
  unfold State.configWrite
  grind [State.Kept.modPcie, State.Kept.releaseVector, State.Kept.loop]

theorem execConfigurationRequest_kept {off : Nat} {write : Bool} {data : Word} {s : State}
    {t : State} (h : s.Kept) (e : execConfigurationRequest off write data s = .next t) :
    t.Kept := by
  unfold execConfigurationRequest at e
  grind [State.Kept.answer, State.Kept.configWrite, State.Kept.emit]

theorem execCompletionTimeout_kept {q : Nat} {score : Bool} {dma : Option Nat} {s : State}
    {t : State} (h : s.Kept) (e : execCompletionTimeout q score dma s = .next t) : t.Kept := by
  unfold execCompletionTimeout at e
  grind [State.Kept.disableRing, State.Kept.modRing, State.Kept.moveFault, State.Kept.raise,
    State.Kept.scoreWithout, State.Kept.take]

end Sys2Proof.Machine
end

section
/-! Every step keeps the part and its stores (O4), Machine/Links.lean: ports, beats and aborts. -/

namespace Sys2Proof.Machine

set_option Elab.async false

theorem onPort_kept {p : Nat} {s t : State} {f : State → State} (hf : (f s).Kept)
    (e : onPort p s f = .next t) : t.Kept := by
  unfold onPort at e
  split at e
  · cases e; exact hf
  · cases e

theorem State.Kept.portFault {s : State} {p sub : Nat} (h : s.Kept) : (s.portFault p sub).Kept := by
  unfold State.portFault
  grind [State.Kept.raise]

theorem State.Kept.wire {s : State} {p : Nat} {f : Flit} (h : s.Kept) : (s.wire p f).Kept := by
  unfold State.wire
  grind [State.Kept.emit, State.Kept.modPort]

theorem State.Kept.putFlit {s : State} {p : Nat} {f : Flit} (h : s.Kept) : (s.putFlit p f).Kept := by
  unfold State.putFlit
  grind [State.Kept.modPort, State.Kept.wire, State.Kept.foldl]

theorem State.Kept.transmit {s : State} {p : Nat} {f : Flit} (h : s.Kept) : (s.transmit p f).Kept := by
  unfold State.transmit
  grind [State.Kept.modPort, State.Kept.putFlit]

theorem State.Kept.sendNew {s : State} {p vc : Nat} (h : s.Kept) : (s.sendNew p vc).Kept := by
  unfold State.sendNew
  grind [Fabric.leave_ports, State.Kept.modFab, State.Kept.modPort, State.Kept.transmit]

theorem State.Kept.sendAgain {s : State} {p : Nat} (h : s.Kept) : (s.sendAgain p).Kept := by
  unfold State.sendAgain
  grind [State.Kept.modPort, State.Kept.transmit]

theorem execFlitSend_kept {p : Nat} {s : State} {t : State} (h : s.Kept)
    (e : execFlitSend p s = .next t) : t.Kept := by
  unfold execFlitSend at e
  grind [State.Kept.modPort, onPort_kept, State.Kept.putFlit, State.Kept.sendAgain,
    State.Kept.sendNew]

theorem execReplayTimeout_kept {p : Nat} {s : State} {t : State} (h : s.Kept)
    (e : execReplayTimeout p s = .next t) : t.Kept := by
  unfold execReplayTimeout at e
  grind [State.Kept.modPort, onPort_kept]

theorem execLinkRetrain_kept {r : RetrainStart} {s : State} {t : State} (h : s.Kept)
    (e : execLinkRetrain r s = .next t) : t.Kept := by
  unfold execLinkRetrain at e
  grind [State.Kept.modPort, onPort_kept]

theorem State.Kept.writeRetrain {s : State} {p : Nat} (h : s.Kept) : (s.writeRetrain p).Kept := by
  unfold State.writeRetrain
  grind [State.Kept.badacc, State.Kept.modPort]

theorem execLnkRetrainWrite_kept {p : Nat} {s : State} {t : State} (h : s.Kept)
    (e : execLnkRetrainWrite p s = .next t) : t.Kept := by
  unfold execLnkRetrainWrite at e
  grind [onPort_kept, State.Kept.writeRetrain]

theorem Fabric.moveFlits_ports {f : Fabric} {cur : Coord} {dir : Nat} {l : List Queued} :
    (f.moveFlits cur dir l).ports.length = f.ports.length := by
  unfold Fabric.moveFlits
  rw [Fabric.dropFlits_ports]
  simp

theorem Fabric.turnWays_ports {f : Fabric} {cur : Coord} {p dir : Nat} {l : List Queued} :
    (f.turnWays cur p dir l).ports.length = f.ports.length := by
  unfold Fabric.turnWays
  grind [Fabric.mapWays_ports]

theorem State.Kept.routeWaiting {s : State} {w : WaitTx} (h : s.Kept) : (s.routeWaiting w).Kept := by
  unfold State.routeWaiting
  grind [Fabric.dropFlits_ports, State.Kept.modFab, Fabric.routeFrom_ports]

theorem State.Kept.follow {s : State} {w : Onward} {f : Flit} {owes : Option (Nat × Nat)}
    (h : s.Kept) : (s.follow w f owes).Kept := by
  unfold State.follow
  grind [Fabric.leave_ports, State.Kept.modFab, State.Kept.modPort, Fabric.setWay_ports]

theorem State.Kept.keepCut {s : State} {x : Port} (h : s.Kept) : (s.keepCut x).Kept := by
  unfold State.keepCut
  grind [State.Kept.follow, State.Kept.modPort, State.Kept.foldl]

theorem State.Kept.newParent {s : State} {p : Nat} (h : s.Kept) : (s.newParent p).Kept := by
  unfold State.newParent
  grind [State.Kept.modFab]

theorem Fabric.rootSync_ports {f : Fabric} :
    (f.rootSync).ports.length = f.ports.length := by
  unfold Fabric.rootSync
  grind

theorem State.Kept.retirePort {s : State} {p : Nat} {lanes : Bool} (h : s.Kept) :
    (s.retirePort p lanes).Kept := by
  unfold State.retirePort
  grind [State.Kept.abortJob, State.Kept.keepCut, State.Kept.modFab, State.Kept.modPort,
    Fabric.moveFlits_ports, State.Kept.newParent, State.Kept.portFault, Fabric.rootSync_ports,
    State.Kept.routeWaiting, Fabric.turnWays_ports, State.Kept.foldl]

theorem execRetrainEnd_kept {p : Nat} {failedLanes : Byte} {ok : Bool} {s : State} {t : State}
    (h : s.Kept) (e : execRetrainEnd p failedLanes ok s = .next t) : t.Kept := by
  unfold execRetrainEnd at e
  grind [State.Kept.modPort, onPort_kept, State.Kept.portFault, State.Kept.retirePort]

theorem execLinkHandshake_kept {p : Nat} {r : Trained} {s : State} {t : State} (h : s.Kept)
    (e : execLinkHandshake p r s = .next t) : t.Kept := by
  unfold execLinkHandshake at e
  grind [State.Kept.draw, State.Kept.emit, State.Kept.modFab, State.Kept.modPort, onPort_kept,
    State.Kept.portFault, State.Kept.retirePort, Fabric.rootSync_ports]

theorem execAlignmentSend_kept {p : Nat} {s : State} {t : State} (h : s.Kept)
    (e : execAlignmentSend p s = .next t) : t.Kept := by
  unfold execAlignmentSend at e
  grind [State.Kept.modFab, onPort_kept, queueFlits_length]

theorem State.Kept.noteOffset {s : State} {off : Int} (h : s.Kept) : (s.noteOffset off).Kept := by
  unfold State.noteOffset
  grind [State.Kept.modFab, State.Kept.portFault]

theorem State.Kept.align {s : State} {p : Nat} {beat : Dword} {notSynced : Bool} (h : s.Kept) :
    (s.align p beat notSynced).Kept := by
  unfold State.align
  grind [State.Kept.modFab, State.Kept.modPort, State.Kept.noteOffset, State.kept_iff,
    State.DrumsKept, State.BaseKept]

theorem execAlignmentReceive_kept {p : Nat} {beat : Dword} {notSynced : Bool} {s : State}
    {t : State} (h : s.Kept) (e : execAlignmentReceive p beat notSynced s = .next t) : t.Kept := by
  unfold execAlignmentReceive at e
  grind [State.Kept.align, onPort_kept]

theorem execSyncInEdge_kept {s : State} {t : State} (h : s.Kept) (e : execSyncInEdge s = .next t) :
    t.Kept := by
  unfold execSyncInEdge at e
  grind [State.Kept.modFab, State.kept_iff, State.DrumsKept, State.BaseKept]

theorem execSyncOutPulse_kept {s : State} {t : State} (h : s.Kept)
    (e : execSyncOutPulse s = .next t) : t.Kept := by
  unfold execSyncOutPulse at e
  grind [State.Kept.emit, State.Kept.modFab]

theorem execSyncInTimeout_kept {s : State} {t : State} (h : s.Kept)
    (e : execSyncInTimeout s = .next t) : t.Kept := by
  unfold execSyncInTimeout at e
  grind [State.Kept.modFab, State.Kept.raise]

theorem State.Kept.takeAbort {s : State} {p g : Nat} {id : AbortId} {stamp : Dword} (h : s.Kept) :
    (s.takeAbort p g id stamp).Kept := by
  unfold State.takeAbort
  grind [State.Kept.abortRecords, State.Kept.abortTasks, State.Kept.modFab, State.Kept.spreadAbort,
    State.Kept.foldl]

theorem execAbortReceive_kept {p group : Nat} {origin : Coord} {serial : Half} {stamp : Dword}
    {s : State} {t : State} (h : s.Kept)
    (e : execAbortReceive p group origin serial stamp s = .next t) : t.Kept := by
  unfold execAbortReceive at e
  grind [onPort_kept, State.Kept.takeAbort]

theorem State.Kept.reopen {s : State} {g : Nat} (h : s.Kept) : (s.reopen g).Kept := by
  unfold State.reopen
  grind [State.Kept.modFab]

theorem execGroupReopen_kept {value : Word} {s : State} {t : State} (h : s.Kept)
    (e : execGroupReopen value s = .next t) : t.Kept := by
  unfold execGroupReopen at e
  grind [State.Kept.reopen]

end Sys2Proof.Machine
end

section
/-! Every step keeps the part and its stores (O4), Machine/Memory.lean: LPDDR5 and the page table. -/

namespace Sys2Proof.Machine

set_option Elab.async false

theorem execMemoryRead_kept {ch blk cls : Nat} {linkErrs : List Nat} {ecc : EccVerdict} {s : State}
    {t : State} (h : s.Kept) (e : execMemoryRead ch blk cls linkErrs ecc s = .next t) : t.Kept := by
  unfold execMemoryRead at e
  grind [State.Kept.answer, State.Kept.readBlock]

theorem execMemoryWrite_kept {ch blk lo cls : Nat} {linkErrs : List Nat} {data : List Byte}
    {ecc : EccVerdict} {s : State} {t : State} (h : s.Kept)
    (e : execMemoryWrite ch blk lo cls linkErrs data ecc s = .next t) : t.Kept := by
  unfold execMemoryWrite at e
  grind [State.Kept.writeBlock]

theorem State.Kept.writeBack {s : State} {ch blk : Nat} (h : s.Kept) : (s.writeBack ch blk).Kept := by
  unfold State.writeBack
  grind [State.Kept.nextBlock, State.Kept.noteFound, State.Kept.putChan]

theorem execEccWriteback_kept {ch blk : Nat} {s : State} {t : State} (h : s.Kept)
    (e : execEccWriteback ch blk s = .next t) : t.Kept := by
  unfold execEccWriteback at e
  grind [State.Kept.writeBack]

theorem execPatrolScrub_kept {ch blk : Nat} {single : Bool} {s : State} {t : State} (h : s.Kept)
    (e : execPatrolScrub ch blk single s = .next t) : t.Kept := by
  unfold execPatrolScrub at e
  grind [State.Kept.nextBlock, State.Kept.noteFound, State.Kept.putChan]

theorem execMr4Poll_kept {ch : Nat} {temp : Int} {s : State} {t : State} (h : s.Kept)
    (e : execMr4Poll ch temp s = .next t) : t.Kept := by
  unfold execMr4Poll at e
  grind [State.Kept.modChan]

theorem State.Kept.mapBuilt {s : State} (h : s.Kept) : (s.mapBuilt).Kept := by
  unfold State.mapBuilt
  grind [State.Kept.bringMem]

theorem State.Kept.setReady {s : State} (h : s.Kept) : s.setReady.Kept := by
  unfold State.setReady
  split
  · exact h.modMem fun hm => ⟨by simpa using hm.1, hm.2⟩
  · exact h

theorem execMemoryReady_kept {s : State} {t : State} (h : s.Kept)
    (e : execMemoryReady s = .next t) : t.Kept := by
  unfold execMemoryReady at e
  grind [State.Kept.mapBuilt, State.Kept.setReady]

theorem MainMem.Kept.setIdx {m : MainMem} {agent : Nat} {x : Bool × BitVec 21} (h : m.Kept) :
    (m.setIdx agent x).Kept := by
  unfold MainMem.setIdx
  grind [MainMem.Kept]

theorem MainMem.Kept.stepIdx {m : MainMem} {agent : Nat} (h : m.Kept) : (m.stepIdx agent).Kept := by
  unfold MainMem.stepIdx
  grind [MainMem.Kept.setIdx]

theorem State.Kept.pgtReadData {s : State} {agent width : Nat} (h : s.Kept) :
    (s.pgtReadData agent width).Kept := by
  unfold State.pgtReadData
  grind [State.Kept.answer, State.Kept.badacc, State.Kept.modMem, MainMem.Kept.stepIdx]

theorem State.Kept.pgtWriteData {s : State} {agent width : Nat} {data : Dword} (h : s.Kept) :
    (s.pgtWriteData agent width data).Kept := by
  unfold State.pgtWriteData
  grind [State.Kept.badacc, State.Kept.modMem, MainMem.Kept, putCell_wf, MainMem.Kept.stepIdx]

theorem execPgtDataAccess_kept {agent width : Nat} {write : Bool} {data : Dword} {s : State}
    {t : State} (h : s.Kept) (e : execPgtDataAccess agent width write data s = .next t) : t.Kept := by
  unfold execPgtDataAccess at e
  grind [State.Kept.pgtReadData, State.Kept.pgtWriteData]

theorem State.Kept.clearPages {s : State} (h : s.Kept) : (s.clearPages).Kept := by
  unfold State.clearPages
  grind [State.Kept.modMem, MainMem.Kept, cellsWf_nil]

theorem State.Kept.clearStreams {s : State} (h : s.Kept) : (s.clearStreams).Kept := by
  unfold State.clearStreams
  grind [State.Kept.modMem, MainMem.Kept, cellsWf_nil]

theorem execPageTableClear_kept {s : State} {t : State} (h : s.Kept)
    (e : execPageTableClear s = .next t) : t.Kept := by
  unfold execPageTableClear at e
  grind [State.Kept.clearPages]

theorem execStreamTableClear_kept {s : State} {t : State} (h : s.Kept)
    (e : execStreamTableClear s = .next t) : t.Kept := by
  unfold execStreamTableClear at e
  grind [State.Kept.clearStreams]

theorem execTableClearDone_kept {stream : Bool} {s : State} {t : State} (h : s.Kept)
    (e : execTableClearDone stream s = .next t) : t.Kept := by
  unfold execTableClearDone at e
  grind [State.Kept.modMem, MainMem.Kept]

end Sys2Proof.Machine
end

section
/-! Every step keeps the part and its stores (O4), Machine/Regs.lean: registers. -/

namespace Sys2Proof.Machine

set_option Elab.async false

theorem State.Kept.readReg {s : State} {agent : Nat} {w : Win} {r : Reg} (h : s.Kept) :
    (s.readReg agent w r).2.Kept := by
  unfold State.readReg
  grind [State.Kept.badacc, State.Kept.modBoot, State.Kept.modMem, MainMem.Kept.stepIdx]

theorem State.Kept.readWord {s : State} {agent : Nat} {w : Win} {o : Nat} (h : s.Kept) :
    (s.readWord agent w o).2.Kept := by
  unfold State.readWord
  grind [State.Kept.readReg]

theorem State.Kept.readWords {agent : Nat} {w : Win} : ∀ {n o : Nat} {s : State}, s.Kept →
    (s.readWords agent w o n).2.Kept
  | 0, _, _, h => h
  | n + 1, _, _, h => State.Kept.readWords (n := n) h.readWord

theorem State.Kept.clearDiff {s : State} {w : Win} (h : s.Kept) : (s.clearDiff w).Kept := by
  unfold State.clearDiff
  grind [State.Kept.modBoot]

theorem State.Kept.readWin {s : State} {agent : Nat} {w : Win} {o len : Nat} (h : s.Kept) :
    (s.readWin agent w o len).2.Kept := by
  unfold State.readWin
  grind [State.Kept.clearDiff, State.Kept.readReg, State.Kept.readWords]

theorem State.Kept.noteOdd {s : State} {off len : Nat} (h : s.Kept) : (s.noteOdd off len).Kept := by
  unfold State.noteOdd
  grind [State.Kept.badacc]

theorem State.Kept.busRead {s : State} {off len : Nat} (h : s.Kept) : (s.busRead off len).2.Kept := by
  unfold State.busRead
  grind [State.Kept.noteOdd, State.Kept.readWin]

theorem State.Kept.clearSkin {s : State} {d : Nat} (h : s.Kept) : (s.clearSkin d).Kept := by
  unfold State.clearSkin
  grind [State.Kept.modSkin]

theorem State.Kept.clearTuner {s : State} {d : Nat} (h : s.Kept) : (s.clearTuner d).Kept := by
  unfold State.clearTuner
  grind [State.Kept.modTuner]

theorem State.Kept.clearShell {s : State} {d : Nat} (h : s.Kept) : (s.clearShell d).Kept := by
  unfold State.clearShell
  grind [State.Kept.modShell, Shell.Kept]

theorem State.Kept.clearSeq {s : State} {d : Nat} (h : s.Kept) : (s.clearSeq d).Kept := by
  unfold State.clearSeq
  grind [State.Kept.modSeq]

theorem State.Kept.clearRoll {s : State} {d : Nat} (h : s.Kept) : (s.clearRoll d).Kept := by
  unfold State.clearRoll
  grind [State.Kept.modRoll]

theorem State.Kept.clearTap {s : State} {d : Nat} (h : s.Kept) : (s.clearTap d).Kept := by
  unfold State.clearTap
  grind [State.Kept.modTap]

theorem State.Kept.clearPad {s : State} {d : Nat} (h : s.Kept) : (s.clearPad d).Kept := by
  unfold State.clearPad
  grind [State.Kept.modPad, Pad.Kept]

theorem State.Kept.clearMet {s : State} (h : s.Kept) : (s.clearMet).Kept := h

theorem State.Kept.clearWkc {s : State} (h : s.Kept) : (s.clearWkc).Kept := h

theorem State.Kept.clearPci {s : State} (h : s.Kept) : (s.clearPci).Kept := h

theorem State.Kept.clearChan {s : State} {c : Nat} (h : s.Kept) : (s.clearChan c).Kept := by
  unfold State.clearChan
  grind [State.Kept.modChan]

theorem State.Kept.clearPort {s : State} {p : Nat} (h : s.Kept) : (s.clearPort p).Kept := by
  unfold State.clearPort
  grind [State.Kept.modPort]

theorem State.Kept.writeFltCtrl {s : State} {src v : Nat} (h : s.Kept) : (s.writeFltCtrl src v).Kept := by
  unfold State.writeFltCtrl
  grind [State.Kept.modFault]

theorem State.Kept.writeFault {s : State} {src k v : Nat} {bc : Bool} (h : s.Kept) :
    (s.writeFault src k v bc).Kept := by
  unfold State.writeFault
  grind [State.Kept.clearFault, State.Kept.injectFault, State.Kept.writeFltCtrl]

theorem State.Kept.writeDrum {s : State} {d o v : Nat} {bc : Bool} (h : s.Kept) :
    (s.writeDrum d o v bc).Kept := by
  unfold State.writeDrum
  grind [State.Kept.clearPad, State.Kept.clearRoll, State.Kept.clearSeq, State.Kept.clearShell,
    State.Kept.clearSkin, State.Kept.clearTap, State.Kept.clearTuner, State.Kept.modPad,
    State.Kept.modSkin, State.Kept.modTuner, State.Kept.retireDrum, State.Kept.writeFault, Pad.Kept]

theorem State.Kept.writeChan {s : State} {c o v : Nat} {bc : Bool} (h : s.Kept) :
    (s.writeChan c o v bc).Kept := by
  unfold State.writeChan
  grind [State.Kept.clearChan, State.Kept.modChan, State.Kept.writeFault]

theorem State.Kept.writePort {s : State} {p o v : Nat} {bc : Bool} (h : s.Kept) :
    (s.writePort p o v bc).Kept := by
  unfold State.writePort
  grind [State.Kept.clearPort, State.Kept.modPort, State.Kept.writeFault, State.Kept.writeRetrain]

theorem State.Kept.writeGroup {s : State} {q v : Nat} (h : s.Kept) : (s.writeGroup q v).Kept := by
  unfold State.writeGroup
  grind [State.Kept.badacc, State.Kept.modFab]

theorem State.Kept.writeFabric {s : State} {o v : Nat} (h : s.Kept) : (s.writeFabric o v).Kept := by
  unfold State.writeFabric
  grind [State.Kept.reopen, State.Kept.writeGroup]

theorem State.Kept.writeReserve {s : State} {n v : Nat} (h : s.Kept) : (s.writeReserve n v).Kept := by
  unfold State.writeReserve
  grind [State.Kept.changeReserve, State.Kept.modDrum, State.Kept.modMet, State.Kept.loop,
    Drum.Kept]

theorem State.Kept.writeSafe {s : State} {v : Nat} (h : s.Kept) : (s.writeSafe v).Kept := by
  unfold State.writeSafe
  split
  · split
    · exact h.badacc
    · exact h.modMet
  · refine State.Kept.flushAll (State.Kept.withRings (h.modMet (f := fun m => { m with hold := false })) ?_)
    exact cellsWf_map (fun _ => by rfl) (fun _ hv => Ring.mapOut_ne_reset _ hv) h.rings

theorem State.Kept.writeLiveCfg {s : State} {v : Nat} (h : s.Kept) : (s.writeLiveCfg v).Kept := by
  unfold State.writeLiveCfg
  grind [State.Kept.badacc, State.Kept.modMet]

theorem State.Kept.writeMet {s : State} {agent o v : Nat} (h : s.Kept) : (s.writeMet agent o v).Kept := by
  unfold State.writeMet
  grind [State.Kept.badacc, State.Kept.clearMet, State.Kept.clearPages, State.Kept.clearStreams,
    State.Kept.clearWkc, State.Kept.modMem, State.Kept.modMet, State.Kept.pgtWriteData,
    State.Kept.releaseKey, MainMem.Kept.setIdx, State.Kept.writeFault, State.Kept.writeLiveCfg,
    State.Kept.writeReserve, State.Kept.writeSafe]

theorem State.Kept.writeStream {s : State} {o width v : Nat} (h : s.Kept) :
    (s.writeStream o width v).Kept := by
  unfold State.writeStream
  grind [State.Kept.badacc, State.Kept.modMem, MainMem.Kept, putCell_wf]

theorem State.Kept.writeRing {s : State} {q k v : Nat} (h : s.Kept) : (s.writeRing q k v).Kept := by
  unfold State.writeRing
  grind [State.Kept.badacc, State.Kept.modRing, State.Kept.writeRqCfg]

theorem State.Kept.writeMsix {s : State} {n k v : Nat} (h : s.Kept) : (s.writeMsix n k v).Kept := by
  unfold State.writeMsix
  grind [State.Kept.modPcie, State.Kept.setVectorMask]

theorem State.Kept.writePcie {s : State} {o v : Nat} (h : s.Kept) : (s.writePcie o v).Kept := by
  unfold State.writePcie
  grind [State.Kept.clearPci, State.Kept.modPcie, State.Kept.writeFault, State.Kept.writeMsix,
    State.Kept.writeRing, State.kept_iff, State.DrumsKept, State.BaseKept]

theorem State.Kept.writeFaultn {s : State} {v : Nat} (h : s.Kept) : (s.writeFaultn v).Kept := by
  unfold State.writeFaultn
  grind [State.Kept.emit, State.Kept.modPower]

theorem State.Kept.writeClock {s : State} {o v : Nat} (h : s.Kept) : (s.writeClock o v).Kept := by
  unfold State.writeClock
  grind [State.Kept.modPower, State.Kept.writeFault, State.Kept.writeFaultn, State.Kept.writeRst]

theorem State.Kept.writeUpd {s : State} {v : Nat} (h : s.Kept) : (s.writeUpd v).Kept := by
  unfold State.writeUpd
  grind [State.Kept.request]

theorem State.Kept.writeBoot {s : State} {o v : Nat} (h : s.Kept) : (s.writeBoot o v).Kept := by
  unfold State.writeBoot
  grind [State.Kept.modBoot, State.Kept.writeDiagKey, State.Kept.writeFault, State.Kept.writeUpd]

theorem State.Kept.writeGlobal {s : State} {o v : Nat} (h : s.Kept) : (s.writeGlobal o v).Kept := by
  unfold State.writeGlobal
  grind [State.Kept.modBoot]

theorem State.Kept.writeReg {s : State} {agent : Nat} {w : Win} {o v : Nat} {bc : Bool}
    (h : s.Kept) : (s.writeReg agent w o v bc).Kept := by
  unfold State.writeReg
  grind [State.Kept.badacc, State.Kept.writeBoot, State.Kept.writeChan, State.Kept.writeClock,
    State.Kept.writeDrum, State.Kept.writeFabric, State.Kept.writeGlobal, State.Kept.writeMet,
    State.Kept.writePcie, State.Kept.writePort]

theorem State.Kept.writeWin {s : State} {agent : Nat} {w : Win} {o width v : Nat} (h : s.Kept) :
    (s.writeWin agent w o width v).Kept := by
  unfold State.writeWin
  grind [State.Kept.badacc, State.Kept.writeReg, State.Kept.writeStream, State.Kept.foldl]

theorem State.Kept.busWrite {s : State} {off width v : Nat} (h : s.Kept) :
    (s.busWrite off width v).Kept := by
  unfold State.busWrite
  grind [State.Kept.badacc, State.Kept.writeWin]

theorem State.Kept.hostStore {s : State} {off width : Nat} {data : Dword} (h : s.Kept) :
    (s.hostStore off width data).Kept := by
  unfold State.hostStore
  grind [State.Kept.busWrite, State.Kept.forwardAccess, State.Kept.writePage]

theorem State.Kept.hostLoad {s : State} {off width : Nat} (h : s.Kept) : (s.hostLoad off width).Kept := by
  unfold State.hostLoad
  grind [State.Kept.answer, State.Kept.busRead, State.Kept.forwardAccess, State.Kept.noteOdd,
    State.Kept.readPage]

theorem State.Kept.earlyDoorbell {s : State} {off width : Nat} {data : Dword} (h : s.Kept) :
    (s.earlyDoorbell off width data).Kept := by
  unfold State.earlyDoorbell
  grind [State.Kept.doorbell]

theorem execRegisterWrite_kept {off width : Nat} {data : Dword} {s : State} {t : State}
    (h : s.Kept) (e : execRegisterWrite off width data s = .next t) : t.Kept := by
  unfold execRegisterWrite at e
  grind [State.Kept.earlyDoorbell, State.Kept.hostStore]

theorem execBroadcastWrite_kept {off width : Nat} {data : Dword} {s : State} {t : State}
    (h : s.Kept) (e : execBroadcastWrite off width data s = .next t) : t.Kept := by
  unfold execBroadcastWrite at e
  grind [State.Kept.busWrite]

theorem execBroadcastRead_kept {off width : Nat} {s : State} {t : State} (h : s.Kept)
    (e : execBroadcastRead off width s = .next t) : t.Kept := by
  unfold execBroadcastRead at e
  grind [State.Kept.hostLoad]

theorem State.Kept.cntClr {s : State} {w : Win} {o : Nat} {f : State → State} (h : s.Kept)
    (hf : (f s).Kept) :
    (s.cntClr w o f).Kept := by
  unfold State.cntClr
  grind [State.Kept.badacc]

theorem onDrumClr_kept {d o : Nat} {s t : State} {f : State → State} (h : s.Kept) (hf : (f s).Kept)
    (e : onDrumClr d o s f = .next t) : t.Kept := by
  unfold onDrumClr at e
  split at e
  · cases e; exact h.cntClr hf
  · cases e

theorem execSknCntClr_kept {d : Nat} {s : State} {t : State} (h : s.Kept)
    (e : execSknCntClr d s = .next t) : t.Kept := by
  unfold execSknCntClr at e
  grind [State.Kept.clearSkin, onDrumClr_kept]

theorem execTunCntClr_kept {d : Nat} {s : State} {t : State} (h : s.Kept)
    (e : execTunCntClr d s = .next t) : t.Kept := by
  unfold execTunCntClr at e
  grind [State.Kept.clearTuner, onDrumClr_kept]

theorem execShlCntClr_kept {d : Nat} {s : State} {t : State} (h : s.Kept)
    (e : execShlCntClr d s = .next t) : t.Kept := by
  unfold execShlCntClr at e
  grind [State.Kept.clearShell, onDrumClr_kept]

theorem execSeqCntClr_kept {d : Nat} {s : State} {t : State} (h : s.Kept)
    (e : execSeqCntClr d s = .next t) : t.Kept := by
  unfold execSeqCntClr at e
  grind [State.Kept.clearSeq, onDrumClr_kept]

theorem execRolCntClr_kept {d : Nat} {s : State} {t : State} (h : s.Kept)
    (e : execRolCntClr d s = .next t) : t.Kept := by
  unfold execRolCntClr at e
  grind [State.Kept.clearRoll, onDrumClr_kept]

theorem execTapCntClr_kept {d : Nat} {s : State} {t : State} (h : s.Kept)
    (e : execTapCntClr d s = .next t) : t.Kept := by
  unfold execTapCntClr at e
  grind [State.Kept.clearTap, onDrumClr_kept]

theorem execPadCntClr_kept {d : Nat} {s : State} {t : State} (h : s.Kept)
    (e : execPadCntClr d s = .next t) : t.Kept := by
  unfold execPadCntClr at e
  grind [State.Kept.clearPad, onDrumClr_kept]

theorem execMetCntClr_kept {s : State} {t : State} (h : s.Kept) (e : execMetCntClr s = .next t) :
    t.Kept := by
  unfold execMetCntClr at e
  grind [State.Kept.clearMet, State.Kept.cntClr]

theorem execWkcCntClr_kept {s : State} {t : State} (h : s.Kept) (e : execWkcCntClr s = .next t) :
    t.Kept := by
  unfold execWkcCntClr at e
  grind [State.Kept.clearWkc, State.Kept.cntClr]

theorem execPciCntClr_kept {s : State} {t : State} (h : s.Kept) (e : execPciCntClr s = .next t) :
    t.Kept := by
  unfold execPciCntClr at e
  grind [State.Kept.clearPci, State.Kept.cntClr]

theorem execMchCntClr_kept {ch : Nat} {s : State} {t : State} (h : s.Kept)
    (e : execMchCntClr ch s = .next t) : t.Kept := by
  unfold execMchCntClr at e
  grind [State.Kept.clearChan, State.Kept.cntClr]

theorem execLnkCntClr_kept {p : Nat} {s : State} {t : State} (h : s.Kept)
    (e : execLnkCntClr p s = .next t) : t.Kept := by
  unfold execLnkCntClr at e
  grind [State.Kept.clearPort, State.Kept.cntClr]

theorem execStickApertureAccess_kept {k off width : Nat} {write : Bool} {data : Dword} {s : State}
    {t : State} (h : s.Kept) (e : execStickApertureAccess k off width write data s = .next t) :
    t.Kept := by
  unfold execStickApertureAccess at e
  grind [State.Kept.answer, State.Kept.raise, State.Kept.readWin, State.Kept.stickFault,
    State.Kept.writeStkdone, State.Kept.writeWin]

theorem State.Kept.windowBlocks {s : State} {a n : Nat} (h : s.Kept) : (s.windowBlocks a n).1.Kept := by
  unfold State.windowBlocks
  grind [State.Kept.nextBlock, State.Kept.putChan, State.Kept.foldlFst]

theorem State.Kept.windowPads {s : State} {off len : Nat} (h : s.Kept) : (s.windowPads off len).Kept := by
  unfold State.windowPads
  grind [Pad.Kept.access, State.Kept.modPad, Pad.Kept.reread, State.Kept.foldl]

theorem State.Kept.windowLost {s : State} {off len : Nat} (h : s.Kept) :
    (s.windowLost off len).2.Kept := by
  refine List.foldlRecOn (motive := fun q : List (Nat × Nat) × State => q.2.Kept) _ _ h fun q hq p _ => ?_
  have hv := hq.nextMesh
  dsimp only
  split
  · exact hv.raise
  · split
    · exact hv.raise
    · exact hv
  · exact hv

theorem State.Kept.windowAnswer {s : State} {l : List (Option Byte)} (h : s.Kept) :
    (s.windowAnswer l).Kept := by
  unfold State.windowAnswer
  grind [State.Kept.answer, State.Kept.modBoot]

theorem execBar4Read_kept {off len : Nat} {bad : List Nat} {s : State} {t : State} (h : s.Kept)
    (e : execBar4Read off len bad s = .next t) : t.Kept := by
  unfold execBar4Read at e
  grind [State.Kept.answer, State.Kept.windowAnswer, State.Kept.windowBlocks, State.Kept.windowLost,
    State.Kept.windowPads]

theorem execBar4Write_kept {_off : Nat} {_data : List Byte} {s : State} {t : State} (h : s.Kept)
    (e : execBar4Write _off _data s = .next t) : t.Kept := by
  unfold execBar4Write at e
  grind [State.Kept.badacc]

end Sys2Proof.Machine
end

section
/-! Every step keeps the part and its stores (O4), Machine/Packets.lean: packets that arrive over the links. -/

namespace Sys2Proof.Machine

set_option Elab.async false

theorem State.Kept.refuseNode {s : State} {p : Pk} (h : s.Kept) : (s.refuseNode p).Kept := by
  unfold State.refuseNode
  grind [State.Kept.sendPk]

theorem State.Kept.takeData {s : State} {p : Pk} (h : s.Kept) : (s.takeData p).Kept := by
  unfold State.takeData
  grind [State.Kept.noGroup, State.Kept.refuseNode, State.Kept.refuseSend, State.kept_iff,
    State.DrumsKept, State.BaseKept]

theorem State.Kept.takeReply {s : State} {p : Pk} {body : Body} (h : s.Kept) :
    (s.takeReply p body).Kept := by
  unfold State.takeReply
  grind [State.kept_iff, State.DrumsKept, State.BaseKept]

theorem State.Kept.takeForward {s : State} {p : Pk} (h : s.Kept) : (s.takeForward p).Kept := by
  unfold State.takeForward
  grind [State.Kept.badacc, State.Kept.busRead, State.Kept.busWrite, State.Kept.noteOdd,
    State.Kept.ringHead, State.Kept.ringTail, State.Kept.sendPk]

theorem State.Kept.takeResponse {s : State} {p : Pk} (h : s.Kept) : (s.takeResponse p).Kept := by
  unfold State.takeResponse
  grind [State.Kept.answer, State.Kept.modPcie]

theorem State.Kept.takePk {s : State} {p : Pk} {port : Nat} {live : Bool} (h : s.Kept) :
    (s.takePk p port live).Kept := by
  unfold State.takePk
  grind [State.Kept.align, State.Kept.followerTraffic, State.Kept.hostGot, State.Kept.issueVector,
    State.Kept.noGroup, State.Kept.takeAbort, State.Kept.takeData, State.Kept.takeForward,
    State.Kept.takeReply, State.Kept.takeResponse]

theorem State.Kept.takeBytes {s : State} {port vc : Nat} {l : List Byte} (h : s.Kept) :
    (s.takeBytes port vc l).Kept := by
  unfold State.takeBytes
  grind [State.Kept.modFab, State.Kept.takePk]

theorem State.Kept.sendOn {s : State} {port vc : Nat} {l : List Byte} {more : Bool} (h : s.Kept) :
    (s.sendOn port vc l more).Kept := by
  unfold State.sendOn
  grind [State.Kept.modFab, State.Kept.modPort, Fabric.routeFrom_ports]

theorem State.Kept.takeWhole {s : State} {port vc : Nat} {l : List Byte} (h : s.Kept) :
    (s.takeWhole port vc l).Kept := by
  unfold State.takeWhole
  grind [State.Kept.sendOn, State.Kept.takeBytes]

theorem State.Kept.letChannelGo {s : State} {p v : Nat} (h : s.Kept) : (s.letChannelGo p v).Kept := by
  unfold State.letChannelGo
  grind [State.Kept.modPort, State.Kept.sendOn]

theorem State.Kept.letAllGo {s : State} {p : Nat} (h : s.Kept) : (s.letAllGo p).Kept := by
  unfold State.letAllGo
  grind [State.Kept.letChannelGo, State.Kept.foldl]

theorem State.Kept.drainGo {p : Nat} : ∀ {l : List (Nat × List Byte)} {s : State}, s.Kept →
    (s.drainGo p l).Kept
  | [], _, h => h.modPort
  | k :: r, s, h => by
    unfold State.drainGo
    split
    · exact h.modPort
    · exact State.Kept.drainGo h.modPort.takeWhole

theorem State.Kept.drainPort {s : State} {p : Nat} (h : s.Kept) : (s.drainPort p).Kept := by
  unfold State.drainPort
  grind [State.Kept.drainGo, State.Kept.letAllGo]

theorem State.Kept.drainPorts {s : State} (h : s.Kept) : (s.drainPorts).Kept := by
  unfold State.drainPorts
  grind [State.Kept.drainPort, State.Kept.foldl]

theorem State.Kept.creditWait {s : State} (h : s.Kept) : (s.creditWait).Kept := by
  unfold State.creditWait
  grind [State.Kept.modPort, State.Kept.foldl]

theorem State.Kept.releaseTx {s : State} (h : s.Kept) : (s.releaseTx).Kept := by
  unfold State.releaseTx
  grind [State.Kept.modFab, State.Kept.routeWaiting, State.Kept.foldl]

theorem State.Kept.takeHeader {s : State} {p : Nat} {f : Flit} (h : s.Kept) :
    (s.takeHeader p f).Kept := by
  unfold State.takeHeader
  grind [State.Kept.modPort, State.Kept.releaseTx]

theorem State.Kept.openGap {s : State} {p : Nat} (h : s.Kept) : (s.openGap p).Kept := by
  unfold State.openGap
  grind [State.Kept.modPort, State.Kept.putFlit]

theorem State.Kept.takeFlit {s : State} {p : Nat} {f : Flit} (h : s.Kept) : (s.takeFlit p f).Kept := by
  unfold State.takeFlit
  grind [State.Kept.modPort, State.Kept.sendOn, State.Kept.takeBytes]

theorem State.Kept.acceptFlit {s : State} {p : Nat} {f : Flit} (h : s.Kept) :
    (s.acceptFlit p f).Kept := by
  unfold State.acceptFlit
  grind [State.Kept.follow, State.Kept.modPort, State.Kept.takeFlit, State.Kept.takeHeader]

theorem State.Kept.noteFec {s : State} {p : Nat} {fec : List (Nat × Nat)} (h : s.Kept) :
    (s.noteFec p fec).Kept := by
  unfold State.noteFec
  grind [State.Kept.modPort]

theorem execFlitReceive_kept {p : Nat} {a : Arrived} {s : State} {t : State} (h : s.Kept)
    (e : execFlitReceive p a s = .next t) : t.Kept := by
  unfold execFlitReceive at e
  grind [State.Kept.acceptFlit, State.Kept.drainPort, State.Kept.modPort, State.Kept.noteFec,
    onPort_kept, State.Kept.openGap, State.Kept.takeHeader]

end Sys2Proof.Machine
end

section
/-! Every step keeps the part and its stores (O4), Machine/Sideband.lean: SMBus and JTAG. -/

namespace Sys2Proof.Machine

set_option Elab.async false

theorem State.Kept.sideAnswer {s : State} {l : List Byte} (h : s.Kept) : (s.sideAnswer l).Kept := by
  unfold State.sideAnswer
  grind [State.Kept.answer]

theorem State.Kept.smbAnswer {s : State} {command : Byte} {l : List Byte} (h : s.Kept) :
    (s.smbAnswer command l).Kept := by
  unfold State.smbAnswer
  grind [State.Kept.sideAnswer]

theorem execSmbReadTmax_kept {s : State} {t : State} (h : s.Kept)
    (e : execSmbReadTmax s = .next t) : t.Kept := by
  unfold execSmbReadTmax at e
  grind [State.Kept.smbAnswer]

theorem execSmbReadPower_kept {s : State} {t : State} (h : s.Kept)
    (e : execSmbReadPower s = .next t) : t.Kept := by
  unfold execSmbReadPower at e
  grind [State.Kept.smbAnswer]

theorem execSmbCapRead_kept {s : State} {t : State} (h : s.Kept) (e : execSmbCapRead s = .next t) :
    t.Kept := by
  unfold execSmbCapRead at e
  grind [State.Kept.smbAnswer]

theorem execSmbCapWrite_kept {value : SmbWrite} {s : State} {t : State} (h : s.Kept)
    (e : execSmbCapWrite value s = .next t) : t.Kept := by
  unfold execSmbCapWrite at e
  grind [State.Kept.modPower]

theorem execSmbReadStatus_kept {s : State} {t : State} (h : s.Kept)
    (e : execSmbReadStatus s = .next t) : t.Kept := by
  unfold execSmbReadStatus at e
  grind [State.Kept.smbAnswer]

theorem execSmbReadFaults_kept {s : State} {t : State} (h : s.Kept)
    (e : execSmbReadFaults s = .next t) : t.Kept := by
  unfold execSmbReadFaults at e
  grind [State.Kept.smbAnswer]

theorem execJtagIdcode_kept {s : State} {t : State} (h : s.Kept) (e : execJtagIdcode s = .next t) :
    t.Kept := by
  unfold execJtagIdcode at e
  grind [State.Kept.sideAnswer]

theorem execJtagInstruction_kept {privateOne : Bool} {s : State} {t : State} (h : s.Kept)
    (e : execJtagInstruction privateOne s = .next t) : t.Kept := by
  unfold execJtagInstruction at e
  grind

end Sys2Proof.Machine
end

section
/-! Every step keeps the part and its stores (O4), Machine/Dispatch.lean: every command. -/

namespace Sys2Proof.Machine

set_option Elab.async false

theorem exec_kept {i : Instr} {s : State} {t : State} (h : s.Kept) (e : exec i s = .next t) : t.Kept := by
  unfold exec at e
  grind [State.Kept.endRun, execAbandon_kept, execAbortReceive_kept, execAlignmentReceive_kept,
    execAlignmentSend_kept, execAmax_kept, execBankGate_kept, execBankWakeEnd_kept,
    execBar4Read_kept, execBar4Write_kept, execBellStatsArrival_kept, execBootComplete_kept,
    execBroadcastRead_kept, execBroadcastWrite_kept, execChallenge_kept, execCheck_kept,
    execClaimRetry_kept, execClose_kept, execCommit_kept, execCompletionTimeout_kept,
    execConfigurationRequest_kept, execConvert_kept, execCopy_kept, execDamperFinish_kept,
    execDequantiseRow_kept, execDiagModeEnter_kept, execDiagModeLeave_kept, execDoeDiscovery_kept,
    execDoorbellCqhead_kept, execDoorbellSqtail_kept, execDrain_kept, execDrmRetire_kept,
    execDutyUpdate_kept, execEccWriteback_kept, execEndRun_kept, execFaultClear_kept,
    execFaultInject_kept, execFaultnPulseEnd_kept, execFence_kept, execFenceComplete_kept,
    execFill_kept, execFlitReceive_kept, execFlitSend_kept, execFollowerHostTraffic_kept,
    execFollowerMsixRequest_kept, execForwardTimeout_kept, execForwardedAccess_kept,
    execFunctionLevelReset_kept, execGelu_kept, execGetCapabilities_kept, execGetCertificate_kept,
    execGetDigests_kept, execGetMeasurements_kept, execGetVersion_kept, execGraceExpire_kept,
    execGroupHoldExpire_kept, execGroupReopen_kept, execIdleStrikeSlot_kept,
    execIrqTimerExpire_kept, execJtagIdcode_kept, execJtagInstruction_kept, execKill_kept,
    execLayernorm_kept, execLdscale_kept, execLeafDone_kept, execLinkDown_kept,
    execLinkHandshake_kept, execLinkRetrain_kept, execLiveOverrun_kept, execLiveReserveApply_kept,
    execLnkCntClr_kept, execLnkRetrainWrite_kept, execMchCntClr_kept, execMemoryRead_kept,
    execMemoryReady_kept, execMemoryWrite_kept, execMetCntClr_kept, execMetRelease_kept,
    execMetStkdone_kept, execMr4Poll_kept, execMsixVectorUnmask_kept, execNarrow_kept,
    execNegotiateAlgorithms_kept, execNodeArrival_kept, execPadCntClr_kept, execPadReread_kept,
    execPageTableClear_kept, execPatrolScrub_kept, execPciCntClr_kept, execPcieLinkUp_kept,
    execPerstAssert_kept, execPerstRelease_kept, execPgtDataAccess_kept, execPllLock_kept,
    execPllLockLoss_kept, execPowerDown_kept, execPowerOn_kept, execPqchain_kept, execPqsig_kept,
    execPreemptRestore_kept, execPreemptSave_kept, execPwrRst_kept, execPwrcapAssert_kept,
    execPwrcapRelease_kept, execQload_kept, execQsave_kept, execRailFault_kept,
    execRegisterWrite_kept, execReplayTimeout_kept, execResetnAssert_kept, execResetnRelease_kept,
    execRetrainEnd_kept, execRingDisable_kept, execRingEnable_kept, execRmsnorm_kept,
    execRolCntClr_kept, execRollMask_kept, execRollScale_kept, execRope_kept, execScore_kept,
    execScoreBind_kept, execSend_kept, execSendAckArrival_kept, execSendArrival_kept,
    execSensorSample_kept, execSeqCntClr_kept, execShareReductionDone_kept, execShellClearDone_kept,
    execShlCntClr_kept, execSilu_kept, execSknCntClr_kept, execSmbCapRead_kept,
    execSmbCapWrite_kept, execSmbReadFaults_kept, execSmbReadPower_kept, execSmbReadStatus_kept,
    execSmbReadTmax_kept, execSoftmax_kept, execSoundCheck_kept, execStickApertureAccess_kept,
    execStickDeviceAccess_kept, execStickTrap_kept, execStreamTableClear_kept, execStrike_kept,
    execStscale_kept, execSubmissionEntryFault_kept, execSyncInEdge_kept, execSyncInTimeout_kept,
    execSyncOutPulse_kept, execTableClearDone_kept, execTap_kept, execTapCntClr_kept,
    execTaskDispatch_kept, execTaskEnd_kept, execThermalFault_kept, execTopk_kept,
    execTunCntClr_kept, execUpdateOpComplete_kept, execWait_kept, execWaitComplete_kept,
    execWaitTimeout_kept, execWeightLoadEnd_kept, execWiden_kept, execWkcCntClr_kept,
    execWorkClaim_kept, execWriteImage_kept, execWritePlace_kept, execWriteRepair_kept,
    State.Kept.leafDone, State.Kept.request]

end Sys2Proof.Machine
end

section
/-! Every step keeps the part and its stores (O4), Machine/Idle.lean: the idle ac. -/

namespace Sys2Proof.Machine

set_option Elab.async false

theorem State.Kept.pass {s : State} (h : s.Kept) : (s.pass).Kept := by
  unfold State.pass
  grind [State.Kept.creditWait, State.Kept.drainPorts, State.Kept.flushAll, State.Kept.idle,
    State.Kept.runMoves, State.Kept.soundTick]

end Sys2Proof.Machine
end

section
/-! Every step keeps the part and its stores (O4), Machine/Step.lean: the step. -/

namespace Sys2Proof.Machine

set_option Elab.async false

theorem step_kept {s t : State} (h : s.Kept) (e : step s = .next t) : t.Kept := by
  unfold step at e
  split at e
  · cases e; exact h.pass
  · next c rest _ =>
    have hr : State.Kept { s with pending := rest } := h
    exact exec_kept hr e

theorem State.Kept.withFetchWord {s : State} {nbits w : Nat} (h : s.Kept) :
    (s.withFetchWord nbits w).Kept := h

end Sys2Proof.Machine
end

section
/-! The queue, reset and every step (O1, O3, O4). -/

namespace Sys2Proof.Machine

set_option Elab.async false

/-- Settles O1: with a command at its front, the step is exec on it by definition. -/
theorem stepRunsFrontCommand : Obligations.StepRunsFrontCommand := fun _ _ _ => rfl

/-- Settles O3: the reset state is closed, so what is decidable of it is evaluated. -/
theorem resetKeepsPartAndStores : Obligations.ResetKeepsPartAndStores :=
  ⟨Tests.kept_reset, rfl, rfl, by decide +kernel, by decide +kernel⟩

/-- Settles O4: the idle step and every command keep the invariant. -/
theorem everyStepKeepsPartAndStores : Obligations.EveryStepKeepsPartAndStores := fun _ _ h e => step_kept h e

end Sys2Proof.Machine
end

section
/-! What the end of a job, its abort and a change of the drum map leave alone: the beat, the fault records, the packets on
the NoC, the number of drums, and of each drum the bytes of its pad, its sound checks and its retirement. -/

namespace Sys2Proof.Machine

set_option Elab.async false

def Drum.Steady (x y : Drum) : Prop :=
  y.pad.mem = x.pad.mem ∧ y.sound = x.sound ∧ (x.status = .retired → y.status = .retired)

def State.Steady (s t : State) : Prop :=
  t.beat = s.beat ∧ t.faults = s.faults ∧ t.noc = s.noc ∧ t.drums.length = s.drums.length ∧ ∀ d, (s.drum d).Steady (t.drum d)

theorem Drum.Steady.refl (x : Drum) : x.Steady x := ⟨rfl, rfl, id⟩

theorem Drum.Steady.trans {x y z : Drum} (h : x.Steady y) (k : y.Steady z) : x.Steady z := by
  obtain ⟨mem, sound, retired⟩ := h
  obtain ⟨mem', sound', retired'⟩ := k
  exact ⟨mem'.trans mem, sound'.trans sound, retired' ∘ retired⟩

theorem State.Steady.refl (s : State) : s.Steady s := ⟨rfl, rfl, rfl, rfl, fun _ => .refl _⟩

section
variable {s t : State} {d : Nat}

/-! ### Updates -/

/-- An update of anything but the drums, the beat, the fault records and the NoC. -/
theorem State.Steady.congr {u : State} (h : s.Steady t) (beat : u.beat = t.beat) (faults : u.faults = t.faults)
    (noc : u.noc = t.noc) (drums : u.drums = t.drums) : s.Steady u := by
  obtain ⟨b, f, n, l, ds⟩ := h
  have same (d : Nat) : u.drum d = t.drum d := by rw [State.drum, drums, State.drum]
  exact ⟨beat.trans b, faults.trans f, noc.trans n, (congrArg List.length drums).trans l, fun d => by rw [same]; exact ds d⟩

theorem State.drum_modDrum_eq_or (s : State) (d e : Nat) (f : Drum → Drum) :
    (s.modDrum d f).drum e = s.drum e ∨ e = d ∧ (s.modDrum d f).drum e = f (s.drum e) := by
  by_cases he : e = d
  · subst he
    by_cases hl : e < s.drums.length
    · exact .inr ⟨rfl, State.drum_modDrum s hl f⟩
    · refine .inl ?_
      rw [State.modDrum, State.setDrum, State.drum, List.set_eq_of_length_le (by omega), State.drum]
  · exact .inl (State.drum_modDrum_ne s he f)

theorem State.Steady.modDrum {f : Drum → Drum} (h : s.Steady t) (hf : (t.drum d).Steady (f (t.drum d))) :
    s.Steady (t.modDrum d f) := by
  obtain ⟨b, fl, n, l, ds⟩ := h
  refine ⟨b, fl, n, (t.modDrum_length d f).trans l, fun e => ?_⟩
  rcases t.drum_modDrum_eq_or d e f with he | ⟨rfl, he⟩
  · rw [he]; exact ds e
  · rw [he]; exact (ds e).trans hf

theorem State.Steady.modPad {f : Pad → Pad} (h : s.Steady t) (hf : ∀ p, (f p).mem = p.mem) : s.Steady (t.modPad d f) :=
  h.modDrum ⟨hf _, rfl, id⟩

theorem State.Steady.mapDrums {f : Drum → Drum} (h : s.Steady t) (hf : ∀ x : Drum, x.Steady (f x)) :
    s.Steady { t with drums := t.drums.map f } := by
  obtain ⟨b, fl, n, l, ds⟩ := h
  refine ⟨b, fl, n, List.length_map _ |>.trans l, fun e => (ds e).trans ?_⟩
  unfold State.drum
  rw [List.getElem?_map]
  cases t.drums[e]? with
  | none => exact .refl _
  | some x => exact hf x

theorem State.Steady.foldl {α : Type} {f : State → α → State} (hf : ∀ t a, s.Steady t → s.Steady (f t a)) :
    ∀ {l : List α} {t : State}, s.Steady t → s.Steady (l.foldl f t)
  | [], _, h => h
  | a :: l, _, h => State.Steady.foldl (l := l) hf (hf _ a h)

theorem State.Steady.loop {f : Nat → State → State} (hf : ∀ i t, s.Steady t → s.Steady (f i t)) :
    ∀ {n : Nat} {t : State}, s.Steady t → s.Steady (loop f n t)
  | 0, _, h => h
  | _ + 1, _, h => hf _ _ (State.Steady.loop hf h)

theorem State.Steady.modMet {f : Met → Met} (h : s.Steady t) : s.Steady (t.modMet f) := h
theorem State.Steady.modFab {f : Fabric → Fabric} (h : s.Steady t) : s.Steady (t.modFab f) := h
theorem State.Steady.dropAsks {p : Reader → Bool} (h : s.Steady t) : s.Steady (t.dropAsks p) := h
theorem State.Steady.modJob {j : Half} {f : Job → Job} (h : s.Steady t) : s.Steady (t.modJob j f) := h
theorem State.Steady.modTask {j : Half} {i : Nat} {f : Task → Task} (h : s.Steady t) : s.Steady (t.modTask j i f) := h
theorem State.Steady.pushRecord {q : Nat} {r : Record} (h : s.Steady t) : s.Steady (t.pushRecord q r) := h

/-! ### The end of a job on a drum -/

theorem Drum.clear_steady (x : Drum) : x.Steady x.clear := .refl _

theorem Drum.clearBeside_steady (x : Drum) : x.Steady x.clearBeside := by
  unfold Drum.clearBeside
  split
  · exact x.clear_steady
  · exact x.clear_steady

theorem Drum.dropJob_steady (x : Drum) (j : Half) : x.Steady (x.dropJob j) := by
  unfold Drum.dropJob
  extract_lets y sh tp a b c pd
  have ha : x.Steady a := by unfold a; split <;> exact .refl _
  have hb : x.Steady b := by unfold b; split <;> exact ha
  have hc : x.Steady c := by unfold c; split <;> exact hb
  split
  · split <;> exact hc
  · exact hc

theorem Drum.dropHeld_steady (x : Drum) (j : Half) : x.Steady (x.dropHeld j) := by
  unfold Drum.dropHeld
  extract_lets n
  split <;> exact .refl _

theorem Drum.endJob_steady (x : Drum) (j : Half) : x.Steady (x.endJob j) := by
  unfold Drum.endJob
  extract_lets y slots pd z tu cb sq
  have hz : x.Steady z := x.dropJob_steady j
  split
  · exact hz
  · exact hz.trans z.clearBeside_steady

/-! ### The end of tasks and jobs -/

theorem State.Steady.bankSeq {q : Seq} (h : s.Steady t) : s.Steady (t.bankSeq q) := by
  unfold State.bankSeq
  split <;> exact h

theorem State.Steady.bankRun (h : s.Steady t) : s.Steady (t.bankRun d) := h.bankSeq

theorem State.Steady.bankJob {j : Half} (h : s.Steady t) : s.Steady (t.bankJob d j) := by
  unfold State.bankJob
  extract_lets x u
  have hu : s.Steady u := by
    unfold u
    split
    · exact h.bankRun
    · exact h
  split
  · split
    · exact hu.bankSeq
    · exact hu
  · exact hu

theorem State.Steady.stopJob {j : Half} (h : s.Steady t) : s.Steady (t.stopJob j) := by
  unfold State.stopJob
  extract_lets u
  have hu : s.Steady u := by
    refine State.Steady.foldl (fun v d hv => ?_) h
    split
    · exact hv.bankJob.modDrum (Drum.dropJob_steady _ j)
    · exact hv
  exact hu.dropAsks.modMet

theorem State.Steady.noteTurn {o : Nat} {l : List (Task × Nat)} (h : s.Steady t) : s.Steady (t.noteTurn o l) := by
  unfold State.noteTurn
  extract_lets l'
  split <;> exact h

theorem State.Steady.pushTasks {j : Job} {before after : List Task} (h : s.Steady t) :
    s.Steady (t.pushTasks j before after) := by
  refine State.Steady.foldl (fun u i hu => ?_) h
  split
  · split
    · exact hu.pushRecord
    · exact hu
  · exact hu

theorem State.Steady.finishJob {j : Half} (h : s.Steady t) : s.Steady (t.finishJob j) := by
  unfold State.finishJob
  split
  · exact h
  · split
    · refine State.Steady.mapDrums (State.Steady.foldl (fun u d hu => ?_) h.pushRecord.modMet) fun x => x.dropHeld_steady j
      split
      · exact hu.modDrum (Drum.endJob_steady _ j)
      · exact hu
    · exact h

theorem State.Steady.freeUnits {j : Half} {i : Nat} (h : s.Steady t) : s.Steady (t.freeUnits j i) := h.dropAsks.modMet

theorem State.Steady.endTask {j : Half} {i : Nat} {c : Code} (h : s.Steady t) : s.Steady (t.endTask j i c) := by
  unfold State.endTask
  split
  · exact h
  · split
    · exact h
    · split
      · exact h
      · exact h.freeUnits.modJob.noteTurn.pushTasks.finishJob

/-! ### Aborts -/

theorem State.Steady.abortTasks {j : Half} (h : s.Steady t) : s.Steady (t.abortTasks j) := by
  unfold State.abortTasks
  extract_lets u
  have hu : s.Steady u := h.stopJob
  split
  · exact hu
  · exact hu.modJob.noteTurn.pushTasks.finishJob

theorem State.Steady.abortRecords {j : Half} (h : s.Steady t) : s.Steady (t.abortRecords j) := h

theorem State.Steady.spreadAbort {g : Nat} {id : AbortId} {stamp : Dword} {skip : Option Nat} (h : s.Steady t) :
    s.Steady (t.spreadAbort g id stamp skip) := by
  refine State.Steady.foldl (fun u p hu => ?_) h
  split
  · exact hu.modFab
  · exact hu

theorem State.Steady.originateAbort {g : Nat} {stamp : Dword} (h : s.Steady t) : s.Steady (t.originateAbort g stamp) := by
  unfold State.originateAbort
  split
  · exact h
  · exact State.Steady.spreadAbort h.modFab

theorem State.Steady.abortOf {j : Half} {g : Nat} {stamp : Dword} (h : s.Steady t) : s.Steady (t.abortOf j g stamp) :=
  h.originateAbort.abortTasks.abortRecords

theorem State.Steady.abortJob {j : Half} {stamp : Dword} (h : s.Steady t) : s.Steady (t.abortJob j stamp) := h.abortOf

/-! ### Changes of the drum map -/

theorem State.spare_of_mem_spares (h : d ∈ t.spares) : (t.drum d).status = .spare := by
  simpa using (List.mem_filter.1 h).2

theorem State.mem_spares_of_spareFor {p q : Nat} (h : t.spareFor p = some q) : q ∈ t.spares := by
  unfold State.spareFor at h
  split at h
  · cases h; exact List.mem_of_find?_eq_some ‹_›
  · exact List.mem_of_head? h

theorem State.Steady.moveDrum {p : Nat} (h : s.Steady t) : s.Steady (t.moveDrum p) := by
  unfold State.moveDrum
  extract_lets x
  split
  · split
    next q hq =>
      have spare := State.spare_of_mem_spares (State.mem_spares_of_spareFor hq)
      exact State.Steady.modDrum (h.modDrum ⟨rfl, rfl, by rw [spare]; simp⟩) ⟨rfl, rfl, id⟩
    next => exact h
  · exact h

theorem State.Steady.applyMap (h : s.Steady t) : s.Steady t.applyMap := State.Steady.loop (fun _ _ hu => hu.moveDrum) h

theorem State.Steady.withdraw (h : s.Steady t) : s.Steady (t.withdraw d) := by
  unfold State.withdraw
  extract_lets js u l en top heir v
  have hv : s.Steady v :=
    State.Steady.modDrum (State.Steady.foldl (fun _ _ hw => hw.abortJob) h) ⟨rfl, rfl, id⟩
  refine State.Steady.foldl (fun w q hw => hw.modDrum ?_) hv
  split
  · exact ⟨rfl, rfl, id⟩
  · exact ⟨rfl, rfl, fun hr => if_pos hr⟩

theorem Pad.foldl_purge_mem (c : Pad → Nat → Prop) [∀ p k, Decidable (c p k)] (l : List Nat) (p : Pad) :
    (l.foldl (fun p k => if c p k then p.purge k else p) p).mem = p.mem := by
  induction l generalizing p with
  | nil => rfl
  | cons k l ih =>
    rw [List.foldl_cons, ih]
    split <;> rfl

/-- A drum that is retired leaves alone all that is steady, but for its own STATE. -/
theorem State.retireDrum_steady (s : State) (d : Nat) (h : (s.drum d).status ≠ .retired) :
    State.Steady (s.modDrum d fun y => { y with status := .retired }) (s.retireDrum d) := by
  unfold State.retireDrum
  rw [if_neg h]
  extract_lets r js a b out c
  have hb : State.Steady r b :=
    State.Steady.modPad (State.Steady.foldl (fun _ _ hw => hw.abortJob) (.refl _)) fun p => Pad.foldl_purge_mem _ _ p
  refine State.Steady.applyMap ?_
  unfold c
  split
  · exact hb.withdraw
  · exact hb

end
end Sys2Proof.Machine
end

section
/-! A fault that meets no valid record latches and, beside the record, reaches only the interrupt's way out; an aborted job is
no longer there. -/

namespace Sys2Proof.Machine

set_option Elab.async false

section
variable {s t : State}

/-! ### A new record -/

theorem State.sendPk_eq (s : State) (p : Pk) (live : Bool) :
    s.sendPk p live = { s with fab := (s.sendPk p live).fab } := by
  unfold State.sendPk
  split <;> rfl

theorem State.issueVector_eq (s : State) (v : Nat) :
    s.issueVector v = { s with pcie := (s.issueVector v).pcie, sent := (s.issueVector v).sent } := by
  unfold State.issueVector
  split
  · rfl
  · split <;> rfl

theorem State.interrupt_eq (s : State) (n : Nat) :
    s.interrupt n = { s with
      fab := (s.interrupt n).fab, pcie := (s.interrupt n).pcie, sent := (s.interrupt n).sent } := by
  unfold State.interrupt State.requestVector
  split
  · split
    · rfl
    · split
      · rw [State.sendPk_eq]
      · rw [State.issueVector_eq]
  · rfl

theorem State.raiseWith_fresh (s : State) {r : Raised} (h : (s.fault r.src).valid = false)
    (wf : cellsWf FaultSet.reset s.faults = true) :
    s.raiseWith r = ((s.modFault r.src fun f => f.note r s.beat s.power.controlTick).setFault r.src
      (((s.fault r.src).note r s.beat s.power.controlTick).latch r s.beat (s.timerFrom r.src))).interrupt r.src := by
  have noted : (s.modFault r.src fun f => f.note r s.beat s.power.controlTick).fault r.src =
      (s.fault r.src).note r s.beat s.power.controlTick := getCell_putCell wf _ _
  have fresh : ((s.fault r.src).note r s.beat s.power.controlTick).valid = false := h
  unfold State.raiseWith State.latchFault
  simp only [noted]
  rw [if_pos fresh]
  rfl

/-- Where no valid record stands, raising a fault changes the records and the interrupt's way out, nothing else. -/
theorem State.raiseWith_eq (s : State) {r : Raised} (h : (s.fault r.src).valid = false)
    (wf : cellsWf FaultSet.reset s.faults = true) :
    s.raiseWith r = { s with
      faults := (s.raiseWith r).faults, fab := (s.raiseWith r).fab, pcie := (s.raiseWith r).pcie,
      sent := (s.raiseWith r).sent } := by
  rw [s.raiseWith_fresh h wf, State.interrupt_eq]
  rfl

theorem State.raiseWith_latched (s : State) {n sub : Nat} {j : Option Half} {run : Option RunId}
    (h : (s.fault n).valid = false) (wf : cellsWf FaultSet.reset s.faults = true) :
    (s.raiseWith ⟨n, BitVec.ofNat 8 sub, j, run, false⟩).latched n sub j s.beat := by
  have record : (s.raiseWith ⟨n, BitVec.ofNat 8 sub, j, run, false⟩).fault n =
      ((s.fault n).note ⟨n, BitVec.ofNat 8 sub, j, run, false⟩ s.beat s.power.controlTick).latch
        ⟨n, BitVec.ofNat 8 sub, j, run, false⟩ s.beat (s.timerFrom n) := by
    rw [s.raiseWith_fresh h wf, State.interrupt_eq]
    exact getCell_putCell (putCell_wf _ _ wf) _ _
  unfold State.latched
  rw [record]
  exact ⟨rfl, rfl, rfl, rfl, rfl, rfl, rfl, rfl⟩

theorem State.latched.steady {n sub : Nat} {j : Option Half} {b : Dword} (h : s.latched n sub j b) (k : s.Steady t) :
    t.latched n sub j b := by
  obtain ⟨-, faults, -⟩ := k
  unfold State.latched State.fault at *
  rw [faults]
  exact h

/-! ### An aborted job -/

theorem State.job?_eq_some {j : Half} {x : Job} (h : s.job? j = some x) : x.num = j := by
  simpa using List.find?_some h

theorem State.job?_congr {j : Half} (h : t.met.jobs = s.met.jobs) : t.job? j = s.job? j := by
  rw [State.job?, h, State.job?]

/-- A change of every job that leaves the numbers is a change of the job that is found. -/
theorem find?_map_num {j : Half} {f : Job → Job} (hf : ∀ y, (f y).num = y.num) (l : List Job) :
    (l.map f).find? (fun y => y.num == j) = (l.find? fun y => y.num == j).map f := by
  rw [List.find?_map]
  congr 2
  funext y
  simp [hf]

theorem State.job?_modJob {j : Half} {f : Job → Job} {x : Job} (hf : ∀ y, (f y).num = y.num) (h : s.job? j = some x) :
    (s.modJob j f).job? j = some (f x) := by
  have num := State.job?_eq_some h
  refine (find?_map_num (fun y => ?_) s.met.jobs).trans ?_
  · split
    · exact hf y
    · rfl
  · rw [State.job?] at h
    rw [h, Option.map_some, if_pos num]

theorem foldl_modDrum_met {c : State → Nat → Prop} [∀ s d, Decidable (c s d)] {f : Drum → Drum} (l : List Nat)
    (s : State) : (l.foldl (fun s d => if c s d then s.modDrum d f else s) s).met = s.met := by
  induction l generalizing s with
  | nil => rfl
  | cons d l ih =>
    rw [List.foldl_cons, ih]
    split <;> rfl

theorem State.pushTasks_met (s : State) (j : Job) (before after : List Task) : (s.pushTasks j before after).met = s.met := by
  refine List.foldlRecOn (motive := fun t : State => t.met = s.met) _ _ rfl fun t ht i _ => ?_
  split
  · split
    · exact ht
    · exact ht
  · exact ht

theorem State.noteTurn_ended {j : Half} {o : Nat} {l : List (Task × Nat)} {x : Job} (h : s.job? j = some x)
    (e : x.tasks.all (fun t => t.state == .ended) = true) :
    ∃ y, (s.noteTurn o l).job? j = some y ∧ y.tasks.all (fun t => t.state == .ended) = true := by
  unfold State.noteTurn
  extract_lets l' behind
  split
  · exact ⟨x, h, e⟩
  · have found := find?_map_num (j := j) (f := fun y => { y with
      tasks := y.tasks.zipIdx.map fun p => if behind y p.2 p.1 then { p.1 with readyAt := s.beat } else p.1 })
      (fun _ => rfl) s.met.jobs
    rw [show s.met.jobs.find? (fun y => y.num == j) = some x from h] at found
    refine ⟨_, found, ?_⟩
    rw [List.all_eq_true] at e ⊢
    intro t ht
    obtain ⟨p, hp, rfl⟩ := List.mem_map.1 ht
    have hx : p.1 ∈ x.tasks := by
      obtain ⟨_, _, hi⟩ := List.mem_zipIdx hp
      rw [hi]
      exact List.getElem_mem _
    have he := e _ hx
    split <;> exact he

/-- A job all of whose tasks have ended is taken out. -/
theorem State.finishJob_gone {j : Half} (h : ∀ x, s.job? j = some x → x.tasks.all (fun t => t.state == .ended) = true) :
    (s.finishJob j).job? j = none := by
  unfold State.finishJob
  split
  next none => exact none
  next x hx =>
    rw [if_pos (h x hx)]
    extract_lets r m u
    have jobs : u.met.jobs = s.met.jobs.filter fun y => y.num != j := by
      unfold u
      rw [foldl_modDrum_met]
      rfl
    clear_value u
    refine (State.job?_congr (s := u) rfl).trans ?_
    rw [State.job?, jobs]
    simp

theorem State.abortTasks_gone (s : State) (j : Half) : (s.abortTasks j).job? j = none := by
  unfold State.abortTasks
  extract_lets u
  split
  next none => exact none
  next x hx =>
    extract_lets l v
    refine State.finishJob_gone fun y hy => ?_
    have ended : l.all (fun t => t.state == .ended) = true := by
      unfold l
      rw [List.all_map, List.all_eq_true]
      intro t _
      simp only [Function.comp]
      split <;> simp [*]
    obtain ⟨z, hz, hze⟩ := State.noteTurn_ended (o := x.order) (l := x.tasks.zipIdx.filter fun p => p.1.state != .ended)
      (State.job?_modJob (f := fun y => { y with tasks := l, aborted := true }) (fun _ => rfl) hx) ended
    rw [State.job?_congr (congrArg Met.jobs (State.pushTasks_met ..)), hz] at hy
    cases hy
    exact hze

theorem State.abortRecords_met (s : State) (j : Half) : (s.abortRecords j).met = s.met := rfl

theorem State.abortJob_gone (s : State) (j : Half) (stamp : Dword) : (s.abortJob j stamp).job? j = none := by
  unfold State.abortJob State.abortOf
  rw [State.job?_congr (congrArg Met.jobs (State.abortRecords_met ..))]
  exact State.abortTasks_gone _ j

end
end Sys2Proof.Machine
end

section
/-! Packets on the NoC and the pad (O15): what an arriving SEND, its answer and a packet lost on the way do. -/

namespace Sys2Proof.Machine

set_option Elab.async false

section
variable {s : State} {d src : Nat} {k : Packet} {rest : List Packet} {id : SendId} {dst tally : Nat} {data : List Byte}
  {m : Slot}

/-! ### Drum d and the NoC -/

theorem State.Kept.drum_lt (h : s.Kept) (hd : d < 136) : d < s.drums.length := by
  obtain ⟨count, -⟩ := h
  omega

/-- Another pad of drum d and other packets on the NoC. -/
def State.padNoc (s : State) (d : Nat) (f : Pad → Pad) (l : List Packet) : State := { s.modPad d f with noc := l }

theorem State.drum_padNoc (hd : d < s.drums.length) (f : Pad → Pad) (l : List Packet) :
    (s.padNoc d f l).drum d = { s.drum d with pad := f (s.drum d).pad } := s.drum_modPad hd f

theorem OnlyDrum.withNoc {t : State} (h : OnlyDrum d s t) (l : List Packet) : OnlyDrumNoc d s { t with noc := l } := by
  obtain ⟨rest, count, others⟩ := h
  exact ⟨by rw [rest], count, others⟩

theorem State.onlyDrumNoc_padNoc (s : State) (d : Nat) (f : Pad → Pad) (l : List Packet) :
    OnlyDrumNoc d s (s.padNoc d f l) := (onlyDrum_modDrum s d _).withNoc l

theorem State.modDrum_modDrum (h : d < s.drums.length) (f g : Drum → Drum) :
    (s.modDrum d f).modDrum d g = s.modDrum d fun x => g (f x) := by
  have x := s.drum_modDrum h f
  unfold State.modDrum State.setDrum at *
  rw [x, List.set_set]

theorem State.modPad_modPad (h : d < s.drums.length) (f g : Pad → Pad) :
    (s.modPad d f).modPad d g = s.modPad d fun p => g (f p) := State.modDrum_modDrum h _ _

/-! ### The end of a packet's way -/

theorem onStation_drum (hd : d < 136) (f : State → State) : onStation d s f = .next (f s) := if_pos (Nat.le_of_lt hd)

section
variable {kind : Packet → Bool} (land : Bool → Packet → State → State) (full : s.stationFull d = false)
  (take : takePacket (fun p => p.src == src && p.dst == d) s.noc = some (k, rest)) (hk : kind k = true)
include full take hk

theorem State.deliver_arrives : s.deliver d src kind .arrives land = land true k { s with noc := rest } := by
  unfold State.deliver
  simp only [take, hk, full, Bool.not_true, Bool.or_self, Bool.false_eq_true, if_false]

theorem State.deliver_badFlit (hd : d < 136) :
    s.deliver d src kind .badFlit land = State.packetLost { s with noc := rest } d 0x71 k.job := by
  unfold State.deliver
  simp only [take, hk, full, hd, Bool.not_true, Bool.or_self, Bool.false_eq_true, if_false, if_true]

theorem State.deliver_badBond {b : Nat} (hb : b ∈ bridgesOf src d) :
    s.deliver d src kind (.badBond b) land = State.packetLost { s with noc := rest } (0x170 + b) 0x01 k.job := by
  unfold State.deliver
  simp only [take, hk, full, List.contains_iff_mem.2 hb, Bool.not_true, Bool.or_self, Bool.false_eq_true, if_false, if_true]

end

section
variable (hd : d < 136) (full : s.stationFull d = false)
  (take : takePacket (fun p => p.src == src && p.dst == d) s.noc = some (k, rest))
include hd full take

theorem exec_sendArrival (body : k.body = .send id dst tally data) :
    exec (.sendArrival d src .arrives) s = .next (State.takeSend { s with noc := rest } d k id dst tally data) := by
  have send : k.isSend = true := by rw [Packet.isSend, body]
  rw [show exec (.sendArrival d src .arrives) s = execSendArrival d src .arrives s from rfl, execSendArrival,
    onStation_drum hd, State.deliver_arrives _ full take send, body]

theorem exec_sendAckArrival {ok : Bool} (body : k.body = .ack id ok) :
    exec (.sendAckArrival d src .arrives) s = .next (State.takeAck { s with noc := rest } d id ok) := by
  have ack : k.isAck = true := by rw [Packet.isAck, body]
  rw [show exec (.sendAckArrival d src .arrives) s = execSendAckArrival d src .arrives s from rfl, execSendAckArrival,
    onStation_drum hd, State.deliver_arrives _ full take ack, body]

theorem exec_sendArrival_badFlit (send : k.isSend = true) :
    exec (.sendArrival d src .badFlit) s = .next (State.packetLost { s with noc := rest } d 0x71 k.job) := by
  rw [show exec (.sendArrival d src .badFlit) s = execSendArrival d src .badFlit s from rfl, execSendArrival,
    onStation_drum hd, State.deliver_badFlit _ full take send hd]

theorem exec_sendArrival_badBond {b : Nat} (send : k.isSend = true) (hb : b ∈ bridgesOf src d) :
    exec (.sendArrival d src (.badBond b)) s = .next (State.packetLost { s with noc := rest } (0x170 + b) 0x01 k.job) := by
  rw [show exec (.sendArrival d src (.badBond b)) s = execSendArrival d src (.badBond b) s from rfl, execSendArrival,
    onStation_drum hd, State.deliver_badBond _ full take send hb]

end

/-! ### A SEND at its receiver -/

/-- The answer to a SEND from this part. -/
def State.answerOf (s : State) (d : Nat) (k : Packet) (id : SendId) (ok : Bool) : Packet :=
  { src := d, dst := id.drum, job := k.job, group := k.group, from_ := s.pcie.coord
    fromDrum := (s.drum d).logical.toNat, body := .ack id ok }

section
variable (hd : d < s.drums.length) (here : k.from_ = s.pcie.coord)
include hd here

theorem State.acknowledge_modPad (f : Pad → Pad) (ok : Bool) :
    State.acknowledge (State.modPad { s with noc := rest } d f) d k id ok =
      s.padNoc d f (rest ++ [s.answerOf d k id ok]) := by
  have logical : ((s.modPad d f).drum d).logical = (s.drum d).logical := by rw [s.drum_modPad hd]
  have answer : (s.modPad d f).answerOf d k id ok = s.answerOf d k id ok := by
    unfold State.answerOf
    rw [logical]
    rfl
  rw [← answer]
  exact if_pos here

end

theorem State.acknowledge_here (here : k.from_ = s.pcie.coord) (ok : Bool) :
    State.acknowledge { s with noc := rest } d k id ok = { s with noc := rest ++ [s.answerOf d k id ok] } := if_pos here

/-- The pad with a SEND of n bytes at offset a held for a wake. -/
def Pad.holdBack (p : Pad) (beat : Dword) (a n : Nat) (k : Packet) : Pad :=
  { p.reach beat a n with eject := (p.reach beat a n).eject ++ [k], latewr := (p.reach beat a n).latewr + 1 }

theorem Pad.holdBack_eq (p : Pad) (beat : Dword) (a n : Nat) (k : Packet) :
    (p.holdBack beat a n k).eject = p.eject ++ [k] ∧ (p.holdBack beat a n k).latewr = p.latewr + 1 ∧
      (p.holdBack beat a n k).mem = p.mem ∧ (p.holdBack beat a n k).tallies = p.tallies := by
  unfold Pad.holdBack
  rw [reach_same p beat a n]
  exact ⟨rfl, rfl, rfl, rfl⟩

theorem State.takeSend_asleep (slot : (s.drum d).pad.jobSlot k.job (· == .bound) = some m)
    (fits : m.accepts dst tally data.length = true) (asleep : (s.drum d).pad.asleep (m.start + dst) data.length = true) :
    s.takeSend d k id dst tally data = s.modPad d (·.holdBack s.beat (m.start + dst) data.length k) := by
  unfold State.takeSend
  simp only [slot, fits, asleep, if_true]
  rfl

theorem State.takeSend_awake (slot : (s.drum d).pad.jobSlot k.job (· == .bound) = some m)
    (fits : m.accepts dst tally data.length = true) (awake : (s.drum d).pad.asleep (m.start + dst) data.length = false) :
    s.takeSend d k id dst tally data = s.landSend d k m id dst tally data := by
  unfold State.takeSend
  simp only [slot, fits, awake, if_true, Bool.false_eq_true, if_false]

theorem State.takeSend_unfit (slot : (s.drum d).pad.jobSlot k.job (· == .bound) = some m)
    (fits : m.accepts dst tally data.length = false) :
    s.takeSend d k id dst tally data = s.acknowledge d k id false := by
  unfold State.takeSend
  simp only [slot, fits, Bool.false_eq_true, if_false]

theorem State.takeSend_discards (slot : (s.drum d).pad.jobSlot k.job (· == .bound) = none)
    (leaves : ((s.drum d).pad.jobSlot k.job fun st => st == .damp || st == .purge).isSome = true) :
    s.takeSend d k id dst tally data =
      (s.modPad d fun p => { p with discards := p.discards + 1 }).acknowledge d k id true := by
  obtain ⟨n, hn⟩ := Option.isSome_iff_exists.1 leaves
  unfold State.takeSend
  simp only [slot, hn]

theorem State.takeSend_refuses (slot : (s.drum d).pad.jobSlot k.job (· == .bound) = none)
    (leaves : ((s.drum d).pad.jobSlot k.job fun st => st == .damp || st == .purge) = none) :
    s.takeSend d k id dst tally data = s.acknowledge d k id false := by
  unfold State.takeSend
  simp only [slot, leaves]

/-! ### An accepted SEND -/

/-- The pad with the bytes of a SEND from offset a on and one more in the tally counter t. -/
def Pad.landed (p : Pad) (beat : Dword) (a t : Nat) (data : List Byte) : Pad :=
  ((p.reach beat a data.length).put a data).setTally t (p.tally t + 1)

theorem Pad.tally_written (p : Pad) (beat : Dword) (a t : Nat) :
    ((p.reach beat a data.length).put a data).tally t = p.tally t := by
  unfold Pad.put Pad.tally
  rw [(reach_same p beat a data.length).tallies]

theorem State.landSend_eq (hd : d < s.drums.length) (room : (s.drum d).pad.tally (m.tbase + tally) ≠ 0xFFFFFFFF) :
    s.landSend d k m id dst tally data =
      (s.modPad d fun p => p.landed s.beat (m.start + dst) (m.tbase + tally) data).acknowledge d k id true := by
  have count := Pad.tally_written (data := data) (s.drum d).pad s.beat (m.start + dst) (m.tbase + tally)
  have drum := s.drum_modPad hd fun p => (p.reach s.beat (m.start + dst) data.length).put (m.start + dst) data
  have bump := State.modPad_modPad hd (fun p => (p.reach s.beat (m.start + dst) data.length).put (m.start + dst) data)
    fun p => p.setTally (m.tbase + tally) ((s.drum d).pad.tally (m.tbase + tally) + 1)
  unfold State.landSend State.bumpTally
  simp only [drum, count, if_neg room, bump]
  rfl

theorem State.landSend_here (hd : d < s.drums.length) (here : k.from_ = s.pcie.coord)
    (room : (s.drum d).pad.tally (m.tbase + tally) ≠ 0xFFFFFFFF) :
    State.landSend { s with noc := rest } d k m id dst tally data =
      s.padNoc d (fun p => p.landed s.beat (m.start + dst) (m.tbase + tally) data) (rest ++ [s.answerOf d k id true]) :=
  (State.landSend_eq (s := { s with noc := rest }) hd room).trans (State.acknowledge_modPad hd here _ true)

section
variable (p : Pad) (beat : Dword) (a t : Nat)

/-- Of a pad a landed SEND changes its bytes, the tallies, the words that failed and what an access counts. -/
theorem Pad.landed_same : SamePad { p with
    mem := (p.landed beat a t data).mem, tallies := (p.landed beat a t data).tallies
    failed := (p.landed beat a t data).failed }
    (p.landed beat a t data) := by
  unfold SamePad Pad.landed Pad.setTally Pad.put
  rw [reach_same p beat a data.length]

theorem Pad.landed_mem : (p.landed beat a t data).mem = putBytes p.mem a data := by
  unfold Pad.landed Pad.setTally Pad.put
  rw [reach_same p beat a data.length]

theorem Pad.landed_tally (wf : cellsWf 0#32 p.tallies = true) (i : Nat) :
    (p.landed beat a t data).tally i = if i = t then p.tally i + 1 else p.tally i := by
  have tallies : (p.landed beat a t data).tallies = putCell 0#32 p.tallies t (p.tally t + 1) := by
    unfold Pad.landed Pad.setTally Pad.put
    rw [reach_same p beat a data.length]
  rw [Pad.tally, tallies]
  split
  next h => rw [h, getCell_putCell wf]
  next h => exact getCell_putCell_ne h

end

/-! ### An answer at the sender -/

/-- The list of SENDs that wait, without those that an answer to id ends. -/
def Seq.answered (q : Seq) (id : SendId) : Seq :=
  { q with outstanding := q.outstanding.filter fun i => !SendId.answers id i }

theorem State.takeAck_accepted (awaited : (s.drum d).seq.outstanding.any (SendId.answers id) = true) :
    s.takeAck d id true = s.modSeq d (·.answered id) := if_pos awaited

theorem State.takeAck_refused (awaited : (s.drum d).seq.outstanding.any (SendId.answers id) = true) :
    s.takeAck d id false = (s.modSeq d (·.answered id)).drumFault d 0x63 := if_pos awaited

/-- The fault of a running instruction, where the drum's record is free. -/
theorem State.drumFault_latches {r : RunId} {sub : Nat} (hd : d < s.drums.length) (run : (s.drum d).seq.run = some r)
    (wf : cellsWf FaultSet.reset s.faults = true) (free : (s.fault d).valid = false) :
    (s.drumFault d sub).noc = s.noc ∧
      ((s.drumFault d sub).drum d).seq = { (s.drum d).seq with stopped := true, waiting := none } ∧
      (s.drumFault d sub).latched d sub (some r.job) s.beat := by
  let t := (s.modSeq d fun q => { q with stopped := true, waiting := none }).markFaulted r.job r.task
  have fault : s.drumFault d sub = t.raiseWith ⟨d, BitVec.ofNat 8 sub, some r.job, some r, false⟩ := by
    rw [State.drumFault, run]
    rfl
  have raised := t.raiseWith_eq (r := ⟨d, BitVec.ofNat 8 sub, some r.job, some r, false⟩) free wf
  have drum := s.drum_modSeq hd fun q => { q with stopped := true, waiting := none }
  refine ⟨?_, ?_, ?_⟩
  · rw [fault, raised]
    rfl
  · rw [fault, raised]
    exact congrArg Drum.seq drum
  · rw [fault]
    exact t.raiseWith_latched free wf

/-! ### A packet lost on its way -/

theorem State.packetLost_latches {unit sub : Nat} {j : Half} (wf : cellsWf FaultSet.reset s.faults = true)
    (free : (s.fault unit).valid = false) :
    (s.packetLost unit sub (some j)).noc = s.noc ∧ (s.packetLost unit sub (some j)).latched unit sub (some j) s.beat ∧
      (s.packetLost unit sub (some j)).job? j = none ∧
      ∀ e, ((s.packetLost unit sub (some j)).drum e).pad.mem = (s.drum e).pad.mem := by
  have raised := s.raiseWith_eq (r := ⟨unit, BitVec.ofNat 8 sub, some j, none, false⟩) free wf
  have latched := s.raiseWith_latched (sub := sub) (j := some j) (run := none) free wf
  have steady : State.Steady (s.raiseWith ⟨unit, BitVec.ofNat 8 sub, some j, none, false⟩)
      (s.packetLost unit sub (some j)) := State.Steady.abortJob (.refl _)
  refine ⟨?_, latched.steady steady, State.abortJob_gone _ j s.beat, fun e => ?_⟩
  · obtain ⟨-, -, noc, -⟩ := steady
    rw [noc, raised]
  · obtain ⟨-, -, -, -, drums⟩ := steady
    obtain ⟨mem, -, -⟩ := drums e
    rw [mem, raised]
    rfl

end
end Sys2Proof.Machine
end

section
namespace Sys2Proof.Machine

set_option Elab.async false

/-! ### The statement -/

section
variable {s : State} {d src : Nat} {k : Packet} {rest : List Packet}

theorem State.Kept.faults_wf (h : s.Kept) : cellsWf FaultSet.reset s.faults = true := by
  obtain ⟨-, -, -, -, -, -, -, -, faults, -⟩ := State.kept_iff.1 h
  exact faults

/-- The effect of a SEND that lands, as the statement has it. -/
theorem State.Kept.landSend_effect {id : SendId} {dst tally : Nat} {data : List Byte} {m : Slot} (h : s.Kept) (hd : d < 136)
    (here : k.from_ = s.pcie.coord) (room : (s.drum d).pad.tally (m.tbase + tally) ≠ 0xFFFFFFFF) :
    ∃ t, State.landSend { s with noc := rest } d k m id dst tally data = t ∧ OnlyDrumNoc d s t ∧
      t.noc = rest ++ [s.answerOf d k id true] ∧
      (∀ i, i < data.length → getByte (t.drum d).pad.mem (m.start + dst + i) = (data[i]?).getD 0) ∧
      (∀ a, a < m.start + dst ∨ m.start + dst + data.length ≤ a →
        getByte (t.drum d).pad.mem a = getByte (s.drum d).pad.mem a) ∧
      (∀ i, (t.drum d).pad.tally i =
        if i = m.tbase + tally then (s.drum d).pad.tally i + 1 else (s.drum d).pad.tally i) ∧
      t.drum d = { s.drum d with pad := (t.drum d).pad } ∧
      SamePad { (s.drum d).pad with
        mem := (t.drum d).pad.mem, tallies := (t.drum d).pad.tallies, failed := (t.drum d).pad.failed } (t.drum d).pad := by
  have hl := h.drum_lt hd
  obtain ⟨⟨mem, tallies, -⟩, -⟩ := h.drum d
  refine ⟨_, State.landSend_here hl here room, s.onlyDrumNoc_padNoc d _ _, rfl, ?_⟩
  rw [State.drum_padNoc hl]
  refine ⟨fun i hi => ?_, fun a ha => ?_, fun i => Pad.landed_tally _ _ _ _ tallies i, rfl, Pad.landed_same ..⟩
  · rw [Pad.landed_mem]
    exact getByte_putBytes _ mem hi
  · rw [Pad.landed_mem]
    exact getByte_putBytes_out _ ha

theorem State.Kept.packetLost_effect {unit sub : Nat} {j : Half} (h : s.Kept) (free : (s.fault unit).valid = false)
    {net : NocVerdict}
    (lost : exec (.sendArrival d src net) s = .next (State.packetLost { s with noc := rest } unit sub (some j))) :
    ∃ t, exec (.sendArrival d src net) s = .next t ∧ t.noc = rest ∧ t.latched unit sub (some j) s.beat ∧ t.job? j = none ∧
      ∀ e, (t.drum e).pad.mem = (s.drum e).pad.mem :=
  ⟨_, lost, State.packetLost_latches (s := { s with noc := rest }) h.faults_wf free⟩

end

/-- Settles O15: the packet leaves the NoC first, and what a SEND does is then a change of one pad and one answer, what an
answer does a change of the list of those awaited, and what a loss does a new record and the abort of a job. -/
theorem sendsArriveAndAreAnswered : Obligations.SendsArriveAndAreAnswered := by
  refine ⟨?_, ?_, ?_⟩
  · intro s d src k rest id dst tally data hd h full take body here x ack
    have hl := h.drum_lt hd
    have arrives := exec_sendArrival hd full take body
    refine ⟨fun m slot fits awake room => ?_, fun m slot fits asleep => ?_, fun m slot fits => ?_, fun slot leaves => ?_,
      fun slot leaves => ?_⟩
    · obtain ⟨t, lands, effect⟩ := h.landSend_effect (rest := rest) (id := id) (data := data) hd here room
      refine ⟨t, arrives.trans (congrArg _ ?_), effect⟩
      exact (State.takeSend_awake (s := { s with noc := rest }) slot fits awake).trans lands
    · refine ⟨s.padNoc d (·.holdBack s.beat (m.start + dst) data.length k) rest, arrives.trans (congrArg _ ?_),
        s.onlyDrumNoc_padNoc d _ _, rfl, ?_⟩
      · exact State.takeSend_asleep (s := { s with noc := rest }) slot fits asleep
      · rw [State.drum_padNoc hl]
        exact Pad.holdBack_eq ..
    · refine arrives.trans (congrArg _ ?_)
      exact (State.takeSend_unfit (s := { s with noc := rest }) slot fits).trans (State.acknowledge_here here false)
    · refine ⟨s.padNoc d (fun p => { p with discards := p.discards + 1 }) (rest ++ [ack true]),
        arrives.trans (congrArg _ ?_), s.onlyDrumNoc_padNoc d _ _, rfl, State.drum_padNoc hl _ _⟩
      exact (State.takeSend_discards (s := { s with noc := rest }) slot leaves).trans
        (State.acknowledge_modPad hl here _ true)
    · refine arrives.trans (congrArg _ ?_)
      exact (State.takeSend_refuses (s := { s with noc := rest }) slot leaves).trans (State.acknowledge_here here false)
  · intro s d src k rest id ok hd h full take body awaited x left
    have hl := h.drum_lt hd
    have arrives := exec_sendAckArrival hd full take body
    have drum := State.drum_modSeq { s with noc := rest } hl (·.answered id)
    refine ⟨fun good => ?_, fun r bad run free => ?_⟩
    · subst good
      refine ⟨_, arrives.trans (congrArg _ (State.takeAck_accepted (s := { s with noc := rest }) awaited)), rfl, ?_, drum⟩
      exact (onlyDrum_modDrum s d fun x => { x with seq := x.seq.answered id }).withNoc rest
    · subst bad
      have running : ((State.modSeq { s with noc := rest } d (·.answered id)).drum d).seq.run = some r := by
        rw [drum]
        exact run
      obtain ⟨noc, seq, latched⟩ :=
        State.drumFault_latches (sub := 0x63) (by rwa [State.modSeq_length]) running h.faults_wf free
      refine ⟨_, arrives.trans (congrArg _ (State.takeAck_refused (s := { s with noc := rest }) awaited)), noc, ?_, latched⟩
      rw [seq, drum]
      rfl
  · intro s d src k rest j hd h full take send job lost
    refine ⟨fun free => h.packetLost_effect free ?_, fun b hb free => h.packetLost_effect free ?_⟩
    · rw [← job]
      exact exec_sendArrival_badFlit hd full take send
    · rw [← job]
      exact exec_sendArrival_badBond hd full take send hb

end Sys2Proof.Machine
end

section
/-! Retirement and sound checks (O52). -/

namespace Sys2Proof.Machine

set_option Elab.async false

/-! ### HELD slots of a retired drum -/

/-- Slot k passes to PURGE where it is HELD. -/
def Pad.purgeIfHeld (p : Pad) (k : Nat) : Pad :=
  if ((p.slots[k]?).getD Slot.reset).state = .held then p.purge k else p

def Pad.purgeHeld (p : Pad) : Pad := (List.range 8).foldl Pad.purgeIfHeld p

section
variable {p : Pad} {i : Nat} {x : Slot}

theorem Pad.purgeIfHeld_slot (h : p.slots[i]? = some x) (k : Nat) :
    ∃ y, (p.purgeIfHeld k).slots[i]? = some y ∧ y.state = if i = k ∧ x.state = .held then .purge else x.state := by
  unfold Pad.purgeIfHeld
  by_cases hk : i = k
  · subst hk
    rw [h, Option.getD_some]
    split
    next held =>
      obtain ⟨hi, -⟩ := List.getElem?_eq_some_iff.1 h
      exact ⟨_, List.getElem?_set_self hi, by rw [if_pos ⟨rfl, held⟩]⟩
    next held => exact ⟨x, h, by rw [if_neg fun c => held c.2]⟩
  · refine ⟨x, ?_, by rw [if_neg fun c => hk c.1]⟩
    split
    · exact (List.getElem?_set_ne (Ne.symm hk)).trans h
    · exact h

theorem Pad.foldl_purgeIfHeld_slot (h : p.slots[i]? = some x) (l : List Nat) :
    ∃ y, (l.foldl Pad.purgeIfHeld p).slots[i]? = some y ∧
      y.state = if i ∈ l ∧ x.state = .held then .purge else x.state := by
  induction l generalizing p x with
  | nil => exact ⟨x, h, by simp⟩
  | cons k l ih =>
    obtain ⟨y, hy, state⟩ := Pad.purgeIfHeld_slot h k
    obtain ⟨z, hz, final⟩ := ih hy
    refine ⟨z, hz, ?_⟩
    rw [final, state]
    by_cases hk : i = k <;> by_cases held : x.state = .held <;> simp [hk, held]

theorem Pad.purgeHeld_slot (h : p.slots[i]? = some x) (hi : i < 8) (held : x.state = .held) :
    ∃ y, p.purgeHeld.slots[i]? = some y ∧ y.state = .purge := by
  obtain ⟨y, hy, state⟩ := Pad.foldl_purgeIfHeld_slot h (List.range 8)
  exact ⟨y, hy, by rw [state, if_pos ⟨List.mem_range.2 hi, held⟩]⟩

theorem Pad.purgeIfHeld_free (h : ∀ t ∈ p.slots, t.state ≠ .bound) (k : Nat) :
    ∀ t ∈ (p.purgeIfHeld k).slots, t.state ≠ .bound := by
  intro t ht
  unfold Pad.purgeIfHeld at ht
  split at ht
  · rcases List.mem_or_eq_of_mem_set ht with old | rfl
    · exact h t old
    · simp
  · exact h t ht

theorem Pad.purgeHeld_free (h : ∀ t ∈ p.slots, t.state ≠ .bound) : ∀ t ∈ p.purgeHeld.slots, t.state ≠ .bound :=
  List.foldlRecOn (motive := fun q : Pad => ∀ t ∈ q.slots, t.state ≠ .bound) _ _ h
    fun _ hq k _ => Pad.purgeIfHeld_free hq k

end

/-! ### One drum's place in the map -/

theorem loop_once {σ : Type} {f : Nat → σ → σ} {s : σ} {d n : Nat} (before : ∀ p < n, p ≠ d → f p s = s)
    (after : ∀ p < n, p ≠ d → f p (f d s) = f d s) : loop f n s = if d < n then f d s else s := by
  induction n with
  | zero => simp [loop]
  | succ n ih =>
    have before' := before n (Nat.lt_succ_self n)
    have after' := after n (Nat.lt_succ_self n)
    rw [loop, ih (fun p hp => before p (Nat.lt_succ_of_lt hp)) fun p hp => after p (Nat.lt_succ_of_lt hp)]
    rcases Nat.lt_trichotomy d n with h | rfl | h
    · rw [if_pos h, if_pos (by omega), after' (by omega)]
    · rw [if_neg (Nat.lt_irrefl d), if_pos (Nat.lt_succ_self d)]
    · rw [if_neg (by omega), if_neg (by omega), before' (by omega)]


section
variable {s : State} {p d q : Nat}

theorem State.moveDrum_stays (h : ¬ ((s.drum p).status = .retired ∧ (s.drum p).logical ≠ 0xFF)) : s.moveDrum p = s :=
  if_neg fun ⟨retired, number, _⟩ => h ⟨retired, number⟩

/-- Drum q takes the place of drum p in the map. -/
def State.passTo (s : State) (p q : Nat) : State :=
  (s.modDrum q fun y => { y with
    logical := (s.drum p).logical, status := .active, liveHeld := (s.drum p).liveHeld
    pad := { y.pad with saveEn := s.met.mask.getLsbD (s.drum p).logical.toNat } }).modDrum p fun y =>
      { y with logical := 0xFF, liveHeld := none, pad := { y.pad with saveEn := false } }

theorem State.moveDrum_passes (retired : (s.drum p).status = .retired) (number : (s.drum p).logical ≠ 0xFF)
    (free : (s.drum p).hasJob = false) (spare : s.spareFor p = some q) : s.moveDrum p = s.passTo p q := by
  unfold State.moveDrum
  rw [if_pos ⟨retired, number, free⟩, spare]
  rfl

theorem State.mem_leaving : p ∈ s.leaving ↔ p < 136 ∧ (s.drum p).status = .retired ∧ (s.drum p).logical ≠ 0xFF := by
  simp [State.leaving]

theorem State.mem_spares : p ∈ s.spares ↔ p < 136 ∧ (s.drum p).status = .spare := by
  simp [State.spares]

theorem State.drum_passTo_from (hp : p < s.drums.length) (ne : p ≠ q) : (s.passTo p q).drum p = { s.drum p with
    logical := 0xFF, liveHeld := none, pad := { (s.drum p).pad with saveEn := false } } := by
  unfold State.passTo
  rw [State.drum_modDrum _ (by rwa [State.modDrum_length]), State.drum_modDrum_ne _ ne]

theorem State.drum_passTo_to (hq : q < s.drums.length) (ne : p ≠ q) : (s.passTo p q).drum q = { s.drum q with
    logical := (s.drum p).logical, status := .active, liveHeld := (s.drum p).liveHeld
    pad := { (s.drum q).pad with saveEn := s.met.mask.getLsbD (s.drum p).logical.toNat } } := by
  unfold State.passTo
  rw [State.drum_modDrum_ne _ ne.symm, State.drum_modDrum _ hq]

theorem State.drum_passTo_other {e : Nat} (hp : e ≠ p) (hq : e ≠ q) : (s.passTo p q).drum e = s.drum e := by
  unfold State.passTo
  rw [State.drum_modDrum_ne _ hp, State.drum_modDrum_ne _ hq]

/-- With drum d the only retired one that has its number, the map changes there alone. -/
theorem State.applyMap_passes (hd : d < 136) (hq : q < s.drums.length) (ne : d ≠ q)
    (only : ∀ p < 136, p ≠ d → ¬ ((s.drum p).status = .retired ∧ (s.drum p).logical ≠ 0xFF))
    (retired : (s.drum d).status = .retired) (number : (s.drum d).logical ≠ 0xFF) (free : (s.drum d).hasJob = false)
    (spare : s.spareFor d = some q) : s.applyMap = s.passTo d q := by
  have moved := State.moveDrum_passes retired number free spare
  have once := loop_once (f := fun p s => State.moveDrum s p) (s := s) (d := d) (n := 136)
    (fun p hp hne => State.moveDrum_stays (only p hp hne)) fun p hp hne => by
      refine State.moveDrum_stays ?_
      rw [moved]
      by_cases hpq : p = q
      · subst hpq
        rw [State.drum_passTo_to hq ne]
        simp
      · rw [State.drum_passTo_other hne hpq]
        exact only p hp hne
  rw [if_pos hd] at once
  exact once.trans moved

/-! ### The retirement of a drum without a job -/

/-- Drum d with STATE retired and its HELD slots lost. -/
def State.retiring (s : State) (d : Nat) : State :=
  (s.modDrum d fun y => { y with status := .retired }).modPad d Pad.purgeHeld

theorem State.drum_retiring (hd : d < s.drums.length) :
    (s.retiring d).drum d = { s.drum d with status := .retired, pad := (s.drum d).pad.purgeHeld } := by
  unfold State.retiring
  rw [State.drum_modPad _ (by rwa [State.modDrum_length]), State.drum_modDrum _ hd]

theorem State.drum_retiring_ne {e : Nat} (h : e ≠ d) : (s.retiring d).drum e = s.drum e := by
  unfold State.retiring
  rw [State.drum_modPad_ne _ h, State.drum_modDrum_ne _ h]

theorem State.spares_retiring (hd : d < s.drums.length) (active : (s.drum d).status = .active) :
    (s.retiring d).spares = s.spares := by
  unfold State.spares
  congr 1
  funext p
  by_cases hp : p = d
  · rw [hp, State.drum_retiring hd, active]
    rfl
  · rw [State.drum_retiring_ne hp]

theorem State.spareFor_congr {t : State} (h : t.spares = s.spares) : t.spareFor d = s.spareFor d := by
  rw [State.spareFor, h, State.spareFor]

/-- Only drum d leaves. -/
theorem State.leaving_retiring_length (none : s.leaving = []) : (s.retiring d).leaving.length ≤ 1 := by
  have only : (s.retiring d).leaving ⊆ [d] := by
    intro p hp
    by_contra ne
    rw [State.mem_leaving, State.drum_retiring_ne (by simpa using ne), ← State.mem_leaving, none] at hp
    exact List.not_mem_nil hp
  exact ((List.nodup_range.filter _).subperm only).length_le

/-- A drum without a job that has a spare is retired by a change of its place alone. -/
theorem State.retireDrum_passes (hd : d < 136) (kept : s.drums.length = 136) (active : (s.drum d).status = .active)
    (number : (s.drum d).logical ≠ 0xFF) (free : (s.drum d).hasJob = false) (none : s.leaving = [])
    (spare : s.spareFor d = some q) : s.retireDrum d = (s.retiring d).passTo d q := by
  obtain ⟨slots, saved⟩ := Bool.or_eq_false_iff.1 free
  have unbound : ∀ t ∈ (s.drum d).pad.slots, t.state ≠ .bound := by simpa using slots
  have drum := State.drum_retiring (s := s) (kept ▸ hd)
  have spares := State.spares_retiring (kept ▸ hd) active
  obtain ⟨hq, status⟩ := State.mem_spares.1 (State.mem_spares_of_spareFor spare)
  have jobs : (((s.drum d).pad.slots.filter fun t => t.state == .bound && !t.ending).map (·.job)).eraseDups = [] := by
    rw [List.filter_eq_nil_iff.2 fun t ht => by simp [unbound t ht]]
    rfl
  have enough : ¬ (s.retiring d).spares.length < (s.retiring d).leaving.length := by
    have := List.length_pos_of_mem (State.mem_spares_of_spareFor spare)
    have := State.leaving_retiring_length (d := d) none
    rw [spares]
    omega
  have unfolded : s.retireDrum d = (s.retiring d).applyMap := by
    unfold State.retireDrum
    rw [if_neg (by rw [active]; decide)]
    simp only [jobs, List.foldl_nil]
    exact congrArg State.applyMap (if_neg fun c => enough c.1)
  rw [unfolded]
  refine State.applyMap_passes hd (by rw [State.retiring]; simpa [kept] using hq) ?_ ?_ ?_ ?_ ?_ ?_
  · rintro rfl
    rw [active] at status
    cases status
  · intro p hp ne
    rw [State.drum_retiring_ne ne]
    intro leaves
    have there := State.mem_leaving.2 ⟨hp, leaves⟩
    rw [none] at there
    exact List.not_mem_nil there
  · rw [drum]
  · rw [drum]
    exact number
  · rw [drum, Drum.hasJob, saved, Bool.or_false]
    simpa using Pad.purgeHeld_free unbound
  · rw [State.spareFor_congr spares]
    exact spare

/-! ### The exposed drums -/

/-- Drums with a logical number. -/
def State.numbered (s : State) : List Nat := (List.range 136).filter fun p => (s.drum p).logical != 0xFF

theorem State.mem_numbered : p ∈ s.numbered ↔ p < 136 ∧ (s.drum p).logical ≠ 0xFF := by
  simp [State.numbered]

theorem State.exposed_of_none_leaving (none : s.leaving = []) : s.exposed = s.numbered.length := by
  rw [State.exposed, none]
  exact if_neg (Nat.not_lt_zero _)

/-- A number that passes from one drum to one without leaves as many drums with a number. -/
theorem State.numbered_length_of_swap {t : State} (hd : d < 136) (hq : q < 136)
    (others : ∀ e, e ≠ d → e ≠ q → (t.drum e).logical = (s.drum e).logical) (had : (s.drum d).logical ≠ 0xFF)
    (hadNot : (s.drum q).logical = 0xFF) (gone : (t.drum d).logical = 0xFF) (got : (t.drum q).logical ≠ 0xFF) :
    t.numbered.length = s.numbered.length := by
  have nodup (u : State) : u.numbered.Nodup := List.nodup_range.filter _
  have there : d ∈ s.numbered := State.mem_numbered.2 ⟨hd, had⟩
  have swap : t.numbered.Perm (q :: s.numbered.erase d) := by
    have fresh : q ∉ s.numbered.erase d := fun h => (State.mem_numbered.1 (List.mem_of_mem_erase h)).2 hadNot
    refine (List.perm_ext_iff_of_nodup (nodup t) (List.nodup_cons.2 ⟨fresh, (nodup s).erase d⟩)).2 fun e => ?_
    rw [List.mem_cons, (nodup s).mem_erase_iff, State.mem_numbered, State.mem_numbered]
    by_cases hed : e = d
    · subst hed
      have : e ≠ q := by
        rintro rfl
        exact had hadNot
      simp [gone, this]
    · by_cases heq : e = q
      · subst heq
        exact ⟨fun _ => .inl rfl, fun _ => ⟨hq, got⟩⟩
      · simp [hed, heq, others e hed heq]
  rw [swap.length_eq, List.length_cons, List.length_erase_of_mem there]
  exact Nat.succ_pred_eq_of_pos (List.length_pos_of_mem there)

theorem exec_drmRetire {v : Word} (hd : d < 136) (window : s.windowOpen d = true) :
    exec (.drmRetire d v) s = .next (if v.getLsbD 0 = true ∧ s.withdrawn d = false then s.retireDrum d else s) := by
  rw [show exec (.drmRetire d v) s = execDrmRetire d v s from rfl, execDrmRetire, if_pos hd, window]
  simp only [Bool.true_and, Bool.and_eq_true, Bool.not_eq_true']

theorem State.withdrawn_of_active (active : (s.drum d).status = .active) : s.withdrawn d = false := by
  rw [State.withdrawn, active]
  rfl

/-- The first part of O52. -/
theorem drmRetire_effect (v : Word) (hd : d < 136) (h : s.Kept) (window : s.windowOpen d = true) :
    (v.getLsbD 0 = false → exec (.drmRetire d v) s = .next s) ∧
    (∀ q, v.getLsbD 0 = true → (s.drum d).status = .active → (s.drum d).logical ≠ 0xFF → (s.drum d).hasJob = false →
      s.leaving = [] → s.spareFor d = some q →
      ∃ t, exec (.drmRetire d v) s = .next t ∧ (t.drum d).status = .retired ∧ (t.drum d).logical = 0xFF ∧
        (t.drum q).status = .active ∧ (t.drum q).logical = (s.drum d).logical ∧
        (t.drum q).pad.saveEn = s.met.mask.getLsbD (s.drum d).logical.toNat ∧ (∀ e, e ≠ d → e ≠ q → t.drum e = s.drum e) ∧
        ((s.drum q).logical = 0xFF → t.exposed = s.exposed) ∧
        (∀ (k : Nat) x, k < 8 → (s.drum d).pad.slots[k]? = some x → x.state = .held →
          ∃ y, (t.drum d).pad.slots[k]? = some y ∧ y.state = .purge) ∧ t.met = s.met ∧ t.faults = s.faults) := by
  obtain ⟨kept, -⟩ := h
  rw [exec_drmRetire hd window]
  refine ⟨fun zero => by rw [zero]; rfl, fun q go active number free none spare => ?_⟩
  rw [if_pos ⟨go, State.withdrawn_of_active active⟩, State.retireDrum_passes hd kept active number free none spare]
  obtain ⟨hq, status⟩ := State.mem_spares.1 (State.mem_spares_of_spareFor spare)
  have ne : d ≠ q := by
    rintro rfl
    rw [active] at status
    cases status
  have length : (s.retiring d).drums.length = 136 := by rw [State.retiring]; simpa using kept
  have old := State.drum_retiring (s := s) (kept ▸ hd)
  have from_d := State.drum_passTo_from (s := s.retiring d) (length ▸ hd) ne
  have to_q := State.drum_passTo_to (s := s.retiring d) (length ▸ hq) ne
  rw [old] at from_d
  rw [old, State.drum_retiring_ne ne.symm] at to_q
  have others (e : Nat) (hed : e ≠ d) (heq : e ≠ q) : ((s.retiring d).passTo d q).drum e = s.drum e := by
    rw [State.drum_passTo_other hed heq, State.drum_retiring_ne hed]
  refine ⟨_, rfl, ?_, ?_, ?_, ?_, ?_, others, fun unnumbered => ?_, fun k x hk hx held => ?_, rfl, rfl⟩
  · rw [from_d]
  · rw [from_d]
  · rw [to_q]
  · rw [to_q]
  · rw [to_q]
    rfl
  · have none' : ((s.retiring d).passTo d q).leaving = [] := by
      rw [List.eq_nil_iff_forall_not_mem]
      intro e he
      obtain ⟨he, retired, left⟩ := State.mem_leaving.1 he
      by_cases hed : e = d
      · rw [hed, from_d] at left
        exact left rfl
      · by_cases heq : e = q
        · rw [heq, to_q] at retired
          cases retired
        · rw [others e hed heq] at retired left
          have there := State.mem_leaving.2 ⟨he, retired, left⟩
          rw [none] at there
          exact List.not_mem_nil there
    rw [State.exposed_of_none_leaving none', State.exposed_of_none_leaving none]
    refine State.numbered_length_of_swap hd hq (fun e hed heq => by rw [others e hed heq]) number unnumbered ?_ ?_
    · rw [from_d]
    · rw [to_q]
      exact number
  · have slots : (((s.retiring d).passTo d q).drum d).pad.slots = (s.drum d).pad.purgeHeld.slots := by rw [from_d]
    rw [slots]
    exact Pad.purgeHeld_slot hx hk held

end
end Sys2Proof.Machine
end

section
/-! Sound checks (O52): the check row, what a run compares, and the ac after a rerun that fails. -/

namespace Sys2Proof.Machine

set_option Elab.async false

section
variable {s : State} {d : Nat}

/-! ### The check row -/

theorem loop_putCell_wf (f : Nat → Word) : ∀ n, cellsWf 0#32 (loop (fun i c => putCell 0#32 c i (f i)) n []) = true
  | 0 => rfl
  | n + 1 => putCell_wf n (f n) (loop_putCell_wf f n)

theorem getCell_loop_putCell (f : Nat → Word) (i : Nat) : ∀ n, i < n →
    getCell 0#32 (loop (fun i c => putCell 0#32 c i (f i)) n []) i = f i
  | n + 1, h => by
    rw [loop]
    by_cases hi : i = n
    · rw [hi]
      exact getCell_putCell (loop_putCell_wf f n) n (f n)
    · rw [getCell_putCell_ne hi]
      exact getCell_loop_putCell f i n (by omega)

theorem Drum.checkRow_cell (x : Drum) (v : Nat) (l : List Flaw) {n : Nat} (h : n < 1024) :
    getCell 0#32 (x.checkRow v l).shell.check n = x.skin.checkValue v l n := by
  unfold Drum.checkRow
  dsimp only
  exact getCell_loop_putCell (fun i => x.skin.checkValue v l i) n 1024 h

/-! ### What a run compares -/

/-- A segment integer that is off fails its compare. -/
theorem Skin.checkPasses_segment (x : Skin) {w r n i : Nat} {off : Int} (hr : r < 8) (hn : n < checkCols w r)
    (hi : i < 1024 / checkGroup w r) (h : off ≠ 0) : x.checkPasses w [.segment r n i off] = false := by
  have struck : x.struck = x.foretold := by
    funext pat j u c
    exact x.struck_eq pat j u c
  have differs : x.checkInt w [.segment r n i off] r n i ≠ segmentInt x.foretold w r n i := by
    simp [Skin.checkInt, flawInt, struck, h]
  by_contra passes
  obtain ⟨ints, -⟩ := Bool.and_eq_true_iff.1 (Bool.of_not_eq_false passes)
  simp only [List.all_eq_true, List.mem_range, beq_iff_eq] at ints
  exact differs (ints r hr n hn i hi)

/-! ### A check at its beat -/

/-- A check of variant v whose run passes (p), or whose rerun does (q); l are the flaws of the last of the two. -/
def Drum.struck (x : Drum) (v : BitVec 2) (p q : Bool) (l : List Flaw) : Drum :=
  { x.checkRow v.toNat l with
    sound := { x.sound with variant := v, runs := x.sound.runs + 1
                            reruns := if !p && q then x.sound.reruns + 1 else x.sound.reruns, again := !p } }

/-- What a check that has passed or failed notes. -/
def Sound.concluded (x : Sound) (beat : Dword) (passed : Bool) : Sound :=
  if passed then x.pass beat else { x with failIn := 512 }

/-- The whole check. -/
def Drum.checks (x : Drum) (beat : Dword) (v : BitVec 2) (p q : Bool) (l : List Flaw) : Drum :=
  { x.struck v p q l with sound := (x.struck v p q l).sound.concluded beat (p || q) }

theorem exec_soundCheck_idle (hd : d < 136) (h : s.beat.toNat % 80000 ≠ 588 * d) (a b : List Flaw) :
    exec (.soundCheck d a b) s = .next s := by
  have due : soundDue d s.beat = false := decide_eq_false h
  rw [show exec (.soundCheck d a b) s = execSoundCheck d a b s from rfl, execSoundCheck, if_neg (by omega),
    if_pos (.inr (.inl due))]

theorem exec_soundCheck_due (hd : d < 136) (hl : d < s.drums.length) (h : s.beat.toNat % 80000 = 588 * d)
    (inUse : (s.drum d).status ≠ .retired) (clock : s.power.locked = true) {a b : List Flaw} {p q : Bool}
    (hp : (s.drum d).skin.checkPasses (soundVariant d s.beat).toNat a = p)
    (hq : (s.drum d).skin.checkPasses (soundVariant d s.beat).toNat b = q) :
    exec (.soundCheck d a b) s =
      .next (s.modDrum d fun x => x.checks s.beat (soundVariant d s.beat) p q (if p then a else b)) := by
  have due : soundDue d s.beat = true := decide_eq_true h
  have twice := State.modDrum_modDrum hl (fun x => x.struck (soundVariant d s.beat) p q (if p then a else b))
    fun x => { x with sound := x.sound.concluded s.beat (p || q) }
  refine .trans ?_ (congrArg Host.Outcome.next twice)
  rw [show exec (.soundCheck d a b) s = execSoundCheck d a b s from rfl, execSoundCheck, if_neg (by omega),
    if_neg (by simp [inUse, due, clock])]
  simp only [hp, hq]
  refine congrArg Host.Outcome.next ?_
  cases p || q
  · rfl
  · rfl

theorem soundVariant_toNat (h : s.beat.toNat % 80000 = 588 * d) :
    (soundVariant d s.beat).toNat = s.beat.toNat / 80000 % 4 := by
  rw [soundVariant, BitVec.toNat_ofNat]
  omega

/-! ### The ac after a rerun that fails -/

theorem foldl_fixed_of_mem {σ α : Type} {f : σ → α → σ} {s : σ} {l : List α} (h : ∀ a ∈ l, f s a = s) : l.foldl f s = s :=
  List.foldlRecOn (motive := fun t => t = s) _ _ rfl fun _ ht a ha => ht ▸ h a ha

/-- A pass over a list that changes something at one place of it alone. -/
theorem foldl_once {σ α : Type} {f : σ → α → σ} {s : σ} {d : α} {l : List α} (hd : d ∈ l) (nodup : l.Nodup)
    (before : ∀ a ∈ l, a ≠ d → f s a = s) (after : ∀ a ∈ l, a ≠ d → f (f s d) a = f s d) : l.foldl f s = f s d := by
  obtain ⟨l₁, l₂, rfl⟩ := List.append_of_mem hd
  have apart : d ∉ l₁ ++ l₂ := (List.nodup_cons.1 (List.nodup_middle.1 nodup)).1
  have first : l₁.foldl f s = s := foldl_fixed_of_mem fun a ha =>
    before a (List.mem_append_left _ ha) fun e => apart (e ▸ List.mem_append_left _ ha)
  have last : l₂.foldl f (f s d) = f s d := foldl_fixed_of_mem fun a ha =>
    after a (List.mem_append_right _ (List.mem_cons_of_mem _ ha)) fun e => apart (e ▸ List.mem_append_right _ ha)
  rw [List.foldl_append, first, List.foldl_cons, last]

/-- What an ac does to a check of drum d that has failed twice. -/
def State.soundStep (s : State) (d : Nat) : State :=
  match (s.drum d).sound.failIn with
  | 0 => s
  | 1 => s.soundFail d
  | n + 1 => s.modDrum d fun x => { x with sound := { x.sound with failIn := n } }

theorem State.soundTick_eq (s : State) : s.soundTick = (List.range 136).foldl State.soundStep s := rfl

theorem State.soundStep_none (h : (s.drum d).sound.failIn = 0) : s.soundStep d = s := by
  rw [State.soundStep, h]

theorem State.soundStep_counts {n : Nat} (h : (s.drum d).sound.failIn = n + 2) :
    s.soundStep d = s.modDrum d fun x => { x with sound := { x.sound with failIn := n + 1 } } := by
  rw [State.soundStep, h]
  rfl

theorem State.soundStep_fails (h : (s.drum d).sound.failIn = 1) : s.soundStep d = s.soundFail d := by
  rw [State.soundStep, h]
  rfl

/-- With one check failing and every other drum's none after its step, the ac is that step. -/
theorem State.soundTick_once (hd : d < 136) (none : ∀ e, e ≠ d → (s.drum e).sound.failIn = 0)
    (kept : ∀ e, e ≠ d → ((s.soundStep d).drum e).sound = (s.drum e).sound) : s.soundTick = s.soundStep d :=
  (State.soundTick_eq s).trans (foldl_once (f := State.soundStep) (List.mem_range.2 hd) List.nodup_range
    (fun e _ he => State.soundStep_none (none e he))
    fun e _ he => State.soundStep_none (by rw [kept e he]; exact none e he))

theorem State.retireDrum_effect (hd : d < s.drums.length) :
    ((s.retireDrum d).drum d).status = .retired ∧ (∀ e, ((s.retireDrum d).drum e).sound = (s.drum e).sound) ∧
      (s.retireDrum d).faults = s.faults := by
  by_cases retired : (s.drum d).status = .retired
  · have same : s.retireDrum d = s := if_pos retired
    rw [same]
    exact ⟨retired, fun _ => rfl, rfl⟩
  · obtain ⟨-, faults, -, -, drums⟩ := s.retireDrum_steady d retired
    refine ⟨?_, fun e => ?_, faults⟩
    · obtain ⟨-, -, status⟩ := drums d
      exact status (by rw [State.drum_modDrum _ hd])
    · obtain ⟨-, sound, -⟩ := drums e
      rw [sound]
      rcases s.drum_modDrum_eq_or d e fun y => { y with status := .retired } with he | ⟨-, he⟩
      · rw [he]
      · rw [he]

/-- A check that has failed twice: the fault stands and the drum is retired; the other drums' checks go on. -/
theorem State.soundFail_effect (hd : d < s.drums.length) (wf : cellsWf FaultSet.reset s.faults = true)
    (free : (s.fault d).valid = false) :
    ((s.soundFail d).drum d).status = .retired ∧
      ((s.soundFail d).drum d).sound = { (s.drum d).sound with fail := true, failIn := 0 } ∧
      (∀ e, e ≠ d → ((s.soundFail d).drum e).sound = (s.drum e).sound) ∧ (s.soundFail d).latched d 0x70 none s.beat := by
  unfold State.soundFail
  extract_lets x r t js
  have noted := s.drum_modDrum hd fun y => { y with sound := { y.sound with fail := true, failIn := 0 } }
  have raised : r = _ := State.raiseWith_eq
    (s.modDrum d fun y => { y with sound := { y.sound with fail := true, failIn := 0 } })
    (r := ⟨d, BitVec.ofNat 8 0x70, none, none, false⟩) free wf
  have latched : r.latched d 0x70 none s.beat := State.raiseWith_latched
    (s.modDrum d fun y => { y with sound := { y.sound with fail := true, failIn := 0 } }) free wf
  have ended : r.Steady t := by
    unfold t
    split
    · exact State.Steady.endTask (State.Steady.modDrum (State.Steady.refl r).bankRun ⟨rfl, rfl, id⟩)
    · exact .refl r
  have steady : r.Steady (js.foldl (fun s j => s.abortOf j.1 j.2 s.beat) t) :=
    State.Steady.foldl (fun _ _ h => h.abortOf) ended
  have unharmed (e : Nat) : ((js.foldl (fun s j => s.abortOf j.1 j.2 s.beat) t).drum e).sound =
      ((s.modDrum d fun y => { y with sound := { y.sound with fail := true, failIn := 0 } }).drum e).sound := by
    obtain ⟨-, -, -, -, drums⟩ := steady
    obtain ⟨-, sound, -⟩ := drums e
    rw [sound, raised]
    rfl
  have latched := latched.steady steady
  obtain ⟨-, -, -, length, -⟩ := steady
  obtain ⟨retired, sound, faults⟩ :=
    State.retireDrum_effect (d := d) (s := js.foldl (fun s j => s.abortOf j.1 j.2 s.beat) t) (by
      rw [length, raised]
      simpa using hd)
  refine ⟨retired, ?_, fun e he => ?_, ?_⟩
  · rw [sound, unharmed, noted]
  · rw [sound, unharmed, State.drum_modDrum_ne _ he]
  · unfold State.latched State.fault at latched ⊢
    rw [faults]
    exact latched

end

/-! ### The statement -/

/-- What a check leaves of drum x. -/
theorem Drum.checks_effect (x : Drum) (beat : Dword) (v : BitVec 2) (p q : Bool) (l : List Flaw) :
    (x.checks beat v p q l).sound.runs = x.sound.runs + 1 ∧
    (x.checks beat v p q l).sound.reruns = (if p = false ∧ q = true then x.sound.reruns + 1 else x.sound.reruns) ∧
    (x.checks beat v p q l).sound.variant = v ∧ (x.checks beat v p q l).status = x.status ∧
    (x.checks beat v p q l).skin = x.skin ∧ (x.checks beat v p q l).pad = x.pad ∧
    (x.checks beat v p q l).shell = { x.shell with check := (x.checks beat v p q l).shell.check } ∧
    (p = true ∨ q = true → (x.checks beat v p q l).sound.lastPass = beat ∧
      (x.checks beat v p q l).sound.failIn = x.sound.failIn) ∧
    (p = false → q = false → (x.checks beat v p q l).sound.failIn = 512 ∧
      (x.checks beat v p q l).sound.lastPass = x.sound.lastPass) := by
  cases p <;> cases q <;> simp [Drum.checks, Drum.struck, Drum.checkRow, Sound.concluded, Sound.pass]

theorem Drum.checks_cell (x : Drum) (beat : Dword) (v : BitVec 2) (p q : Bool) (l : List Flaw) {n : Nat} (h : n < 1024) :
    getCell 0#32 (x.checks beat v p q l).shell.check n = x.skin.checkValue v.toNat l n := by
  unfold Drum.checks Drum.struck
  dsimp only
  exact x.checkRow_cell v.toNat l h

/-- Settles O52: a retirement without a job is a swap of two drums' places in the map, a check a change of one drum, and the
ac after a rerun that fails the fault, aborts and retirement of that drum, which leave the other drums' checks alone. -/
theorem soundChecksAndRetirement : Obligations.SoundChecksAndRetirement := by
  refine ⟨fun s d v hd h window => drmRetire_effect v hd h window, ?_⟩
  intro s d hd h inUse clock x k v
  have hl := h.drum_lt hd
  refine ⟨fun early a b => exec_soundCheck_idle hd early a b, fun due a b => ?_, fun w => ⟨k.checkPasses_nil w, ?_⟩,
    fun none => ⟨fun n counts => ?_, fun fails free => ?_⟩⟩
  · intro p q
    have variant : (soundVariant d s.beat).toNat = v := soundVariant_toNat due
    have drum := s.drum_modDrum hl fun x => x.checks s.beat (soundVariant d s.beat) p q (if p then a else b)
    obtain ⟨runs, reruns, isVariant, status, skin, pad, shell, passed, failed⟩ :=
      (s.drum d).checks_effect s.beat (soundVariant d s.beat) p q (if p then a else b)
    refine ⟨_, exec_soundCheck_due (p := p) (q := q) hd hl due inUse clock (by rw [variant]) (by rw [variant]), ?_⟩
    rw [drum]
    refine ⟨runs, reruns, ?_, status, skin, pad, shell, fun n hn => ?_, rfl, rfl, passed, failed⟩
    · rw [isVariant, variant]
    · rw [← variant]
      exact Drum.checks_cell _ _ _ _ _ _ hn
  · intro r n i off hr hn hi ho
    exact k.checkPasses_segment hr hn hi ho
  · have step := State.soundStep_counts counts
    refine (State.soundTick_once hd none fun e he => ?_).trans step
    rw [step, State.drum_modDrum_ne _ he]
  · have step := State.soundStep_fails fails
    obtain ⟨retired, sound, others, latched⟩ := State.soundFail_effect hl h.faults_wf free
    rw [State.soundTick_once hd none fun e he => by rw [step, others e he], step, sound]
    exact ⟨retired, rfl, rfl, latched⟩

end Sys2Proof.Machine
end

section
/-! A segment's sum of products stays within the 24 bits of its accumulator (R45, R61, R63). -/

namespace Sys2Proof.Machine

set_option Elab.async false

/-! ### Sizes of codes, activations and weights -/

/-- A number read from p bits in two's complement. -/
theorem signedBits_bounds {p : Nat} (hp : 1 ≤ p) (v : Nat) :
    -(2 ^ (p - 1) : Nat) ≤ signedBits p v ∧ signedBits p v < (2 ^ (p - 1) : Nat) := by
  obtain ⟨q, rfl⟩ : ∃ q, p = q + 1 := ⟨p - 1, by omega⟩
  have small : v % 2 ^ (q + 1) < 2 ^ (q + 1) := Nat.mod_lt _ (by positivity)
  have double : 2 ^ (q + 1) = 2 * 2 ^ q := by rw [pow_succ, Nat.mul_comm]
  unfold signedBits
  rw [Nat.add_sub_cancel]
  split <;> omega

/-- Digits 0 and 1 of weights 2^0 to 2^(n - 1) make a number below 2^n. -/
theorem foldl_digits_lt {b : Nat → Nat} (hb : ∀ i, b i < 2) (n : Nat) :
    (List.range n).foldl (fun c i => c + 2 ^ i * b i) 0 < 2 ^ n := by
  induction n with
  | zero => exact Nat.one_pos
  | succ n ih =>
    rw [List.range_succ, List.foldl_append, List.foldl_cons, List.foldl_nil, pow_succ]
    have top : 2 ^ n * b n ≤ 2 ^ n * 1 := Nat.mul_le_mul_left _ (Nat.le_of_lt_succ (hb n))
    omega

/-- An activation of at most eight planes lies in [-128, 255]. -/
theorem activation_natAbs_le {sg : Bool} {planes : List Nat} (h1 : 1 ≤ planes.length) (h8 : planes.length ≤ 8) (k : Nat) :
    (activation sg planes k).natAbs ≤ 255 := by
  have code := foldl_digits_lt (b := fun i => fld ((planes[i]?).getD 0) k 1) (fun i => Nat.mod_lt _ Nat.two_pos) planes.length
  have width : 2 ^ planes.length ≤ 2 ^ 8 := Nat.pow_le_pow_right Nat.two_pos h8
  have half : 2 ^ (planes.length - 1) ≤ 2 ^ 7 := Nat.pow_le_pow_right Nat.two_pos (by omega)
  unfold activation
  dsimp only
  split
  · have := signedBits_bounds h1
      ((List.range planes.length).foldl (fun c i => c + 2 ^ i * fld ((planes[i]?).getD 0) k 1) 0)
    omega
  · omega

theorem planesOf_bounds (f : BitVec 3) : 1 ≤ planesOf f ∧ planesOf f ≤ 4 := by
  unfold planesOf
  split <;> decide

theorem cellAt_lt (c : Cells (BitVec 4)) (k n : Nat) : cellAt c k n < 16 := (getCell 0#4 c (k * 1024 + n)).isLt

/-- A weight of any format lies in [-128, 127]. -/
theorem weightAt_natAbs_le (c : Cells (BitVec 4)) (f : BitVec 3) (k n : Nat) : (weightAt c f k n).natAbs ≤ 128 := by
  obtain ⟨planes_pos, planes_le⟩ := planesOf_bounds f
  have low := cellAt_lt c k (2 * n)
  have high := signedBits_bounds (p := 4) (by decide) (cellAt c k (2 * n + 1))
  have native := signedBits_bounds planes_pos (cellAt c k n)
  have half : 2 ^ (planesOf f - 1) ≤ 2 ^ 3 := Nat.pow_le_pow_right Nat.two_pos (by omega)
  unfold weightAt
  split
  · omega
  · split <;> omega

/-! ### The sum -/

theorem foldl_add_natAbs_le {f : Nat → Int} {b : Nat} (hf : ∀ j, (f j).natAbs ≤ b) (n : Nat) :
    ((List.range n).foldl (fun a j => a + f j) 0).natAbs ≤ n * b := by
  induction n with
  | zero => simp
  | succ n ih =>
    rw [List.range_succ, List.foldl_append, List.foldl_cons, List.foldl_nil, Nat.succ_mul]
    have := hf n
    omega

theorem Step.g_le {t : Step} (h : t.badOperands = false) : t.g ≤ 128 := by
  have legal : t.group ≠ 3 := by
    intro e
    simp [Step.badOperands, e] at h
  have exponent : t.group.toNat ≤ 2 := by
    have := t.group.isLt
    have : t.group.toNat ≠ 3 := fun e => legal (BitVec.eq_of_toNat_eq e)
    omega
  have := Nat.pow_le_pow_right Nat.two_pos exponent
  unfold Step.g groupSize
  omega

/-- |S(m, n, s)| is at most 128 * 255 * 128 (R63). -/
theorem segSum_natAbs_le (x : Drum) {t : Step} {planes : List Nat} (h : t.badOperands = false) (h1 : 1 ≤ planes.length)
    (h8 : planes.length ≤ 8) (n i : Nat) : (segSum x t planes n i).natAbs ≤ 128 * (255 * 128) := by
  have product (j : Nat) : (activation t.sgn planes (i * t.g + j) * weightAt x.skin.cells t.wfmt (i * t.g + j) n).natAbs
      ≤ 255 * 128 := by
    rw [Int.natAbs_mul]
    exact Nat.mul_le_mul (activation_natAbs_le h1 h8 _) (weightAt_natAbs_le ..)
  have rows : min t.g (t.k - i * t.g) ≤ 128 := (Nat.min_le_left ..).trans (Step.g_le h)
  exact (foldl_add_natAbs_le product _).trans (Nat.mul_le_mul_right _ rows)

/-- Settles O11, from the sizes of an activation, a weight and a group. -/
theorem segmentSumFitsAccumulator : Obligations.SegmentSumFitsAccumulator := by
  intro x t planes n i legal length pos le
  have bound := segSum_natAbs_le x legal (length ▸ pos) (length ▸ le) n i
  exact BitVec.toInt_ofInt_eq_self (by decide) (by omega) (by omega)

end Sys2Proof.Machine
end

section
/-! The units of a drum at rest, and what each of them does when only the skin has work (R150). -/

namespace Sys2Proof.Machine

set_option Elab.async false

/-- No unit beside the skin goes on: each queue is empty, but for TUNEs that stand behind a shared reduction. -/
def Drum.othersRest (x : Drum) : Prop :=
  x.queues.roll = [] ∧ x.queues.pad = [] ∧ x.queues.noc = [] ∧ (x.queues.tuner = [] ∨ x.tuner.share.isSome = true) ∧
  x.roll.cur = none ∧ x.tuner.cur = none

theorem Drum.othersRest_of_empty {x : Drum} (queues : x.queues = ⟨[], [], [], []⟩) (roll : x.roll.cur = none)
    (tuner : x.tuner.cur = none) : x.othersRest := by
  unfold Drum.othersRest
  rw [queues]
  exact ⟨rfl, rfl, rfl, .inl rfl, roll, tuner⟩

theorem Drum.othersRest.congr {x y : Drum} (h : x.othersRest) (queues : y.queues = x.queues) (roll : y.roll.cur = x.roll.cur)
    (tuner : y.tuner = x.tuner) : y.othersRest := by
  unfold Drum.othersRest
  rw [queues, roll, tuner]
  exact h

theorem Drum.unitsRest.others {x : Drum} (h : x.unitsRest) : x.othersRest := by
  obtain ⟨-, -, -, queues, roll, tuner⟩ := h
  exact Drum.othersRest_of_empty queues roll tuner

section
variable {s : State} {d : Nat}

theorem Drum.front_nil {x : Drum} {u : UnitId} {held : UnitJob → Bool} (h : x.queues.get u = []) : x.front u held = none := by
  unfold Drum.front
  rw [h]
  exact ite_self none

theorem Drum.front_held {x : Drum} {u : UnitId} {held : UnitJob → Bool} (h : ∀ j, held j = true) : x.front u held = none := by
  unfold Drum.front
  split
  · rfl
  · split
    · rfl
    · exact if_pos (h _)

/-- A shared TUNE holds every TUNE behind it. -/
theorem State.tunerStep_none (h : (s.drum d).othersRest) : s.tunerStep d = none := by
  obtain ⟨-, -, -, waits, -, idle⟩ := h
  have front : (s.drum d).front .tuner (s.drum d).tuneHeld = none := by
    rcases waits with empty | shared
    · exact Drum.front_nil empty
    · exact Drum.front_held fun j => by simp [Drum.tuneHeld, shared]
  simp only [State.tunerStep, idle, front, Option.map_none]

theorem State.rollStep_none (h : (s.drum d).othersRest) : s.rollStep d = none := by
  obtain ⟨queue, -, -, -, idle, -⟩ := h
  simp only [State.rollStep, idle]
  rw [Drum.front_nil (u := .roll) queue, Option.map_none]

theorem State.padStep_none (h : (s.drum d).othersRest) : s.padStep d = none := by
  obtain ⟨-, queue, -⟩ := h
  rw [State.padStep, Drum.front_nil (u := .pad) queue, Option.map_none]

theorem State.nocStep_none (h : (s.drum d).othersRest) : s.nocStep d = none := by
  obtain ⟨-, -, queue, -⟩ := h
  rw [State.nocStep, Drum.front_nil (u := .noc) queue, Option.map_none]

theorem State.unitStep_eq_skinStep (h : (s.drum d).othersRest) : s.unitStep d = s.skinStep d := by
  rw [State.unitStep, State.tunerStep_none h, State.rollStep_none h, State.padStep_none h, State.nocStep_none h]
  cases s.skinStep d <;> rfl

/-! ### What the skin does next -/

/-- No step begins on a skin without jobs, nor during a load. -/
theorem State.skinStep_none (cur : (s.drum d).skin.cur = none)
    (h : (s.drum d).skin.jobs = [] ∨ (s.drum d).skin.load.isSome = true) : s.skinStep d = none := by
  unfold State.skinStep
  simp only [cur]
  rcases h with jobs | load
  · rw [jobs]
    exact ite_self none
  · rw [load, Bool.true_or, if_pos rfl]

theorem State.skinStep_feeds {t : Step} (cur : (s.drum d).skin.cur = some t) :
    s.skinStep d = if (s.drum d).skin.laneQ.length < 4 then some (s.feed d t) else none := by
  simp only [State.skinStep, cur]

/-! ### Units that all wait -/

theorem unitsGo_of_none (h : s.unitStep d = none) : ∀ n, unitsGo d n s = s
  | 0 => rfl
  | n + 1 => by simp only [unitsGo, h]

theorem unitsGo_of_some {t : State} (h : s.unitStep d = some t) (n : Nat) : unitsGo d (n + 1) s = unitsGo d n t := by
  simp only [unitsGo, h]

theorem unitsGo_idle (others : (s.drum d).othersRest) (cur : (s.drum d).skin.cur = none)
    (h : (s.drum d).skin.jobs = [] ∨ (s.drum d).skin.load.isSome = true) (n : Nat) : unitsGo d n s = s :=
  unitsGo_of_none ((State.unitStep_eq_skinStep others).trans (State.skinStep_none cur h)) n

theorem State.unitsRun_rest (h : (s.drum d).unitsRest) : s.unitsRun d = s := by
  have others := h.others
  obtain ⟨jobs, -, cur, -⟩ := h
  exact unitsGo_idle others cur (.inl jobs) _

end

end Sys2Proof.Machine
end

section
/-! A row of the lane queues enters its shell row (R64, R65, R118). -/

namespace Sys2Proof.Machine

set_option Elab.async false

/-! ### Columns of a shell row -/

/-- Writes values at some columns of a row. -/
def Shell.putCols (h : Shell) (row : Nat) (l : List Nat) (f : Nat → Word) : Shell :=
  l.foldl (fun h n => h.put row n (f n)) h

theorem Shell.shellAt_put {h : Shell} (wf : cellsWf 0#32 h.rows = true) {row a i n : Nat} (ha : a < 1024) (hn : n < 1024)
    (v : Word) : shellAt (h.put row a v) i n = if i = row ∧ n = a then v else shellAt h i n := by
  unfold shellAt Shell.put
  split
  · next same =>
    obtain ⟨rfl, rfl⟩ := same
    exact getCell_putCell wf _ v
  · exact getCell_putCell_ne (by omega)

theorem Shell.shellAt_putCols {row i n : Nat} {f : Nat → Word} (hn : n < 1024) : ∀ {l : List Nat} {h : Shell},
    cellsWf 0#32 h.rows = true → (∀ a ∈ l, a < 1024) →
    shellAt (h.putCols row l f) i n = if i = row ∧ n ∈ l then f n else shellAt h i n
  | [], h, _, _ => by simp [Shell.putCols]
  | a :: l, h, wf, small => by
    have rest : shellAt (h.putCols row (a :: l) f) i n =
        if i = row ∧ n ∈ l then f n else shellAt (h.put row a (f a)) i n :=
      Shell.shellAt_putCols hn (putCell_wf _ _ wf) fun b hb => small b (List.mem_cons_of_mem a hb)
    rw [rest, Shell.shellAt_put wf (small a List.mem_cons_self) hn]
    by_cases later : i = row ∧ n ∈ l
    · simp [later]
    · by_cases now : i = row ∧ n = a
      · obtain ⟨rfl, rfl⟩ := now
        simp
      · have neither : ¬(i = row ∧ n ∈ a :: l) := by
          rw [List.mem_cons]
          tauto
        rw [if_neg later, if_neg now, if_neg neither]

/-- Columns leave all of a shell but its rows. -/
theorem Shell.putCols_eq {row : Nat} {f : Nat → Word} : ∀ (l : List Nat) (h : Shell),
    h.putCols row l f = { h with rows := (h.putCols row l f).rows }
  | [], _ => rfl
  | a :: l, h => by
    have rest := Shell.putCols_eq l (h.put row a (f a)) (row := row) (f := f)
    exact rest

theorem Shell.putRow_eq_putCols {row : Nat} {f : Nat → Word} : ∀ (k c : Nat) (h : Shell),
    h.putRow row c ((List.range' c k).map f) = h.putCols row (List.range' c k) f
  | 0, _, _ => rfl
  | k + 1, c, h => by
    rw [List.range'_succ, List.map_cons, Shell.putRow, Shell.putRow_eq_putCols k (c + 1)]
    rfl

theorem Shell.foldl_put_zip (h : Shell) (row : Nat) (l : List Nat) (f : Nat → Word) :
    (l.zip (l.map f)).foldl (fun h p => h.put row p.1 p.2) h = h.putCols row l f := by
  have pairs : l.zip (l.map f) = l.map fun n => (n, f n) := by
    simpa only [List.map_id, id] using List.zip_map' (f := id) (g := f) (l := l)
  rw [pairs, List.foldl_map]
  rfl

/-! ### The row taken -/

/-- Does the lane of column n strike the row? -/
def SkinRow.strikes (r : SkinRow) (n : Nat) : Bool := r.mask.getLsbD (laneOf r.step.wfmt n)

/-- Column n of a row, its segments from i0 on added to a start. -/
def SkinRow.sum (r : SkinRow) (x : Drum) (i0 : Nat) (start : Word) (n : Nat) : Word :=
  addSegs (x.desc r.step.rd).sr x.shell.seed x.logical.toNat (r.step.kt (x.desc r.step.rd)) r.m n (r.value x n) i0 r.step.segs
    start

/-- The shell row that a row enters. -/
def SkinRow.row (r : SkinRow) : Nat := r.step.row0 + r.m

/-- The columns that a row writes: below N, and in chain mode of the lanes that strike only. -/
def SkinRow.cols (r : SkinRow) : List Nat :=
  if r.step.bell then List.range r.step.n else (List.range r.step.n).filter r.strikes

/-- What the row leaves in column n (R65, R118, R119). -/
def SkinRow.column (r : SkinRow) (x : Drum) (n : Nat) : Word :=
  if r.step.bell then if r.strikes n then r.sum x 1 (r.value x n 0) n else 0#32
  else if r.step.acc = 0 then r.sum x 1 (r.value x n 0) n
  else r.sum x 0 (shellAt x.shell r.row n) n

/-- From shell h to shell k some columns of one row are written, with the row's status. -/
def ColsWritten (row : Nat) (l : List Nat) (f : Nat → Word) (h k : Shell) : Prop :=
  k.rows = (h.putCols row l f).rows ∧ (∀ i, i ≠ row → k.tstatus i = h.tstatus i) ∧ k.leaves = h.leaves

theorem SkinRow.column_bell {r : SkinRow} (bell : r.step.bell = true) (x : Drum) :
    r.column x = fun n => if r.strikes n then r.sum x 1 (r.value x n 0) n else 0#32 := by
  funext n
  rw [SkinRow.column, if_pos bell]

theorem SkinRow.column_chain {r : SkinRow} (bell : r.step.bell = false) (x : Drum) :
    r.column x = fun n => r.sum x (if r.step.acc == 0 then 1 else 0)
      (if r.step.acc == 0 then r.value x n 0 else shellAt x.shell r.row n) n := by
  funext n
  rw [SkinRow.column, if_neg (by simp [bell])]
  by_cases first : r.step.acc = 0
  · simp only [first, if_true, beq_self_eq_true]
  · simp only [beq_eq_false_iff_ne.2 first, if_neg first, Bool.false_eq_true, if_false]

/-- The row taken, written out: its columns, its status and what the shell counts. -/
theorem Drum.takeRow_written (x : Drum) {r : SkinRow} (h : r.step.bell = true ∨ r.cols ≠ []) :
    ∃ status adds sradds, x.takeRow r = ({ x with shell := { (x.shell.putCols r.row r.cols (r.column x)).setStatus r.row status with
      adds := adds, sradds := sradds } }).noteRows r.row 1 := by
  cases bell : r.step.bell with
  | true =>
    have cols : r.cols = List.range' 0 r.step.n := by rw [SkinRow.cols, if_pos bell, List.range_eq_range']
    rw [cols, ← Shell.putRow_eq_putCols, ← List.range_eq_range', SkinRow.column_bell bell]
    unfold Drum.takeRow
    simp only [bell, Bool.or_true, if_true]
    exact ⟨_, _, _, rfl⟩
  | false =>
    have cols : (List.range r.step.n).filter r.strikes = r.cols := by simp [SkinRow.cols, bell]
    have some_column : (List.filter (fun n => r.mask.getLsbD (laneOf r.step.wfmt n)) (List.range r.step.n)).isEmpty = false :=
      List.isEmpty_eq_false_iff.2 (cols ▸ h.resolve_left (by simp [bell]))
    rw [← Shell.foldl_put_zip, ← cols, SkinRow.column_chain bell]
    unfold Drum.takeRow
    simp only [bell, Bool.or_false, some_column, Bool.false_eq_true, if_false]
    exact ⟨_, _, _, rfl⟩

/-- A row of chain mode without a striking lane leaves the drum as it is. -/
theorem Drum.takeRow_none (x : Drum) {r : SkinRow} (bell : r.step.bell = false) (no_cols : r.cols = []) : x.takeRow r = x := by
  have no_column : (List.filter (fun n => r.mask.getLsbD (laneOf r.step.wfmt n)) (List.range r.step.n)) = [] := by
    rw [SkinRow.cols, if_neg (by simp [bell])] at no_cols
    exact no_cols
  unfold Drum.takeRow
  simp only [bell, no_column, List.isEmpty_nil, Bool.false_eq_true, if_false, if_true]

/-- The row taken is in the shell, and beside the shell only the rows that the run has written are noted. -/
theorem Drum.takeRow_effect (x : Drum) (r : SkinRow) :
    ColsWritten r.row r.cols (r.column x) x.shell (x.takeRow r).shell ∧
    x.takeRow r = { x with shell := (x.takeRow r).shell, seq := (x.takeRow r).seq } := by
  by_cases h : r.step.bell = true ∨ r.cols ≠ []
  · obtain ⟨status, adds, sradds, e⟩ := x.takeRow_written h
    rw [e]
    refine ⟨⟨rfl, fun i hi => ?_, ?_⟩, rfl⟩
    · refine (getCell_putCell_ne hi).trans ?_
      rw [Shell.putCols_eq]
      rfl
    · exact (congrArg Shell.leaves (Shell.putCols_eq r.cols x.shell (row := r.row) (f := r.column x)) :)
  · simp only [not_or, ne_eq, not_not, Bool.not_eq_true] at h
    obtain ⟨bell, no_cols⟩ := h
    rw [x.takeRow_none bell no_cols, no_cols]
    exact ⟨⟨rfl, fun _ _ => rfl, rfl⟩, rfl⟩

/-! ### DEQUANTISE_ROW -/

/-- The leaf that a strike's last row completes. -/
def SkinRow.leaf (r : SkinRow) (x : Drum) : Leaf :=
  ⟨r.step.rd, r.step.kt (x.desc r.step.rd), r.step.lastLeaf (x.desc r.step.rd), r.step.ord⟩

/-- What the de-quantiser changes when it takes the front row. -/
theorem Drum.dequantise_effect (x : Drum) (r : SkinRow) (rest : List SkinRow) :
    (x.dequantise r rest).shell.rows = (x.shell.putCols r.row r.cols (r.column x)).rows ∧
    (∀ i, i ≠ r.row → (x.dequantise r rest).shell.tstatus i = x.shell.tstatus i) ∧
    (x.dequantise r rest).shell.leaves =
      x.shell.leaves ++ (if r.step.bell = true ∧ r.m + 1 = r.step.m then [r.leaf x] else []) ∧
    x.dequantise r rest = { x with
      shell := (x.dequantise r rest).shell, seq := (x.dequantise r rest).seq
      skin := { x.skin with laneQ := rest, rows := x.skin.rows + 1 } } := by
  obtain ⟨⟨rows, status, leaves⟩, rest_same⟩ := x.takeRow_effect r
  have skin : (x.takeRow r).skin = x.skin := by rw [rest_same]
  unfold Drum.dequantise
  by_cases last : r.step.bell = true ∧ r.m + 1 = r.step.m
  · simp only [last, decide_true, Bool.and_self, if_true, and_self, skin]
    refine ⟨rows, status, ?_, ?_⟩
    · rw [leaves]
      rfl
    · rw [rest_same]
  · have goes_on : (r.step.bell && decide (r.m + 1 = r.step.m)) = false := by simpa using last
    simp only [goes_on, Bool.false_eq_true, if_false, if_neg last, List.append_nil, skin]
    refine ⟨rows, status, leaves, ?_⟩
    rw [rest_same]

theorem SkinRow.cols_lt {r : SkinRow} (h : r.step.n ≤ 1024) {a : Nat} (ha : a ∈ r.cols) : a < 1024 := by
  have below : a < r.step.n := by
    unfold SkinRow.cols at ha
    split at ha
    · exact List.mem_range.1 ha
    · exact List.mem_range.1 (List.mem_filter.1 ha).1
  omega

theorem Drum.shellAt_dequantise {x : Drum} (kept : x.Kept) {r : SkinRow} (h : r.step.n ≤ 1024) (rest : List SkinRow) {i n : Nat}
    (hn : n < 1024) : shellAt (x.dequantise r rest).shell i n =
      if i = r.row ∧ n ∈ r.cols then r.column x n else shellAt x.shell i n := by
  obtain ⟨-, rowsWf, -⟩ := kept
  obtain ⟨rows, -⟩ := x.dequantise_effect r rest
  have read : shellAt (x.dequantise r rest).shell i n = shellAt (x.shell.putCols r.row r.cols (r.column x)) i n := by
    rw [shellAt, rows, shellAt]
  exact read.trans (Shell.shellAt_putCols hn rowsWf fun a ha => SkinRow.cols_lt h ha)

section
variable {s : State} {d : Nat} {r : SkinRow} {rest : List SkinRow}

theorem exec_dequantiseRow_takes (hd : d < 136) (hl : d < s.drums.length) (front : (s.drum d).skin.laneQ = r :: rest)
    (rests : (s.drum d).unitsRest)
    (free : r.step.bell = true → (s.drum d).shell.leaves.any (fun l => l.rd == r.step.rd) = false) :
    exec (.dequantiseRow d true) s = .next (s.setDrum d ((s.drum d).dequantise r rest)) := by
  have not_held : (r.step.bell && (s.drum d).shell.leaves.any fun l => l.rd == r.step.rd) = false := by
    cases bell : r.step.bell with
    | true => rw [free bell, Bool.and_false]
    | false => rfl
  have still : ((s.setDrum d ((s.drum d).dequantise r rest)).drum d).unitsRest := by
    obtain ⟨-, -, -, same⟩ := (s.drum d).dequantise_effect r rest
    rw [s.drum_setDrum hl, same]
    exact rests
  have run : execDequantiseRow d true s = .next ((s.setDrum d ((s.drum d).dequantise r rest)).unitsRun d) := by
    simp only [execDequantiseRow, onDrum, if_pos hd, front, not_held, Bool.false_eq_true, if_false, if_true]
  rw [State.unitsRun_rest still] at run
  exact run

/-- A row of a block whose last leaf still stands in slot 0 is held (R126). -/
theorem exec_dequantiseRow_holds (hd : d < 136) (front : (s.drum d).skin.laneQ = r :: rest) (bell : r.step.bell = true)
    (leaf : (s.drum d).shell.leaves.any (fun l => l.rd == r.step.rd) = true) : exec (.dequantiseRow d true) s = .next s := by
  have run : execDequantiseRow d true s = .next s := by
    simp only [execDequantiseRow, onDrum, if_pos hd, front, bell, leaf, Bool.and_self, if_true]
  exact run

end

/-- Settles O12: the row writes its columns, whichever mode says which they are and what they take. -/
theorem dequantiseRowEntersTheShell : Obligations.DequantiseRowEntersTheShell := by
  intro s d r rest hd kept front rests small x st de
  have hl := kept.drum_lt hd
  have keptX : x.Kept := kept.drum d
  obtain ⟨-, status, leaves, same⟩ := x.dequantise_effect r rest
  have drum : (s.setDrum d (x.dequantise r rest)).drum d = x.dequantise r rest := s.drum_setDrum hl _
  have read {i n : Nat} (hn : n < 1024) := x.shellAt_dequantise keptX small rest (i := i) hn
  have rows : (x.dequantise r rest).skin.rows = x.skin.rows + 1 := by rw [same]
  have lanes : (x.dequantise r rest).skin.laneQ = rest := by rw [same]
  have pad : (x.dequantise r rest).pad = x.pad := by rw [same]
  have tuner : (x.dequantise r rest).tuner = x.tuner := by rw [same]
  have otherRow (i n : Nat) (hi : i ≠ st.row0 + r.m) (hn : n < 1024) :
      shellAt (x.dequantise r rest).shell i n = shellAt x.shell i n := by
    rw [read hn, if_neg fun e => hi e.1]
  refine ⟨fun chain => ?_, fun bell leaf => exec_dequantiseRow_holds hd front bell leaf, fun bell no_leaf => ?_⟩
  · refine ⟨_, exec_dequantiseRow_takes hd hl front rests fun bell => absurd bell (by rw [chain]; decide),
      onlyDrum_setDrum s d _, ?_⟩
    rw [drum]
    refine ⟨rows, lanes, fun n hn => ?_, otherRow, status, pad, tuner⟩
    have written : n ∈ r.cols ↔ n < st.n ∧ r.mask.getLsbD (laneOf st.wfmt n) = true := by
      rw [SkinRow.cols, if_neg (by rw [chain]; decide), List.mem_filter, List.mem_range]
      rfl
    have value : r.column x n = if st.acc = 0 then r.sum x 1 (r.value x n 0) n else r.sum x 0 (shellAt x.shell r.row n) n :=
      if_neg (by rw [chain]; decide)
    rw [read hn, value]
    simp only [written, SkinRow.row]
    exact if_congr (and_iff_right rfl) rfl rfl
  · refine ⟨_, exec_dequantiseRow_takes hd hl front rests fun _ => no_leaf, onlyDrum_setDrum s d _, ?_⟩
    rw [drum]
    refine ⟨rows, lanes, fun n hn => ?_, otherRow, status, ?_, pad, tuner⟩
    · have written : n ∈ r.cols ↔ n < st.n := by rw [SkinRow.cols, if_pos bell, List.mem_range]
      rw [read hn, SkinRow.column_bell bell]
      simp only [written, SkinRow.row]
      exact if_congr (and_iff_right rfl) rfl rfl
    · rw [leaves, if_congr (and_iff_right bell) rfl rfl]
      rfl

end Sys2Proof.Machine
end

section
/-! A step of a strike past its checks: it enters its block, and its rows are fed (R57, R67, R125, R150). -/

namespace Sys2Proof.Machine

set_option Elab.async false

/-! ### Reads that do not fail -/

theorem Drum.readFails_eq_false {x : Drum} (sound : x.pad.failed = []) (l : List Range) : x.readFails l = false := by
  simp [Drum.readFails, sound]

section
variable {s : State} {d : Nat}

theorem OnlyDrum.drum_lt {t : State} (h : OnlyDrum d s t) (hd : d < s.drums.length) : d < t.drums.length := by
  obtain ⟨-, length, -⟩ := h
  rwa [length]

theorem State.drum_access_failed (hd : d < s.drums.length) (sound : (s.drum d).pad.failed = []) (l : List Range) :
    ((s.access d l).drum d).pad.failed = [] := by
  rw [drum_access hd]
  exact (accessAll_same ..).failed.trans sound

/-- Where every word passes its parity, an instruction's effect follows its accesses. -/
theorem State.readWrite_sound (hd : d < s.drums.length) (sound : (s.drum d).pad.failed = []) (o : Nat)
    (reads writes : List Range) (effect : State → State) :
    s.readWrite d o reads writes effect = effect ((s.access d reads).access d writes) :=
  if_neg (by rw [Drum.readFails_eq_false (State.drum_access_failed hd sound reads)]; decide)

end

/-! ### Rows fed -/

/-- Rows have been fed: the pad notes the accesses, and of the skin only the lane queues, their timing and the counters
differ. -/
structure Fed (x y : Drum) : Prop where
  pad : SamePad x.pad y.pad
  same : y = { x with
    pad := y.pad
    skin := { y.skin with tile := x.skin.tile, cells := x.skin.cells, load := x.skin.load, jobs := x.skin.jobs } }

section
variable {x y z : Drum}

theorem Fed.refl (x : Drum) : Fed x x := ⟨.refl _, rfl⟩
theorem Fed.tile (h : Fed x y) : y.skin.tile = x.skin.tile := by rw [h.same]
theorem Fed.cells (h : Fed x y) : y.skin.cells = x.skin.cells := by rw [h.same]
theorem Fed.load (h : Fed x y) : y.skin.load = x.skin.load := by rw [h.same]
theorem Fed.jobs (h : Fed x y) : y.skin.jobs = x.skin.jobs := by rw [h.same]
theorem Fed.tuner (h : Fed x y) : y.tuner = x.tuner := by rw [h.same]
theorem Fed.shell (h : Fed x y) : y.shell = x.shell := by rw [h.same]
theorem Fed.seq (h : Fed x y) : y.seq = x.seq := by rw [h.same]

theorem Fed.trans (h : Fed x y) (k : Fed y z) : Fed x z := by
  refine ⟨h.pad.trans k.pad, ?_⟩
  rw [← h.tile, ← h.cells, ← h.load, ← h.jobs]
  refine k.same.trans ?_
  rw [h.same]

theorem Fed.othersRest (h : Fed x y) (k : x.othersRest) : y.othersRest :=
  k.congr (by rw [h.same]) (by rw [h.same]) h.tuner

end

/-- The only work of the drum's units is to feed rows of step t. -/
def Drum.feeds (x : Drum) (t : Step) : Prop :=
  x.othersRest ∧ x.pad.failed = [] ∧ x.skin.jobs = [] ∧ x.skin.cur = some t ∧ x.skin.nextRow < t.m

section
variable {s : State} {d : Nat} {t : Step}

/-- What the feeder does with one row. -/
theorem State.feed_effect (hd : d < s.drums.length) (sound : (s.drum d).pad.failed = []) :
    OnlyDrum d s (s.feed d t) ∧ Fed (s.drum d) ((s.feed d t).drum d) ∧
    (∃ row : SkinRow, row.step = t ∧ ((s.feed d t).drum d).skin.laneQ = (s.drum d).skin.laneQ ++ [row]) ∧
    ((s.feed d t).drum d).skin.nextRow = (s.drum d).skin.nextRow + 1 ∧
    ((s.feed d t).drum d).skin.cur = if (s.drum d).skin.nextRow + 1 = t.m then none else (s.drum d).skin.cur := by
  let l := t.rowReads (s.drum d).skin.nextRow
  have fed : s.feed d t = (s.access d l).modDrum d fun x => x.feedRow t x.skin.nextRow :=
    if_neg (by rw [Drum.readFails_eq_false (State.drum_access_failed hd sound l)]; decide)
  have drum : (s.feed d t).drum d =
      ({ s.drum d with pad := (s.drum d).pad.accessAll s.beat ((s.drum d).abs 0) l } : Drum).feedRow t
        (s.drum d).skin.nextRow := by
    rw [fed, State.drum_modDrum _ (by rwa [s.access_length]), drum_access hd]
  refine ⟨?_, ?_, ?_⟩
  · rw [fed]
    exact (onlyDrum_access s d l).trans (onlyDrum_modDrum _ d _)
  · rw [drum]
    exact ⟨accessAll_same .., rfl⟩
  · rw [drum]
    exact ⟨⟨_, rfl, rfl⟩, rfl, rfl⟩

/-- The feeder fills the lane queues up to four rows, or with what rows are left. -/
theorem unitsGo_feeds : ∀ (n : Nat) {s : State}, d < s.drums.length → (s.drum d).feeds t →
    4 ≤ n + (s.drum d).skin.laneQ.length →
    OnlyDrum d s (unitsGo d n s) ∧ Fed (s.drum d) ((unitsGo d n s).drum d) ∧
    ((unitsGo d n s).drum d).skin.laneQ.length =
      max (s.drum d).skin.laneQ.length (min 4 ((s.drum d).skin.laneQ.length + (t.m - (s.drum d).skin.nextRow))) ∧
    ∀ row ∈ ((unitsGo d n s).drum d).skin.laneQ, row ∈ (s.drum d).skin.laneQ ∨ row.step = t
  | 0, s, _, _, full => by
    have stays : unitsGo d 0 s = s := rfl
    rw [stays]
    exact ⟨.refl s d, .refl _, by omega, fun _ h => .inl h⟩
  | n + 1, s, hd, ⟨others, sound, jobs, cur, more⟩, fuel => by
    have next := (State.unitStep_eq_skinStep others).trans (State.skinStep_feeds cur)
    by_cases room : (s.drum d).skin.laneQ.length < 4
    · rw [if_pos room] at next
      obtain ⟨only, fed, ⟨row, step, queue⟩, nextRow, cur'⟩ := State.feed_effect (t := t) hd sound
      have others' := fed.othersRest others
      have jobs' := fed.jobs.trans jobs
      have length : ((s.feed d t).drum d).skin.laneQ.length = (s.drum d).skin.laneQ.length + 1 := by
        rw [queue, List.length_append, List.length_singleton]
      have member : ∀ r ∈ ((s.feed d t).drum d).skin.laneQ, r ∈ (s.drum d).skin.laneQ ∨ r.step = t := by
        intro r hr
        rw [queue, List.mem_append, List.mem_singleton] at hr
        rcases hr with old | rfl
        · exact .inl old
        · exact .inr step
      rw [unitsGo_of_some next]
      by_cases last : (s.drum d).skin.nextRow + 1 = t.m
      · rw [if_pos last] at cur'
        rw [unitsGo_idle others' cur' (.inl jobs')]
        exact ⟨only, fed, by omega, member⟩
      · rw [if_neg last, cur] at cur'
        obtain ⟨only', fed', length', member'⟩ := unitsGo_feeds n (s := s.feed d t) (only.drum_lt hd)
          ⟨others', fed.pad.failed.trans sound, jobs', cur', by omega⟩ (by omega)
        refine ⟨only.trans only', fed.trans fed', by omega, fun r hr => ?_⟩
        exact (member' r hr).elim (member r) .inr
    · rw [if_neg room] at next
      rw [unitsGo_of_none next]
      exact ⟨.refl s d, .refl _, by omega, fun _ h => .inl h⟩

/-! ### A step begins -/

theorem Drum.workLeft_ge (x : Drum) : 8 ≤ x.workLeft := Nat.le_add_left 8 _

/-- A step with rows stands before its first. -/
theorem State.beginStep_feeds (hd : d < s.drums.length) (rows : t.empty = false) (others : (s.drum d).othersRest)
    (sound : (s.drum d).pad.failed = []) (jobs : (s.drum d).skin.jobs = []) (cont : Bool) :
    Fed (s.drum d) ((s.beginStep d t cont).drum d) ∧ ((s.beginStep d t cont).drum d).feeds t ∧
    ((s.beginStep d t cont).drum d).skin.laneQ = (s.drum d).skin.laneQ ∧
    ((s.beginStep d t cont).drum d).skin.nextRow = 0 := by
  have begun : (s.beginStep d t cont).drum d = { s.drum d with skin :=
      { (if cont then (s.drum d).skin else (s.drum d).skin.restart (t.loaded (s.drum d))) with cur := some t, nextRow := 0 } } := by
    rw [State.beginStep, s.drum_modDrum hd, rows, if_neg Bool.false_ne_true]
  have some_row : 0 < t.m := by
    simp only [Step.empty, Bool.or_eq_false_iff, beq_eq_false_iff_ne] at rows
    omega
  have fed : Fed (s.drum d) ((s.beginStep d t cont).drum d) := by
    rw [begun]
    cases cont <;> exact ⟨.refl _, rfl⟩
  refine ⟨fed, ⟨fed.othersRest others, fed.pad.failed.trans sound, fed.jobs.trans jobs, ?_, ?_⟩, ?_⟩
  · rw [begun]
  · rw [begun]
    exact some_row
  · rw [begun]
    cases cont <;> exact ⟨rfl, rfl⟩

theorem onlyDrum_beginStep (s : State) (d : Nat) (t : Step) (cont : Bool) : OnlyDrum d s (s.beginStep d t cont) :=
  onlyDrum_modDrum s d _

/-! ### The block of a bell strike -/

/-- A cell reads as it was written in a store of any form, where it was not written with the default. -/
theorem getCell_putCell_of_ne_default {α : Type} [DecidableEq α] {d v : α} (h : v ≠ d) (a : Nat) :
    ∀ c : Cells α, getCell d (putCell d c a v) a = v
  | [] => by simp [putCell, getCell, h]
  | (k, w) :: c => by
    unfold putCell
    split
    · rw [getCell, if_pos rfl]
    · split
      · rw [getCell, if_pos rfl]
      · next later other =>
        rw [getCell, if_neg (Ne.symm other)]
        exact getCell_putCell_of_ne_default h a c

theorem Stack.ne_reset_of_started {b : Stack} (h : b.started = true) : b ≠ Stack.reset := by
  rintro rfl
  exact Bool.false_ne_true h

theorem Drum.stack_modStack (x : Drum) (e : Nat) (f : Stack → Stack) (h : (f (x.stack e)).started = true) :
    (x.modStack e f).stack e = f (x.stack e) :=
  getCell_putCell_of_ne_default (Stack.ne_reset_of_started h) e x.shell.blocks

/-- The decode of a bell strike starts its block and changes nothing else, where no node came early. -/
theorem State.enterBlock_effect (hd : d < s.drums.length)
    (early : t.bell = true → ((s.drum d).stack t.rd).early = []) :
    OnlyDrum d s (s.enterBlock d t) ∧
    (s.enterBlock d t).drum d = { s.drum d with
      shell := { (s.drum d).shell with blocks := ((s.enterBlock d t).drum d).shell.blocks } } ∧
    (t.bell = false → s.enterBlock d t = s) ∧
    (t.bell = true → (((s.enterBlock d t).drum d).stack t.rd).started = true) := by
  cases bell : t.bell with
  | false =>
    have stays : s.enterBlock d t = s := if_neg (by rw [bell]; decide)
    rw [stays]
    exact ⟨.refl s d, rfl, fun _ => rfl, fun h => absurd h (by decide)⟩
  | true =>
    let u := s.modDrum d (·.enterBlock t)
    have hu : d < u.drums.length := (s.modDrum_length d _).symm ▸ hd
    have drum : u.drum d = (s.drum d).enterBlock t := s.drum_modDrum hd _
    have started : ((u.drum d).stack t.rd).started = true := by
      rw [drum, Drum.enterBlock, Drum.stack_modStack _ _ _ rfl]
    have no_early : ((u.drum d).stack t.rd).early = [] := by
      rw [drum, Drum.enterBlock, Drum.stack_modStack _ _ _ rfl]
      exact early bell
    by_cases first : ((s.drum d).stack t.rd).started = true
    · have entered : s.enterBlock d t = u := by
        simp only [State.enterBlock, bell, if_true, first, Bool.not_true, Bool.false_eq_true, if_false, u]
      rw [entered]
      refine ⟨onlyDrum_modDrum s d _, ?_, fun h => absurd h (by decide), fun _ => started⟩
      rw [drum]
      rfl
    · have entered : s.enterBlock d t = u.modDrum d fun x => x.modStack t.rd fun b => { b with early := [] } := by
        simp only [State.enterBlock, bell, if_true, first, Bool.not_false, State.placeEarly]
        rw [show ((s.modDrum d (·.enterBlock t)).drum d).stack t.rd = (u.drum d).stack t.rd from rfl, no_early]
        rfl
      have drum' := u.drum_modDrum hu fun x => x.modStack t.rd fun b => { b with early := [] }
      rw [entered]
      refine ⟨(onlyDrum_modDrum s d _).trans (onlyDrum_modDrum u d _), ?_, fun h => absurd h (by decide), fun _ => ?_⟩
      · rw [drum', drum]
        rfl
      · rw [drum', Drum.stack_modStack _ _ _ started]
        exact started

end

end Sys2Proof.Machine
end

section
/-! The end of a weight load (R51-R55, R85, R87, R88). -/

namespace Sys2Proof.Machine

set_option Elab.async false

/-! ### What the loads of a step change -/

/-- A tile load leaves all but the latches, the weight sums and the tuner's scales. -/
theorem Drum.loadTile_eq (x : Drum) (t : Step) :
    (x.loadTile t).1 = { x with
      skin := { x.skin with tile := (x.loadTile t).1.skin.tile, cells := (x.loadTile t).1.skin.cells,
                            sums := (x.loadTile t).1.skin.sums }
      tuner := (x.loadTile t).1.tuner } := by
  unfold Drum.loadTile
  by_cases image : t.src = 0
  · simp only [image, if_true]
    split <;> rfl
  · simp only [image, if_false]

/-- A scale load leaves all but the tuner. -/
theorem Drum.loadScales_eq (x : Drum) (t : Step) :
    (x.loadScales t).1 = { x with tuner := (x.loadScales t).1.tuner } := by
  unfold Drum.loadScales
  split
  · rfl
  · split
    · rfl
    · split <;> rfl

/-- An image without fault is in the latches, with its map (R51, R53). -/
theorem Drum.loadTile_image {x : Drum} {t : Step} (image : t.src = 0) (sound : (x.loadTile t).2 = []) :
    (x.loadTile t).1.skin.tile = some ⟨t.wfmt, t.group, t.wTag, BitVec.ofNat 256 (x.padNat t.wOff 32), t.zp, t⟩ ∧
    (x.loadTile t).1.skin.cells = imageCells x.pad.mem (x.abs (t.wOff + 64)) (planesOf t.wfmt) := by
  unfold Drum.loadTile at sound ⊢
  simp only [image, if_true] at sound ⊢
  split at sound
  · cases sound
  · next good =>
    rw [if_neg good]
    exact ⟨rfl, rfl⟩

/-- A bad image empties the latches (R53, R54). -/
theorem Drum.loadTile_bad {x : Drum} {t : Step} (image : t.src = 0) (fault : (x.loadTile t).2 = [0x11]) :
    (x.loadTile t).1 = x.noTile := by
  unfold Drum.loadTile at fault ⊢
  simp only [image, if_true] at fault ⊢
  split at fault
  · next bad => rw [if_pos bad]
  · cases fault

/-- A load that brings no scales raises no scale fault. -/
theorem Drum.loadScales_nothing (x : Drum) {t : Step} (loadw : t.loadw = true) (image : t.src = 0) (wscl : t.wscl = none)
    (ascl : t.ascl = none) : (x.loadScales t).2 = [] := by
  simp [Drum.loadScales, Drum.stepFile, loadw, image, wscl, ascl]

/-! Loads leave the TUNE that the tuner runs. -/

theorem loop_keeps {σ α : Type} {g : σ → α} {f : Nat → σ → σ} (hf : ∀ i s, g (f i s) = g s) (s : σ) :
    ∀ n, g (loop f n s) = g s
  | 0 => rfl
  | n + 1 => (hf n _).trans (loop_keeps hf s n)

theorem Drum.readFile_cur {x : Drum} {off : Nat} {u : Tuner} (h : x.readFile off = some u) : u.cur = x.tuner.cur := by
  unfold Drum.readFile at h
  dsimp only at h
  split at h
  · cases h
    rfl
  · cases h

theorem Tuner.putRow_cur (u : Tuner) (row : Nat) (l : List Half) (tag : BitVec 6) (group : BitVec 2) :
    (u.putRow row l tag group).cur = u.cur := rfl

theorem Drum.readRows_cur {x : Drum} {off row0 n : Nat} {u : Tuner} (h : x.readRows off row0 n = some u) :
    u.cur = x.tuner.cur := by
  unfold Drum.readRows at h
  dsimp only at h
  split at h
  · rw [← Option.some.inj h]
    exact loop_keeps (g := Tuner.cur) (fun r u => u.putRow_cur _ _ _ _) _ _
  · cases h

theorem Drum.stepFile_cur {x : Drum} {t : Step} {u : Tuner} (h : x.stepFile t = some u) : u.cur = x.tuner.cur := by
  unfold Drum.stepFile at h
  dsimp only at h
  split at h
  · cases h
    rfl
  · split at h
    · split at h
      · exact Drum.readFile_cur h
      · cases h
        rfl
    · split at h
      · cases h
        rfl
      · cases h

theorem Drum.loadScales_cur (x : Drum) (t : Step) : (x.loadScales t).1.tuner.cur = x.tuner.cur := by
  unfold Drum.loadScales
  split
  · rfl
  · next u file =>
    have cur := Drum.stepFile_cur file
    split
    · exact cur
    · split
      · next v rows => exact (Drum.readRows_cur rows).trans cur
      · rfl

theorem Drum.loadTile_cur (x : Drum) (t : Step) : (x.loadTile t).1.tuner.cur = x.tuner.cur := by
  unfold Drum.loadTile
  by_cases image : t.src = 0
  · simp only [image, if_true]
    split <;> rfl
  · simp only [image, if_false]

/-- The drum once the loads have been made: the latches and the scales are new, and the load is over. -/
def Drum.loadedBy (x : Drum) (t : Step) : Drum :=
  let z := ((x.loadTile t).1.loadScales t).1
  { z with skin := { z.skin with load := none } }

theorem Drum.loadedBy_eq (x : Drum) (t : Step) :
    x.loadedBy t = { x with
      skin := { x.skin with load := none, tile := (x.loadedBy t).skin.tile, cells := (x.loadedBy t).skin.cells,
                            sums := (x.loadedBy t).skin.sums }
      tuner := (x.loadedBy t).tuner } := by
  unfold Drum.loadedBy
  dsimp only
  rw [Drum.loadScales_eq, Drum.loadTile_eq]

theorem Drum.loadedBy_rest {x : Drum} {t : Step} (jobs : x.skin.jobs = []) (cur : x.skin.cur = none)
    (queues : x.queues = ⟨[], [], [], []⟩) (roll : x.roll.cur = none) (tuner : x.tuner.cur = none) :
    (x.loadedBy t).unitsRest := by
  have tuner' : (x.loadedBy t).tuner.cur = none := (Drum.loadScales_cur _ t).trans ((x.loadTile_cur t).trans tuner)
  rw [x.loadedBy_eq t]
  exact ⟨jobs, rfl, cur, queues, roll, tuner'⟩

/-- The latches, the scales and what the pad holds are the same. -/
def SameTile (x y : Drum) : Prop :=
  y.skin.load = x.skin.load ∧ y.skin.tile = x.skin.tile ∧ y.skin.cells = x.skin.cells ∧ y.tuner = x.tuner ∧ SamePad x.pad y.pad

theorem SameTile.trans {x y z : Drum} (h : SameTile x y) (k : SameTile y z) : SameTile x z := by
  obtain ⟨load, tile, cells, tuner, pad⟩ := h
  obtain ⟨load', tile', cells', tuner', pad'⟩ := k
  exact ⟨load'.trans load, tile'.trans tile, cells'.trans cells, tuner'.trans tuner, pad.trans pad'⟩

theorem Fed.sameTile {x y : Drum} (h : Fed x y) : SameTile x y := ⟨h.load, h.tile, h.cells, h.tuner, h.pad⟩

section
variable {s : State} {d : Nat} {t : Step}

/-- A step that begins on units at rest leaves the tile and the scales that it uses alone. -/
theorem State.beginStep_run (hd : d < s.drums.length) (rests : (s.drum d).unitsRest)
    (sound : (s.drum d).pad.failed = []) :
    OnlyDrum d s ((s.beginStep d t false).unitsRun d) ∧
    SameTile (s.drum d) (((s.beginStep d t false).unitsRun d).drum d) := by
  have only := onlyDrum_beginStep s d t false
  have hd' : d < (s.beginStep d t false).drums.length := only.drum_lt hd
  cases rows : t.empty with
  | false =>
    obtain ⟨fed, feeds, -⟩ := s.beginStep_feeds hd rows rests.others sound rests.1 false
    have fuel : 4 ≤ ((s.beginStep d t false).drum d).workLeft := (by decide : 4 ≤ 8).trans (Drum.workLeft_ge _)
    obtain ⟨only', fed', -⟩ := unitsGo_feeds _ hd' feeds (Nat.le_add_right_of_le fuel)
    exact ⟨only.trans only', (fed.trans fed').sameTile⟩
  | true =>
    have drum : (s.beginStep d t false).drum d = _ := s.drum_modDrum hd _
    rw [rows, if_pos rfl] at drum
    have rests' : ((s.beginStep d t false).drum d).unitsRest := by
      rw [drum]
      split <;> split <;> exact rests
    rw [State.unitsRun_rest rests', drum]
    refine ⟨only, ?_⟩
    split <;> split <;> exact ⟨rfl, rfl, rfl, rfl, .refl _⟩

/-! ### WEIGHT_LOAD_END -/

theorem exec_weightLoadEnd (hd : d < 136) (load : (s.drum d).skin.load = some t) :
    exec (.weightLoadEnd d) s = .next (if (s.drum d).preempting.isSome then s else (s.loadsDone d t).unitsRun d) := by
  have run : execWeightLoadEnd d s =
      .next (if (s.drum d).preempting.isSome then s else (s.loadsDone d t).unitsRun d) := by
    simp only [execWeightLoadEnd, onDrum, if_pos hd, load]
  exact run

/-- Loads without a fault go on to the step's block and its rows. -/
theorem State.loadsDone_sound (loadw : t.loadw = true) (sound : (s.drum d).pad.failed = [])
    (tile : ((s.drum d).loadTile t).2 = []) (scales : (((s.drum d).loadTile t).1.loadScales t).2 = [])
    (skew : (t.ownScales && t.skew (((s.drum d).loadTile t).1.loadScales t).1) = false) :
    s.loadsDone d t = (if t.ownScales then (s.setDrum d ((s.drum d).loadedBy t)).enterBlock d t
      else s.setDrum d ((s.drum d).loadedBy t)).beginStep d t false := by
  have reads := Drum.readFails_eq_false sound (t.loadReads (s.drum d))
  simp only [State.loadsDone, reads, Bool.false_eq_true, if_false, loadw, if_true, tile, scales, List.isEmpty_nil,
    List.append_nil, Bool.not_true, skew]
  rfl

/-- A bad image ends the strike with the weight load fault. -/
theorem State.loadsDone_bad (loadw : t.loadw = true) (sound : (s.drum d).pad.failed = [])
    (tile : ((s.drum d).loadTile t).2 = [0x11]) (scales : (((s.drum d).loadTile t).1.loadScales t).2 = []) :
    s.loadsDone d t = (s.setDrum d { ((s.drum d).loadTile t).1 with
      skin := { ((s.drum d).loadTile t).1.skin with load := none } }).stepFault d t [0x11] := by
  have reads := Drum.readFails_eq_false sound (t.loadReads (s.drum d))
  simp only [State.loadsDone, reads, Bool.false_eq_true, if_false, loadw, if_true, tile, scales, List.isEmpty_cons,
    List.append_nil, Bool.not_false]

/-- One fault of an instruction in its unit is a fault of the drum. -/
theorem State.drumFaults_one {r : RunId} (run : (s.drum d).seq.run = some r) (f : Nat) :
    s.drumFaults d [f] = s.drumFault d f := by
  rw [State.drumFaults, State.drumFault, run]
  rfl

/-- A fault of the drum changes its sequencer only. -/
theorem State.drumFault_drum {r : RunId} {sub : Nat} (hd : d < s.drums.length) (run : (s.drum d).seq.run = some r)
    (wf : cellsWf FaultSet.reset s.faults = true) (free : (s.fault d).valid = false) :
    (s.drumFault d sub).drum d = { s.drum d with seq := { (s.drum d).seq with stopped := true, waiting := none } } := by
  let t := (s.modSeq d fun q => { q with stopped := true, waiting := none }).markFaulted r.job r.task
  have fault : s.drumFault d sub = t.raiseWith ⟨d, BitVec.ofNat 8 sub, some r.job, some r, false⟩ := by
    rw [State.drumFault, run]
    rfl
  rw [fault, t.raiseWith_eq (r := ⟨d, BitVec.ofNat 8 sub, some r.job, some r, false⟩) free wf]
  exact s.drum_modSeq hd fun q => { q with stopped := true, waiting := none }

/-- What the fault of a step leaves, where the drum's record is free. -/
theorem State.stepFault_latches {r : RunId} {f : Nat} (hd : d < s.drums.length) (run : (s.drum d).seq.run = some r)
    (wf : cellsWf FaultSet.reset s.faults = true) (free : (s.fault d).valid = false) :
    (s.stepFault d t [f]).latched d f (some r.job) s.beat ∧
    (s.stepFault d t [f]).drum d =
      ({ s.drum d with skin := { (s.drum d).skin with load := none }
                       seq := { (s.drum d).seq with stopped := true, waiting := none } } : Drum).dropOrd t.ord := by
  let u := (s.modSkin d fun k => { k with load := none }).modDrum d (·.dropOrd t.ord)
  have hl : d < (s.modSkin d fun k => { k with load := none }).drums.length := by rwa [s.modSkin_length]
  have hu : d < u.drums.length := by rwa [State.modDrum_length]
  have drum : u.drum d = ({ s.drum d with skin := { (s.drum d).skin with load := none } } : Drum).dropOrd t.ord := by
    rw [State.drum_modDrum _ hl, s.drum_modSkin hd]
  have run' : (u.drum d).seq.run = some r := by
    rw [drum]
    exact run
  have fault : s.stepFault d t [f] = u.drumFault d f := State.drumFaults_one run' f
  obtain ⟨-, -, latched⟩ := State.drumFault_latches (sub := f) hu run' wf free
  rw [fault, State.drumFault_drum hu run' wf free, drum]
  exact ⟨latched, rfl⟩

/-- A step whose loads bring its scales enters its block after them (R113). -/
theorem State.enterOwn_effect (hd : d < s.drums.length)
    (early : t.ownScales = true → t.bell = true → ((s.drum d).stack t.rd).early = []) :
    OnlyDrum d s (if t.ownScales then s.enterBlock d t else s) ∧
    (if t.ownScales then s.enterBlock d t else s).drum d = { s.drum d with
      shell := { (s.drum d).shell with blocks := ((if t.ownScales then s.enterBlock d t else s).drum d).shell.blocks } } := by
  cases own : t.ownScales with
  | true =>
    obtain ⟨only, drum, -⟩ := State.enterBlock_effect hd (early own)
    exact ⟨only, drum⟩
  | false => exact ⟨.refl s d, rfl⟩

/-- After loads without a fault the units go on with the tile and the scales that they have left. -/
theorem State.loadsDone_run (hd : d < s.drums.length) (loadw : t.loadw = true) (jobs : (s.drum d).skin.jobs = [])
    (cur : (s.drum d).skin.cur = none) (queues : (s.drum d).queues = ⟨[], [], [], []⟩) (roll : (s.drum d).roll.cur = none)
    (tunerCur : (s.drum d).tuner.cur = none) (sound : (s.drum d).pad.failed = [])
    (tile : ((s.drum d).loadTile t).2 = []) (scales : (((s.drum d).loadTile t).1.loadScales t).2 = [])
    (skew : (t.ownScales && t.skew (((s.drum d).loadTile t).1.loadScales t).1) = false)
    (early : t.ownScales = true → t.bell = true → ((s.drum d).stack t.rd).early = []) :
    OnlyDrum d s ((s.loadsDone d t).unitsRun d) ∧
    SameTile ((s.drum d).loadedBy t) (((s.loadsDone d t).unitsRun d).drum d) := by
  let u := s.setDrum d ((s.drum d).loadedBy t)
  have hu : d < u.drums.length := by rwa [s.setDrum_length]
  have drum : u.drum d = (s.drum d).loadedBy t := s.drum_setDrum hd _
  have rests : (u.drum d).unitsRest := drum ▸ Drum.loadedBy_rest jobs cur queues roll tunerCur
  have pad : (u.drum d).pad = (s.drum d).pad := by rw [drum, Drum.loadedBy_eq]
  have shell : (u.drum d).shell = (s.drum d).shell := by rw [drum, Drum.loadedBy_eq]
  obtain ⟨only, entered⟩ := State.enterOwn_effect (t := t) hu (by rwa [Drum.stack, shell])
  obtain ⟨only', same⟩ := State.beginStep_run (t := t) (only.drum_lt hu) (by rw [entered]; exact rests)
    (by rw [entered, pad]; exact sound)
  rw [entered, drum] at same
  rw [State.loadsDone_sound loadw sound tile scales skew]
  exact ⟨(onlyDrum_setDrum s d _).trans (only.trans only'), same⟩

/-- After a bad image the latches are empty, the scales invalid, and the units rest. -/
theorem State.loadsDone_bad_run {r : RunId} (hd : d < s.drums.length) (wf : cellsWf FaultSet.reset s.faults = true)
    (loadw : t.loadw = true) (jobs : (s.drum d).skin.jobs = []) (cur : (s.drum d).skin.cur = none)
    (queues : (s.drum d).queues = ⟨[], [], [], []⟩) (roll : (s.drum d).roll.cur = none)
    (tunerCur : (s.drum d).tuner.cur = none) (sound : (s.drum d).pad.failed = []) (image : t.src = 0)
    (wscl : t.wscl = none) (ascl : t.ascl = none) (fault : ((s.drum d).loadTile t).2 = [0x11])
    (run : (s.drum d).seq.run = some r) (free : (s.fault d).valid = false) :
    ((s.loadsDone d t).unitsRun d).latched d 0x11 (some r.job) s.beat ∧
    ((s.loadsDone d t).unitsRun d).drum d = ({ (s.drum d).noTile with
      skin := { (s.drum d).noTile.skin with load := none }
      seq := { (s.drum d).seq with stopped := true, waiting := none } } : Drum).dropOrd t.ord := by
  have scales := ((s.drum d).loadTile t).1.loadScales_nothing loadw image wscl ascl
  have bad := State.loadsDone_bad loadw sound fault scales
  rw [Drum.loadTile_bad image fault] at bad
  let u := s.setDrum d { (s.drum d).noTile with skin := { (s.drum d).noTile.skin with load := none } }
  have hu : d < u.drums.length := by rwa [s.setDrum_length]
  have drum : u.drum d = { (s.drum d).noTile with skin := { (s.drum d).noTile.skin with load := none } } :=
    s.drum_setDrum hd _
  obtain ⟨latched, faulted⟩ := u.stepFault_latches (t := t) (f := 0x11) hu (by rw [drum]; exact run) wf free
  rw [drum] at faulted
  have rests : ((u.stepFault d t [0x11]).drum d).unitsRest := by
    rw [faulted]
    exact ⟨by rw [Drum.dropOrd, Drum.noTile, jobs]; rfl, rfl, cur, queues, by rw [Drum.dropOrd, Drum.noTile, roll]; rfl,
      by rw [Drum.dropOrd, Drum.noTile, tunerCur]; rfl⟩
  rw [bad, State.unitsRun_rest rests]
  exact ⟨latched, faulted⟩

end

/-- Settles O10: the loads are made or refused; a step that goes on uses the tile and the scales and leaves them. -/
theorem weightLoadEndLatchesOrFaults : Obligations.WeightLoadEndLatchesOrFaults := by
  intro s d t hd kept load loadw jobs cur queues roll tunerCur sound x y z
  have hl := kept.drum_lt hd
  have exec_eq := exec_weightLoadEnd hd load
  refine ⟨fun idle faults skew early => ?_, fun r idle image wscl ascl fault run free => ?_, fun preempting => ?_⟩
  · obtain ⟨tile, scales⟩ := List.append_eq_nil_iff.1 faults
    obtain ⟨only, loadSame, tileSame, cellsSame, tunerSame, pad⟩ :=
      State.loadsDone_run hl loadw jobs cur queues roll tunerCur sound tile scales skew early
    rw [Drum.loadedBy_eq] at pad
    rw [idle] at exec_eq
    refine ⟨_, exec_eq, only, loadSame, tileSame, cellsSame, tunerSame, pad, fun image => ?_⟩
    obtain ⟨imageTile, imageCells⟩ := Drum.loadTile_image image tile
    have kept : z.1.skin = y.1.skin := by
      dsimp only [z]
      rw [Drum.loadScales_eq]
    exact ⟨tileSame.trans ((congrArg Skin.tile kept).trans imageTile),
      cellsSame.trans ((congrArg Skin.cells kept).trans imageCells)⟩
  · obtain ⟨latched, drum⟩ := State.loadsDone_bad_run hl kept.faults_wf loadw jobs cur queues roll tunerCur sound image wscl
      ascl fault run free
    rw [idle] at exec_eq
    refine ⟨_, exec_eq, ?_⟩
    rw [if_neg (by decide), drum]
    exact ⟨latched, rfl, rfl, rfl, rfl⟩
  · rw [preempting] at exec_eq
    exact exec_eq

end Sys2Proof.Machine
end

section
/-! STRIKE is queued, starts its weight load, or feeds its rows (R47, R150, R155, R162); a unit queues two instructions. -/

namespace Sys2Proof.Machine

set_option Elab.async false

/-! ### Fetches -/

/-- Lines have been fetched: only the cache, its misses and what the banks note differ. -/
structure Filled (x y : Drum) : Prop where
  same : y = { x with seq := y.seq, pad := y.pad }
  pad : SamePad x.pad y.pad
  run : y.seq.run = x.seq.run
  pc : y.seq.pc = x.seq.pc
  issued : y.seq.issued = x.seq.issued
  stopped : y.seq.stopped = x.seq.stopped
  reissue : y.seq.reissue = x.seq.reissue
  ord : y.seq.ord = x.seq.ord

theorem Filled.trans {x y z : Drum} (h : Filled x y) (k : Filled y z) : Filled x z :=
  { same := by rw [k.same, h.same]
    pad := h.pad.trans k.pad
    run := k.run.trans h.run
    pc := k.pc.trans h.pc
    issued := k.issued.trans h.issued
    stopped := k.stopped.trans h.stopped
    reissue := k.reissue.trans h.reissue
    ord := k.ord.trans h.ord }

theorem fillLine_filled (x : Drum) (beat : Dword) (pc : Nat) : Filled x (x.fillLine beat pc) :=
  ⟨fillLine_eq x beat pc, fillLine_pad x beat pc, fillLine_run x beat pc, fillLine_pc x beat pc, fillLine_issued x beat pc,
    fillLine_stopped x beat pc, fillLine_reissue x beat pc, fillLine_ord x beat pc⟩

theorem fetched_filled (x : Drum) (beat : Dword) : Filled x (x.fetched beat) := fillLine_filled x beat _

/-- The drum once a STRIKE's words are in the pattern cache. -/
def Drum.strikeFetched (x : Drum) (beat : Dword) (w : Quad) : Drum :=
  if (strikeW w).ext then (x.fetched beat).fillLine beat (x.seq.pc + 1) else x.fetched beat

theorem strikeFetched_filled (x : Drum) (beat : Dword) (w : Quad) : Filled x (x.strikeFetched beat w) := by
  unfold Drum.strikeFetched
  split
  · exact (fetched_filled x beat).trans (fillLine_filled _ beat _)
  · exact fetched_filled x beat

/-- An instruction of n words taken after its fetch has moved the sequencer on. -/
theorem Filled.moved {x y z : Drum} (h : Filled x y) (reissue : x.seq.reissue = []) {n : Nat} {w : Quad} {fuse : Bool}
    (taken : z.seq = { y.seq.took n w with fuse := fuse }) : Moved x z n w := by
  unfold Moved
  rw [taken, took_eq _ _ _ (h.reissue.trans reissue)]
  exact ⟨congrArg (· + n) h.pc, rfl, congrArg (· + 1) h.issued, h.run, h.stopped⟩

/-! ### Issue to the skin -/

/-- Words of a STRIKE: its own, and its extension word. -/
def StrikeW.words (q : StrikeW) : Nat := if q.ext then 2 else 1

/-- The sequencer has handed job j to the skin with an instruction of n words, the first of them w. -/
structure Issued (x y : Drum) (n : Nat) (w : Quad) (j : SkinJob) : Prop where
  moved : Moved x y n w
  pad : SamePad x.pad y.pad
  same : y = { x with seq := y.seq, pad := y.pad, skin := { x.skin with jobs := x.skin.jobs ++ [j] } }

/-- The drum once the sequencer has taken a STRIKE and the skin its job. -/
def Drum.issueStrike (x : Drum) (w : Quad) (j : SkinJob) : Drum :=
  { x with seq := { x.seq.took (strikeW w).words w with fuse := (strikeW w).fuse }
           skin := { x.skin with jobs := x.skin.jobs ++ [j] } }

theorem Filled.issueStrike {x y : Drum} (h : Filled x y) (reissue : x.seq.reissue = []) (w : Quad) (j : SkinJob) :
    Issued x (y.issueStrike w j) (strikeW w).words w j := by
  refine ⟨h.moved reissue rfl, h.pad, ?_⟩
  unfold Drum.issueStrike
  rw [h.same]

section
variable {s : State} {d : Nat} {w : Quad}

theorem Drum.lineFails_eq_false {x : Drum} (sound : x.pad.failed = []) (pc : Nat) : x.lineFails pc = false := by
  simp [Drum.lineFails, Pad.anyFailed, sound]

theorem onlyDrum_modSeq (s : State) (d : Nat) (f : Seq → Seq) : OnlyDrum d s (s.modSeq d f) := onlyDrum_modDrum s d _

theorem onlyDrum_modSkin (s : State) (d : Nat) (f : Skin → Skin) : OnlyDrum d s (s.modSkin d f) := onlyDrum_modDrum s d _

/-- A STRIKE that decodes goes to the skin, whose units then run. -/
theorem strikeRun_issues (offers : s.offers d w) (room : (s.drum d).skin.queued < 2) (sound : (s.drum d).pad.failed = [])
    (inside : (strikeW w).ext = true → (s.drum d).fetchOk ((s.drum d).seq.pc + 1) = true)
    (walk : badWalk (strikeW w) (((s.drum d).strikeFetched s.beat w).strikeJob w).ext = false) :
    ∃ u, strikeRun d w s (s.fetched d) = u.unitsRun d ∧ OnlyDrum d s u ∧
      Issued (s.drum d) (u.drum d) (strikeW w).words w (((s.drum d).strikeFetched s.beat w).strikeJob w) := by
  obtain ⟨-, hl, -, reissue, -⟩ := offers
  have fetched := drum_fetched hl
  have nextPc : ((s.drum d).fetched s.beat).seq.nextPc = (s.drum d).seq.pc := by
    simp [Seq.nextPc, Drum.fetched, reissue]
  let v := if (strikeW w).ext then (s.fetched d).modDrum d fun y => y.fillLine s.beat ((s.drum d).seq.pc + 1) else s.fetched d
  have only : OnlyDrum d s v := by
    dsimp only [v]
    split
    · exact (onlyDrum_fetched s d).trans (onlyDrum_modDrum _ d _)
    · exact onlyDrum_fetched s d
  have hv : d < v.drums.length := only.drum_lt hl
  have drum : v.drum d = (s.drum d).strikeFetched s.beat w := by
    dsimp only [v, Drum.strikeFetched]
    split
    · rw [State.drum_modDrum _ (by rwa [fetched_length]), fetched]
    · exact fetched
  let j := ((s.drum d).strikeFetched s.beat w).strikeJob w
  let u := ((v.took d (strikeW w).words w).modSeq d fun k => { k with fuse := (strikeW w).fuse }).queueSkin d j
  refine ⟨u, ?_, ?_, ?_⟩
  · have queue : ¬ 2 ≤ ((s.drum d).fetched s.beat).skin.queued := by
      rw [Drum.fetched, fillLine_skin]
      omega
    have second : ((strikeW w).ext && !((s.drum d).fetched s.beat).fetchOk ((s.drum d).seq.pc + 1)) = false := by
      rw [Drum.fetchOk, Drum.fetched, fillLine_regionOk]
      cases ext : (strikeW w).ext with
      | true => simpa [Drum.fetchOk] using inside ext
      | false => rfl
    have line : ((strikeW w).ext && ((s.drum d).fetched s.beat).lineFails ((s.drum d).seq.pc + 1)) = false := by
      rw [Drum.lineFails_eq_false ((fetched_filled (s.drum d) s.beat).pad.failed.trans sound), Bool.and_false]
    simp only [strikeRun, fetched, nextPc, if_neg queue, second, line, Bool.false_eq_true, if_false]
    change (if badWalk (strikeW w) ((v.drum d).strikeJob w).ext = true then _ else
      (((v.took d (strikeW w).words w).modSeq d fun k => { k with fuse := (strikeW w).fuse }).queueSkin d
        ((v.drum d).strikeJob w)).unitsRun d) = _
    rw [drum, walk, if_neg Bool.false_ne_true]
  · dsimp only [u, State.queueSkin]
    exact only.trans ((onlyDrum_took v d _ w).trans ((onlyDrum_modSeq _ d _).trans (onlyDrum_modSkin _ d _)))
  · have queued : u.drum d = ((s.drum d).strikeFetched s.beat w).issueStrike w j := by
      dsimp only [u, State.queueSkin]
      rw [State.drum_modSkin _ (by rwa [State.modSeq_length, State.took_length]),
        State.drum_modSeq _ (by rwa [State.took_length]), drum_took hv, drum]
      rfl
    rw [queued]
    exact (strikeFetched_filled (s.drum d) s.beat w).issueStrike reissue w j

end

/-! ### The start of a step -/

/-- The job at the front has started a step without a fault: the skin and the counters of the walk move on. -/
def Drum.startedStep (x : Drum) (t : Step) : Drum :=
  { x with skin := x.skin.advance t
           seq := { x.seq with walkIm := BitVec.ofNat 8 t.im, walkIn := BitVec.ofNat 8 t.in_, walkIk := BitVec.ofNat 8 t.ik } }

theorem Skin.advance_eq (k : Skin) (t : Step) :
    k.advance t = { k with jobs := (k.advance t).jobs, started := (k.advance t).started,
                           askipNow := (k.advance t).askipNow, wskipNow := (k.advance t).wskipNow } := by
  unfold Skin.advance
  split <;> rfl

theorem Skin.advance_jobs {k : Skin} {t : Step} {j : SkinJob} (jobs : k.jobs = [j]) (last : t.lastStep = true) :
    (k.advance t).jobs = [] := by
  simp [Skin.advance, jobs, last]

/-- A step whose loads write no scales enters its block at once. -/
def State.enterFirst (s : State) (d : Nat) (t : Step) : State := if t.ownScales then s else s.enterBlock d t

/-- The state in which a step without a fault loads or feeds: its block is entered, and its loads' accesses are made. -/
def State.stepStarted (s : State) (d : Nat) (t : Step) : State :=
  (((s.modDrum d (·.startedStep t)).enterFirst d t).access d (t.loadReads (s.drum d))).access d []

section
variable {s : State} {d : Nat} {t : Step}

theorem State.enterFirst_effect (hd : d < s.drums.length)
    (early : t.bell = true → t.ownScales = false → ((s.drum d).stack t.rd).early = []) :
    OnlyDrum d s (s.enterFirst d t) ∧
    (s.enterFirst d t).drum d = { s.drum d with
      shell := { (s.drum d).shell with blocks := ((s.enterFirst d t).drum d).shell.blocks } } ∧
    (t.bell = false ∨ t.ownScales = true → s.enterFirst d t = s) ∧
    (t.bell = true → t.ownScales = false → (((s.enterFirst d t).drum d).stack t.rd).started = true) := by
  unfold State.enterFirst
  cases own : t.ownScales with
  | true => exact ⟨.refl s d, rfl, fun _ => rfl, fun _ h => absurd h (by decide)⟩
  | false =>
    obtain ⟨only, drum, chain, bell⟩ := State.enterBlock_effect hd fun bell => early bell own
    exact ⟨only, drum, fun h => chain (h.resolve_right (by decide)), fun h _ => bell h⟩

theorem State.access_effect (hd : d < s.drums.length) (l : List Range) :
    SamePad (s.drum d).pad ((s.access d l).drum d).pad ∧
    (s.access d l).drum d = { s.drum d with pad := ((s.access d l).drum d).pad } := by
  rw [drum_access hd]
  exact ⟨accessAll_same .., rfl⟩

theorem State.stepStarted_effect (hd : d < s.drums.length)
    (early : t.bell = true → t.ownScales = false → ((s.drum d).stack t.rd).early = []) :
    OnlyDrum d s (s.stepStarted d t) ∧ SamePad (s.drum d).pad ((s.stepStarted d t).drum d).pad ∧
    (s.stepStarted d t).drum d = { (s.drum d).startedStep t with
      pad := ((s.stepStarted d t).drum d).pad
      shell := { (s.drum d).shell with blocks := ((s.stepStarted d t).drum d).shell.blocks } } ∧
    (t.bell = false ∨ t.ownScales = true → ((s.stepStarted d t).drum d).shell = (s.drum d).shell) ∧
    (t.bell = true → t.ownScales = false → (((s.stepStarted d t).drum d).stack t.rd).started = true) := by
  have hl : d < (s.modDrum d (·.startedStep t)).drums.length := by rwa [s.modDrum_length]
  have begun : (s.modDrum d (·.startedStep t)).drum d = (s.drum d).startedStep t := s.drum_modDrum hd _
  obtain ⟨only, drum, stays, started⟩ := State.enterFirst_effect (t := t) hl (by rw [begun]; exact early)
  rw [begun] at drum
  have he : d < ((s.modDrum d (·.startedStep t)).enterFirst d t).drums.length := only.drum_lt hl
  obtain ⟨pad, accessed⟩ := State.access_effect he (t.loadReads (s.drum d))
  obtain ⟨pad', accessed'⟩ := State.access_effect (by rwa [State.access_length]) []
    (s := ((s.modDrum d (·.startedStep t)).enterFirst d t).access d (t.loadReads (s.drum d)))
  rw [accessed] at accessed'
  have shell : ((s.stepStarted d t).drum d).shell = (((s.modDrum d (·.startedStep t)).enterFirst d t).drum d).shell :=
    (congrArg Drum.shell accessed' :)
  refine ⟨?_, ?_, ?_, fun h => ?_, fun bell own => ?_⟩
  · exact (onlyDrum_modDrum s d _).trans (only.trans ((onlyDrum_access _ d _).trans (onlyDrum_access _ d _)))
  · have entered : (((s.modDrum d (·.startedStep t)).enterFirst d t).drum d).pad = (s.drum d).pad :=
      (congrArg Drum.pad drum :)
    rw [entered] at pad
    exact pad.trans pad'
  · rw [shell]
    rw [drum] at accessed'
    exact accessed'
  · rw [shell, stays h, begun]
    rfl
  · rw [Drum.stack, shell]
    exact started bell own

/-- A step without a fault, on a pad whose words pass their parity: its loads begin, or its rows. -/
theorem State.startStep_sound (hd : d < s.drums.length) (faults : t.faults (s.drum d) = [])
    (sound : (s.drum d).pad.failed = [])
    (early : t.bell = true → t.ownScales = false → ((s.drum d).stack t.rd).early = []) :
    s.startStep d t =
      if t.loadw then (s.stepStarted d t).modSkin d fun k => { k with load := some t, tile := none, cells := [], sums := [] }
      else if t.loads then (s.stepStarted d t).loadsDone d t
      else (s.stepStarted d t).beginStep d t (!(s.drum d).skin.laneQ.isEmpty) := by
  have hl : d < (s.modDrum d (·.startedStep t)).drums.length := by rwa [s.modDrum_length]
  have begun : (s.modDrum d (·.startedStep t)).drum d = (s.drum d).startedStep t := s.drum_modDrum hd _
  obtain ⟨only, drum, -⟩ := State.enterFirst_effect (t := t) hl (by rw [begun]; exact early)
  have sound' : (((s.modDrum d (·.startedStep t)).enterFirst d t).drum d).pad.failed = [] := by
    rw [drum, begun]
    exact sound
  unfold State.startStep
  simp only [faults, List.isEmpty_nil, Bool.not_true, Bool.false_eq_true, if_false]
  exact State.readWrite_sound (only.drum_lt hl) sound' _ _ _ _

/-! ### A job taken up by a skin at rest -/

/-- A STRIKE on units at rest is not held. -/
theorem Drum.skinHeld_still {x : Drum} {j : SkinJob} (strike : opcode j.u.w = 0x10) (lanes : x.skin.laneQ = [])
    (leaves : x.shell.leaves = []) (queues : x.queues = ⟨[], [], [], []⟩) (roll : x.roll.cur = none)
    (tuner : x.tuner.cur = none) : x.skinHeld j = false := by
  have tap : j.isTap = false := by simp [SkinJob.isTap, strike]
  have waits : j.step.waits x = false := by simp [Step.waits, lanes, leaves]
  have reads : x.unitReads j.u.ord = 0 := by simp [Drum.unitReads, Drum.rollsBefore, orRows, queues, roll, tuner]
  have scales : x.scalesPending j = false := by simp [Drum.scalesPending, Drum.tunes, queues, tuner]
  simp [Drum.skinHeld, tap, waits, reads, scales]

/-- The skin takes up a STRIKE whose region and whose first step are without fault. -/
theorem State.skinStep_starts {j : SkinJob} (strike : opcode j.u.w = 0x10) (first : j.next = 0)
    (jobs : (s.drum d).skin.jobs = [j]) (load : (s.drum d).skin.load = none) (cur : (s.drum d).skin.cur = none)
    (idle : (s.drum d).preempting = none) (held : (s.drum d).skinHeld j = false)
    (region : (s.drum d).regionOk (j.ranges (s.drum d)) = true) : s.skinStep d = some (s.startStep d j.step) := by
  have check : j.isCheck = false := by simp [SkinJob.isCheck, strike]
  have tap : j.isTap = false := by simp [SkinJob.isTap, strike]
  have inside : s.regionFault d (j.ranges (s.drum d)) = [] := if_pos region
  have start : s.startSkin d j = s.startStep d j.step := by
    simp only [State.startSkin, check, tap, first, Bool.false_eq_true, if_false, if_true, State.startStrike, inside,
      List.isEmpty_nil]
  simp only [State.skinStep, cur, load, idle, jobs, held, Option.isSome_none, Bool.or_self, Bool.false_eq_true, if_false, start]

end

/-! ### What the checks of a job read -/

/-- Ranges of the region read the same from drums with the same pad, slots and run. -/
theorem Step.loadReads_congr {x y : Drum} (mem : y.pad.mem = x.pad.mem) (slot : y.slot = x.slot) (t : Step) :
    t.loadReads y = t.loadReads x := by
  have header (off : Nat) : y.sclHdr off = x.sclHdr off := by
    simp only [Drum.sclHdr, Drum.padBytes, Drum.abs, mem, slot]
  have bytes (off : Nat) : y.fileBytes off = x.fileBytes off := by simp only [Drum.fileBytes, header]
  simp only [Step.loadReads, header, bytes]

theorem SkinJob.ranges_congr {x y : Drum} (mem : y.pad.mem = x.pad.mem) (slot : y.slot = x.slot) (j : SkinJob) :
    j.ranges y = j.ranges x := by
  simp only [SkinJob.ranges, Step.ranges, Step.loadReads_congr mem slot]

theorem Drum.slot_congr {x y : Drum} (run : y.seq.run = x.seq.run) (slots : y.pad.slots = x.pad.slots) : y.slot = x.slot := by
  simp only [Drum.slot, Pad.slotOf, run, slots]

section
variable {x y : Drum} {n : Nat} {w : Quad} {j : SkinJob}

theorem Issued.slot (h : Issued x y n w j) : y.slot = x.slot := by
  obtain ⟨-, -, -, run, -⟩ := h.moved
  exact Drum.slot_congr run h.pad.slots

theorem Issued.ranges (h : Issued x y n w j) : j.ranges y = j.ranges x := SkinJob.ranges_congr h.pad.mem h.slot j

theorem Issued.regionOk (h : Issued x y n w j) (l : List Range) : y.regionOk l = x.regionOk l := by
  simp only [Drum.regionOk, h.slot]

theorem Issued.faults (h : Issued x y n w j) (t : Step) : t.faults y = t.faults x := by
  rw [h.same]
  rfl

theorem Issued.jobs (h : Issued x y n w j) : y.skin.jobs = x.skin.jobs ++ [j] := by rw [h.same]

end

/-! ### STRIKE -/

theorem Drum.newJob_w (x : Drum) (w : Quad) (par : Bool) : (x.newJob w par).w = w := by
  unfold Drum.newJob
  split <;> rfl

theorem Drum.newJob_ord {x : Drum} (h : x.seq.reissue = []) (w : Quad) (par : Bool) : (x.newJob w par).ord = x.seq.ord := by
  simp only [Drum.newJob, h]

theorem Moved.congr {x y z : Drum} {n : Nat} {w : Quad} (h : Moved x y n w) (pc : z.seq.pc = y.seq.pc)
    (lastop : z.seq.lastop = y.seq.lastop) (issued : z.seq.issued = y.seq.issued) (run : z.seq.run = y.seq.run)
    (stopped : z.seq.stopped = y.seq.stopped) : Moved x z n w := by
  unfold Moved
  rw [pc, lastop, issued, run, stopped]
  exact h

theorem Issued.shell {x y : Drum} {n : Nat} {w : Quad} {j : SkinJob} (h : Issued x y n w j) : y.shell = x.shell := by rw [h.same]

theorem Issued.othersRest {x y : Drum} {n : Nat} {w : Quad} {j : SkinJob} (h : Issued x y n w j) (rest : x.othersRest) :
    y.othersRest := rest.congr (by rw [h.same]) (by rw [h.same]) (by rw [h.same])

section
variable {s u : State} {d n : Nat} {w : Quad} {j : SkinJob}

theorem exec_strike (offers : s.offers d w) (op : opcode w = 0x10) :
    exec (.strike d) s = .next (strikeRun d w s (s.fetched d)) := by
  have run : execStrike d s = .next (strikeRun d w s (s.fetched d)) := by
    rw [execStrike, onDrum, if_pos offers.1, issue_offered offers (by rw [op]; decide), if_pos ⟨op, rfl⟩]
  exact run

/-- Behind a weight load the strike stays in the queue. -/
theorem Issued.queued {x : Drum} (h : Issued x (u.drum d) n w j) (load : x.skin.load.isSome = true) (cur : x.skin.cur = none)
    (rest : x.othersRest) : u.unitsRun d = u := by
  refine unitsGo_idle (h.othersRest rest) ?_ (.inr ?_) _
  · rw [h.same]
    exact cur
  · rw [h.same]
    exact load

/-- On units that are still the strike's first step starts. -/
theorem Issued.starts {x : Drum} (h : Issued x (u.drum d) n w j) (strike : opcode j.u.w = 0x10) (first : j.next = 0)
    (still : x.still) (region : x.regionOk (j.ranges x) = true) :
    ∃ k, 4 ≤ k ∧ u.unitsRun d = unitsGo d k (u.startStep d j.step) := by
  obtain ⟨jobs, load, cur, lanes, leaves, queues, roll, tuner, -, idle, -⟩ := still
  have same := h.same
  have held : (u.drum d).skinHeld j = false := by
    refine Drum.skinHeld_still strike ?_ ?_ ?_ ?_ ?_ <;> rw [same] <;> assumption
  have next : u.unitStep d = some (u.startStep d j.step) := by
    rw [State.unitStep_eq_skinStep (h.othersRest (Drum.othersRest_of_empty queues roll tuner))]
    refine State.skinStep_starts strike first ?_ ?_ ?_ ?_ held ?_
    · rw [h.jobs, jobs, List.nil_append]
    · rw [same]
      exact load
    · rw [same]
      exact cur
    · rw [same]
      exact idle
    · rw [h.regionOk, h.ranges]
      exact region
  obtain ⟨k, fuel⟩ := Nat.exists_eq_add_of_le' (Drum.workLeft_ge (u.drum d))
  refine ⟨k + 7, by omega, ?_⟩
  rw [State.unitsRun, fuel]
  exact unitsGo_of_some next _

/-- From the drum x that offered a STRIKE to y its step t has started, with no loads made and no row fed yet. -/
structure StepBegun (x y : Drum) (n : Nat) (w : Quad) (t : Step) : Prop where
  moved : Moved x y n w
  pad : SamePad x.pad y.pad
  shell : y.shell = { x.shell with blocks := y.shell.blocks }
  sameShell : t.bell = false ∨ t.ownScales = true → y.shell = x.shell
  started : t.bell = true → t.ownScales = false → (y.stack t.rd).started = true
  others : x.othersRest → y.othersRest

theorem Issued.stepStarted {x : Drum} (hu : d < u.drums.length) (h : Issued x (u.drum d) n w j) {t : Step}
    (early : t.bell = true → t.ownScales = false → (x.stack t.rd).early = []) :
    OnlyDrum d u (u.stepStarted d t) ∧ StepBegun x ((u.stepStarted d t).drum d) n w t ∧
    ((u.stepStarted d t).drum d).skin = (u.drum d).skin.advance t := by
  obtain ⟨moved, pad, same⟩ := h
  have shell : (u.drum d).shell = x.shell := by rw [same]
  obtain ⟨only, pad', drum, stays, started⟩ := State.stepStarted_effect (t := t) hu (by rwa [Drum.stack, shell])
  refine ⟨only, ⟨?_, pad.trans pad', ?_, ?_, started, fun rest => ?_⟩, ?_⟩
  · rw [drum]
    exact moved.congr rfl rfl rfl rfl rfl
  · rw [drum, shell]
  · rw [← shell]
    exact stays
  · rw [drum]
    refine rest.congr ?_ ?_ ?_ <;> rw [same] <;> rfl
  · rw [drum]
    rfl

/-- A STRIKE whose first step loads weights: the load has started, and the latches are empty. -/
theorem Issued.loads {x : Drum} (hu : d < u.drums.length) (h : Issued x (u.drum d) n w j) (strike : opcode j.u.w = 0x10)
    (first : j.next = 0) (still : x.still) (region : x.regionOk (j.ranges x) = true) (faults : j.step.faults x = [])
    (loadw : j.step.loadw = true)
    (early : j.step.bell = true → j.step.ownScales = false → (x.stack j.step.rd).early = []) :
    OnlyDrum d u (u.unitsRun d) ∧ StepBegun x ((u.unitsRun d).drum d) n w j.step ∧
    ((u.unitsRun d).drum d).skin.load = some j.step ∧ ((u.unitsRun d).drum d).skin.tile = none := by
  obtain ⟨k, -, run⟩ := h.starts strike first still region
  obtain ⟨-, -, cur, -, -, queues, roll, tuner, -, -, sound⟩ := still
  obtain ⟨only, begun, skin⟩ := h.stepStarted hu early
  have hb : d < (u.stepStarted d j.step).drums.length := only.drum_lt hu
  have start := State.startStep_sound hu ((h.faults j.step).trans faults) (h.pad.failed.trans sound) (by
    rw [Drum.stack, h.shell]
    exact early)
  rw [if_pos loadw] at start
  have drum := (u.stepStarted d j.step).drum_modSkin hb fun k =>
    { k with load := some j.step, tile := none, cells := [], sums := [] }
  have others := begun.others (Drum.othersRest_of_empty queues roll tuner)
  have cur' : ((u.stepStarted d j.step).drum d).skin.cur = none := by
    rw [skin, Skin.advance_eq, h.same]
    exact cur
  rw [run, start, unitsGo_idle (by rw [drum]; exact others) (by rw [drum]; exact cur') (.inr (by rw [drum]; rfl)), drum]
  exact ⟨only.trans (onlyDrum_modSkin _ d _), ⟨begun.moved, begun.pad, begun.shell, begun.sameShell, begun.started, begun.others⟩,
    rfl, rfl⟩

/-- A STRIKE of one step that loads nothing: its rows stand in the lane queues, four at most. -/
theorem Issued.feeds {x : Drum} (hu : d < u.drums.length) (h : Issued x (u.drum d) n w j) (strike : opcode j.u.w = 0x10)
    (first : j.next = 0) (still : x.still) (region : x.regionOk (j.ranges x) = true) (faults : j.step.faults x = [])
    (loads : j.step.loads = false) (last : j.step.lastStep = true) (rows : j.step.empty = false)
    (early : j.step.bell = true → (x.stack j.step.rd).early = []) :
    OnlyDrum d u (u.unitsRun d) ∧ StepBegun x ((u.unitsRun d).drum d) n w j.step ∧
    ((u.unitsRun d).drum d).skin.laneQ.length = min 4 j.step.m ∧ ((u.unitsRun d).drum d).skin.jobs = [] ∧
    (∀ r ∈ ((u.unitsRun d).drum d).skin.laneQ, r.step = j.step) ∧
    ((u.unitsRun d).drum d).skin.tile = x.skin.tile := by
  obtain ⟨k, fuel, run⟩ := h.starts strike first still region
  obtain ⟨jobs, -, -, lanes, -, queues, roll, tuner, -, -, sound⟩ := still
  obtain ⟨only, begun, skin⟩ := h.stepStarted hu fun bell _ => early bell
  have hb : d < (u.stepStarted d j.step).drums.length := only.drum_lt hu
  have no_loadw : j.step.loadw = false := by
    simp only [Step.loads, Bool.or_eq_false_iff] at loads
    exact loads.1
  have lanes' : (u.drum d).skin.laneQ = [] := by
    rw [h.same]
    exact lanes
  have start := State.startStep_sound hu ((h.faults j.step).trans faults) (h.pad.failed.trans sound) (by
    rw [Drum.stack, h.shell]
    exact fun bell _ => early bell)
  rw [no_loadw, if_neg Bool.false_ne_true, loads, if_neg Bool.false_ne_true] at start
  have jobs' : ((u.stepStarted d j.step).drum d).skin.jobs = [] := by
    rw [skin]
    exact Skin.advance_jobs (by rw [h.jobs, jobs, List.nil_append]) last
  have others := begun.others (Drum.othersRest_of_empty queues roll tuner)
  obtain ⟨fed, feeds, queue, row⟩ := State.beginStep_feeds hb rows others (begun.pad.failed.trans sound) jobs'
    (!(u.drum d).skin.laneQ.isEmpty)
  have only' := onlyDrum_beginStep (u.stepStarted d j.step) d j.step (!(u.drum d).skin.laneQ.isEmpty)
  obtain ⟨only'', fed', length, steps⟩ := unitsGo_feeds k (only'.drum_lt hb) feeds (Nat.le_add_right_of_le fuel)
  have fed_all := fed.trans fed'
  have queue' : ((u.stepStarted d j.step).drum d).skin.laneQ = [] := by
    rw [skin, Skin.advance_eq]
    exact lanes'
  have tile : ((u.stepStarted d j.step).drum d).skin.tile = x.skin.tile := by
    rw [skin, Skin.advance_eq, h.same]
  rw [run, start]
  rw [queue, queue', row, List.length_nil, Nat.zero_add, Nat.sub_zero, Nat.zero_max] at length
  refine ⟨only.trans (only'.trans only''), ⟨?_, begun.pad.trans fed_all.pad, ?_, ?_, ?_, fed_all.othersRest ∘ begun.others⟩,
    length, fed_all.jobs.trans jobs', fun r hr => ?_, fed_all.tile.trans tile⟩
  · have seq := fed_all.seq
    exact begun.moved.congr (by rw [seq]) (by rw [seq]) (by rw [seq]) (by rw [seq]) (by rw [seq])
  · rw [fed_all.shell]
    exact begun.shell
  · rw [fed_all.shell]
    exact begun.sameShell
  · rw [Drum.stack, fed_all.shell]
    exact begun.started
  · refine (steps r hr).resolve_left ?_
    rw [queue, queue']
    exact List.not_mem_nil

end

/-! ### The queue of a unit -/

theorem exec_convert_takes {s : State} {d : Nat} {w : Quad} {par : Bool} (offers : s.offers d w) (op : opcode w = 0x20)
    (convert : (tuneW w).op = 2) : ∃ more, exec (.convert d par) s =
      .next (issueTo d .tuner par (fun w => (tuneW w).rsv) more w s (s.fetched d)) := by
  have run : execConvert d par s = .next (s.tune d 2 par) := by rw [execConvert, onDrum, if_pos offers.1]
  rw [State.tune, issue_offered offers (by rw [op]; decide), if_pos ⟨op, by rw [convert]; rfl⟩] at run
  exact ⟨_, run⟩

/-- A TUNE's word is taken and its job stands last in the tuner's queue, where a shared TUNE holds it. -/
theorem issueTo_waits {s : State} {d : Nat} {w : Quad} {par : Bool} {bad : Quad → Bool} {more : State → UnitJob → List Nat}
    {l : List UnitJob} (offers : s.offers d w) (good : bad w = false) (jobs : (s.drum d).skin.jobs = [])
    (cur : (s.drum d).skin.cur = none) (roll : (s.drum d).roll.cur = none) (queues : (s.drum d).queues = ⟨l, [], [], []⟩)
    (tuner : (s.drum d).tuner.cur = none) (shared : (s.drum d).tuner.share.isSome = true) (room : l.length < 2) :
    ∃ t, issueTo d .tuner par bad more w s (s.fetched d) = t ∧ OnlyDrum d s t ∧ Moved (s.drum d) (t.drum d) 1 w ∧
      SamePad (s.drum d).pad (t.drum d).pad ∧
      t.drum d = { s.drum d with seq := (t.drum d).seq, pad := (t.drum d).pad
                                 queues := ⟨l ++ [((s.drum d).fetched s.beat).newJob w par], [], [], []⟩ } := by
  obtain ⟨-, hl, -, reissue, -⟩ := offers
  have fetched := drum_fetched hl
  have filled := fetched_filled (s.drum d) s.beat
  have queues' : ((s.drum d).fetched s.beat).queues = ⟨l, [], [], []⟩ := by
    rw [Drum.fetched, fillLine_queues]
    exact queues
  have space : ¬ 2 ≤ (((s.drum d).fetched s.beat).queues.get .tuner).length := by
    rw [queues']
    exact Nat.not_le.2 room
  let j := ((s.drum d).fetched s.beat).newJob w par
  let t := ((s.fetched d).took d 1 w).modDrum d fun y => y.setQueue .tuner (y.queues.get .tuner ++ [j])
  have drum : t.drum d = { s.drum d with
      seq := ((s.drum d).fetched s.beat).seq.took 1 w, pad := ((s.drum d).fetched s.beat).pad
      queues := ⟨l ++ [j], [], [], []⟩ } := by
    dsimp only [t]
    rw [State.drum_modDrum _ (by rwa [State.took_length, fetched_length]), drum_took (by rwa [fetched_length]), fetched,
      Drum.setQueue, queues', filled.same]
    rfl
  have idle : t.unitsRun d = t := by
    refine unitsGo_idle ?_ (by rw [drum]; exact cur) (.inl (by rw [drum]; exact jobs)) _
    rw [drum]
    exact ⟨rfl, rfl, rfl, .inr shared, roll, tuner⟩
  refine ⟨t, ?_, ?_, filled.moved reissue (by rw [drum]), by rw [drum]; exact filled.pad, by rw [drum]⟩
  · rw [← idle]
    simp only [issueTo, fetched, if_neg space, good, Bool.false_eq_true, if_false]
    rfl
  · exact (onlyDrum_fetched s d).trans ((onlyDrum_took _ d 1 w).trans (onlyDrum_modDrum _ d _))

/-- Settles O9: the first part by what the skin does with the job that it is handed, the second by the length of the tuner's
queue. -/
theorem strikeQueuesLoadsOrFeeds : Obligations.StrikeQueuesLoadsOrFeeds := by
  refine ⟨?_, ?_⟩
  · intro s d w offers op room sound inside x j n walk
    obtain ⟨u, run, only, issued⟩ := strikeRun_issues offers room sound inside walk
    have exec_eq : exec (.strike d) s = .next (u.unitsRun d) := (exec_strike offers op).trans (congrArg _ run)
    have ⟨_, hl, _⟩ := offers
    have hu := only.drum_lt hl
    have strike : opcode j.u.w = 0x10 := by
      rw [show j.u.w = w from x.newJob_w w true]
      exact op
    refine ⟨fun load cur queues roll tuner => ?_, fun still region faults =>
      ⟨fun loadw early => ?_, fun loads one rows early => ?_⟩⟩
    · rw [issued.queued load cur (Drum.othersRest_of_empty queues roll tuner)] at exec_eq
      exact ⟨u, exec_eq, only, issued.moved, by rw [issued.same]; rfl, issued.shell, issued.pad⟩
    · obtain ⟨only', begun, load, tile⟩ := issued.loads hu strike rfl still region faults loadw early
      exact ⟨_, exec_eq, only.trans only', begun.moved, load, tile, begun.sameShell,
        fun bell own => ⟨begun.shell, begun.started bell own⟩, begun.pad⟩
    · have last : j.step.lastStep = true := decide_eq_true one.symm
      obtain ⟨only', begun, length, jobs, steps, tile⟩ := issued.feeds hu strike rfl still region faults loads last rows early
      exact ⟨_, exec_eq, only.trans only', begun.moved, length, jobs, steps, tile, by rw [begun.shell], begun.pad⟩
  · intro s d w l par offers op convert rsv x jobs load cur roll queues tuner shared
    obtain ⟨more, exec_eq⟩ := exec_convert_takes (par := par) offers op convert
    have ⟨_, hl, _, withdrawn, _⟩ := offers
    refine ⟨fun room => ?_, fun full => ?_⟩
    · obtain ⟨t, issued, only, moved, pad, drum⟩ :=
        issueTo_waits (bad := fun w => (tuneW w).rsv) (more := more) offers rsv jobs cur roll queues tuner shared room
      rw [issued] at exec_eq
      have filled := fetched_filled (s.drum d) s.beat
      refine ⟨t, exec_eq, only, moved, by rw [drum], pad.mem, _, by rw [drum], Drum.newJob_w .., ?_⟩
      exact (Drum.newJob_ord (filled.reissue.trans withdrawn) w par).trans filled.ord
    · have fullQueue : 2 ≤ ((s.drum d).fetched s.beat).queues.tuner.length := by
        rw [Drum.fetched, fillLine_queues, queues]
        exact full
      rw [issueTo, drum_fetched hl] at exec_eq
      exact exec_eq.trans (congrArg _ (if_pos fullQueue))

end Sys2Proof.Machine
end

section
/-! A TUNE on a drum whose units are still: its issue, its decode and its row-wise form (R148-R154, R167). -/

namespace Sys2Proof.Machine

/-! ### A drum whose sequencer has taken an instruction -/

/-- From x to y the sequencer has taken the instruction w, and the pad has noted accesses; nothing else differs. -/
structure Taken (w : Quad) (x y : Drum) : Prop where
  moved : Moved x y 1 w
  cls : y.seq.cls = x.seq.cls
  pad : SamePad x.pad y.pad
  same : y = { x with seq := y.seq, pad := y.pad }

section
variable {w : Quad} {x y z : Drum}

theorem Taken.run (h : Taken w x y) : y.seq.run = x.seq.run := by
  obtain ⟨-, -, -, run, -⟩ := h.moved
  exact run
theorem Taken.tuner (h : Taken w x y) : y.tuner = x.tuner := by rw [h.same]
theorem Taken.shell (h : Taken w x y) : y.shell = x.shell := by rw [h.same]
theorem Taken.logical (h : Taken w x y) : y.logical = x.logical := by rw [h.same]
theorem Taken.mem (h : Taken w x y) : y.pad.mem = x.pad.mem := h.pad.mem
theorem Taken.slot (h : Taken w x y) : y.slot = x.slot := Drum.slot_congr h.run h.pad.slots
theorem Taken.abs (h : Taken w x y) (off : Nat) : y.abs off = x.abs off := by simp only [Drum.abs, h.slot]
theorem Taken.regionOk (h : Taken w x y) (l : List Range) : y.regionOk l = x.regionOk l := by
  simp only [Drum.regionOk, h.slot]
theorem Taken.padBytes (h : Taken w x y) (off n : Nat) : y.padBytes off n = x.padBytes off n := by
  simp only [Drum.padBytes, h.mem, h.abs]
theorem Taken.padNat (h : Taken w x y) (off n : Nat) : y.padNat off n = x.padNat off n := by
  simp only [Drum.padNat, h.mem, h.abs]
theorem Taken.sclHdr (h : Taken w x y) (off : Nat) : y.sclHdr off = x.sclHdr off := by
  simp only [Drum.sclHdr, h.padBytes]
theorem Taken.blockRow (h : Taken w x y) (off m : Nat) : y.blockRow off m = x.blockRow off m := by
  simp only [Drum.blockRow, halfAt, h.sclHdr, h.padNat]
theorem Taken.blockZp (h : Taken w x y) (off m i : Nat) : y.blockZp off m i = x.blockZp off m i := by
  simp only [Drum.blockZp, h.sclHdr, h.padNat]
theorem Taken.wideRow (h : Taken w x y) (q : TuneW) (f : TFmt) (m : Nat) : y.wideRow q f m = x.wideRow q f m := by
  simp only [Drum.wideRow, h.shell, h.padBytes]
theorem Taken.folds (h : Taken w x y) (q : TuneW) : y.folds q = x.folds q := by simp only [Drum.folds, h.tuner, h.cls]
theorem Taken.hdrBad (h : Taken w x y) (q : TuneW) : q.hdrBad y = q.hdrBad x := by simp only [TuneW.hdrBad, h.sclHdr]

/-- Accesses noted after the instruction. -/
theorem Taken.noted (h : Taken w x y) {p : Pad} (noted : SamePad y.pad p) : Taken w x { y with pad := p } :=
  ⟨h.moved, h.cls, h.pad.trans noted, by rw [h.same]⟩

/-- The same change of both tuners. -/
theorem Taken.withTuner (h : Taken w x y) {t u : Tuner} (tuner : u = t) : Taken w { x with tuner := t } { y with tuner := u } :=
  ⟨h.moved, h.cls, h.pad, by rw [h.same, tuner]⟩

theorem SamePad.put {p q : Pad} (h : SamePad p q) (a : Nat) (l : List Byte) : SamePad (p.put a l) (q.put a l) := by
  unfold SamePad at *
  rw [h]
  rfl

/-- The same bytes written to both pads. -/
theorem Taken.padPut (h : Taken w x y) (off : Nat) (l : List Byte) : Taken w (x.padPut off l) (y.padPut off l) := by
  refine ⟨h.moved, h.cls, ?_, ?_⟩
  · simp only [Drum.padPut, h.abs]
    exact h.pad.put _ l
  · unfold Drum.padPut
    rw [h.same]

theorem Taken.still (h : Taken w x y) (k : x.still) : y.still := by
  unfold Drum.still at *
  rw [h.pad.failed, h.same]
  exact k

section
variable {u : State} {d : Nat}

theorem Taken.access (hd : d < u.drums.length) (h : Taken w x (u.drum d)) (l : List Range) :
    Taken w x ((u.access d l).drum d) := by
  rw [drum_access hd]
  exact h.noted (accessAll_same ..)

theorem Taken.reach (hd : d < u.drums.length) (h : Taken w x (u.drum d)) (l : List Range) :
    Taken w x ((u.reach d l).drum d) := by
  rw [State.reach, u.drum_modDrum hd]
  exact h.noted (foldl_samePad (fun p r => reach_same p u.beat _ r.len) l _)

theorem onlyDrum_reach (u : State) (d : Nat) (l : List Range) : OnlyDrum d u (u.reach d l) := onlyDrum_modDrum u d _
theorem onlyDrum_modTuner (u : State) (d : Nat) (f : Tuner → Tuner) : OnlyDrum d u (u.modTuner d f) := onlyDrum_modDrum u d _

end

/-! ### What the tuner changes -/

/-- From x to z the tuner has been at work: beside it only the bytes of the pad differ. -/
structure Retuned (x z : Drum) : Prop where
  same : z = { x with tuner := z.tuner, pad := z.pad }
  cur : z.tuner.cur = x.tuner.cur
  pad : z.pad = { x.pad with mem := z.pad.mem, failed := z.pad.failed }
  failed : x.pad.failed = [] → z.pad.failed = []

theorem Retuned.refl (x : Drum) : Retuned x x := ⟨rfl, rfl, rfl, id⟩

theorem Retuned.withTuner (h : Retuned x z) {t : Tuner} (cur : t.cur = z.tuner.cur) : Retuned x { z with tuner := t } :=
  ⟨by rw [h.same], cur.trans h.cur, h.pad, h.failed⟩

theorem Pad.put_failed {p : Pad} (sound : p.failed = []) (a : Nat) (l : List Byte) : (p.put a l).failed = [] := by
  rw [Pad.put, sound]
  rfl

theorem Retuned.padPut (h : Retuned x z) (off : Nat) (l : List Byte) : Retuned x (z.padPut off l) := by
  refine ⟨?_, h.cur, ?_, fun sound => Pad.put_failed (h.failed sound) _ l⟩
  · unfold Drum.padPut
    rw [h.same]
  · unfold Drum.padPut Pad.put
    rw [h.pad]

theorem Retuned.slot (h : Retuned x z) : z.slot = x.slot := by
  refine Drum.slot_congr ?_ ?_
  · rw [h.same]
  · rw [h.pad]
theorem Retuned.abs (h : Retuned x z) (off : Nat) : z.abs off = x.abs off := by simp only [Drum.abs, h.slot]
theorem Retuned.shell (h : Retuned x z) : z.shell = x.shell := by rw [h.same]

/-- The only work of the drum's units, if any, is the tuner's. -/
theorem Drum.still.skin_rests (h : x.still) : x.skin.jobs = [] ∧ x.skin.cur = none ∧ x.queues = ⟨[], [], [], []⟩ ∧ x.roll.cur = none := by
  obtain ⟨jobs, -, cur, -, -, queues, roll, -⟩ := h
  exact ⟨jobs, cur, queues, roll⟩

/-- A TUNE that has ended leaves nothing to do. -/
theorem unitsGo_settled {u : State} {d : Nat} (still : x.still) (work : Retuned x z) (taken : Taken w z (u.drum d)) (n : Nat) :
    unitsGo d n u = u := by
  obtain ⟨jobs, cur, queues, roll⟩ := still.skin_rests
  obtain ⟨-, -, -, -, -, -, -, idle, -⟩ := still
  have same : u.drum d = { x with seq := (u.drum d).seq, pad := (u.drum d).pad, tuner := z.tuner } := by
    rw [taken.same, work.same]
  refine unitsGo_idle (Drum.othersRest_of_empty ?_ ?_ ?_) ?_ (.inl ?_) n
  · rw [same]
    exact queues
  · rw [same]
    exact roll
  · rw [taken.tuner]
    exact work.cur.trans idle
  · rw [same]
    exact cur
  · rw [same]
    exact jobs

end

/-! ### The issue of a TUNE -/

/-- Drum d offers the TUNE w in run r; its units are still, and the TUNE's decode finds no fault. -/
structure State.Tunes (s : State) (d : Nat) (w : Quad) (r : RunId) : Prop where
  offers : s.offers d w
  opcode : opcode w = 0x20
  run : (s.drum d).seq.run = some r
  good : (tuneW w).rsv = false
  still : (s.drum d).still
  closed : (s.drum d).shell.openRow (tuneW w).rowsRead = false
  faults : (tuneW w).faults s d r = []

theorem fillLine_cls (x : Drum) (beat : Dword) (pc : Nat) : (x.fillLine beat pc).seq.cls = x.seq.cls := by
  simp only [Drum.fillLine]
  split <;> rfl

theorem newJob_fetched (x : Drum) (beat : Dword) (w : Quad) (par : Bool) : (x.fetched beat).newJob w par = x.newJob w par := by
  simp only [Drum.newJob, Drum.fetched, Seq.nextPc, fillLine_reissue, fillLine_ord, fillLine_fuse, fillLine_pc]

/-- The tuner of a drum whose units were still takes a TUNE up, unless it waits for an open bell row. -/
theorem Drum.still.takesTune {x y : Drum} {l : List UnitJob} (h : x.still)
    (same : y = { x with seq := y.seq, pad := y.pad, queues := ⟨l, [], [], []⟩ }) {j : UnitJob}
    (closed : x.shell.openRow (tuneW j.w).rowsRead = false) : y.tuneHeld j = false := by
  obtain ⟨jobs, load, cur, lanes, leaves, -, roll, -, share, -⟩ := h
  have skin (o : Nat) : y.skinWrites o = 0 := by
    rw [same]
    simp [Drum.skinWrites, Skin.steps, jobs, load, cur, lanes, leaves, orRows]
  have units : y.unitWrites j.ord = 0 := by
    rw [same]
    simp [Drum.unitWrites, Drum.rollsBefore, roll, orRows]
  have last : y.unwritten (j.ord - 1) = 0 := by
    rw [same]
    simp [Drum.unwritten, jobs, load, cur, lanes, orRows]
  have jobs' : y.skin.jobs = [] := by rw [same]; exact jobs
  have load' : y.skin.load = none := by rw [same]; exact load
  have steps : y.skin.steps = [] := by
    rw [same]
    simp [Skin.steps, load, cur, lanes]
  have share' : y.tuner.share = none := by rw [same]; exact share
  have closed' : y.shell.openRow (tuneW j.w).rowsRead = false := by rw [same]; exact closed
  have rows : y.tuneRowsHeld j = false := by
    unfold Drum.tuneRowsHeld
    simp only []
    split <;> simp [jobs', load', skin, units, last, closed', Drum.rowsHeld]
  simp [Drum.tuneHeld, share', rows, Drum.scalesUsed, steps, jobs', Drum.checkHolds]

section
variable {s u t : State} {d : Nat} {w : Quad} {r : RunId}

theorem drumSet_congr (h : u.met = s.met) (r : RunId) : drumSet u r = drumSet s r := by
  unfold drumSet State.task? State.job?
  rw [h]

theorem OnlyDrum.met (h : OnlyDrum d s u) : u.met = s.met := by rw [h.1]

/-- The decode of a TUNE does not look at the sequencer's place, nor at the accesses noted. -/
theorem TuneW.faults_congr (q : TuneW) (only : OnlyDrum d s u) (taken : Taken w (s.drum d) (u.drum d)) :
    q.faults u d r = q.faults s d r := by
  have bad : q.bad u (u.drum d) r = q.bad s (s.drum d) r := by
    simp only [TuneW.bad, TuneW.recBad, taken.tuner, drumSet_congr only.met]
  have ranges : q.ranges (u.drum d) = q.ranges (s.drum d) := by
    simp only [TuneW.ranges, TuneW.readRanges, taken.sclHdr]
  simp only [TuneW.faults, State.regionFault, bad, ranges, taken.regionOk, taken.abs]

/-- The state with a TUNE handed to the tuner of drum d. -/
def State.tuneQueued (s : State) (d : Nat) (w : Quad) : State :=
  ((s.fetched d).took d 1 w).modDrum d fun y => y.setQueue .tuner (y.queues.get .tuner ++ [(s.drum d).newJob w true])

theorem State.tuneQueued_drum (h : s.Tunes d w r) : (s.tuneQueued d w).drum d = { s.drum d with
    seq := ((s.drum d).fetched s.beat).seq.took 1 w, pad := ((s.drum d).fetched s.beat).pad
    queues := ⟨[(s.drum d).newJob w true], [], [], []⟩ } := by
  obtain ⟨-, hl, -⟩ := h.offers
  have ⟨_, _, queues, _⟩ := h.still.skin_rests
  have queues' : ((s.drum d).fetched s.beat).queues = ⟨[], [], [], []⟩ := by
    rw [Drum.fetched, fillLine_queues]
    exact queues
  rw [State.tuneQueued, State.drum_modDrum _ (by rwa [State.took_length, fetched_length]),
    drum_took (by rwa [fetched_length]), drum_fetched hl, Drum.setQueue, queues', (fetched_filled (s.drum d) s.beat).same]
  rfl

theorem State.tune_queues (h : s.Tunes d w r) {op : Nat} (kind : (tuneW w).op = op) :
    s.tune d op true = (s.tuneQueued d w).unitsRun d := by
  have ⟨_, hl, _⟩ := h.offers
  have ⟨_, _, queues, _⟩ := h.still.skin_rests
  have room : ¬ 2 ≤ (((s.fetched d).drum d).queues.get .tuner).length := by
    rw [drum_fetched hl, Drum.fetched, fillLine_queues, queues]
    decide
  have fits : ((tuneW w).op == op || decide (8 < (tuneW w).op)) = true := by rw [kind, beq_self_eq_true, Bool.true_or]
  rw [State.tune, issue_offered h.offers (by rw [h.opcode]; decide), if_pos ⟨h.opcode, fits⟩]
  simp only [issueTo, if_neg room, h.good, Bool.false_eq_true, if_false]
  rw [drum_fetched hl, newJob_fetched]
  rfl

/-- The tuner takes the TUNE from its queue. -/
theorem State.unitStep_tune (h : s.Tunes d w r) : (s.tuneQueued d w).unitStep d =
    some (((s.tuneQueued d w).takeFront d .tuner).startTune d ((s.drum d).newJob w true)) := by
  have queued := State.tuneQueued_drum h
  have free : ((s.tuneQueued d w).drum d).tuneHeld ((s.drum d).newJob w true) = false :=
    h.still.takesTune (by rw [queued]) (by rw [Drum.newJob_w]; exact h.closed)
  obtain ⟨jobs, -, cur, -, -, -, -, idle, -, calm, -⟩ := h.still
  have skin : (s.tuneQueued d w).skinStep d = none := by
    refine State.skinStep_none ?_ (.inl ?_) <;> rw [queued] <;> assumption
  have idle' : ((s.tuneQueued d w).drum d).tuner.cur = none := by rw [queued]; exact idle
  have calm' : ((s.tuneQueued d w).drum d).preempting = none := by rw [queued]; exact calm
  have waits : ((s.tuneQueued d w).drum d).queues.get .tuner = [(s.drum d).newJob w true] := by rw [queued]; rfl
  simp only [State.unitStep, skin, State.tunerStep, idle', Drum.front, calm', waits, free, Option.isSome_none,
    Bool.false_eq_true, if_false, Option.map_some]

/-- The drum with the TUNE off the queue. -/
theorem State.Tunes.taken (h : s.Tunes d w r) : OnlyDrum d s ((s.tuneQueued d w).takeFront d .tuner) ∧
    Taken w (s.drum d) (((s.tuneQueued d w).takeFront d .tuner).drum d) := by
  have ⟨_, hl, _, reissue, _⟩ := h.offers
  have ⟨_, _, queues, _⟩ := h.still.skin_rests
  have filled := fetched_filled (s.drum d) s.beat
  have only : OnlyDrum d s (s.tuneQueued d w) :=
    (onlyDrum_fetched s d).trans ((onlyDrum_took _ d 1 w).trans (onlyDrum_modDrum _ d _))
  have drum : ((s.tuneQueued d w).takeFront d .tuner).drum d = { s.drum d with
      seq := ((s.drum d).fetched s.beat).seq.took 1 w, pad := ((s.drum d).fetched s.beat).pad } := by
    rw [State.takeFront, State.drum_modDrum _ (only.drum_lt hl), State.tuneQueued_drum h]
    exact congrArg (fun l => ({ s.drum d with seq := _, pad := _, queues := l } : Drum)) queues.symm
  refine ⟨only.trans (onlyDrum_takeFront _ d .tuner), ?_⟩
  rw [drum]
  refine ⟨filled.moved reissue rfl, ?_, filled.pad, rfl⟩
  rw [took_eq _ _ _ (filled.reissue.trans reissue)]
  exact fillLine_cls ..

theorem Drum.newJob_par (x : Drum) (w : Quad) (par : Bool) : (x.newJob w par).par = par := by
  unfold Drum.newJob
  split <;> rfl

/-- The effect of a TUNE past its decode: its rows one by one, or the whole of it. -/
def State.tuneEffect (s : State) (d : Nat) (w : Quad) (r : RunId) (j : UnitJob) : State :=
  if j.rowWise then s.beginTune d j else s.runTune d (tuneW w) r j

/-- A TUNE whose decode finds no fault notes its accesses before its effect. -/
theorem State.startTune_sound {x : Drum} {j : UnitJob} (hu : d < u.drums.length) (taken : Taken w x (u.drum d))
    (sound : x.pad.failed = []) (run : x.seq.run = some r) (word : j.w = w) (par : j.par = true)
    (faults : (tuneW w).faults u d r = []) :
    ∃ v, u.startTune d j = v.tuneEffect d w r j ∧ OnlyDrum d u v ∧ Taken w x (v.drum d) := by
  have hv : d < (u.access d ((tuneW w).readRanges (u.drum d))).drums.length := by rwa [u.access_length]
  refine ⟨_, ?_, (onlyDrum_access u d ((tuneW w).readRanges (u.drum d))).trans (onlyDrum_access _ d (tuneW w).writeRanges),
    (taken.access hu _).access hv _⟩
  simp only [State.startTune, taken.run.trans run, word, faults, List.isEmpty_nil, Bool.not_true, Bool.false_eq_true, if_false]
  rw [State.readWrite_sound hu (taken.pad.failed.trans sound)]
  simp only [State.checked, par, Bool.true_or, if_true, State.tuneEffect]

/-- A TUNE on units that are still: the tuner takes it up at once, and its effect follows. -/
theorem State.Tunes.starts (h : s.Tunes d w r) {op : Nat} (kind : (tuneW w).op = op) :
    ∃ v n, 257 ≤ n ∧ OnlyDrum d s v ∧ Taken w (s.drum d) (v.drum d) ∧
      s.tune d op true = unitsGo d n (v.tuneEffect d w r ((s.drum d).newJob w true)) := by
  have ⟨_, hl, _⟩ := h.offers
  have ⟨_, _, _, _, _, _, _, _, _, _, sound⟩ := h.still
  obtain ⟨only, taken⟩ := h.taken
  obtain ⟨v, effect, only', taken'⟩ := State.startTune_sound (only.drum_lt hl) taken sound h.run (Drum.newJob_w _ w true)
    (Drum.newJob_par _ w true) ((TuneW.faults_congr (tuneW w) only taken).trans h.faults)
  obtain ⟨n, fuel⟩ : ∃ n, ((s.tuneQueued d w).drum d).workLeft = n + 258 := by
    refine Nat.exists_eq_add_of_le' ?_
    simp only [Drum.workLeft, State.tuneQueued_drum h, List.length_singleton, List.length_nil]
    omega
  refine ⟨v, n + 257, by omega, only.trans only', taken', ?_⟩
  rw [State.tune_queues h kind, State.unitsRun, fuel, ← effect]
  exact unitsGo_of_some (State.unitStep_tune h) _

end

end Sys2Proof.Machine
end

section
/-! A TUNE that takes its rows one by one from the STRIKE before it (R167): what it does is what it would do at once. -/

namespace Sys2Proof.Machine

/-- The drum while the tuner stands before a row. -/
def Drum.atRow (z : Drum) (c : TuneRun) : Drum := { z with tuner := { z.tuner with cur := some c } }

section
variable {s u v : State} {d : Nat} {w : Quad} {x z : Drum} {c : TuneRun}

/-- The tuner gives its row up before it converts it. -/
def State.offRow (s : State) (d : Nat) : State := s.modTuner d fun t => { t with cur := none }

theorem Taken.offRow (hu : d < u.drums.length) (h : Taken w (z.atRow c) (u.drum d)) (idle : z.tuner.cur = none) :
    Taken w z ((u.offRow d).drum d) := by
  have off := h.withTuner (t := z.tuner) (u := { (u.drum d).tuner with cur := none }) (by rw [h.tuner, Drum.atRow, ← idle])
  rw [State.offRow, u.drum_modTuner hu]
  exact off

theorem onlyDrum_offRow (u : State) (d : Nat) : OnlyDrum d u (u.offRow d) := onlyDrum_modTuner u d _

/-- On a skin at rest no row is still to come, so the tuner takes its next row. -/
theorem State.unitStep_row (hu : d < u.drums.length) (still : x.still) (work : Retuned x z)
    (taken : Taken w (z.atRow c) (u.drum d)) :
    ∃ v, u.unitStep d = some (v.tuneRow d c) ∧ OnlyDrum d u v ∧ Taken w (z.atRow c) (v.drum d) := by
  obtain ⟨jobs, load, cur, lanes, -, -, -, -, -, -, sound⟩ := still
  have skin : (u.drum d).skin = x.skin := by
    rw [taken.same, Drum.atRow, work.same]
  have none_waits : u.skinStep d = none :=
    State.skinStep_none (by rw [skin]; exact cur) (.inl (by rw [skin]; exact jobs))
  have final : (u.drum d).unwritten (c.job.ord - 1) = 0 := by
    simp [Drum.unwritten, skin, jobs, load, cur, lanes, orRows]
  have at_row : (u.drum d).tuner.cur = some c := by rw [taken.tuner]; rfl
  have next : u.unitStep d = some (u.nextTuneRow d c) := by
    simp [State.unitStep, none_waits, State.tunerStep, at_row, final]
  let reads := (tuneW c.job.w).rowReads (u.drum d) c.row
  have hv : d < (u.reach d reads).drums.length := (onlyDrum_reach u d reads).drum_lt hu
  have taken' := taken.reach hu reads
  have good : ((u.reach d reads).drum d).readFails reads = false :=
    Drum.readFails_eq_false (taken'.pad.failed.trans (work.failed sound)) reads
  refine ⟨_, next.trans (congrArg some ?_), (onlyDrum_reach u d reads).trans (onlyDrum_reach _ d ((tuneW c.job.w).rowWrites c.row)),
    taken'.reach hv _⟩
  rw [State.nextTuneRow, State.rowAccess, State.reading]
  exact if_neg (by rw [good]; exact Bool.false_ne_true)

/-- All rows but the last: `z i` and `c i` are the drum and the tuner's notes before row i. -/
theorem unitsGo_rows {z : Nat → Drum} {c : Nat → TuneRun} {m : Nat} (still : x.still) (work : ∀ i, Retuned x (z i))
    (row : ∀ i u, i + 1 < m → d < u.drums.length → Taken w ((z i).atRow (c i)) (u.drum d) →
      OnlyDrum d u (u.tuneRow d (c i)) ∧ Taken w ((z (i + 1)).atRow (c (i + 1))) ((u.tuneRow d (c i)).drum d))
    (hu : d < u.drums.length) (first : Taken w ((z 0).atRow (c 0)) (u.drum d)) :
    ∀ i n, i < m → ∃ v, unitsGo d (n + (i + 1)) u = unitsGo d n (v.tuneRow d (c i)) ∧ OnlyDrum d u v ∧
      Taken w ((z i).atRow (c i)) (v.drum d)
  | 0, n, _ => by
    obtain ⟨v, step, only, taken⟩ := State.unitStep_row hu still (work 0) first
    exact ⟨v, unitsGo_of_some step n, only, taken⟩
  | i + 1, n, more => by
    obtain ⟨v, steps, only, taken⟩ := unitsGo_rows still work row hu first i (n + 1) (by omega)
    obtain ⟨only', taken'⟩ := row i v more (only.drum_lt hu) taken
    have hv : d < (v.tuneRow d (c i)).drums.length := only'.drum_lt (only.drum_lt hu)
    obtain ⟨v', step, only'', taken''⟩ := State.unitStep_row hv still (work (i + 1)) taken'
    refine ⟨v', ?_, only.trans (only'.trans only''), taken''⟩
    rw [show n + (i + 1 + 1) = n + 1 + (i + 1) by omega, steps]
    exact unitsGo_of_some step n

/-- Rows are taken one by one only where there are some. -/
theorem TuneW.rows_of_rowsRead {q : TuneW} (h : q.rowsRead ≠ 0) : q.ssrc = true ∧ q.m ≠ 0 ∧ q.n ≠ 0 ∧ (q.op = 0 ∨ q.op = 2 ∨ q.op = 3) := by
  unfold TuneW.rowsRead at h
  split at h
  · next rows => simpa [and_assoc, and_comm, and_left_comm, or_assoc] using rows
  · exact absurd rfl h

theorem UnitJob.rowsRead_of_rowWise {j : UnitJob} (word : j.w = w) (h : j.rowWise = true) : (tuneW w).rowsRead ≠ 0 := by
  simp only [UnitJob.rowWise, word, Bool.and_eq_true, bne_iff_ne] at h
  exact h.2

/-- A TUNE without rows, and one of an operation that takes none from the shell, is done at once. -/
theorem UnitJob.rowWise_eq_false {j : UnitJob} (word : j.w = w)
    (h : (tuneW w).m = 0 ∨ (tuneW w).n = 0 ∨ (tuneW w).op = 1 ∨ 4 ≤ (tuneW w).op) : j.rowWise = false := by
  by_contra rowWise
  obtain ⟨-, rows, columns, op⟩ := TuneW.rows_of_rowsRead (UnitJob.rowsRead_of_rowWise word (Bool.not_eq_false _ ▸ rowWise))
  omega

/-- Such a TUNE past its decode. -/
theorem State.Tunes.runsWhole {r : RunId} (h : s.Tunes d w r) {op : Nat} (kind : (tuneW w).op = op)
    (whole : (tuneW w).m = 0 ∨ (tuneW w).n = 0 ∨ op = 1 ∨ 4 ≤ op) :
    ∃ v n, OnlyDrum d s v ∧ Taken w (s.drum d) (v.drum d) ∧
      s.tune d op true = unitsGo d n (v.runTune d (tuneW w) r ((s.drum d).newJob w true)) := by
  obtain ⟨v, n, -, only, taken, tune⟩ := h.starts kind
  refine ⟨v, n, only, taken, ?_⟩
  rw [tune, State.tuneEffect, UnitJob.rowWise_eq_false (Drum.newJob_w _ w true) (kind ▸ whole), if_neg Bool.false_ne_true]

end

end Sys2Proof.Machine
end

section
/-! CONVERT, NARROW, WIDEN and AMAX on units that are still: a row-wise TUNE leaves what the same rows leave at once. -/

namespace Sys2Proof.Machine

/-! ### What a TUNE's decode has checked -/

section
variable {s u v : State} {d : Nat} {w : Quad} {r : RunId}

theorem State.Tunes.sound (h : s.Tunes d w r) : (tuneW w).bad s (s.drum d) r = false := by
  have faults := h.faults
  simp only [TuneW.faults, List.append_eq_nil_iff] at faults
  obtain ⟨bad, -⟩ := faults
  split at bad
  · exact absurd bad (by decide)
  · next good => exact Bool.eq_false_iff.2 good

/-- A TUNE of rows has 256 rows of 1,024 elements at most (R90). -/
theorem State.Tunes.size (h : s.Tunes d w r) (kind : (tuneW w).op ≤ 3) : (tuneW w).m ≤ 256 ∧ (tuneW w).n ≤ 1024 := by
  have sound := h.sound
  unfold TuneW.bad at sound
  simp only [] at sound
  rcases (show (tuneW w).op = 0 ∨ (tuneW w).op = 1 ∨ (tuneW w).op = 2 ∨ (tuneW w).op = 3 by omega) with op | op | op | op <;>
  · simp only [op, Bool.or_eq_false_iff, decide_eq_false_iff_not, not_lt, and_assoc] at sound
    obtain ⟨rows, columns, -⟩ := sound
    exact ⟨rows, columns⟩

/-! ### The same work on two drums -/

variable {x y z : Drum} {q : TuneW}

theorem Taken.counted (h : Taken w x y) (l : List Coded) : Taken w (x.counted l) (y.counted l) :=
  h.withTuner (by rw [h.tuner])

theorem Taken.foldRows (h : Taken w x y) (q : TuneW) (folds : Bool) (rows : List (List Word)) (c : Seen) :
    Taken w (x.foldRows q folds rows c) (y.foldRows q folds rows c) := by
  unfold Drum.foldRows
  split
  · exact h.withTuner (by rw [h.tuner])
  · exact h

theorem Retuned.counted (h : Retuned x z) (l : List Coded) : Retuned x (z.counted l) := h.withTuner rfl

theorem Retuned.foldRows (h : Retuned x z) (q : TuneW) (folds : Bool) (rows : List (List Word)) (c : Seen) :
    Retuned x (z.foldRows q folds rows c) := by
  unfold Drum.foldRows
  split
  · exact h.withTuner rfl
  · exact h

/-- One TUNE's rows on two drums, the second after the sequencer has taken it. -/
structure WideRun.Alike (w : Quad) (k l : WideRun) : Prop where
  drum : Taken w k.drum l.drum
  same : l = { k with drum := l.drum }

theorem convertRow_alike {k l : WideRun} (h : WideRun.Alike w k l) (q : TuneW) (sf df : TFmt) (f : Fmt) (m : Nat) :
    WideRun.Alike w (convertRow q sf df f m k) (convertRow q sf df f m l) := by
  obtain ⟨drum, same⟩ := h
  rw [same]
  refine ⟨?_, ?_⟩
  · simp only [convertRow, drum.wideRow]
    exact (drum.counted _).padPut _ _
  · simp only [convertRow, drum.wideRow]

theorem foldl_alike {f : Nat → WideRun → WideRun} (hf : ∀ m k l, WideRun.Alike w k l → WideRun.Alike w (f m k) (f m l)) :
    ∀ (ms : List Nat) {k l : WideRun}, WideRun.Alike w k l →
      WideRun.Alike w (ms.foldl (fun k m => f m k) k) (ms.foldl (fun k m => f m k) l)
  | [], _, _, h => h
  | m :: ms, _, _, h => foldl_alike hf ms (hf m _ _ h)

theorem State.runTune_nothing (u : State) (d : Nat) {q : TuneW} (j : UnitJob) (kind : q.op ≤ 3) (none_ : q.m = 0 ∨ q.n = 0) :
    u.runTune d q r j = u := by
  rcases (show q.op = 0 ∨ q.op = 1 ∨ q.op = 2 ∨ q.op = 3 by omega) with op | op | op | op <;>
  · simp only [State.runTune, op, none_, decide_true, if_true]
    cases tfmt q.sfmt <;> cases tfmt q.dfmt <;> rfl

/-- A TUNE of no rows or no columns. -/
theorem State.Tunes.nothing (h : s.Tunes d w r) {op : Nat} (kind : (tuneW w).op = op) (rows : op ≤ 3)
    (none_ : (tuneW w).m = 0 ∨ (tuneW w).n = 0) : OnlyDrum d s (s.tune d op true) ∧ Taken w (s.drum d) ((s.tune d op true).drum d) := by
  obtain ⟨v, n, only, taken, tune⟩ := h.runsWhole kind (none_.imp_right .inl)
  rw [tune, v.runTune_nothing d _ (kind ▸ rows) none_, unitsGo_settled h.still (.refl _) taken n]
  exact ⟨only, taken⟩

/-- A row-wise TUNE comes to its last row. -/
theorem State.Tunes.lastRow (h : s.Tunes d w r) {n : Nat} {z : Nat → Drum} {c : Nat → TuneRun} (only : OnlyDrum d s v)
    (taken : Taken w (s.drum d) (v.drum d)) (rows : (tuneW w).m ≠ 0) (fuel : (tuneW w).m ≤ n) (z0 : z 0 = s.drum d)
    (work : ∀ i, Retuned (s.drum d) (z i))
    (row : ∀ i u, i + 1 < (tuneW w).m → d < u.drums.length → Taken w ((z i).atRow (c i)) (u.drum d) →
      OnlyDrum d u (u.tuneRow d (c i)) ∧ Taken w ((z (i + 1)).atRow (c (i + 1))) ((u.tuneRow d (c i)).drum d)) :
    ∃ t n', unitsGo d n (v.modTuner d fun t => { t with cur := some (c 0) }) =
      unitsGo d n' (t.tuneRow d (c ((tuneW w).m - 1))) ∧ OnlyDrum d s t ∧
      Taken w ((z ((tuneW w).m - 1)).atRow (c ((tuneW w).m - 1))) (t.drum d) := by
  have ⟨_, hl, _⟩ := h.offers
  have only' := onlyDrum_modTuner v d fun t => { t with cur := some (c 0) }
  have first : Taken w ((z 0).atRow (c 0)) ((v.modTuner d fun t => { t with cur := some (c 0) }).drum d) := by
    rw [v.drum_modTuner (only.drum_lt hl), z0]
    exact taken.withTuner (by rw [taken.tuner])
  obtain ⟨t, steps, only'', last⟩ := unitsGo_rows h.still work row (only'.drum_lt (only.drum_lt hl)) first
    ((tuneW w).m - 1) (n - (tuneW w).m) (by omega)
  refine ⟨t, n - (tuneW w).m, ?_, only.trans (only'.trans only''), last⟩
  rw [← steps, show n - (tuneW w).m + ((tuneW w).m - 1 + 1) = n by omega]

end

/-! ### CONVERT -/

/-- The rows of a CONVERT before row i. -/
def Drum.convertRows (x : Drum) (q : TuneW) (sf df : TFmt) (i : Nat) : WideRun :=
  (List.range i).foldl (fun k m => convertRow q sf df ((df.float?).getD fp32) m k) ⟨x, [], Seen.zero, false⟩

/-- A drum after a CONVERT. -/
def Drum.converted (x : Drum) (q : TuneW) (sf df : TFmt) : Drum :=
  let k := x.convertRows q sf df q.m
  k.drum.foldRows q (x.folds q) k.rows k.seen

/-- What the tuner notes before row i of a row-wise CONVERT. -/
def WideRun.atRow (k : WideRun) (j : UnitJob) (folds : Bool) (i : Nat) : TuneRun := ⟨j, i, [], folds, [], k.rows, k.seen⟩

theorem Drum.convertRows_succ (x : Drum) (q : TuneW) (sf df : TFmt) (i : Nat) :
    x.convertRows q sf df (i + 1) = convertRow q sf df ((df.float?).getD fp32) i (x.convertRows q sf df i) := by
  simp only [Drum.convertRows, List.range_succ, List.foldl_append, List.foldl_cons, List.foldl_nil]

theorem Drum.convertRows_good (x : Drum) (q : TuneW) (sf df : TFmt) : ∀ i, (x.convertRows q sf df i).bad = false
  | 0 => rfl
  | i + 1 => by rw [Drum.convertRows_succ]; rfl

theorem convertRow_retuned {x : Drum} {k : WideRun} (h : Retuned x k.drum) (q : TuneW) (sf df : TFmt) (f : Fmt) (m : Nat) :
    Retuned x (convertRow q sf df f m k).drum := (h.counted _).padPut _ _

theorem Drum.convertRows_retuned (x : Drum) (q : TuneW) (sf df : TFmt) : ∀ i, Retuned x (x.convertRows q sf df i).drum
  | 0 => .refl x
  | i + 1 => by
    rw [Drum.convertRows_succ]
    exact convertRow_retuned (x.convertRows_retuned q sf df i) ..

theorem Drum.converted_retuned (x : Drum) (q : TuneW) (sf df : TFmt) : Retuned x (x.converted q sf df) :=
  (x.convertRows_retuned q sf df q.m).foldRows ..

section
variable {s u v : State} {d : Nat} {w : Quad} {r : RunId} {sf df : TFmt} {x : Drum} {k l : WideRun} {j : UnitJob} {folds : Bool}

theorem WideRun.Alike.atRow (h : WideRun.Alike w k l) (j : UnitJob) (folds : Bool) (i : Nat) :
    Taken w (k.drum.atRow (k.atRow j folds i)) (l.drum.atRow (l.atRow j folds i)) :=
  h.drum.withTuner (by rw [h.drum.tuner, h.same]; rfl)

theorem State.endConvert_taken (hu : d < u.drums.length) (q : TuneW) (folds : Bool) (h : WideRun.Alike w k l) :
    Taken w (k.drum.foldRows q folds k.rows k.seen) ((u.endConvert d q folds l).drum d) := by
  rw [State.endConvert, u.drum_setDrum hu, h.same]
  exact h.drum.foldRows q folds k.rows k.seen

/-- One row of a row-wise CONVERT, the last one or another. -/
theorem State.tuneRow_convert {i : Nat} (word : j.w = w) (op : (tuneW w).op = 2)
    (src : tfmt (tuneW w).sfmt = some sf) (dst : tfmt (tuneW w).dfmt = some df) (hu : d < u.drums.length)
    (taken : Taken w (k.drum.atRow (k.atRow j folds i)) (u.drum d)) (idle : k.drum.tuner.cur = none) (good : k.bad = false) :
    ∃ u' l, OnlyDrum d u u' ∧ WideRun.Alike w (convertRow (tuneW w) sf df ((df.float?).getD fp32) i k) l ∧
      u.tuneRow d (k.atRow j folds i) = if (tuneW w).m ≤ i + 1 then u'.endConvert d (tuneW w) folds l
        else u'.setDrum d (l.drum.atRow (l.atRow j folds (i + 1))) := by
  have alike : WideRun.Alike w k ⟨(u.offRow d).drum d, k.rows, k.seen, false⟩ :=
    ⟨taken.offRow hu idle, by rw [← good]⟩
  refine ⟨u.offRow d, _, onlyDrum_offRow u d, convertRow_alike alike (tuneW w) sf df ((df.float?).getD fp32) i, ?_⟩
  simp only [State.tuneRow, WideRun.atRow, word, op, src, dst, decide_eq_true_eq]
  rfl

/-- The rows of a CONVERT, one by one or at once, and then its end. -/
theorem State.Tunes.convertEnds (h : s.Tunes d w r) {n : Nat} (op : (tuneW w).op = 2) (src : tfmt (tuneW w).sfmt = some sf)
    (dst : tfmt (tuneW w).dfmt = some df) (rows : (tuneW w).m ≠ 0) (columns : (tuneW w).n ≠ 0) (fuel : 257 ≤ n)
    (only : OnlyDrum d s v) (taken : Taken w (s.drum d) (v.drum d)) :
    ∃ t n' l, unitsGo d n (v.tuneEffect d w r ((s.drum d).newJob w true)) =
      unitsGo d n' (t.endConvert d (tuneW w) ((s.drum d).folds (tuneW w)) l) ∧ OnlyDrum d s t ∧
      WideRun.Alike w ((s.drum d).convertRows (tuneW w) sf df (tuneW w).m) l := by
  have ⟨_, hl, _⟩ := h.offers
  have word : ((s.drum d).newJob w true).w = w := Drum.newJob_w ..
  cases rowWise : ((s.drum d).newJob w true).rowWise with
  | false =>
    have alike : WideRun.Alike w ⟨s.drum d, [], Seen.zero, false⟩ ⟨v.drum d, [], Seen.zero, false⟩ := ⟨taken, rfl⟩
    refine ⟨v, n, _, congrArg (unitsGo d n) ?_, only, foldl_alike (fun m _ _ => (convertRow_alike · (tuneW w) sf df
      ((df.float?).getD fp32) m)) (List.range (tuneW w).m) alike⟩
    have some_ : ¬ ((tuneW w).m = 0 ∨ (tuneW w).n = 0) := fun none_ => none_.elim rows columns
    rw [State.tuneEffect, rowWise, if_neg Bool.false_ne_true]
    simp only [State.runTune, op, src, dst, some_, decide_false, Bool.false_eq_true, if_false, State.checked,
      Drum.newJob_par, Bool.true_or, if_true, State.runConvert, taken.folds]
  | true =>
    have ⟨few, _⟩ := h.size (by omega)
    have ⟨_, _, _, _, _, _, _, idle, _⟩ := h.still
    have work (i : Nat) := (s.drum d).convertRows_retuned (tuneW w) sf df i
    have idle' (i : Nat) := (work i).cur.trans idle
    have good (i : Nat) := (s.drum d).convertRows_good (tuneW w) sf df i
    obtain ⟨t, n', steps, only', last⟩ := h.lastRow (n := n) only taken rows (by omega)
      (z := fun i => ((s.drum d).convertRows (tuneW w) sf df i).drum)
      (c := fun i => ((s.drum d).convertRows (tuneW w) sf df i).atRow ((s.drum d).newJob w true) ((s.drum d).folds (tuneW w)) i)
      rfl work fun i u more hu here => by
        obtain ⟨u', l, only, alike, next⟩ := State.tuneRow_convert word op src dst hu here (idle' i) (good i)
        rw [next, if_neg (by omega), State.drum_setDrum _ (only.drum_lt hu), Drum.convertRows_succ]
        exact ⟨only.trans (onlyDrum_setDrum _ d _), alike.atRow ..⟩
    obtain ⟨t', l, only'', alike, ends⟩ := State.tuneRow_convert word op src dst (only'.drum_lt hl) last (idle' _) (good _)
    rw [← Drum.convertRows_succ, show (tuneW w).m - 1 + 1 = (tuneW w).m by omega] at alike
    refine ⟨t', n', l, ?_, only'.trans only'', alike⟩
    rw [if_pos (by omega)] at ends
    rw [← ends, ← steps, State.tuneEffect, rowWise, if_pos rfl, State.beginTune]
    simp only [word, op, taken.folds]
    rfl

/-- A CONVERT on units that are still leaves the drum converted. -/
theorem exec_convert (h : s.Tunes d w r) (op : (tuneW w).op = 2) (src : tfmt (tuneW w).sfmt = some sf)
    (dst : tfmt (tuneW w).dfmt = some df) (rows : (tuneW w).m ≠ 0) (columns : (tuneW w).n ≠ 0) :
    ∃ t, exec (.convert d true) s = .next t ∧ OnlyDrum d s t ∧
      Taken w ((s.drum d).converted (tuneW w) sf df) (t.drum d) := by
  have ⟨hd, hl, _⟩ := h.offers
  have run : exec (.convert d true) s = .next (s.tune d 2 true) := if_pos hd
  obtain ⟨v, n, fuel, only, taken, tune⟩ := h.starts op
  obtain ⟨t, n', l, ends, only', alike⟩ := h.convertEnds op src dst rows columns fuel only taken
  have done := State.endConvert_taken (only'.drum_lt hl) (tuneW w) ((s.drum d).folds (tuneW w)) alike
  rw [tune, ends, unitsGo_settled h.still ((s.drum d).converted_retuned (tuneW w) sf df) done] at run
  exact ⟨_, run, only'.trans (onlyDrum_setDrum t d _), done⟩

end

end Sys2Proof.Machine
end

section
/-! NARROW on units that are still (R92-R98, R167). -/

namespace Sys2Proof.Machine

/-- The rows of a NARROW before row i. -/
def Drum.narrowRows (x : Drum) (q : TuneW) (sf df : TFmt) (i : Nat) : NarrowRun :=
  (List.range i).foldl (fun k m => narrowRow q sf df m k) ⟨x, x.sharedScales q df, [], [], Seen.zero, false⟩

/-- The drum after the rows of a NARROW without a fault: the record, the row scale buffer and the scale block. -/
def NarrowRun.ended (k : NarrowRun) (q : TuneW) (folds : Bool) : Drum :=
  let y := k.drum.foldRows q folds (if q.smode = 1 then [] else k.rows) k.seen
  let y := if q.rsb then { y with tuner := (List.range q.m).foldl (fun (t : Tuner) m =>
      t.putRow (q.drow0 + m) (((k.scales[m]?).getD ([], [])).1) q.tag q.group) y.tuner } else y
  if q.sclOut then y.padPut q.scl (rowHdr q.tag q.group q.zp q.m ++ k.scales.flatMap fun p =>
      scaleBytes p.1 ++ (if q.zp then padTo 32 (p.2.map fun z => BitVec.ofNat 8 z) else [])) else y

/-- A drum after a NARROW without a fault. -/
def Drum.narrowed (x : Drum) (q : TuneW) (sf df : TFmt) : Drum := (x.narrowRows q sf df q.m).ended q (x.folds q)

/-- What the tuner notes before row i of a row-wise NARROW. -/
def NarrowRun.atRow (k : NarrowRun) (j : UnitJob) (folds : Bool) (i : Nat) : TuneRun :=
  ⟨j, i, k.fit, folds, k.scales, k.rows, k.seen⟩

/-- One NARROW's rows on two drums, the second after the sequencer has taken it. -/
structure NarrowRun.Alike (w : Quad) (k l : NarrowRun) : Prop where
  drum : Taken w k.drum l.drum
  same : l = { k with drum := l.drum }

/-! ### One row -/

/-- The scales and zero points of a row, group by group. -/
def NarrowRun.rowScales (k : NarrowRun) (q : TuneW) (sf df : TFmt) (m : Nat) : List (Option (Half × Nat)) :=
  (List.range q.groups).map fun g => k.drum.narrowScale q df k.fit (k.drum.wideRow q sf m) m g

/-- The codes of a row under its scales. -/
def narrowCodes (q : TuneW) (df : TFmt) (row : List Word) (ss : List (Half × Nat)) : List Coded :=
  (List.range q.n).map fun n =>
    let p := (ss[n / groupSize q.group]?).getD (0#16, 0)
    narrowOne df q.sgn q.zp (rndOf q.away) p.1 p.2 ((row[n]?).getD 0#32)

theorem narrowRow_bad {k : NarrowRun} (h : k.bad = true) (q : TuneW) (sf df : TFmt) (m : Nat) : narrowRow q sf df m k = k :=
  if_pos h

theorem narrowRow_illegal {k : NarrowRun} {q : TuneW} {sf df : TFmt} {m : Nat} (good : k.bad = false)
    (h : (k.rowScales q sf df m).any Option.isNone = true) : narrowRow q sf df m k = { k with bad := true } := by
  unfold narrowRow
  rw [if_neg (by rw [good]; decide)]
  exact if_pos h

theorem narrowRow_legal {k : NarrowRun} {q : TuneW} {sf df : TFmt} {m : Nat} (good : k.bad = false)
    (h : (k.rowScales q sf df m).any Option.isNone = false) : narrowRow q sf df m k =
      let ss := (k.rowScales q sf df m).map fun o => o.getD (0#16, 0)
      let codes := narrowCodes q df (k.drum.wideRow q sf m) ss
      { drum := (k.drum.counted codes).padPut (rowOff q.dst q.dlay df q.zp q.dstride m)
          (rowOut q.dlay df q.zp (codes.map (·.code)) (ss.map (·.1)) (ss.map (·.2)))
        fit := k.fit, scales := k.scales ++ [(ss.map (·.1), ss.map (·.2))], rows := k.rows ++ [k.drum.wideRow q sf m]
        seen := k.seen.add codes, bad := false } := by
  unfold narrowRow
  rw [if_neg (by rw [good]; decide)]
  exact if_neg (by rw [Bool.not_eq_true]; exact h)

section
variable {w : Quad} {x y : Drum} {k l : NarrowRun} {q : TuneW} {sf df : TFmt}

theorem Taken.narrowScale (h : Taken w x y) (q : TuneW) (df : TFmt) (fit : List (Half × Nat)) (row : List Word) (m g : Nat) :
    y.narrowScale q df fit row m g = x.narrowScale q df fit row m g := by
  simp only [Drum.narrowScale, h.blockRow, h.blockZp]

theorem NarrowRun.Alike.rowScales (h : NarrowRun.Alike w k l) (q : TuneW) (sf df : TFmt) (m : Nat) :
    l.rowScales q sf df m = k.rowScales q sf df m := by
  have fit : l.fit = k.fit := by rw [h.same]
  simp only [NarrowRun.rowScales, h.drum.narrowScale, h.drum.wideRow, fit]

theorem narrowRow_alike (h : NarrowRun.Alike w k l) (q : TuneW) (sf df : TFmt) (m : Nat) :
    NarrowRun.Alike w (narrowRow q sf df m k) (narrowRow q sf df m l) := by
  have ⟨drum, same⟩ := h
  have bad : l.bad = k.bad := by rw [same]
  cases bad_k : k.bad with
  | true =>
    rw [narrowRow_bad bad_k, narrowRow_bad (bad.trans bad_k)]
    exact h
  | false =>
    cases legal : (k.rowScales q sf df m).any Option.isNone with
    | true =>
      rw [narrowRow_illegal bad_k legal, narrowRow_illegal (bad.trans bad_k) (by rw [h.rowScales]; exact legal)]
      exact ⟨drum, by rw [same]⟩
    | false =>
      rw [narrowRow_legal bad_k legal, narrowRow_legal (bad.trans bad_k) (by rw [h.rowScales]; exact legal)]
      simp only [h.rowScales, drum.wideRow]
      refine ⟨(drum.counted _).padPut _ _, ?_⟩
      rw [same]

theorem narrowRow_retuned (h : Retuned x k.drum) (q : TuneW) (sf df : TFmt) (m : Nat) :
    Retuned x (narrowRow q sf df m k).drum := by
  cases bad : k.bad with
  | true =>
    rw [narrowRow_bad bad]
    exact h
  | false =>
    cases legal : (k.rowScales q sf df m).any Option.isNone with
    | true =>
      rw [narrowRow_illegal bad legal]
      exact h
    | false =>
      rw [narrowRow_legal bad legal]
      exact (h.counted _).padPut _ _

/-- The rows share their scales. -/
theorem narrowRow_fit (k : NarrowRun) (q : TuneW) (sf df : TFmt) (m : Nat) : (narrowRow q sf df m k).fit = k.fit := by
  unfold narrowRow
  split
  · rfl
  · simp only []
    split <;> rfl

/-! ### All rows -/

theorem Drum.narrowRows_succ (x : Drum) (q : TuneW) (sf df : TFmt) (i : Nat) :
    x.narrowRows q sf df (i + 1) = narrowRow q sf df i (x.narrowRows q sf df i) := by
  simp only [Drum.narrowRows, List.range_succ, List.foldl_append, List.foldl_cons, List.foldl_nil]

theorem narrowRows_alike (h : Taken w x y) (q : TuneW) (sf df : TFmt) :
    ∀ i, NarrowRun.Alike w (x.narrowRows q sf df i) (y.narrowRows q sf df i)
  | 0 => ⟨h, by simp only [Drum.narrowRows, Drum.sharedScales, h.tuner]; rfl⟩
  | i + 1 => by
    rw [Drum.narrowRows_succ, Drum.narrowRows_succ]
    exact narrowRow_alike (narrowRows_alike h q sf df i) q sf df i

theorem Drum.narrowRows_retuned (x : Drum) (q : TuneW) (sf df : TFmt) : ∀ i, Retuned x (x.narrowRows q sf df i).drum
  | 0 => .refl x
  | i + 1 => by
    rw [Drum.narrowRows_succ]
    exact narrowRow_retuned (x.narrowRows_retuned q sf df i) ..

/-! ### The end -/

theorem Tuner.foldl_putRow_cur {f : Nat → Nat} {g : Nat → List Half} {tag : BitVec 6} {group : BitVec 2} :
    ∀ (l : List Nat) (t : Tuner), (l.foldl (fun (t : Tuner) m => t.putRow (f m) (g m) tag group) t).cur = t.cur
  | [], _ => rfl
  | m :: l, t => (Tuner.foldl_putRow_cur l _).trans (Tuner.putRow_cur t (f m) (g m) tag group)

theorem NarrowRun.ended_retuned (h : Retuned x k.drum) (q : TuneW) (folds : Bool) : Retuned x (k.ended q folds) := by
  have folded := h.foldRows q folds (if q.smode = 1 then [] else k.rows) k.seen
  unfold NarrowRun.ended
  simp only []
  split <;> split
  · exact (folded.withTuner (Tuner.foldl_putRow_cur _ _)).padPut _ _
  · exact folded.padPut _ _
  · exact folded.withTuner (Tuner.foldl_putRow_cur _ _)
  · exact folded

theorem Drum.narrowed_retuned (x : Drum) (q : TuneW) (sf df : TFmt) : Retuned x (x.narrowed q sf df) :=
  NarrowRun.ended_retuned (x.narrowRows_retuned q sf df q.m) q _

theorem NarrowRun.Alike.ended (h : NarrowRun.Alike w k l) (q : TuneW) (folds : Bool) :
    Taken w (k.ended q folds) (l.ended q folds) := by
  have ⟨drum, same⟩ := h
  have folded := drum.foldRows q folds (if q.smode = 1 then [] else k.rows) k.seen
  rw [same]
  unfold NarrowRun.ended
  simp only []
  split <;> split
  · exact (folded.withTuner (by rw [folded.tuner])).padPut _ _
  · exact folded.padPut _ _
  · exact folded.withTuner (by rw [folded.tuner])
  · exact folded

theorem NarrowRun.Alike.atRow (h : NarrowRun.Alike w k l) (j : UnitJob) (folds : Bool) (i : Nat) :
    Taken w (k.drum.atRow (k.atRow j folds i)) (l.drum.atRow (l.atRow j folds i)) :=
  h.drum.withTuner (by rw [h.drum.tuner, h.same]; rfl)

end

section
variable {s u v : State} {d : Nat} {w : Quad} {r : RunId} {sf df : TFmt} {k l : NarrowRun} {j : UnitJob} {folds : Bool}

theorem State.endNarrow_good (good : k.bad = false) (u : State) (d : Nat) (q : TuneW) (j : UnitJob) (folds : Bool) :
    u.endNarrow d q j folds k = u.setDrum d (k.ended q folds) := if_neg (by rw [good]; exact Bool.false_ne_true)

/-- One row of a row-wise NARROW that meets no fault, the last one or another. -/
theorem State.tuneRow_narrow {i : Nat} (word : j.w = w) (op : (tuneW w).op = 0)
    (src : tfmt (tuneW w).sfmt = some sf) (dst : tfmt (tuneW w).dfmt = some df) (hu : d < u.drums.length)
    (taken : Taken w (k.drum.atRow (k.atRow j folds i)) (u.drum d)) (idle : k.drum.tuner.cur = none) (good : k.bad = false)
    (next : (narrowRow (tuneW w) sf df i k).bad = false) :
    ∃ u' l, OnlyDrum d u u' ∧ NarrowRun.Alike w (narrowRow (tuneW w) sf df i k) l ∧
      u.tuneRow d (k.atRow j folds i) = if (tuneW w).m ≤ i + 1 then u'.endNarrow d (tuneW w) j folds l
        else u'.setDrum d (l.drum.atRow (l.atRow j folds (i + 1))) := by
  have alike : NarrowRun.Alike w k ⟨(u.offRow d).drum d, k.fit, k.scales, k.rows, k.seen, false⟩ :=
    ⟨taken.offRow hu idle, by rw [← good]⟩
  have alike' := narrowRow_alike alike (tuneW w) sf df i
  have good' : (narrowRow (tuneW w) sf df i ⟨(u.offRow d).drum d, k.fit, k.scales, k.rows, k.seen, false⟩).bad = false := by
    rw [alike'.same]
    exact next
  have fit := narrowRow_fit ⟨(u.offRow d).drum d, k.fit, k.scales, k.rows, k.seen, false⟩ (tuneW w) sf df i
  refine ⟨u.offRow d, _, onlyDrum_offRow u d, alike', ?_⟩
  unfold State.offRow at *
  simp only [State.tuneRow, NarrowRun.atRow, word, op, src, dst, good', Bool.false_or, decide_eq_true_eq, fit]
  rfl

/-- The rows of a NARROW that meets no fault, one by one or at once, and then its end. -/
theorem State.Tunes.narrowEnds (h : s.Tunes d w r) {n : Nat} (op : (tuneW w).op = 0) (src : tfmt (tuneW w).sfmt = some sf)
    (dst : tfmt (tuneW w).dfmt = some df) (rows : (tuneW w).m ≠ 0) (columns : (tuneW w).n ≠ 0)
    (header : (tuneW w).smode = 3 → (tuneW w).hdrBad (s.drum d) = false)
    (good : ∀ i, i ≤ (tuneW w).m → ((s.drum d).narrowRows (tuneW w) sf df i).bad = false) (fuel : 257 ≤ n)
    (only : OnlyDrum d s v) (taken : Taken w (s.drum d) (v.drum d)) :
    ∃ t n' l, unitsGo d n (v.tuneEffect d w r ((s.drum d).newJob w true)) =
      unitsGo d n' (t.endNarrow d (tuneW w) ((s.drum d).newJob w true) ((s.drum d).folds (tuneW w)) l) ∧ OnlyDrum d s t ∧
      NarrowRun.Alike w ((s.drum d).narrowRows (tuneW w) sf df (tuneW w).m) l := by
  have ⟨_, hl, _⟩ := h.offers
  have word : ((s.drum d).newJob w true).w = w := Drum.newJob_w ..
  have header' : ¬ ((tuneW w).smode = 3 ∧ (tuneW w).hdrBad (v.drum d) = true) := by
    rintro ⟨block, bad⟩
    rw [taken.hdrBad, header block] at bad
    exact Bool.false_ne_true bad
  cases rowWise : ((s.drum d).newJob w true).rowWise with
  | false =>
    refine ⟨v, n, _, congrArg (unitsGo d n) ?_, only, narrowRows_alike taken (tuneW w) sf df (tuneW w).m⟩
    have some_ : ¬ ((tuneW w).m = 0 ∨ (tuneW w).n = 0) := fun none_ => none_.elim rows columns
    rw [State.tuneEffect, rowWise, if_neg Bool.false_ne_true]
    simp only [State.runTune, op, src, dst, some_, decide_false, Bool.false_eq_true, if_false, State.checked,
      Drum.newJob_par, Bool.true_or, if_true, State.runNarrow, if_neg header', taken.folds]
    rfl
  | true =>
    have ⟨few, _⟩ := h.size (by omega)
    have ⟨_, _, _, _, _, _, _, idle, _⟩ := h.still
    have work (i : Nat) := (s.drum d).narrowRows_retuned (tuneW w) sf df i
    have idle' (i : Nat) := (work i).cur.trans idle
    have next (i : Nat) (more : i < (tuneW w).m) :
        (narrowRow (tuneW w) sf df i ((s.drum d).narrowRows (tuneW w) sf df i)).bad = false := by
      rw [← Drum.narrowRows_succ]
      exact good (i + 1) more
    obtain ⟨t, n', steps, only', last⟩ := h.lastRow (n := n) only taken rows (by omega)
      (z := fun i => ((s.drum d).narrowRows (tuneW w) sf df i).drum)
      (c := fun i => ((s.drum d).narrowRows (tuneW w) sf df i).atRow ((s.drum d).newJob w true) ((s.drum d).folds (tuneW w)) i)
      rfl work fun i u more hu here => by
        obtain ⟨u', l, only, alike, row⟩ := State.tuneRow_narrow word op src dst hu here (idle' i) (good i (by omega))
          (next i (by omega))
        rw [row, if_neg (by omega), State.drum_setDrum _ (only.drum_lt hu), Drum.narrowRows_succ]
        exact ⟨only.trans (onlyDrum_setDrum _ d _), alike.atRow ..⟩
    obtain ⟨t', l, only'', alike, ends⟩ := State.tuneRow_narrow word op src dst (only'.drum_lt hl) last (idle' _)
      (good _ (by omega)) (next _ (by omega))
    rw [← Drum.narrowRows_succ, show (tuneW w).m - 1 + 1 = (tuneW w).m by omega] at alike
    refine ⟨t', n', l, ?_, only'.trans only'', alike⟩
    rw [if_pos (by omega)] at ends
    rw [← ends, ← steps, State.tuneEffect, rowWise, if_pos rfl, State.beginTune]
    simp only [word, op, dst, true_and, if_neg header', taken.folds, Drum.sharedScales, taken.tuner]
    rfl

/-- A NARROW on units that are still leaves the drum narrowed, where no scale faults. -/
theorem exec_narrow (h : s.Tunes d w r) (op : (tuneW w).op = 0) (src : tfmt (tuneW w).sfmt = some sf)
    (dst : tfmt (tuneW w).dfmt = some df) (rows : (tuneW w).m ≠ 0) (columns : (tuneW w).n ≠ 0)
    (header : (tuneW w).smode = 3 → (tuneW w).hdrBad (s.drum d) = false)
    (good : ∀ i, i ≤ (tuneW w).m → ((s.drum d).narrowRows (tuneW w) sf df i).bad = false) :
    ∃ t, exec (.narrow d true) s = .next t ∧ OnlyDrum d s t ∧
      Taken w ((s.drum d).narrowed (tuneW w) sf df) (t.drum d) := by
  have ⟨hd, hl, _⟩ := h.offers
  have run : exec (.narrow d true) s = .next (s.tune d 0 true) := if_pos hd
  obtain ⟨v, n, fuel, only, taken, tune⟩ := h.starts op
  obtain ⟨t, n', l, ends, only', alike⟩ := h.narrowEnds op src dst rows columns header good fuel only taken
  have good' : l.bad = false := by
    rw [alike.same]
    exact good _ le_rfl
  rw [State.endNarrow_good good'] at ends
  have done : Taken w ((s.drum d).narrowed (tuneW w) sf df)
      ((t.setDrum d (l.ended (tuneW w) ((s.drum d).folds (tuneW w)))).drum d) := by
    rw [t.drum_setDrum (only'.drum_lt hl)]
    exact alike.ended (tuneW w) _
  rw [tune, ends, unitsGo_settled h.still ((s.drum d).narrowed_retuned (tuneW w) sf df) done] at run
  exact ⟨_, run, only'.trans (onlyDrum_setDrum t d _), done⟩

end

end Sys2Proof.Machine
end

section
/-! WIDEN on units that are still, and the scale value fault of an illegal scale (R85, R95, R152). -/

namespace Sys2Proof.Machine

/-! ### One row -/

/-- The bytes of the codes of row m. -/
def Drum.codeRow (x : Drum) (q : TuneW) (sf : TFmt) (m : Nat) : List Byte :=
  x.padBytes (rowOff q.src q.slay sf q.zp q.sstride m) (rowBytes q.slay sf q.zp q.n)

/-- Scale and zero point of group g of row m: the row's own, or those of the scale block. -/
def Drum.widenScale (x : Drum) (q : TuneW) (sf : TFmt) (m g : Nat) : Half :=
  if q.slay = 3 then rowScaleAt sf (x.codeRow q sf m) q.n g else ((x.blockRow q.scl m)[g]?).getD 0#16

def Drum.widenZp (x : Drum) (q : TuneW) (sf : TFmt) (m g : Nat) : Nat :=
  if q.zp then (if q.slay = 3 then rowZpAt q.slay sf (x.codeRow q sf m) q.n g else x.blockZp q.scl m g) else 0

/-- Is a code of the format an infinity or a NaN? -/
def TFmt.nonfinite (f : TFmt) (c : Nat) : Bool :=
  match f.float? with
  | some v => !(v.read c).isFin
  | none => false

/-- What row m becomes in format f: a code that is finite counts as a finite input whatever its scale makes of it (R112). -/
def Drum.widenCodes (x : Drum) (q : TuneW) (sf : TFmt) (f : Fmt) (m : Nat) : List Coded :=
  (List.range q.n).map fun n =>
    { roundTo f (rndOf q.away) (widenValue sf q.sgn (plainScale (x.widenScale q sf m (n / groupSize q.group)))
        (x.widenZp q sf m (n / groupSize q.group)) (codeAt q.slay sf (x.codeRow q sf m) n)) with
      nonfin := sf.nonfinite (codeAt q.slay sf (x.codeRow q sf m) n) }

theorem div_lt_ceilDiv {n a b : Nat} (h : n < a) (pos : 0 < b) : n / b < ceilDiv a b := by
  have up : n / b + 1 = (n + b) / b := (Nat.add_div_right n pos).symm
  have le : (n + b) / b ≤ (a + b - 1) / b := Nat.div_le_div_right (by omega)
  unfold ceilDiv
  omega

theorem groupSize_pos (g : BitVec 2) : 0 < groupSize g := Nat.mul_pos (by decide) (Nat.two_pow_pos _)

/-- An element's group is one of the row's. -/
theorem TuneW.group_lt {q : TuneW} {n : Nat} (h : n < q.n) : n / groupSize q.group < q.groups :=
  div_lt_ceilDiv h (groupSize_pos _)

theorem widenRow_bad {k : WideRun} (h : k.bad = true) (q : TuneW) (sf df : TFmt) (f : Fmt) (m : Nat) :
    widenRow q sf df f m k = k := if_pos h

section
variable {k l : WideRun} {q : TuneW} {sf df : TFmt} {f : Fmt} {m : Nat}

theorem Drum.widenScales_eq (x : Drum) (q : TuneW) (sf : TFmt) (m : Nat) : ((List.range q.groups).map fun s =>
    if decide (q.slay = 3) then rowScaleAt sf (x.codeRow q sf m) q.n s
    else ((if decide (q.slay = 3) then [] else x.blockRow q.scl m)[s]?).getD 0#16) =
      (List.range q.groups).map (x.widenScale q sf m) := by
  refine List.map_congr_left fun g _ => ?_
  unfold Drum.widenScale
  by_cases own : q.slay = 3 <;> simp [own]

theorem Drum.widenZps_eq (x : Drum) (q : TuneW) (sf : TFmt) (m : Nat) : ((List.range q.groups).map fun s =>
    if q.zp then (if decide (q.slay = 3) then rowZpAt q.slay sf (x.codeRow q sf m) q.n s else x.blockZp q.scl m s) else 0) =
      (List.range q.groups).map (x.widenZp q sf m) := by
  refine List.map_congr_left fun g _ => ?_
  simp only [Drum.widenZp, decide_eq_true_eq]

/-- Each code takes the scale and the zero point of its group. -/
theorem widenCodes_zip (x : Drum) (q : TuneW) (sf : TFmt) (f : Fmt) (m : Nat) :
    (((List.range q.n).map fun n => roundTo f (rndOf q.away) (widenValue sf q.sgn
        (plainScale ((((List.range q.groups).map (x.widenScale q sf m))[n / groupSize q.group]?).getD 0#16))
        ((((List.range q.groups).map (x.widenZp q sf m))[n / groupSize q.group]?).getD 0)
        (codeAt q.slay sf (x.codeRow q sf m) n))).zip (List.range q.n)).map (fun p =>
      { p.1 with nonfin := sf.nonfinite (codeAt q.slay sf (x.codeRow q sf m) p.2) }) = x.widenCodes q sf f m := by
  have pairs {α : Type} (g : Nat → α) (l : List Nat) : (l.map g).zip l = l.map fun n => (g n, n) := by
    simpa using List.zip_map' (f := g) (g := id) (l := l)
  rw [pairs, List.map_map, Drum.widenCodes]
  refine List.map_congr_left fun n hn => ?_
  have group := TuneW.group_lt (List.mem_range.1 hn)
  simp only [Function.comp_apply, List.getElem?_map, List.getElem?_range group, Option.map_some, Option.getD_some]

theorem widenRow_illegal (good : k.bad = false) {g : Nat} (hg : g < q.groups)
    (h : scaleLegal (k.drum.widenScale q sf m g) = false) : widenRow q sf df f m k = { k with bad := true } := by
  have some_bad : (!((List.range q.groups).map (k.drum.widenScale q sf m)).all scaleLegal) = true := by
    simp only [List.all_map, Bool.not_eq_true', List.all_eq_false, List.mem_range]
    exact ⟨g, hg, by simpa using h⟩
  unfold widenRow
  rw [if_neg (by rw [good]; decide)]
  refine if_pos ?_
  rw [← Drum.widenScales_eq] at some_bad
  exact some_bad

theorem widenRow_legal (good : k.bad = false) (h : ∀ g, g < q.groups → scaleLegal (k.drum.widenScale q sf m g) = true) :
    widenRow q sf df f m k =
      let codes := k.drum.widenCodes q sf f m
      { drum := (k.drum.counted codes).padPut (rowOff q.dst q.dlay df false q.dstride m)
          (rowOut q.dlay df false (codes.map (·.code)) [] [])
        rows := k.rows ++ [codes.map fun c => toF32 f c.code], seen := k.seen.add codes, bad := false } := by
  have all_good : ¬ (!((List.range q.groups).map (k.drum.widenScale q sf m)).all scaleLegal) = true := by
    simpa only [List.all_map, Bool.not_eq_true', Bool.not_eq_false, List.all_eq_true, List.mem_range, Function.comp_apply]
      using h
  rw [← Drum.widenScales_eq] at all_good
  unfold widenRow
  rw [if_neg (by rw [good]; decide)]
  refine (if_neg all_good).trans ?_
  have codes := widenCodes_zip k.drum q sf f m
  rw [← Drum.widenScales_eq, ← Drum.widenZps_eq] at codes
  exact congrArg (fun codes : List Coded => (⟨(k.drum.counted codes).padPut (rowOff q.dst q.dlay df false q.dstride m)
    (rowOut q.dlay df false (codes.map (·.code)) [] []), k.rows ++ [codes.map fun c => toF32 f c.code], k.seen.add codes,
    false⟩ : WideRun)) codes

theorem Taken.codeRow {w : Quad} {x y : Drum} (h : Taken w x y) (q : TuneW) (sf : TFmt) (m : Nat) :
    y.codeRow q sf m = x.codeRow q sf m := h.padBytes ..

theorem Taken.widenScale {w : Quad} {x y : Drum} (h : Taken w x y) (q : TuneW) (sf : TFmt) (m g : Nat) :
    y.widenScale q sf m g = x.widenScale q sf m g := by
  simp only [Drum.widenScale, h.codeRow, h.blockRow]

theorem Taken.widenCodes {w : Quad} {x y : Drum} (h : Taken w x y) (q : TuneW) (sf : TFmt) (f : Fmt) (m : Nat) :
    y.widenCodes q sf f m = x.widenCodes q sf f m := by
  simp only [Drum.widenCodes, h.widenScale, Drum.widenZp, h.codeRow, h.blockZp]

/-- The scales of a row are legal, or one of them is not. -/
theorem Drum.widenScales_cases (x : Drum) (q : TuneW) (sf : TFmt) (m : Nat) :
    (∀ g, g < q.groups → scaleLegal (x.widenScale q sf m g) = true) ∨
      ∃ g, g < q.groups ∧ scaleLegal (x.widenScale q sf m g) = false := by
  by_cases legal : ∀ g, g < q.groups → scaleLegal (x.widenScale q sf m g) = true
  · exact .inl legal
  · push Not at legal
    exact .inr (by simpa only [ne_eq, Bool.not_eq_true] using legal)

theorem widenRow_alike {w : Quad} (h : WideRun.Alike w k l) (q : TuneW) (sf df : TFmt) (f : Fmt) (m : Nat) :
    WideRun.Alike w (widenRow q sf df f m k) (widenRow q sf df f m l) := by
  have ⟨drum, same⟩ := h
  have bad : l.bad = k.bad := by rw [same]
  cases bad_k : k.bad with
  | true =>
    rw [widenRow_bad bad_k, widenRow_bad (bad.trans bad_k)]
    exact h
  | false =>
    rcases k.drum.widenScales_cases q sf m with legal | ⟨g, hg, illegal⟩
    · rw [widenRow_legal bad_k legal, widenRow_legal (bad.trans bad_k) (by simpa only [drum.widenScale] using legal)]
      simp only [drum.widenCodes]
      refine ⟨(drum.counted _).padPut _ _, ?_⟩
      rw [same]
    · rw [widenRow_illegal bad_k hg illegal,
        widenRow_illegal (bad.trans bad_k) hg (by simpa only [drum.widenScale] using illegal)]
      exact ⟨drum, by rw [same]⟩

theorem widenRow_retuned {x : Drum} (h : Retuned x k.drum) (q : TuneW) (sf df : TFmt) (f : Fmt) (m : Nat) :
    Retuned x (widenRow q sf df f m k).drum := by
  cases bad : k.bad with
  | true =>
    rw [widenRow_bad bad]
    exact h
  | false =>
    rcases k.drum.widenScales_cases q sf m with legal | ⟨g, hg, illegal⟩
    · rw [widenRow_legal bad legal]
      exact (h.counted _).padPut _ _
    · rw [widenRow_illegal bad hg illegal]
      exact h

end

/-! ### All rows, and the end -/

/-- The rows of a WIDEN before row i. -/
def Drum.widenRows (x : Drum) (q : TuneW) (sf df : TFmt) (i : Nat) : WideRun :=
  (List.range i).foldl (fun k m => widenRow q sf df ((df.float?).getD fp32) m k) ⟨x, [], Seen.zero, false⟩

/-- A drum after a WIDEN without a fault. -/
def Drum.widened (x : Drum) (q : TuneW) (sf df : TFmt) : Drum :=
  let k := x.widenRows q sf df q.m
  k.drum.foldRows q (x.folds q) k.rows k.seen

theorem Drum.widenRows_succ (x : Drum) (q : TuneW) (sf df : TFmt) (i : Nat) :
    x.widenRows q sf df (i + 1) = widenRow q sf df ((df.float?).getD fp32) i (x.widenRows q sf df i) := by
  simp only [Drum.widenRows, List.range_succ, List.foldl_append, List.foldl_cons, List.foldl_nil]

theorem Drum.widenRows_retuned (x : Drum) (q : TuneW) (sf df : TFmt) : ∀ i, Retuned x (x.widenRows q sf df i).drum
  | 0 => .refl x
  | i + 1 => by
    rw [Drum.widenRows_succ]
    exact widenRow_retuned (x.widenRows_retuned q sf df i) ..

theorem widenRows_alike {w : Quad} {x y : Drum} (h : Taken w x y) (q : TuneW) (sf df : TFmt) :
    WideRun.Alike w (x.widenRows q sf df q.m) (y.widenRows q sf df q.m) :=
  foldl_alike (fun m _ _ => (widenRow_alike · q sf df ((df.float?).getD fp32) m)) (List.range q.m) ⟨h, rfl⟩

theorem Taken.widened {w : Quad} {x y : Drum} (h : Taken w x y) (q : TuneW) (sf df : TFmt) :
    Taken w (x.widened q sf df) (y.widened q sf df) := by
  have alike := widenRows_alike h q sf df
  simp only [Drum.widened, h.folds]
  rw [alike.same]
  exact alike.drum.foldRows ..

theorem Drum.widened_retuned (x : Drum) (q : TuneW) (sf df : TFmt) : Retuned x (x.widened q sf df) :=
  (x.widenRows_retuned q sf df q.m).foldRows ..

section
variable {s u : State} {d : Nat} {w : Quad} {r : RunId} {sf df : TFmt} {x : Drum}

/-- A WIDEN has no shell rows, so its rows are done at once. -/
theorem State.Tunes.widenRuns (h : s.Tunes d w r) (op : (tuneW w).op = 1) (src : tfmt (tuneW w).sfmt = some sf)
    (dst : tfmt (tuneW w).dfmt = some df) (rows : (tuneW w).m ≠ 0) (columns : (tuneW w).n ≠ 0) :
    ∃ v n j, OnlyDrum d s v ∧ Taken w (s.drum d) (v.drum d) ∧
      exec (.widen d true) s = .next (unitsGo d n (v.runWiden d (tuneW w) sf df j)) := by
  have ⟨hd, _⟩ := h.offers
  have run : exec (.widen d true) s = .next (s.tune d 1 true) := if_pos hd
  obtain ⟨v, n, only, taken, tune⟩ := h.runsWhole op (.inr (.inr (.inl rfl)))
  have some_ : ¬ ((tuneW w).m = 0 ∨ (tuneW w).n = 0) := fun none_ => none_.elim rows columns
  refine ⟨v, n, (s.drum d).newJob w true, only, taken, ?_⟩
  rw [run, tune]
  simp only [State.runTune, op, src, dst, some_, decide_false, Bool.false_eq_true, if_false, State.checked,
    Drum.newJob_par, Bool.true_or, if_true]

section
variable {q : TuneW} {j : UnitJob}

theorem State.runWiden_good (header : ¬ (q.slay ≠ 3 ∧ q.hdrBad (u.drum d) = true))
    (good : ((u.drum d).widenRows q sf df q.m).bad = false) :
    u.runWiden d q sf df j = u.setDrum d ((u.drum d).widened q sf df) :=
  (if_neg header).trans (if_neg (by rw [Bool.not_eq_true]; exact good))

theorem State.runWiden_bad (header : ¬ (q.slay ≠ 3 ∧ q.hdrBad (u.drum d) = true))
    (bad : ((u.drum d).widenRows q sf df q.m).bad = true) :
    u.runWiden d q sf df j = (u.setDrum d ((u.drum d).widenRows q sf df q.m).drum).unitFault d j.ord [0x21] :=
  (if_neg header).trans (if_pos bad)

end

theorem Taken.header (h : Taken w x (u.drum d)) {q : TuneW} (good : q.slay ≠ 3 → q.hdrBad x = false) :
    ¬ (q.slay ≠ 3 ∧ q.hdrBad (u.drum d) = true) := by
  rintro ⟨block, bad⟩
  rw [h.hdrBad, good block] at bad
  exact Bool.false_ne_true bad

/-- A WIDEN on units that are still leaves the drum widened, where no scale faults. -/
theorem exec_widen (h : s.Tunes d w r) (op : (tuneW w).op = 1) (src : tfmt (tuneW w).sfmt = some sf)
    (dst : tfmt (tuneW w).dfmt = some df) (rows : (tuneW w).m ≠ 0) (columns : (tuneW w).n ≠ 0)
    (header : (tuneW w).slay ≠ 3 → (tuneW w).hdrBad (s.drum d) = false)
    (good : ((s.drum d).widenRows (tuneW w) sf df (tuneW w).m).bad = false) :
    ∃ t, exec (.widen d true) s = .next t ∧ OnlyDrum d s t ∧
      Taken w ((s.drum d).widened (tuneW w) sf df) (t.drum d) := by
  have ⟨_, hl, _⟩ := h.offers
  obtain ⟨v, n, j, only, taken, run⟩ := h.widenRuns op src dst rows columns
  have alike := widenRows_alike taken (tuneW w) sf df
  have good' : ((v.drum d).widenRows (tuneW w) sf df (tuneW w).m).bad = false := by
    rw [alike.same]
    exact good
  have done : Taken w ((s.drum d).widened (tuneW w) sf df)
      ((v.setDrum d ((v.drum d).widened (tuneW w) sf df)).drum d) := by
    rw [v.drum_setDrum (only.drum_lt hl)]
    exact taken.widened ..
  rw [State.runWiden_good (taken.header header) good', unitsGo_settled h.still ((s.drum d).widened_retuned (tuneW w) sf df) done] at run
  exact ⟨_, run, only.trans (onlyDrum_setDrum v d _), done⟩

/-! ### The scale value fault -/

theorem FaultSet.note_ne_reset (f : FaultSet) (r : Raised) (beat : Dword) (tick : Nat) : f.note r beat tick ≠ FaultSet.reset :=
  fun h => List.append_ne_nil_of_right_ne_nil _ (List.cons_ne_nil _ _) (congrArg FaultSet.recent h)

theorem FaultSet.latch_ne_reset (f : FaultSet) (r : Raised) (beat : Dword) (origin : Option Dword) :
    f.latch r beat origin ≠ FaultSet.reset := fun h => Bool.false_ne_true (congrArg FaultSet.valid h).symm

/-- A fault latches where no valid record stands, whatever the form of the store of records. -/
theorem State.raiseWith_latches {n sub : Nat} {j : Option Half} {run : Option RunId} (free : (s.fault n).valid = false) :
    (s.raiseWith ⟨n, BitVec.ofNat 8 sub, j, run, false⟩).latched n sub j s.beat ∧
    (s.raiseWith ⟨n, BitVec.ofNat 8 sub, j, run, false⟩).drums = s.drums := by
  let a : Raised := ⟨n, BitVec.ofNat 8 sub, j, run, false⟩
  let noted := (s.fault n).note a s.beat s.power.controlTick
  let t := s.modFault n fun f => f.note a s.beat s.power.controlTick
  let u := t.setFault n (noted.latch a s.beat (t.timerFrom n))
  have note : t.fault n = noted := getCell_putCell_of_ne_default (FaultSet.note_ne_reset _ _ _ _) n s.faults
  have raised : s.raiseWith a = u.interrupt n := by
    have fresh : (t.fault n).valid = false := by
      rw [note]
      exact free
    refine (if_pos fresh).trans ?_
    rw [show t.fault a.src = noted from note]
  have record : u.fault n = noted.latch a s.beat (t.timerFrom n) :=
    getCell_putCell_of_ne_default (FaultSet.latch_ne_reset _ _ _ _) n t.faults
  rw [show (⟨n, BitVec.ofNat 8 sub, j, run, false⟩ : Raised) = a from rfl, raised, State.interrupt_eq]
  refine ⟨?_, rfl⟩
  change u.latched n sub j s.beat
  unfold State.latched
  rw [record]
  exact ⟨rfl, rfl, rfl, rfl, rfl, rfl, rfl, rfl⟩

/-- The fault of an instruction in its unit: it ends, issue stops, and the record is the running job's. -/
theorem State.unitFault_latches (hu : d < u.drums.length) (run : (u.drum d).seq.run = some r) (free : (u.fault d).valid = false)
    (o f : Nat) : (u.unitFault d o [f]).latched d f (some r.job) u.beat ∧
    (u.unitFault d o [f]).drum d =
      { (u.drum d).dropOrd o with seq := { (u.drum d).seq with stopped := true, waiting := none } } := by
  let v := u.modDrum d (·.dropOrd o)
  have hv : d < v.drums.length := by rwa [State.modDrum_length]
  have dropped : v.drum d = (u.drum d).dropOrd o := u.drum_modDrum hu _
  have run' : (v.drum d).seq.run = some r := by rw [dropped]; exact run
  let t := (v.modSeq d fun q => { q with stopped := true, waiting := none }).markFaulted r.job r.task
  have fault : u.unitFault d o [f] = t.raiseWith ⟨d, BitVec.ofNat 8 f, some r.job, some r, false⟩ := by
    rw [State.unitFault, State.drumFaults_one run', State.drumFault, run']
    rfl
  obtain ⟨latched, drums⟩ := t.raiseWith_latches (n := d) (sub := f) (j := some r.job) (run := some r) free
  rw [fault]
  refine ⟨latched, ?_⟩
  have stopped := v.drum_modSeq hv fun q => { q with stopped := true, waiting := none }
  rw [dropped] at stopped
  rw [State.drum, drums]
  exact stopped

/-- A faulted instruction leaves nothing to do on a drum whose units were still. -/
theorem Drum.still.dropped (h : x.still) (o : Nat) (q : Seq) : ({ x.dropOrd o with seq := q } : Drum).unitsRest := by
  obtain ⟨jobs, load, cur, -, -, queues, roll, tuner, -⟩ := h
  exact ⟨by simp only [Drum.dropOrd, jobs, List.filter_nil], load, cur, queues,
    by simp only [Drum.dropOrd, roll, Option.filter_none], by simp only [Drum.dropOrd, tuner, Option.filter_none]⟩

/-- An illegal scale of the only row raises the scale value fault, and nothing is written. -/
theorem exec_widen_illegal (h : s.Tunes d w r) (op : (tuneW w).op = 1) (src : tfmt (tuneW w).sfmt = some sf)
    (dst : tfmt (tuneW w).dfmt = some df) (rows : (tuneW w).m = 1) (columns : (tuneW w).n ≠ 0)
    (header : (tuneW w).slay ≠ 3 → (tuneW w).hdrBad (s.drum d) = false) {g : Nat} (hg : g < (tuneW w).groups)
    (illegal : scaleLegal ((s.drum d).widenScale (tuneW w) sf 0 g) = false) (free : (s.fault d).valid = false) :
    ∃ t, exec (.widen d true) s = .next t ∧ t.latched d 0x21 (some r.job) s.beat ∧
      (t.drum d).pad.mem = (s.drum d).pad.mem := by
  have ⟨_, hl, _⟩ := h.offers
  obtain ⟨v, n, j, only, taken, run⟩ := h.widenRuns op src dst (by omega) columns
  have hv := only.drum_lt hl
  have first : (v.drum d).widenRows (tuneW w) sf df (tuneW w).m = ⟨v.drum d, [], Seen.zero, true⟩ := by
    rw [rows, Drum.widenRows_succ]
    exact widenRow_illegal rfl hg (by rw [← illegal]; exact congrArg _ (taken.widenScale ..))
  let u := v.setDrum d (v.drum d)
  have ends : v.runWiden d (tuneW w) sf df j = u.unitFault d j.ord [0x21] := by
    rw [State.runWiden_bad (taken.header header) (by rw [first]), first]
  have drum : u.drum d = v.drum d := v.drum_setDrum hv _
  have onlyU : OnlyDrum d s u := only.trans (onlyDrum_setDrum v d _)
  have free' : (u.fault d).valid = false := by
    rw [onlyU.1]
    exact free
  have beat : u.beat = s.beat := by rw [onlyU.1]
  obtain ⟨latched, faulted⟩ := u.unitFault_latches (onlyU.drum_lt hl) (by rw [drum]; exact taken.run.trans h.run)
    free' j.ord 0x21
  rw [drum] at faulted
  rw [beat] at latched
  have rests : ((u.unitFault d j.ord [0x21]).drum d).unitsRest := by
    rw [faulted]
    exact (taken.still h.still).dropped ..
  have ⟨jobs, _, cur, _⟩ := rests
  rw [ends, unitsGo_idle rests.others cur (.inl jobs)] at run
  exact ⟨_, run, latched, by rw [faulted]; exact taken.mem⟩

end

end Sys2Proof.Machine
end

section
/-! What a conversion counts and which bytes it leaves (R80, R95, R112). -/

namespace Sys2Proof.Machine

/-! ### Rows as bytes -/

theorem padTo_length (n : Nat) (l : List Byte) : (padTo n l).length = n := by
  simp only [padTo, List.length_take, List.length_append, List.length_replicate]
  omega

/-- A row takes the bytes that its layout gives it. -/
theorem rowOut_length (lay : Nat) (f : TFmt) (zp : Bool) (codes : List Nat) (scales : List Half) (zs : List Nat) :
    (rowOut lay f zp codes scales zs).length = rowBytes lay f zp codes.length := by
  have zeros : (if zp then padTo 32 (zs.map fun z => BitVec.ofNat 8 z) else []).length = 32 * zp.toNat := by
    cases zp
    · rfl
    · exact padTo_length 32 _
  unfold rowOut rowBytes
  simp only []
  split
  · rw [List.length_append, zeros, List.length_flatMap]
    simp [Nat.mul_comm]
  · rw [List.length_append, List.length_append, zeros, padTo_length, padTo_length]
  · exact leBytes_length _ _

/-! ### Bytes that are left -/

/-- From x to y no byte of the pad outside the ranges has changed. -/
def Drum.Leaves (x y : Drum) (l : List Range) : Prop :=
  ∀ a, inRanges (x.abs 0) l a = false → getByte y.pad.mem a = getByte x.pad.mem a

theorem getBytes_congr {m k : Memory} : ∀ (n a : Nat), (∀ i, i < n → getByte m (a + i) = getByte k (a + i)) →
    getBytes m a n = getBytes k a n
  | 0, _, _ => rfl
  | n + 1, a, h => by
    have first := h 0 (Nat.succ_pos n)
    have rest : getBytes m (a + 1) n = getBytes k (a + 1) n := getBytes_congr n (a + 1) fun i hi => by
      rw [show a + 1 + i = a + (i + 1) by omega]
      exact h (i + 1) (by omega)
    rw [getBytes, getBytes, rest]
    exact congrArg (· :: _) first

section
variable {x y : Drum} {l : List Range}

theorem Drum.Leaves.refl (x : Drum) (l : List Range) : x.Leaves x l := fun _ _ => rfl

theorem Drum.Leaves.counted (h : x.Leaves y l) (codes : List Coded) : x.Leaves (y.counted codes) l := h

theorem Drum.abs_eq (x : Drum) (off : Nat) : x.abs off = x.abs 0 + off := rfl

/-- Bytes written inside one of the ranges. -/
theorem Drum.Leaves.padPut (h : x.Leaves y l) (work : Retuned x y) {off : Nat} {bytes : List Byte}
    (inside : ⟨off, bytes.length⟩ ∈ l) : x.Leaves (y.padPut off bytes) l := by
  intro a out
  have apart : ¬ (x.abs 0 + off ≤ a ∧ a < x.abs 0 + off + bytes.length) := by
    simp only [inRanges, List.any_eq_false] at out
    simpa using out _ inside
  refine (getByte_putBytes_out bytes ?_).trans (h a out)
  rw [work.abs, x.abs_eq]
  omega

/-- What lies in a range apart from them reads as before. -/
theorem Drum.Leaves.padBytes (h : x.Leaves y l) (work : Retuned x y) {b : Range} (apart : ∀ a ∈ l, a.meets b = false)
    {off n : Nat} (lo : b.off ≤ off) (hi : off + n ≤ b.off + b.len) : y.padBytes off n = x.padBytes off n := by
  unfold Drum.padBytes
  rw [work.abs]
  refine getBytes_congr n _ fun i hi' => h _ ?_
  simp only [inRanges, List.any_eq_false]
  intro a ha
  have clear := apart a ha
  simp only [Range.meets, decide_eq_false_iff_not] at clear
  intro meets
  have both := of_decide_eq_true meets
  rw [x.abs_eq off] at both
  exact clear (by omega)

theorem Drum.Leaves.sclHdr (h : x.Leaves y l) (work : Retuned x y) {off n : Nat}
    (apart : ∀ a ∈ l, a.meets ⟨off, 16 + n⟩ = false) : y.sclHdr off = x.sclHdr off := by
  have header := h.padBytes work apart (off := off) (n := 16) le_rfl (Nat.add_le_add_left (Nat.le_add_right 16 n) off)
  simp only [Drum.sclHdr, header]

/-- A scale block apart from what is written reads as before. -/
theorem Drum.Leaves.blockRow (h : x.Leaves y l) (work : Retuned x y) {off rows m : Nat}
    (apart : ∀ a ∈ l, a.meets ⟨off, 16 + (x.sclHdr off).rowBytes * rows⟩ = false) (hm : m < rows) :
    y.blockRow off m = x.blockRow off m := by
  have row : (x.sclHdr off).rowBytes * m + (x.sclHdr off).rowBytes ≤ (x.sclHdr off).rowBytes * rows := by
    rw [← Nat.mul_succ]
    exact Nat.mul_le_mul_left _ hm
  have wide : 64 ≤ (x.sclHdr off).rowBytes := Nat.le_add_right 64 _
  simp only [Drum.blockRow, h.sclHdr work apart]
  refine List.map_congr_left fun i hi => ?_
  have few := List.mem_range.1 hi
  have same := h.padBytes work apart (off := off + 16 + (x.sclHdr off).rowBytes * m + 2 * i) (n := 2)
    (show off ≤ _ by omega) (show _ ≤ off + (16 + (x.sclHdr off).rowBytes * rows) by omega)
  unfold Drum.padBytes at same
  simp only [halfAt, Drum.padNat, getNat, same]

end

/-! ### Rows that are counted and written -/

theorem Drum.counted_elems (x : Drum) (l : List Coded) :
    (x.counted l).tuner.elems = x.tuner.elems + BitVec.ofNat 64 l.length := by
  simp [Drum.counted, Tuner.count, Seen.add, Seen.zero]

theorem Drum.foldRows_elems (x : Drum) (q : TuneW) (folds : Bool) (rows : List (List Word)) (c : Seen) :
    (x.foldRows q folds rows c).tuner.elems = x.tuner.elems := by
  unfold Drum.foldRows
  split <;> rfl

theorem Drum.foldRows_mem (x : Drum) (q : TuneW) (folds : Bool) (rows : List (List Word)) (c : Seen) :
    (x.foldRows q folds rows c).pad.mem = x.pad.mem := by
  unfold Drum.foldRows
  split <;> rfl

theorem Tuner.foldl_putRow_elems {f : Nat → Nat} {g : Nat → List Half} {tag : BitVec 6} {group : BitVec 2} :
    ∀ (l : List Nat) (t : Tuner), (l.foldl (fun (t : Tuner) m => t.putRow (f m) (g m) tag group) t).elems = t.elems
  | [], _ => rfl
  | _ :: l, _ => Tuner.foldl_putRow_elems l _

theorem NarrowRun.ended_elems (k : NarrowRun) (q : TuneW) (folds : Bool) : (k.ended q folds).tuner.elems = k.drum.tuner.elems := by
  have folded := k.drum.foldRows_elems q folds (if q.smode = 1 then [] else k.rows) k.seen
  unfold NarrowRun.ended
  simp only []
  split <;> split
  · exact (Tuner.foldl_putRow_elems _ _).trans folded
  · exact folded
  · exact (Tuner.foldl_putRow_elems _ _).trans folded
  · exact folded

/-- The elements of a row more. -/
theorem ofNat_rows_succ (a : Dword) (i n : Nat) :
    a + BitVec.ofNat 64 (i * n) + BitVec.ofNat 64 n = a + BitVec.ofNat 64 ((i + 1) * n) := by
  rw [BitVec.add_assoc, ← BitVec.ofNat_add, Nat.succ_mul]

theorem Drum.wideRow_length (x : Drum) (q : TuneW) {f : TFmt} (wide : f.float?.isSome = true) (m : Nat) :
    (x.wideRow q f m).length = q.n := by
  unfold Drum.wideRow
  split
  · simp [Shell.rowList]
  · obtain ⟨v, hv⟩ := Option.isSome_iff_exists.1 wide
    simp [hv]

theorem Drum.convertRows_elems (x : Drum) {q : TuneW} {sf : TFmt} (df : TFmt) (wide : sf.float?.isSome = true) :
    ∀ i, (x.convertRows q sf df i).drum.tuner.elems = x.tuner.elems + BitVec.ofNat 64 (i * q.n)
  | 0 => by simp [Drum.convertRows]
  | i + 1 => by
    rw [Drum.convertRows_succ]
    refine (Drum.counted_elems _ _).trans ?_
    rw [List.length_map, Drum.wideRow_length _ q wide, x.convertRows_elems df wide i, ofNat_rows_succ]

theorem Drum.converted_elems (x : Drum) {q : TuneW} {sf : TFmt} (df : TFmt) (wide : sf.float?.isSome = true) :
    (x.converted q sf df).tuner.elems = x.tuner.elems + BitVec.ofNat 64 (q.m * q.n) :=
  (Drum.foldRows_elems ..).trans (x.convertRows_elems df wide q.m)

/-! ### NARROW -/

section
variable {x : Drum} {q : TuneW} {sf df : TFmt}

theorem narrowCodes_length (q : TuneW) (df : TFmt) (row : List Word) (ss : List (Half × Nat)) :
    (narrowCodes q df row ss).length = q.n := by simp [narrowCodes]

theorem NarrowRun.rowScales_some {k : NarrowRun} {m : Nat}
    (h : ∀ g, g < q.groups → (k.drum.narrowScale q df k.fit (k.drum.wideRow q sf m) m g).isSome = true) :
    (k.rowScales q sf df m).any Option.isNone = false := by
  simp only [NarrowRun.rowScales, List.any_map, List.any_eq_false, List.mem_range, Function.comp_apply]
  intro g hg
  rw [Option.isNone_iff_eq_none, ← Option.not_isSome_iff_eq_none, not_not]
  exact h g hg

/-- A scale that the tuner forms itself is legal. -/
theorem Drum.narrowScale_formed (x : Drum) {q : TuneW} (formed : q.smode < 3) (df : TFmt) (fit : List (Half × Nat))
    (row : List Word) (m g : Nat) : (x.narrowScale q df fit row m g).isSome = true := by
  rcases (show q.smode = 0 ∨ q.smode = 1 ∨ q.smode = 2 by omega) with mode | mode | mode
  · simp only [Drum.narrowScale, mode, Option.isSome_some]
  · simp only [Drum.narrowScale, mode, Option.isSome_some]
  · simp only [Drum.narrowScale, mode]
    split <;> rfl

theorem Drum.narrowScale_block (x : Drum) {q : TuneW} (block : q.smode = 3) (df : TFmt) (fit : List (Half × Nat))
    (row : List Word) {m g : Nat} (legal : scaleLegal (((x.blockRow q.scl m)[g]?).getD 0#16) = true) :
    (x.narrowScale q df fit row m g).isSome = true := by
  simp only [Drum.narrowScale, block, legal, if_true, Option.isSome_some]

/-- A range that a NARROW writes, one for each row. -/
theorem TuneW.narrow_writes {m : Nat} (op : q.op = 0) (dst : tfmt q.dfmt = some df) (hm : m < q.m) (columns : q.n ≠ 0) :
    (⟨rowOff q.dst q.dlay df q.zp q.dstride m, rowBytes q.dlay df q.zp q.n⟩ : Range) ∈ q.writeRanges := by
  have rows : q.m ≠ 0 := by omega
  simp only [TuneW.writeRanges, op, rows, columns, or_self, decide_false, Bool.false_eq_true, if_false, rowRanges, dst]
  exact List.mem_append_left _ (List.mem_map.2 ⟨m, List.mem_range.2 hm, rfl⟩)

theorem TuneW.narrow_reads (op : q.op = 0) (block : q.smode = 3) (rows : q.m ≠ 0) (columns : q.n ≠ 0) :
    (⟨q.scl, 16 + (x.sclHdr q.scl).rowBytes * q.m⟩ : Range) ∈ q.readRanges x := by
  simp [TuneW.readRanges, op, rows, columns, block]

/-- A row of a NARROW keeps within the ranges that the NARROW writes. -/
theorem narrowRow_leaves {k : NarrowRun} {m : Nat} (op : q.op = 0) (dst : tfmt q.dfmt = some df) (hm : m < q.m)
    (columns : q.n ≠ 0) (work : Retuned x k.drum) (h : x.Leaves k.drum q.writeRanges) :
    x.Leaves (narrowRow q sf df m k).drum q.writeRanges := by
  cases bad : k.bad with
  | true =>
    rw [narrowRow_bad bad]
    exact h
  | false =>
    cases legal : (k.rowScales q sf df m).any Option.isNone with
    | true =>
      rw [narrowRow_illegal bad legal]
      exact h
    | false =>
      rw [narrowRow_legal bad legal]
      refine (h.counted _).padPut (work.counted _) ?_
      rw [rowOut_length, List.length_map, narrowCodes_length]
      exact TuneW.narrow_writes op dst hm columns

theorem Drum.narrowRows_leaves (op : q.op = 0) (dst : tfmt q.dfmt = some df) (columns : q.n ≠ 0) :
    ∀ i, i ≤ q.m → x.Leaves (x.narrowRows q sf df i).drum q.writeRanges
  | 0, _ => .refl x _
  | i + 1, h => by
    rw [Drum.narrowRows_succ]
    exact narrowRow_leaves op dst h columns (x.narrowRows_retuned q sf df i)
      (Drum.narrowRows_leaves op dst columns i (by omega))

/-- Scales of a block apart from what the NARROW writes stay legal while its rows run. -/
theorem Drum.narrowRows_scales (op : q.op = 0) (dst : tfmt q.dfmt = some df) (columns : q.n ≠ 0) (mode : q.smode ≤ 3)
    (apart : q.smode = 3 → ∀ a ∈ q.writeRanges, ∀ b ∈ q.readRanges x, a.meets b = false)
    (legal : q.smode = 3 → ∀ m g, m < q.m → g < q.groups → scaleLegal (((x.blockRow q.scl m)[g]?).getD 0#16) = true)
    {i g : Nat} (hi : i < q.m) (hg : g < q.groups) (fit : List (Half × Nat)) (row : List Word) :
    ((x.narrowRows q sf df i).drum.narrowScale q df fit row i g).isSome = true := by
  by_cases block : q.smode = 3
  · have reads := TuneW.narrow_reads (x := x) op block (by omega) columns
    have same := (Drum.narrowRows_leaves (sf := sf) op dst columns i (by omega)).blockRow (x.narrowRows_retuned q sf df i)
      (fun a ha => apart block a ha _ reads) hi
    refine Drum.narrowScale_block _ block df fit row ?_
    rw [same]
    exact legal block i g hi hg
  · exact Drum.narrowScale_formed _ (by omega) df fit row i g

/-- Rows whose scales are legal meet no fault, and count their elements. -/
theorem Drum.narrowRows_counts (legal : ∀ i g, i < q.m → g < q.groups → ((x.narrowRows q sf df i).drum.narrowScale q df
      (x.narrowRows q sf df i).fit ((x.narrowRows q sf df i).drum.wideRow q sf i) i g).isSome = true) :
    ∀ i, i ≤ q.m → (x.narrowRows q sf df i).bad = false ∧
      (x.narrowRows q sf df i).drum.tuner.elems = x.tuner.elems + BitVec.ofNat 64 (i * q.n)
  | 0, _ => ⟨rfl, by simp [Drum.narrowRows]⟩
  | i + 1, h => by
    obtain ⟨good, elems⟩ := Drum.narrowRows_counts legal i (by omega)
    rw [Drum.narrowRows_succ, narrowRow_legal good (NarrowRun.rowScales_some fun g hg => legal i g h hg)]
    refine ⟨rfl, (Drum.counted_elems _ _).trans ?_⟩
    rw [narrowCodes_length, elems, ofNat_rows_succ]

theorem Drum.narrowed_elems (elems : (x.narrowRows q sf df q.m).drum.tuner.elems = x.tuner.elems + BitVec.ofNat 64 (q.m * q.n)) :
    (x.narrowed q sf df).tuner.elems = x.tuner.elems + BitVec.ofNat 64 (q.m * q.n) := (NarrowRun.ended_elems ..).trans elems

end

/-! ### WIDEN -/

section
variable {x : Drum} {q : TuneW} {sf df : TFmt}

theorem Drum.widenCodes_length (x : Drum) (q : TuneW) (sf : TFmt) (f : Fmt) (m : Nat) : (x.widenCodes q sf f m).length = q.n := by
  simp [Drum.widenCodes]

/-- A range that a WIDEN writes, one for each row. -/
theorem TuneW.widen_writes {m : Nat} (op : q.op = 1) (dst : tfmt q.dfmt = some df) (hm : m < q.m) (columns : q.n ≠ 0) :
    (⟨rowOff q.dst q.dlay df false q.dstride m, rowBytes q.dlay df false q.n⟩ : Range) ∈ q.writeRanges := by
  have rows : q.m ≠ 0 := by omega
  simp only [TuneW.writeRanges, op, rows, columns, or_self, decide_false, Bool.false_eq_true, if_false, rowRanges, dst]
  exact List.mem_map.2 ⟨m, List.mem_range.2 hm, rfl⟩

/-- The ranges that a WIDEN reads: its rows, and the scale block of rows that carry no scales. -/
theorem TuneW.widen_readRanges (x : Drum) (op : q.op = 1) (src : tfmt q.sfmt = some sf) (rows : q.m ≠ 0) (columns : q.n ≠ 0) :
    q.readRanges x = ((List.range q.m).map fun i =>
        ⟨rowOff q.src q.slay sf q.zp q.sstride i, rowBytes q.slay sf q.zp q.n⟩) ++
      if q.slay = 3 then [] else [⟨q.scl, 16 + (x.sclHdr q.scl).rowBytes * q.m⟩] := by
  simp only [TuneW.readRanges, op, rows, columns, or_self, decide_false, Bool.false_eq_true, if_false, rowRanges, src]

/-- A row of a WIDEN keeps within the ranges that the WIDEN writes. -/
theorem widenRow_leaves {k : WideRun} {m : Nat} (op : q.op = 1) (dst : tfmt q.dfmt = some df) (hm : m < q.m)
    (columns : q.n ≠ 0) (work : Retuned x k.drum) (h : x.Leaves k.drum q.writeRanges) (f : Fmt) :
    x.Leaves (widenRow q sf df f m k).drum q.writeRanges := by
  cases bad : k.bad with
  | true =>
    rw [widenRow_bad bad]
    exact h
  | false =>
    rcases k.drum.widenScales_cases q sf m with legal | ⟨g, hg, illegal⟩
    · rw [widenRow_legal bad legal]
      refine (h.counted _).padPut (work.counted _) ?_
      rw [rowOut_length, List.length_map, Drum.widenCodes_length]
      exact TuneW.widen_writes op dst hm columns
    · rw [widenRow_illegal bad hg illegal]
      exact h

theorem Drum.widenRows_leaves (op : q.op = 1) (dst : tfmt q.dfmt = some df) (columns : q.n ≠ 0) :
    ∀ i, i ≤ q.m → x.Leaves (x.widenRows q sf df i).drum q.writeRanges
  | 0, _ => .refl x _
  | i + 1, h => by
    rw [Drum.widenRows_succ]
    exact widenRow_leaves op dst h columns (x.widenRows_retuned q sf df i)
      (Drum.widenRows_leaves op dst columns i (by omega)) _

/-- Scales apart from what the WIDEN writes stay as they are while its rows run. -/
theorem Drum.widenRows_scale (op : q.op = 1) (src : tfmt q.sfmt = some sf) (dst : tfmt q.dfmt = some df) (columns : q.n ≠ 0)
    (apart : ∀ a ∈ q.writeRanges, ∀ b ∈ q.readRanges x, a.meets b = false) {i : Nat} (hi : i < q.m) (g : Nat) :
    (x.widenRows q sf df i).drum.widenScale q sf i g = x.widenScale q sf i g := by
  have leaves := Drum.widenRows_leaves (x := x) (sf := sf) op dst columns i (by omega)
  have work := x.widenRows_retuned q sf df i
  rw [TuneW.widen_readRanges x op src (by omega) columns] at apart
  unfold Drum.widenScale
  by_cases own : q.slay = 3
  · have row : (⟨rowOff q.src q.slay sf q.zp q.sstride i, rowBytes q.slay sf q.zp q.n⟩ : Range) ∈ (List.range q.m).map fun i =>
        (⟨rowOff q.src q.slay sf q.zp q.sstride i, rowBytes q.slay sf q.zp q.n⟩ : Range) :=
      List.mem_map.2 ⟨i, List.mem_range.2 hi, rfl⟩
    have same : (x.widenRows q sf df i).drum.codeRow q sf i = x.codeRow q sf i :=
      leaves.padBytes work (fun a ha => apart a ha _ (List.mem_append_left _ row)) le_rfl le_rfl
    rw [if_pos own, if_pos own, same]
  · rw [if_neg own] at apart
    rw [if_neg own, if_neg own,
      leaves.blockRow work (fun a ha => apart a ha _ (List.mem_append_right _ (List.mem_singleton_self _))) hi]

/-- Rows whose scales are legal meet no fault, and count their elements. -/
theorem Drum.widenRows_counts (legal : ∀ i g, i < q.m → g < q.groups →
      scaleLegal ((x.widenRows q sf df i).drum.widenScale q sf i g) = true) :
    ∀ i, i ≤ q.m → (x.widenRows q sf df i).bad = false ∧
      (x.widenRows q sf df i).drum.tuner.elems = x.tuner.elems + BitVec.ofNat 64 (i * q.n)
  | 0, _ => ⟨rfl, by simp [Drum.widenRows]⟩
  | i + 1, h => by
    obtain ⟨good, elems⟩ := Drum.widenRows_counts legal i (by omega)
    rw [Drum.widenRows_succ, widenRow_legal good fun g hg => legal i g h hg]
    refine ⟨rfl, (Drum.counted_elems _ _).trans ?_⟩
    rw [Drum.widenCodes_length, elems, ofNat_rows_succ]

end

end Sys2Proof.Machine
end

section
/-! Conversions count their elements (R94, R95, R112), and what those of one row write (R92-R98). -/

namespace Sys2Proof.Machine

/-! ### What the decode of a conversion has checked (R90) -/

theorem isWide_iff {f : Option TFmt} : isWide f = true ↔ ∃ v, f = some v ∧ v.wide = true := by
  cases f <;> simp [isWide]

theorem isNarrow_iff {f : Option TFmt} : isNarrow f = true ↔ ∃ v, f = some v ∧ v.wide = false := by
  cases f <;> simp [isNarrow]

theorem isFloat_iff {f : Option TFmt} : isFloat f = true ↔ ∃ v, f = some v ∧ v.float?.isSome = true := by
  cases f <;> simp [isFloat]

theorem TuneW.smode_le (w : Quad) : (tuneW w).smode ≤ 3 := Nat.le_of_lt_succ (Nat.mod_lt _ (by decide))

/-- The header of a scale block that fits. -/
theorem TuneW.hdrBad_eq_false {q : TuneW} {x : Drum} (h : (x.sclHdr q.scl).ok = true ∧ (x.sclHdr q.scl).kind = 1 ∧
    q.m ≤ (x.sclHdr q.scl).count ∧ (x.sclHdr q.scl).group = q.group ∧ (x.sclHdr q.scl).zp = q.zp) : q.hdrBad x = false := by
  obtain ⟨ok, kind, count, group, zp⟩ := h
  simp [TuneW.hdrBad, ok, kind, count, group, zp]

section
variable {s : State} {d : Nat} {w : Quad} {r : RunId}

theorem State.Tunes.narrowFormats (h : s.Tunes d w r) (op : (tuneW w).op = 0) :
    ∃ sf df, tfmt (tuneW w).sfmt = some sf ∧ tfmt (tuneW w).dfmt = some df := by
  have sound := h.sound
  simp only [TuneW.bad, op, Bool.or_eq_false_iff, Bool.not_eq_false', isWide_iff, isNarrow_iff] at sound
  obtain ⟨⟨⟨⟨⟨⟨⟨⟨-, sf, src, -⟩, df, dst, -⟩, -⟩, -⟩, -⟩, -⟩, -⟩, -⟩ := sound
  exact ⟨sf, df, src, dst⟩

theorem State.Tunes.widenFormats (h : s.Tunes d w r) (op : (tuneW w).op = 1) : ∃ df, tfmt (tuneW w).dfmt = some df := by
  have sound := h.sound
  simp only [TuneW.bad, op, Bool.or_eq_false_iff, Bool.not_eq_false', isWide_iff] at sound
  obtain ⟨⟨⟨⟨⟨-, df, dst, -⟩, -⟩, -⟩, -⟩, -⟩ := sound
  exact ⟨df, dst⟩

theorem State.Tunes.convertFormats (h : s.Tunes d w r) (op : (tuneW w).op = 2) :
    ∃ sf df, tfmt (tuneW w).sfmt = some sf ∧ sf.float?.isSome = true ∧ tfmt (tuneW w).dfmt = some df := by
  have sound := h.sound
  simp only [TuneW.bad, op, Bool.or_eq_false_iff, Bool.not_eq_false', isFloat_iff] at sound
  obtain ⟨⟨⟨⟨⟨⟨-, sf, src, float⟩, df, dst, -⟩, -⟩, -⟩, -⟩, -⟩ := sound
  exact ⟨sf, df, src, float, dst⟩

/-! ### What a conversion leaves -/

/-- What the sequencer's move looks like beside the tuner's work. -/
theorem Taken.conversion {x z y : Drum} (work : Retuned x z) (h : Taken w z y) :
    Moved x y 1 w ∧ y = { x with seq := y.seq, tuner := y.tuner, pad := y.pad } := by
  have moved := h.moved
  have seq : z.seq = x.seq := by rw [work.same]
  refine ⟨?_, ?_⟩
  · unfold Moved at *
    rwa [← seq]
  · rw [h.same, work.same]

/-- The effect that a conversion of q.m rows of q.n elements has on drum d. -/
def State.Converts (s t : State) (d : Nat) (w : Quad) (c : Nat) : Prop :=
  OnlyDrum d s t ∧ Moved (s.drum d) (t.drum d) 1 w ∧
    t.drum d = { s.drum d with seq := (t.drum d).seq, tuner := (t.drum d).tuner, pad := (t.drum d).pad } ∧
    (t.drum d).tuner.elems = (s.drum d).tuner.elems + BitVec.ofNat 64 c

theorem Taken.converts {t : State} {z : Drum} {c : Nat} (only : OnlyDrum d s t) (work : Retuned (s.drum d) z)
    (taken : Taken w z (t.drum d)) (elems : z.tuner.elems = (s.drum d).tuner.elems + BitVec.ofNat 64 c) :
    s.Converts t d w c := by
  obtain ⟨moved, same⟩ := taken.conversion work
  exact ⟨only, moved, same, by rw [taken.tuner, elems]⟩

/-- A conversion without rows or columns counts nothing. -/
theorem State.Tunes.convertsNothing (h : s.Tunes d w r) {op : Nat} (kind : (tuneW w).op = op) (rows : op ≤ 3)
    (none_ : (tuneW w).m = 0 ∨ (tuneW w).n = 0) :
    s.Converts (s.tune d op true) d w ((tuneW w).m * (tuneW w).n) := by
  obtain ⟨only, taken⟩ := h.nothing kind rows none_
  exact taken.converts only (.refl _) (by rw [Nat.mul_eq_zero.2 none_]; simp)

theorem State.Tunes.convertCounts (h : s.Tunes d w r) (op : (tuneW w).op = 2) :
    ∃ t, exec (.convert d true) s = .next t ∧ s.Converts t d w ((tuneW w).m * (tuneW w).n) := by
  have ⟨hd, _⟩ := h.offers
  obtain ⟨sf, df, src, float, dst⟩ := h.convertFormats op
  by_cases none_ : (tuneW w).m = 0 ∨ (tuneW w).n = 0
  · exact ⟨_, if_pos hd, h.convertsNothing op (by omega) none_⟩
  · obtain ⟨rows, columns⟩ := not_or.1 none_
    obtain ⟨t, run, only, taken⟩ := exec_convert h op src dst rows columns
    exact ⟨t, run, taken.converts only (Drum.converted_retuned ..) (Drum.converted_elems _ df float)⟩

theorem State.Tunes.narrowCounts (h : s.Tunes d w r) (op : (tuneW w).op = 0)
    (block : (tuneW w).smode = 3 → (tuneW w).m ≠ 0 → (tuneW w).n ≠ 0 →
      (∀ a ∈ (tuneW w).writeRanges, ∀ b ∈ (tuneW w).readRanges (s.drum d), a.meets b = false) ∧
      (tuneW w).hdrBad (s.drum d) = false ∧ ∀ m g, m < (tuneW w).m → g < (tuneW w).groups →
        scaleLegal ((((s.drum d).blockRow (tuneW w).scl m)[g]?).getD 0#16) = true) :
    ∃ t, exec (.narrow d true) s = .next t ∧ s.Converts t d w ((tuneW w).m * (tuneW w).n) := by
  have ⟨hd, _⟩ := h.offers
  obtain ⟨sf, df, src, dst⟩ := h.narrowFormats op
  by_cases none_ : (tuneW w).m = 0 ∨ (tuneW w).n = 0
  · exact ⟨_, if_pos hd, h.convertsNothing op (by omega) none_⟩
  · obtain ⟨rows, columns⟩ := not_or.1 none_
    have counts := Drum.narrowRows_counts (x := s.drum d) (q := tuneW w) (sf := sf) (df := df) fun i g hi hg =>
      Drum.narrowRows_scales op dst columns (TuneW.smode_le w) (fun mode => (block mode rows columns).1)
        (fun mode => (block mode rows columns).2.2) hi hg _ _
    obtain ⟨t, run, only, taken⟩ := exec_narrow h op src dst rows columns (fun mode => (block mode rows columns).2.1)
      fun i hi => (counts i hi).1
    exact ⟨t, run, taken.converts only (Drum.narrowed_retuned ..) (Drum.narrowed_elems (counts _ le_rfl).2)⟩

theorem State.Tunes.widenCounts (h : s.Tunes d w r) {sf : TFmt} (op : (tuneW w).op = 1) (src : tfmt (tuneW w).sfmt = some sf)
    (scales : (tuneW w).m ≠ 0 → (tuneW w).n ≠ 0 →
      (∀ a ∈ (tuneW w).writeRanges, ∀ b ∈ (tuneW w).readRanges (s.drum d), a.meets b = false) ∧
      ((tuneW w).slay ≠ 3 → (tuneW w).hdrBad (s.drum d) = false) ∧ ∀ m g, m < (tuneW w).m → g < (tuneW w).groups →
        scaleLegal ((s.drum d).widenScale (tuneW w) sf m g) = true) :
    ∃ t, exec (.widen d true) s = .next t ∧ s.Converts t d w ((tuneW w).m * (tuneW w).n) := by
  have ⟨hd, _⟩ := h.offers
  obtain ⟨df, dst⟩ := h.widenFormats op
  by_cases none_ : (tuneW w).m = 0 ∨ (tuneW w).n = 0
  · exact ⟨_, if_pos hd, h.convertsNothing op (by omega) none_⟩
  · obtain ⟨rows, columns⟩ := not_or.1 none_
    obtain ⟨apart, header, legal⟩ := scales rows columns
    obtain ⟨good, elems⟩ := Drum.widenRows_counts (x := s.drum d) (q := tuneW w) (sf := sf) (df := df) (fun i g hi hg => by
      rw [Drum.widenRows_scale op src dst columns apart hi]
      exact legal i g hi hg) _ le_rfl
    obtain ⟨t, run, only, taken⟩ := exec_widen h op src dst rows columns header good
    exact ⟨t, run, taken.converts only (Drum.widened_retuned ..) ((Drum.foldRows_elems ..).trans elems)⟩

end

/-! ### One row -/

theorem rowOff_zero (base lay : Nat) (f : TFmt) (zp : Bool) (stride : Nat) : rowOff base lay f zp stride 0 = base := by
  simp [rowOff]

section
variable {x : Drum} {q : TuneW} {sf df : TFmt}

/-- The bytes of the only row of a conversion stand at its destination. -/
theorem Drum.rowWritten_mem (x : Drum) (q : TuneW) (df : TFmt) (zp : Bool) (codes : List Coded) (l : List Byte) :
    ((x.counted codes).padPut (rowOff q.dst q.dlay df zp q.dstride 0) l).pad.mem = putBytes x.pad.mem (x.abs q.dst) l := by
  rw [rowOff_zero]
  rfl

theorem NarrowRun.ended_mem {k : NarrowRun} (codes : q.sclOut = false) (folds : Bool) :
    (k.ended q folds).pad.mem = k.drum.pad.mem := by
  have folded := k.drum.foldRows_mem q folds (if q.smode = 1 then [] else k.rows) k.seen
  simp only [NarrowRun.ended, codes, Bool.false_eq_true, if_false]
  split <;> exact folded

/-- Scale and zero point of each group of row 0. -/
def Drum.firstScales (x : Drum) (q : TuneW) (sf df : TFmt) : List (Half × Nat) :=
  (List.range q.groups).map fun g => (x.narrowScale q df (x.sharedScales q df) (x.wideRow q sf 0) 0 g).getD (0#16, 0)

/-- The only row of a NARROW into codes alone. -/
theorem Drum.narrowed_one (one : q.m = 1) (codes : q.sclOut = false)
    (legal : ∀ g, g < q.groups → (x.narrowScale q df (x.sharedScales q df) (x.wideRow q sf 0) 0 g).isSome = true) :
    (x.narrowed q sf df).pad.mem = putBytes x.pad.mem (x.abs q.dst) (rowOut q.dlay df q.zp
      ((narrowCodes q df (x.wideRow q sf 0) (x.firstScales q sf df)).map (·.code))
      ((x.firstScales q sf df).map (·.1)) ((x.firstScales q sf df).map (·.2))) := by
  let first : NarrowRun := ⟨x, x.sharedScales q df, [], [], Seen.zero, false⟩
  have scales : (first.rowScales q sf df 0).map (fun o => o.getD (0#16, 0)) = x.firstScales q sf df := List.map_map
  have row := narrowRow_legal (k := first) rfl (NarrowRun.rowScales_some legal)
  rw [scales] at row
  have rows : x.narrowRows q sf df q.m = narrowRow q sf df 0 first := by
    rw [one]
    exact x.narrowRows_succ q sf df 0
  rw [Drum.narrowed, NarrowRun.ended_mem codes, rows, row]
  exact x.rowWritten_mem q df q.zp _ _

theorem Drum.converted_one {f : Fmt} (one : q.m = 1) (float : df.float? = some f) :
    (x.converted q sf df).pad.mem = putBytes x.pad.mem (x.abs q.dst)
      (rowOut q.dlay df false ((x.wideRow q sf 0).map fun v => (roundTo f (rndOf q.away) (val v)).code)
        (if q.dlay = 3 then List.replicate 32 (freeScale negInf32 posInf32) else []) []) := by
  have rows : x.convertRows q sf df q.m = convertRow q sf df f 0 ⟨x, [], Seen.zero, false⟩ := by
    rw [one, Drum.convertRows_succ, float]
    rfl
  refine (Drum.foldRows_mem ..).trans ?_
  rw [rows]
  refine (x.rowWritten_mem q df false _ _).trans ?_
  rw [List.map_map]
  rfl

theorem Drum.widened_one {f : Fmt} (one : q.m = 1) (float : df.float? = some f)
    (legal : ∀ g, g < q.groups → scaleLegal (x.widenScale q sf 0 g) = true) :
    (x.widened q sf df).pad.mem = putBytes x.pad.mem (x.abs q.dst)
      (rowOut q.dlay df false ((x.widenCodes q sf f 0).map (·.code)) [] []) := by
  have rows : x.widenRows q sf df q.m = widenRow q sf df f 0 ⟨x, [], Seen.zero, false⟩ := by
    rw [one, Drum.widenRows_succ, float]
    rfl
  refine (Drum.foldRows_mem ..).trans ?_
  rw [rows, widenRow_legal (k := ⟨x, [], Seen.zero, false⟩) rfl legal]
  exact x.rowWritten_mem q df false _ _

end

/-- Settles O18: rows count as they run, and no fault stops them where no scale is illegal; the only row of a NARROW is
written as its scales say. -/
theorem conversionsCountAndNarrowCodes : Obligations.ConversionsCountAndNarrowCodes := by
  refine ⟨?_, ?_⟩
  · intro s d w r offers op run q x counts apart blockLegal good still closed faults
    have h : s.Tunes d w r := ⟨offers, op, run, good, still, closed, faults⟩
    have far (ranges : apart = true) : ∀ a ∈ q.writeRanges, ∀ b ∈ q.readRanges x, a.meets b = false := by
      simpa [apart] using ranges
    refine ⟨fun convert => h.convertCounts convert, fun narrow block => h.narrowCounts narrow fun mode rows columns => ?_,
      fun sf widen src scales => h.widenCounts widen src fun rows columns => ?_⟩
    · obtain ⟨ranges, header, legal⟩ := block mode rows columns
      exact ⟨far ranges, header, legal⟩
    · obtain ⟨ranges, block, own⟩ := scales rows columns
      refine ⟨far ranges, fun other => (block other).1, fun m g hm hg => ?_⟩
      unfold Drum.widenScale
      split
      · next layout =>
        exact own layout m g hm hg
      · next other => exact (block other).2 m g hm hg
  · intro s d w r sf df offers op run q x row fit sc good still closed faults narrow one columns codes src dst block legal
    have h : s.Tunes d w r := ⟨offers, op, run, good, still, closed, faults⟩
    have header (mode : q.smode = 3) : q.hdrBad x = false := by
      obtain ⟨ok, kind, count, fits⟩ := block mode
      exact TuneW.hdrBad_eq_false ⟨ok, kind, by rw [one]; exact count, fits⟩
    have counts := Drum.narrowRows_counts (x := x) (q := q) (sf := sf) (df := df) fun i g hi hg => by
      obtain rfl : i = 0 := by omega
      exact legal g hg
    obtain ⟨t, run, -, taken⟩ := exec_narrow h narrow src dst (ne_of_eq_of_ne one one_ne_zero) columns header fun i hi => (counts i hi).1
    refine ⟨t, run, ?_, ?_⟩
    · rw [taken.mem, Drum.narrowed_one one codes legal, narrowCodes, List.map_map]
      rfl
    · rw [taken.tuner, Drum.narrowed_elems (counts _ le_rfl).2, one, Nat.one_mul]

/-- Settles O19: a CONVERT and a WIDEN of one row write it once; a scale that is not legal ends the WIDEN before it writes. -/
theorem convertAndWidenOneRow : Obligations.ConvertAndWidenOneRow := by
  refine ⟨?_, ?_⟩
  · intro s d w r sf df f offers op run q x good still closed faults convert one columns src dst float
    have h : s.Tunes d w r := ⟨offers, op, run, good, still, closed, faults⟩
    obtain ⟨t, run, -, taken⟩ := exec_convert h convert src dst (ne_of_eq_of_ne one one_ne_zero) columns
    obtain ⟨sf', -, src', wide, -⟩ := h.convertFormats convert
    obtain rfl : sf' = sf := Option.some.inj (src'.symm.trans src)
    refine ⟨t, run, taken.mem.trans (Drum.converted_one one float), ?_⟩
    rw [taken.tuner, Drum.converted_elems _ df wide, one, Nat.one_mul]
  · intro s d w r sf df f offers op run q x l sc zp good still closed faults widen one columns src dst float block
    have h : s.Tunes d w r := ⟨offers, op, run, good, still, closed, faults⟩
    have header (other : q.slay ≠ 3) : q.hdrBad x = false := by
      obtain ⟨ok, kind, count, fits⟩ := block other
      exact TuneW.hdrBad_eq_false ⟨ok, kind, by rw [one]; exact count, fits⟩
    have row : x.codeRow q sf 0 = l := by rw [Drum.codeRow, rowOff_zero]
    have scale (g : Nat) : x.widenScale q sf 0 g = sc g := by rw [Drum.widenScale, row]
    have zero (g : Nat) : x.widenZp q sf 0 g = zp g := by rw [Drum.widenZp, row]
    refine ⟨fun legal => ?_, ?_⟩
    · have legal' (g : Nat) (hg : g < q.groups) : scaleLegal (x.widenScale q sf 0 g) = true := by
        rw [scale]
        exact legal g hg
      obtain ⟨faultless, elems⟩ := Drum.widenRows_counts (x := x) (q := q) (sf := sf) (df := df) (fun i g hi hg => by
        obtain rfl : i = 0 := by omega
        exact legal' g hg) _ le_rfl
      obtain ⟨t, run, -, taken⟩ := exec_widen h widen src dst (ne_of_eq_of_ne one one_ne_zero) columns header faultless
      refine ⟨t, run, ?_, ?_⟩
      · rw [taken.mem, Drum.widened_one one float legal', Drum.widenCodes, List.map_map]
        simp only [Function.comp_def, row, scale, zero]
      · rw [taken.tuner, Drum.widened, Drum.foldRows_elems, elems, one, Nat.one_mul]
    · rintro ⟨g, hg, illegal⟩ free
      exact exec_widen_illegal h widen src dst one columns header hg (by rw [scale]; exact illegal) free

end Sys2Proof.Machine
end

section
/-! AMAX and CLOSE, alone or over the drum set, and the end of a shared reduction (R102-R104). -/

namespace Sys2Proof.Machine

/-! ### The rows of an AMAX -/

/-- What the tuner notes before row i of a row-wise AMAX. -/
def Drum.amaxAt (x : Drum) (q : TuneW) (sf : TFmt) (j : UnitJob) (folds : Bool) (i : Nat) : TuneRun :=
  ⟨j, i, [], folds, [], (List.range i).map (x.wideRow q sf), Seen.zero⟩

theorem Drum.wideRows_succ (x : Drum) (q : TuneW) (sf : TFmt) (i : Nat) :
    (List.range i).map (x.wideRow q sf) ++ [x.wideRow q sf i] = (List.range (i + 1)).map (x.wideRow q sf) := by
  rw [List.range_succ, List.map_append, List.map_singleton]

section
variable {s u v : State} {d : Nat} {w : Quad} {r : RunId} {sf : TFmt} {x : Drum} {j : UnitJob} {folds : Bool}

/-- One row of a row-wise AMAX, the last one or another. -/
theorem State.tuneRow_amax {i : Nat} (word : j.w = w) (op : (tuneW w).op = 3) (src : tfmt (tuneW w).sfmt = some sf)
    (run : x.seq.run = some r) (hu : d < u.drums.length)
    (taken : Taken w (x.atRow (x.amaxAt (tuneW w) sf j folds i)) (u.drum d)) (idle : x.tuner.cur = none) :
    u.tuneRow d (x.amaxAt (tuneW w) sf j folds i) = if (tuneW w).m ≤ i + 1
      then (u.offRow d).endAmax d (tuneW w) r j folds ((List.range (i + 1)).map (x.wideRow (tuneW w) sf))
      else (u.offRow d).modDrum d fun y => y.atRow (x.amaxAt (tuneW w) sf j folds (i + 1)) := by
  have off := taken.offRow hu idle
  have run' : ((u.offRow d).drum d).seq.run = some r := off.run.trans run
  have row := off.wideRow (tuneW w) sf i
  unfold State.offRow at *
  simp only [State.tuneRow, Drum.amaxAt, word, op, src, run', row, Drum.wideRows_succ, decide_eq_true_eq]
  rfl

/-- The rows of an AMAX, one by one or at once, and then its end. -/
theorem State.Tunes.amaxEnds (h : s.Tunes d w r) (op : (tuneW w).op = 3) (src : tfmt (tuneW w).sfmt = some sf)
    (rows : (tuneW w).m ≠ 0) (columns : (tuneW w).n ≠ 0) :
    ∃ t n, exec (.amax d true) s = .next (unitsGo d n (t.endAmax d (tuneW w) r ((s.drum d).newJob w true)
      ((s.drum d).folds (tuneW w)) ((List.range (tuneW w).m).map ((s.drum d).wideRow (tuneW w) sf)))) ∧
      OnlyDrum d s t ∧ Taken w (s.drum d) (t.drum d) := by
  have ⟨hd, hl, _⟩ := h.offers
  have word : ((s.drum d).newJob w true).w = w := Drum.newJob_w ..
  have run : exec (.amax d true) s = .next (s.tune d 3 true) := if_pos hd
  obtain ⟨v, n, fuel, only, taken, tune⟩ := h.starts op
  rw [tune] at run
  cases rowWise : ((s.drum d).newJob w true).rowWise with
  | false =>
    refine ⟨v, n, run.trans ?_, only, taken⟩
    have some_ : ¬ ((tuneW w).m = 0 ∨ (tuneW w).n = 0) := fun none_ => none_.elim rows columns
    rw [State.tuneEffect, rowWise, if_neg Bool.false_ne_true]
    simp only [State.runTune, op, src, some_, decide_false, Bool.false_eq_true, if_false, State.checked,
      Drum.newJob_par, Bool.true_or, if_true, State.runAmax, taken.folds, taken.wideRow]
  | true =>
    have ⟨few, _⟩ := h.size (by omega)
    have ⟨_, _, _, _, _, _, _, idle, _⟩ := h.still
    obtain ⟨t, n', steps, only', last⟩ := h.lastRow (n := n) only taken rows (by omega) (z := fun _ => s.drum d)
      (c := fun i => (s.drum d).amaxAt (tuneW w) sf ((s.drum d).newJob w true) ((s.drum d).folds (tuneW w)) i)
      rfl (fun _ => .refl _) fun i u more hu here => by
        have only := onlyDrum_offRow u d
        rw [State.tuneRow_amax word op src h.run hu here idle, if_neg (by omega), State.drum_modDrum _ (only.drum_lt hu)]
        have off := here.offRow hu idle
        exact ⟨only.trans (onlyDrum_modDrum _ d _), off.withTuner (by rw [off.tuner])⟩
    have ends := State.tuneRow_amax word op src h.run (only'.drum_lt hl) last idle
    rw [if_pos (by omega), show (tuneW w).m - 1 + 1 = (tuneW w).m by omega] at ends
    refine ⟨t.offRow d, n', run.trans (congrArg _ ?_), only'.trans (onlyDrum_offRow t d), last.offRow (only'.drum_lt hl) idle⟩
    rw [← ends, ← steps, State.tuneEffect, rowWise, if_pos rfl, State.beginTune]
    simp only [word, op, taken.folds]
    rfl

/-! ### A record offered, or kept -/

/-- The record of a TUNE with the bounds of its rows, where it folds. -/
def Drum.amaxRec (x : Drum) (q : TuneW) (folds : Bool) (rows : List (List Word)) : QRec :=
  if folds then (x.tuner.recAt q.qid).joinAll (groupBounds (groupSize q.group) q.n rows) else x.tuner.recAt q.qid

/-- The tuner after an AMAX that is not shared. -/
def Drum.amaxTuner (x : Drum) (q : TuneW) (folds : Bool) (rows : List (List Word)) : Tuner :=
  if folds then x.tuner.setRec q.qid (x.amaxRec q folds rows) else x.tuner

/-- What a drum offers to its set. -/
def Drum.shareEntry (x : Drum) (r : RunId) (close : Bool) (k : QRec) : ShareEntry :=
  ⟨r.job, r.task, x.tuner.shareOrd, close, x.logical.toNat, k.allHi, k.allLo, k.sat, k.count, false⟩

/-- A tuner that has offered its statistics waits for those of the set. -/
def Tuner.offered (t : Tuner) (q : TuneW) (j : UnitJob) (close folds : Bool) : Tuner :=
  { t with share := some ⟨close, q.qid, t.shareOrd, j, folds⟩, shareOrd := t.shareOrd + 1 }

theorem State.offer_taken (hu : d < u.drums.length) (taken : Taken w x (u.drum d)) (q : TuneW) (close : Bool) (k : QRec) :
    (u.offer d r q j close folds k).met.shares = u.met.shares ++ [x.shareEntry r close k] ∧
    Taken w { x with tuner := x.tuner.offered q j close folds } ((u.offer d r q j close folds k).drum d) := by
  refine ⟨?_, ?_⟩
  · rw [Drum.shareEntry, ← taken.tuner, ← taken.logical]
    rfl
  · have drum := (u.modMet fun m => { m with shares := m.shares ++ [(u.drum d).shareEntry r close k] }).drum_modTuner hu
      fun t => t.offered q j close folds
    exact Eq.subst drum.symm (motive := Taken w _) (taken.withTuner (congrArg (·.offered q j close folds) taken.tuner))

/-- The record after the rows of an AMAX, where it folds. -/
def State.folded (u : State) (d : Nat) (q : TuneW) (folds : Bool) (rows : List (List Word)) : State :=
  if folds then u.modTuner d fun t => t.setRec q.qid ((u.drum d).amaxRec q folds rows) else u

theorem State.endAmax_eq (u : State) (d : Nat) (q : TuneW) (r : RunId) (j : UnitJob) (folds : Bool) (rows : List (List Word)) :
    u.endAmax d q r j folds rows = if q.share then (u.folded d q folds rows).offer d r q j false folds ((u.drum d).amaxRec q folds rows)
      else u.folded d q folds rows := rfl

theorem Taken.amaxRec (taken : Taken w x (u.drum d)) (q : TuneW) (folds : Bool) (rows : List (List Word)) :
    (u.drum d).amaxRec q folds rows = x.amaxRec q folds rows := by
  simp only [Drum.amaxRec, taken.tuner]

theorem State.folded_taken (hu : d < u.drums.length) (taken : Taken w x (u.drum d)) (q : TuneW) (folds : Bool)
    (rows : List (List Word)) : OnlyDrum d u (u.folded d q folds rows) ∧
      Taken w { x with tuner := x.amaxTuner q folds rows } ((u.folded d q folds rows).drum d) := by
  cases folds with
  | false => exact ⟨.refl u d, taken⟩
  | true =>
    have folds : u.folded d q true rows = u.modTuner d fun t => t.setRec q.qid (x.amaxRec q true rows) := by
      rw [← taken.amaxRec]
      rfl
    rw [folds, u.drum_modTuner hu]
    exact ⟨onlyDrum_modTuner u d _, taken.withTuner (by rw [taken.tuner]; rfl)⟩

theorem Drum.amaxTuner_cur (x : Drum) (q : TuneW) (folds : Bool) (rows : List (List Word)) :
    (x.amaxTuner q folds rows).cur = x.tuner.cur := by
  unfold Drum.amaxTuner
  split <;> rfl

theorem Drum.amaxTuner_shareOrd (x : Drum) (q : TuneW) (folds : Bool) (rows : List (List Word)) :
    (x.amaxTuner q folds rows).shareOrd = x.tuner.shareOrd := by
  unfold Drum.amaxTuner
  split <;> rfl

/-- What a TUNE leaves that changes the tuner alone: the sequencer's move, and accesses noted. -/
theorem Taken.tunerOnly {t : Tuner} {y : Drum} (h : Taken w { x with tuner := t } y) :
    Moved x y 1 w ∧ y.tuner = t ∧ SamePad x.pad y.pad ∧ y.shell = x.shell := ⟨h.moved, h.tuner, h.pad, h.shell⟩

/-- The drum offers its record to the set, and the tuner waits (R104). -/
def State.Offers (s t : State) (d : Nat) (w : Quad) (r : RunId) (close folds : Bool) (k : QRec) : Prop :=
  Moved (s.drum d) (t.drum d) 1 w ∧
    (t.drum d).tuner.share =
      some ⟨close, (tuneW w).qid, (s.drum d).tuner.shareOrd, (s.drum d).newJob w true, folds⟩ ∧
    (t.drum d).tuner.shareOrd = (s.drum d).tuner.shareOrd + 1 ∧
    t.met.shares = s.met.shares ++ [(s.drum d).shareEntry r close k]

/-- An offer after a change of the tuner that leaves its place in the order of shares. -/
theorem State.Tunes.offers_of {t : Tuner} (h : s.Tunes d w r) (only : OnlyDrum d s u)
    (taken : Taken w { s.drum d with tuner := t } (u.drum d)) (cur : t.cur = (s.drum d).tuner.cur)
    (ord : t.shareOrd = (s.drum d).tuner.shareOrd) (close folds : Bool) (k : QRec) (n : Nat) :
    s.Offers (unitsGo d n (u.offer d r (tuneW w) ((s.drum d).newJob w true) close folds k)) d w r close folds k := by
  have ⟨_, hl, _⟩ := h.offers
  obtain ⟨shares, offered⟩ := State.offer_taken (j := (s.drum d).newJob w true) (folds := folds) (r := r) (only.drum_lt hl) taken
    (tuneW w) close k
  have waits : Taken w { s.drum d with tuner := t.offered (tuneW w) ((s.drum d).newJob w true) close folds } _ := offered
  rw [unitsGo_settled h.still
    ((Retuned.refl _).withTuner (t := t.offered (tuneW w) ((s.drum d).newJob w true) close folds) cur) waits]
  obtain ⟨moved, tuner, -, -⟩ := waits.tunerOnly
  refine ⟨moved, ?_, ?_, ?_⟩
  · rw [tuner, Tuner.offered, ord]
  · rw [tuner, Tuner.offered, ord]
  · rw [shares, only.met, Drum.shareEntry, Drum.shareEntry, ord]

theorem State.Tunes.amaxAlone (h : s.Tunes d w r) (op : (tuneW w).op = 3) (src : tfmt (tuneW w).sfmt = some sf)
    (rows : (tuneW w).m ≠ 0) (columns : (tuneW w).n ≠ 0) (alone : (tuneW w).share = false) :
    let rows := (List.range (tuneW w).m).map ((s.drum d).wideRow (tuneW w) sf)
    ∃ t, exec (.amax d true) s = .next t ∧ OnlyDrum d s t ∧ Taken w
      { s.drum d with tuner := (s.drum d).amaxTuner (tuneW w) ((s.drum d).folds (tuneW w)) rows } (t.drum d) := by
  have ⟨_, hl, _⟩ := h.offers
  obtain ⟨u, n, run, only, taken⟩ := h.amaxEnds op src rows columns
  obtain ⟨only', folded⟩ := State.folded_taken (only.drum_lt hl) taken (tuneW w) ((s.drum d).folds (tuneW w))
    ((List.range (tuneW w).m).map ((s.drum d).wideRow (tuneW w) sf))
  rw [State.endAmax_eq, alone, if_neg Bool.false_ne_true,
    unitsGo_settled h.still ((Retuned.refl _).withTuner (Drum.amaxTuner_cur ..)) folded] at run
  exact ⟨_, run, only.trans only', folded⟩

theorem State.Tunes.amaxShared (h : s.Tunes d w r) (op : (tuneW w).op = 3) (src : tfmt (tuneW w).sfmt = some sf)
    (rows : (tuneW w).m ≠ 0) (columns : (tuneW w).n ≠ 0) (shared : (tuneW w).share = true) :
    ∃ t, exec (.amax d true) s = .next t ∧ s.Offers t d w r false ((s.drum d).folds (tuneW w))
      ((s.drum d).amaxRec (tuneW w) ((s.drum d).folds (tuneW w))
        ((List.range (tuneW w).m).map ((s.drum d).wideRow (tuneW w) sf))) := by
  have ⟨_, hl, _⟩ := h.offers
  obtain ⟨u, n, run, only, taken⟩ := h.amaxEnds op src rows columns
  obtain ⟨only', folded⟩ := State.folded_taken (only.drum_lt hl) taken (tuneW w) ((s.drum d).folds (tuneW w))
    ((List.range (tuneW w).m).map ((s.drum d).wideRow (tuneW w) sf))
  rw [State.endAmax_eq, shared, if_pos rfl, taken.amaxRec] at run
  exact ⟨_, run, h.offers_of (only.trans only') folded (Drum.amaxTuner_cur ..) (Drum.amaxTuner_shareOrd ..) _ _ _ n⟩

/-! ### CLOSE -/

theorem State.Tunes.closeRuns (h : s.Tunes d w r) (op : (tuneW w).op = 4) :
    ∃ u n, exec (.close d true) s = .next (unitsGo d n
      (if ((tuneW w).share || ((s.drum d).tuner.recAt (tuneW w).qid).shares) && decide (1 < drumSet s r)
        then u.offer d r (tuneW w) ((s.drum d).newJob w true) true true ((s.drum d).tuner.recAt (tuneW w).qid)
        else u.modTuner d fun t => t.setRec (tuneW w).qid ((s.drum d).tuner.recAt (tuneW w).qid).closeStep)) ∧
      OnlyDrum d s u ∧ Taken w (s.drum d) (u.drum d) := by
  have ⟨hd, _⟩ := h.offers
  have run : exec (.close d true) s = .next (s.tune d 4 true) := if_pos hd
  obtain ⟨u, n, only, taken, tune⟩ := h.runsWhole op (.inr (.inr (.inr le_rfl)))
  refine ⟨u, n, ?_, only, taken⟩
  rw [run, tune]
  simp only [State.runTune, op, State.checked, Drum.newJob_par, Bool.true_or, if_true, State.runClose, taken.tuner,
    drumSet_congr only.met]

/-! ### The end of a shared reduction -/

/-- Nothing happens before every drum of the set has offered. -/
theorem State.takeReduction_early {v : ShareWait} (share : (s.drum d).tuner.share = some v) (run : (s.drum d).seq.run = some r)
    (few : (s.met.shares.filter fun e => e.job == r.job && e.task == r.task && e.ord == v.ord && e.close == v.close).length ≠
      drumSet s r) (par : Bool) : s.takeReduction d par = s := by
  simp only [State.takeReduction, share, run, if_neg few]

theorem State.takeReduction_all {v : ShareWait} (hd : d < s.drums.length) (share : (s.drum d).tuner.share = some v)
    (run : (s.drum d).seq.run = some r) {es : List ShareEntry}
    (offers : es = s.met.shares.filter fun e => e.job == r.job && e.task == r.task && e.ord == v.ord && e.close == v.close)
    (all : es.length = drumSet s r) :
    OnlyDrum d s (s.takeReduction d true) ∧ (s.takeReduction d true).drum d = { s.drum d with
      tuner := { (s.drum d).tuner.setRec v.qid (if v.close then (((s.drum d).tuner.recAt v.qid).reduced es).closeStep
        else ((s.drum d).tuner.recAt v.qid).reduced es) with share := none } } := by
  let k := ((s.drum d).tuner.recAt v.qid).reduced es
  let u := s.modTuner d fun t => { t with share := none }
  have taken : s.takeReduction d true = u.modTuner d fun t => t.setRec v.qid (if v.close then k.closeStep else k) := by
    simp only [State.takeReduction, share, run, ← offers, if_pos all, if_true]
    rfl
  have hu : d < u.drums.length := by rwa [State.modTuner_length]
  rw [taken]
  refine ⟨(onlyDrum_modTuner s d _).trans (onlyDrum_modTuner u d _), ?_⟩
  rw [u.drum_modTuner hu, s.drum_modTuner hd]
  rfl

end

/-- Settles O20: what a record takes in is kept, or offered to the set, whose statistics the wait ends with. -/
theorem recordsFoldCloseAndShare : Obligations.RecordsFoldCloseAndShare := by
  refine ⟨?_, ?_⟩
  · intro s d w r offers op run q x k shared offered good still closed faults
    have h : s.Tunes d w r := ⟨offers, op, run, good, still, closed, faults⟩
    refine ⟨fun sf amax rows columns src => ?_, fun close alone => ?_, fun close shares => ?_⟩
    · refine ⟨fun alone => ?_, h.amaxShared amax src rows columns⟩
      obtain ⟨t, run, only, taken⟩ := h.amaxAlone amax src rows columns alone
      obtain ⟨moved, tuner, pad, shell⟩ := taken.tunerOnly
      refine ⟨t, run, only, moved, tuner.trans ?_, pad, shell⟩
      unfold Drum.amaxTuner Drum.amaxRec
      split <;> rfl
    · obtain ⟨u, n, run, only, taken⟩ := h.closeRuns close
      have done : Taken w { x with tuner := x.tuner.setRec q.qid k.closeStep }
          ((u.modTuner d fun t => t.setRec q.qid k.closeStep).drum d) := by
        have ⟨_, hl, _⟩ := offers
        rw [u.drum_modTuner (only.drum_lt hl)]
        exact taken.withTuner (by rw [taken.tuner])
      rw [if_neg (by rw [Bool.not_eq_true]; exact alone),
        unitsGo_settled still ((Retuned.refl x).withTuner (t := x.tuner.setRec q.qid k.closeStep) rfl) done] at run
      obtain ⟨moved, tuner, pad, shell⟩ := done.tunerOnly
      exact ⟨_, run, only.trans (onlyDrum_modTuner u d _), moved, tuner, pad, shell⟩
    · obtain ⟨u, n, run, only, taken⟩ := h.closeRuns close
      rw [if_pos shares] at run
      exact ⟨_, run, h.offers_of (t := x.tuner) only taken rfl rfl true true k n⟩
  · intro s d v r hd kept share run rest x es
    have hl := kept.drum_lt hd
    have take : exec (.shareReductionDone d true) s = .next ((s.takeReduction d true).unitsRun d) := if_pos hd
    refine ⟨fun few => ?_, fun all => ?_⟩
    · rw [State.takeReduction_early share run few, State.unitsRun_rest rest] at take
      exact take
    · obtain ⟨only, drum⟩ := State.takeReduction_all hl share run rfl all
      have rest' : ((s.takeReduction d true).drum d).unitsRest := by
        rw [drum]
        exact rest
      rw [State.unitsRun_rest rest'] at take
      exact ⟨_, take, only, drum⟩

end Sys2Proof.Machine
end

section
/-! Scale blocks and records between the pad and the tuner (R98, R99, R437). -/

namespace Sys2Proof.Machine

section
variable {s u v : State} {d : Nat} {w : Quad} {r : RunId} {x y : Drum}

theorem Taken.readFile (h : Taken w x y) (off : Nat) : y.readFile off = x.readFile off := by
  simp only [Drum.readFile, halfAt, h.sclHdr, h.padNat, h.tuner]
  rfl

theorem Taken.readRows (h : Taken w x y) (off row0 n : Nat) : y.readRows off row0 n = x.readRows off row0 n := by
  simp only [Drum.readRows, h.sclHdr, h.blockRow, h.tuner]

theorem Taken.runStscale (h : Taken w x y) (q : TuneW) : Taken w (x.runStscale q) (y.runStscale q) := by
  simp only [Drum.runStscale, h.tuner]
  exact h.padPut _ _

theorem Taken.runQsave (h : Taken w x y) (q : TuneW) (r : RunId) : Taken w (x.runQsave q r) (y.runQsave q r) := by
  simp only [Drum.runQsave, h.tuner]
  exact h.padPut _ _

theorem Drum.runStscale_tuner (x : Drum) (q : TuneW) : (x.runStscale q).tuner = x.tuner := rfl

theorem Drum.runStscale_mem (x : Drum) (q : TuneW) :
    (x.runStscale q).pad.mem = putBytes x.pad.mem (x.abs q.scl) (rowHdr q.tag q.group q.zp q.m ++ (List.range q.m).flatMap fun m =>
      scaleBytes (if (x.tuner.rowTag (q.drow0 + m)).valid then (List.range 32).map (x.tuner.sa (q.drow0 + m)) else []) ++
        (if q.zp then List.replicate 32 0 else [])) := by
  simp only [Drum.runStscale, Drum.padPut, Pad.put]

theorem Drum.runQsave_tuner (x : Drum) (q : TuneW) (r : RunId) : (x.runQsave q r).tuner = x.tuner := rfl

theorem Drum.runQsave_mem (x : Drum) (q : TuneW) (r : RunId) :
    (x.runQsave q r).pad.mem = putBytes x.pad.mem (x.abs q.dst)
      (if (x.tuner.recAt q.qid).validFor r.job then getBytes (x.tuner.recAt q.qid).img 0 2368 else List.replicate 2368 0) := rfl

theorem retuned_runStscale (x : Drum) (q : TuneW) : Retuned x (x.runStscale q) := (Retuned.refl x).padPut _ _

theorem retuned_runQsave (x : Drum) (q : TuneW) (r : RunId) : Retuned x (x.runQsave q r) := (Retuned.refl x).padPut _ _

/-- A TUNE that is done at once, and whose effect is a change z of the drum. -/
theorem State.Tunes.leaves (h : s.Tunes d w r) {op : Nat} (kind : (tuneW w).op = op) (whole : 4 ≤ op) {z : Drum}
    (work : Retuned (s.drum d) z)
    (effect : ∀ u, OnlyDrum d s u → Taken w (s.drum d) (u.drum d) →
      ∃ f : Drum → Drum, u.runTune d (tuneW w) r ((s.drum d).newJob w true) = u.modDrum d f ∧ Taken w z (f (u.drum d))) :
    OnlyDrum d s (s.tune d op true) ∧ Taken w z ((s.tune d op true).drum d) := by
  have ⟨_, hl, _⟩ := h.offers
  obtain ⟨u, n, only, taken, tune⟩ := h.runsWhole kind (.inr (.inr (.inr whole)))
  obtain ⟨f, run, done⟩ := effect u only taken
  have done' : Taken w z ((u.modDrum d f).drum d) := by
    rw [u.drum_modDrum (only.drum_lt hl)]
    exact done
  rw [tune, run, unitsGo_settled h.still work done']
  exact ⟨only.trans (onlyDrum_modDrum u d f), done'⟩

/-- A scale block that is legal replaces the scales that the tuner holds. -/
theorem State.Tunes.ldscale (h : s.Tunes d w r) (op : (tuneW w).op = 5) {t : Tuner} (cur : t.cur = (s.drum d).tuner.cur)
    (block : (if ((s.drum d).sclHdr (tuneW w).scl).kind = 0 then (s.drum d).readFile (tuneW w).scl
      else if (tuneW w).drow0 + ((s.drum d).sclHdr (tuneW w).scl).count ≤ 256
        then (s.drum d).readRows (tuneW w).scl (tuneW w).drow0 ((s.drum d).sclHdr (tuneW w).scl).count else none) = some t) :
    ∃ t', exec (.ldscale d) s = .next t' ∧ OnlyDrum d s t' ∧ Taken w { s.drum d with tuner := t } (t'.drum d) := by
  have ⟨hd, _⟩ := h.offers
  refine ⟨_, if_pos hd, h.leaves op (by omega) ((Retuned.refl _).withTuner cur) fun u _ taken => ?_⟩
  refine ⟨fun y => { y with tuner := t }, ?_, taken.withTuner rfl⟩
  simp only [State.runTune, op, State.runLdscale, taken.sclHdr, taken.readFile, taken.readRows, block]
  rfl

theorem State.Tunes.stscale (h : s.Tunes d w r) (op : (tuneW w).op = 6) (rows : (tuneW w).m ≠ 0) :
    ∃ t, exec (.stscale d true) s = .next t ∧ OnlyDrum d s t ∧ Taken w ((s.drum d).runStscale (tuneW w)) (t.drum d) := by
  have ⟨hd, _⟩ := h.offers
  refine ⟨_, if_pos hd, h.leaves op (by omega) (retuned_runStscale _ _) fun u _ taken => ?_⟩
  refine ⟨(·.runStscale (tuneW w)), ?_, taken.runStscale _⟩
  simp only [State.runTune, op, rows, if_false, State.checked, Drum.newJob_par, Bool.true_or, if_true]

theorem State.Tunes.qsave (h : s.Tunes d w r) (op : (tuneW w).op = 7) :
    ∃ t, exec (.qsave d true) s = .next t ∧ OnlyDrum d s t ∧ Taken w ((s.drum d).runQsave (tuneW w) r) (t.drum d) := by
  have ⟨hd, _⟩ := h.offers
  refine ⟨_, if_pos hd, h.leaves op (by omega) (retuned_runQsave _ _ _) fun u _ taken => ?_⟩
  refine ⟨(·.runQsave (tuneW w) r), ?_, taken.runQsave _ r⟩
  simp only [State.runTune, op, State.checked, Drum.newJob_par, Bool.true_or, if_true]

theorem State.Tunes.qload (h : s.Tunes d w r) (op : (tuneW w).op = 8) {k : QRec}
    (image : k = ⟨putBytes [] 0 ((s.drum d).padBytes (tuneW w).src 2368), some r.job⟩) (legal : k.loadFaults = []) :
    ∃ t, exec (.qload d) s = .next t ∧ OnlyDrum d s t ∧
      Taken w { s.drum d with tuner := (s.drum d).tuner.setRec (tuneW w).qid k } (t.drum d) := by
  have ⟨hd, _⟩ := h.offers
  refine ⟨_, if_pos hd, h.leaves op (by omega) ((Retuned.refl _).withTuner (t := (s.drum d).tuner.setRec (tuneW w).qid k) rfl)
    fun u _ taken => ?_⟩
  refine ⟨fun y => { y with tuner := y.tuner.setRec (tuneW w).qid k }, ?_, taken.withTuner (by rw [taken.tuner])⟩
  simp only [State.runTune, op, State.runQload, taken.padBytes, ← image, legal, List.isEmpty_nil, if_true]
  rfl

end

/-- Settles O21: each of the four is a change of the tuner alone, or of the pad's bytes alone. -/
theorem scaleBlocksAndRecordsMove : Obligations.ScaleBlocksAndRecordsMove := by
  intro s d w r offers op run q x good still closed faults
  have h : s.Tunes d w r := ⟨offers, op, run, good, still, closed, faults⟩
  refine ⟨fun u load kind file => ?_, fun u load kind room rows => ?_, fun store some_ => ?_, fun save => ?_, fun load legal => ?_⟩
  · obtain ⟨t, run, only, taken⟩ := h.ldscale load (Drum.readFile_cur file) ((if_pos kind).trans file)
    obtain ⟨moved, tuner, pad, -⟩ := taken.tunerOnly
    exact ⟨t, run, only, moved, tuner, pad⟩
  · obtain ⟨t, run, only, taken⟩ := h.ldscale load (Drum.readRows_cur rows) ((if_neg kind).trans ((if_pos room).trans rows))
    obtain ⟨moved, tuner, pad, -⟩ := taken.tunerOnly
    exact ⟨t, run, only, moved, tuner, pad.mem⟩
  · obtain ⟨t, run, only, taken⟩ := h.stscale store some_
    obtain ⟨moved, -⟩ := taken.conversion (retuned_runStscale x q)
    exact ⟨t, run, only, moved, taken.tuner.trans (Drum.runStscale_tuner x q), taken.mem.trans (Drum.runStscale_mem x q)⟩
  · obtain ⟨t, run, only, taken⟩ := h.qsave save
    obtain ⟨moved, -⟩ := taken.conversion (retuned_runQsave x q r)
    exact ⟨t, run, only, moved, taken.tuner.trans (Drum.runQsave_tuner x q r), taken.mem.trans (Drum.runQsave_mem x q r)⟩
  · obtain ⟨t, run, only, taken⟩ := h.qload load rfl legal
    obtain ⟨moved, tuner, pad, -⟩ := taken.tunerOnly
    exact ⟨t, run, only, moved, tuner, pad.mem⟩

end Sys2Proof.Machine
end

section
/-! The save area (R142, R240): tables of entries of one size in a memory, what a save writes there and a restore reads back
(O33). -/

namespace Sys2Proof.Machine

set_option Elab.async false

/-! ### Bytes as numbers -/

theorem leNat_leBytes : ∀ (n v : Nat), v < 256 ^ n → leNat (leBytes n v) = v
  | 0, v, h => by
    rw [pow_zero, Nat.lt_one_iff] at h
    rw [h]
    rfl
  | n + 1, v, h => by
    have rest := leNat_leBytes n (v / 256) (Nat.div_lt_of_lt_mul (by rwa [← pow_succ']))
    rw [leBytes, leNat, rest, BitVec.toNat_ofNat]
    exact Nat.mod_add_div v 256

theorem leNat_leBytes_word (v : Word) : leNat (leBytes 4 v.toNat) = v.toNat := leNat_leBytes 4 _ v.isLt

theorem leNat_leBytes_half (v : Half) : leNat (leBytes 2 v.toNat) = v.toNat := leNat_leBytes 2 _ v.isLt

theorem getBytes_getElem : ∀ (n : Nat) (m : Memory) (a i : Nat) (h : i < (getBytes m a n).length),
    (getBytes m a n)[i] = getByte m (a + i)
  | 0, _, _, _, h => absurd h (Nat.not_lt_zero _)
  | _ + 1, _, _, 0, _ => rfl
  | n + 1, m, a, i + 1, h => by
    exact (getBytes_getElem n m (a + 1) i (Nat.lt_of_succ_lt_succ h)).trans (congrArg _ (by omega))

theorem getBytes_putBytes {m : Memory} (wf : Memory.wf m = true) : ∀ (l : List Byte) (a : Nat),
    getBytes (putBytes m a l) a l.length = l := by
  intro l a
  refine List.ext_getElem (getBytes_length _ _ _) fun i hi hl => ?_
  rw [getBytes_getElem, getByte_putBytes l wf hl, List.getElem?_eq_getElem hl, Option.getD_some]

/-! ### Tables -/

section
variable {g : Nat → Memory → Memory} {base w : Nat}
  (apart : ∀ i m a, a < base + w * i ∨ base + w * (i + 1) ≤ a → getByte (g i m) a = getByte m a)
include apart

/-- Entries of w bytes each leave the bytes outside their table. -/
theorem getByte_loop_out (m : Memory) : ∀ (n : Nat) {a : Nat}, a < base ∨ base + w * n ≤ a →
    getByte (loop g n m) a = getByte m a
  | 0, _, _ => rfl
  | n + 1, a, h => by
    have next : w * (n + 1) = w * n + w := Nat.mul_succ w n
    rw [loop, apart n _ a (by omega), getByte_loop_out m n (by omega)]

/-- Bytes of an entry are those that its own turn has left. -/
theorem getByte_loop_in (m : Memory) {i a : Nat} (lo : base + w * i ≤ a) (hi : a < base + w * (i + 1)) :
    ∀ n, i < n → getByte (loop g n m) a = getByte (g i (loop g i m)) a
  | 0, h => absurd h (Nat.not_lt_zero i)
  | n + 1, h => by
    rcases Nat.lt_succ_iff_lt_or_eq.1 h with before | rfl
    · have later : w * (i + 1) ≤ w * n := Nat.mul_le_mul_left w before
      rw [loop, apart n _ a (by omega), getByte_loop_in m lo hi n before]
    · rfl

theorem getBytes_loop_in (m : Memory) {i a k n : Nat} (h : i < n) (lo : base + w * i ≤ a) (hi : a + k ≤ base + w * (i + 1)) :
    getBytes (loop g n m) a k = getBytes (g i (loop g i m)) a k :=
  getBytes_congr k a fun j hj => getByte_loop_in apart m (by omega) (by omega) n h

end

/-- A table of n entries from base on, entry i the w bytes f i. -/
def putTable (base w : Nat) (f : Nat → List Byte) (n : Nat) (m : Memory) : Memory :=
  loop (fun i m => putBytes m (base + w * i) (f i)) n m

section
variable {base w : Nat} {f : Nat → List Byte}

theorem putTable_wf (n : Nat) {m : Memory} (wf : Memory.wf m = true) : Memory.wf (putTable base w f n m) = true :=
  loop_wf (fun _ _ h => putBytes_wf _ _ h) n wf

variable (size : ∀ i, (f i).length = w)
include size

theorem putTable_apart (i : Nat) (m : Memory) (a : Nat) (h : a < base + w * i ∨ base + w * (i + 1) ≤ a) :
    getByte (putBytes m (base + w * i) (f i)) a = getByte m a := by
  refine getByte_putBytes_out _ ?_
  rw [size, Nat.add_assoc]
  exact h

theorem getByte_putTable_out (n : Nat) (m : Memory) {a : Nat} (h : a < base ∨ base + w * n ≤ a) :
    getByte (putTable base w f n m) a = getByte m a :=
  getByte_loop_out (putTable_apart size) m n h

theorem getBytes_putTable {m : Memory} (wf : Memory.wf m = true) {n i : Nat} (h : i < n) :
    getBytes (putTable base w f n m) (base + w * i) w = f i := by
  refine (getBytes_loop_in (putTable_apart size) m h le_rfl (Nat.le_of_eq (Nat.add_assoc ..))).trans ?_
  have entry := getBytes_putBytes (putTable_wf (base := base) (w := w) (f := f) i wf) (f i) (base + w * i)
  rw [size] at entry
  exact entry

end

end Sys2Proof.Machine
end

section
/-! The save area (R142, R240): what a save writes there and a restore reads back (O33). -/

namespace Sys2Proof.Machine

set_option Elab.async false

/-! ### What the save area holds -/

theorem Desc.bytes_length (e : Desc) : e.bytes.length = 32 := by
  simp [Desc.bytes]

section
variable (x : Drum) (m : Memory)

def Drum.saveRow (r : Nat) : Memory :=
  putTable (saveBase + 4096 * r) 4 (fun c => leBytes 4 (shellAt x.shell r c).toNat) 1024 m

def Drum.saveRows : Memory := loop (fun r m => x.saveRow m r) 256 m

def Drum.saveStatuses : Memory := putTable (saveBase + 0x100000) 4 (fun r => leBytes 4 (x.shell.tstatus r).toNat) 256 m

def Drum.saveDescs : Memory := putTable (saveBase + 0x100400) 32 (fun e => (x.desc e).bytes) 16 m

def Drum.saveFile : Memory := putTable (saveBase + 0x100800) 2 (fun n => leBytes 2 (getCell 0#16 x.tuner.file n).toNat) 32768 m

def Drum.saveBuffer : Memory := putTable (saveBase + 0x110800) 2 (fun n => leBytes 2 (getCell 0#16 x.tuner.rsb n).toNat) 8192 m

/-- The tables of the save area, in the order in which they are written. -/
theorem Drum.saveBytes_eq :
    x.saveBytes = x.saveBuffer (x.saveFile (x.saveDescs (x.saveStatuses (x.saveRows x.pad.mem)))) := rfl

/-- The values of drum x that R240 lays out stand in the save area of memory m. -/
structure Drum.SavedIn : Prop where
  rows : ∀ r c, r < 256 → c < 1024 → getNat m (saveBase + 4096 * r + 4 * c) 4 = (shellAt x.shell r c).toNat
  statuses : ∀ r, r < 256 → getNat m (saveBase + 0x100000 + 4 * r) 4 = (x.shell.tstatus r).toNat
  descs : ∀ n, n < 16 → getBytes m (saveBase + 0x100400 + 32 * n) 32 = (x.desc n).bytes
  file : ∀ n, n < 32768 → getNat m (saveBase + 0x100800 + 2 * n) 2 = (getCell 0#16 x.tuner.file n).toNat
  buffer : ∀ n, n < 8192 → getNat m (saveBase + 0x110800 + 2 * n) 2 = (getCell 0#16 x.tuner.rsb n).toNat

end

section
variable {x : Drum} {m k : Memory}

theorem getNat_congr {a n : Nat} (h : ∀ i, i < n → getByte k (a + i) = getByte m (a + i)) : getNat k a n = getNat m a n :=
  congrArg leNat (getBytes_congr n a h)

/-- Bytes outside the tables do not matter. -/
theorem Drum.SavedIn.congr (h : x.SavedIn m) (same : ∀ a, saveBase ≤ a → a < saveBase + 0x100600 ∨
    saveBase + 0x100800 ≤ a ∧ a < saveBase + 0x114800 → getByte k a = getByte m a) : x.SavedIn k where
  rows r c hr hc := (getNat_congr fun i hi => same _ (by omega) (by omega)).trans (h.rows r c hr hc)
  statuses r hr := (getNat_congr fun i hi => same _ (by omega) (by omega)).trans (h.statuses r hr)
  descs n hn := (getBytes_congr _ _ fun i hi => same _ (by omega) (by omega)).trans (h.descs n hn)
  file n hn := (getNat_congr fun i hi => same _ (by omega) (by omega)).trans (h.file n hn)
  buffer n hn := (getNat_congr fun i hi => same _ (by omega) (by omega)).trans (h.buffer n hn)

/-! ### What a save writes -/

variable (x m)

theorem Drum.saveRow_apart (r : Nat) (m : Memory) (a : Nat) (h : a < saveBase + 4096 * r ∨ saveBase + 4096 * (r + 1) ≤ a) :
    getByte (x.saveRow m r) a = getByte m a := by
  refine getByte_putTable_out (fun _ => leBytes_length ..) 1024 m (h.imp_right fun above => ?_)
  rw [Nat.mul_succ, ← Nat.add_assoc] at above
  exact above

theorem Drum.saveRows_out {a : Nat} (h : a < saveBase ∨ saveBase + 0x100000 ≤ a) :
    getByte (x.saveRows m) a = getByte m a :=
  getByte_loop_out x.saveRow_apart m 256 (by omega)

theorem Drum.saveStatuses_out {a : Nat} (h : a < saveBase + 0x100000 ∨ saveBase + 0x100400 ≤ a) :
    getByte (x.saveStatuses m) a = getByte m a :=
  getByte_putTable_out (fun _ => leBytes_length ..) 256 m (by omega)

theorem Drum.saveDescs_out {a : Nat} (h : a < saveBase + 0x100400 ∨ saveBase + 0x100600 ≤ a) :
    getByte (x.saveDescs m) a = getByte m a :=
  getByte_putTable_out (fun _ => Desc.bytes_length _) 16 m (by omega)

theorem Drum.saveFile_out {a : Nat} (h : a < saveBase + 0x100800 ∨ saveBase + 0x110800 ≤ a) :
    getByte (x.saveFile m) a = getByte m a :=
  getByte_putTable_out (fun _ => leBytes_length ..) 32768 m (by omega)

theorem Drum.saveBuffer_out {a : Nat} (h : a < saveBase + 0x110800 ∨ saveBase + 0x114800 ≤ a) :
    getByte (x.saveBuffer m) a = getByte m a :=
  getByte_putTable_out (fun _ => leBytes_length ..) 8192 m (by omega)

variable {x m}

theorem Drum.saveRow_wf (r : Nat) (wf : Memory.wf m = true) : Memory.wf (x.saveRow m r) = true := putTable_wf _ wf

theorem Drum.saveRows_wf (wf : Memory.wf m = true) (n : Nat) : Memory.wf (loop (fun r m => x.saveRow m r) n m) = true :=
  loop_wf (fun r _ h => Drum.saveRow_wf r h) n wf

theorem Drum.getNat_saveRows (wf : Memory.wf m = true) {r c : Nat} (hr : r < 256) (hc : c < 1024) :
    getNat (x.saveRows m) (saveBase + 4096 * r + 4 * c) 4 = (shellAt x.shell r c).toNat := by
  have row := getBytes_loop_in x.saveRow_apart m (a := saveBase + 4096 * r + 4 * c) (k := 4) hr (by omega) (by omega)
  have entry := getBytes_putTable (base := saveBase + 4096 * r) (f := fun c => leBytes 4 (shellAt x.shell r c).toNat)
    (fun _ => leBytes_length ..) (Drum.saveRows_wf (x := x) wf r) hc
  rw [getNat, Drum.saveRows, row, Drum.saveRow, entry, leNat_leBytes_word]

theorem Drum.getNat_saveStatuses (wf : Memory.wf m = true) {r : Nat} (hr : r < 256) :
    getNat (x.saveStatuses m) (saveBase + 0x100000 + 4 * r) 4 = (x.shell.tstatus r).toNat := by
  rw [getNat, Drum.saveStatuses, getBytes_putTable (fun _ => leBytes_length ..) wf hr, leNat_leBytes_word]

theorem Drum.getBytes_saveDescs (wf : Memory.wf m = true) {n : Nat} (hn : n < 16) :
    getBytes (x.saveDescs m) (saveBase + 0x100400 + 32 * n) 32 = (x.desc n).bytes := by
  rw [Drum.saveDescs, getBytes_putTable (fun _ => Desc.bytes_length _) wf hn]

theorem Drum.getNat_saveFile (wf : Memory.wf m = true) {n : Nat} (hn : n < 32768) :
    getNat (x.saveFile m) (saveBase + 0x100800 + 2 * n) 2 = (getCell 0#16 x.tuner.file n).toNat := by
  rw [getNat, Drum.saveFile, getBytes_putTable (fun _ => leBytes_length ..) wf hn, leNat_leBytes_half]

theorem Drum.getNat_saveBuffer (wf : Memory.wf m = true) {n : Nat} (hn : n < 8192) :
    getNat (x.saveBuffer m) (saveBase + 0x110800 + 2 * n) 2 = (getCell 0#16 x.tuner.rsb n).toNat := by
  rw [getNat, Drum.saveBuffer, getBytes_putTable (fun _ => leBytes_length ..) wf hn, leNat_leBytes_half]

variable (x)

/-- Below the save area a save leaves the pad's bytes. -/
theorem Drum.saveBytes_below {a : Nat} (h : a < saveBase) : getByte x.saveBytes a = getByte x.pad.mem a := by
  rw [x.saveBytes_eq, x.saveBuffer_out _ (by omega), x.saveFile_out _ (by omega), x.saveDescs_out _ (by omega),
    x.saveStatuses_out _ (by omega), x.saveRows_out _ (by omega)]

/-- A save puts the shell, the descriptor table and the scales where R240 lays them out. -/
theorem Drum.saveBytes_savedIn (wf : Memory.wf x.pad.mem = true) : x.SavedIn x.saveBytes := by
  have rows_wf : Memory.wf (x.saveRows x.pad.mem) = true := Drum.saveRows_wf wf 256
  have statuses_wf : Memory.wf (x.saveStatuses (x.saveRows x.pad.mem)) = true := putTable_wf _ rows_wf
  have descs_wf : Memory.wf (x.saveDescs (x.saveStatuses (x.saveRows x.pad.mem))) = true := putTable_wf _ statuses_wf
  have file_wf : Memory.wf (x.saveFile (x.saveDescs (x.saveStatuses (x.saveRows x.pad.mem)))) = true := putTable_wf _ descs_wf
  rw [x.saveBytes_eq]
  refine ⟨fun r c hr hc => ?_, fun r hr => ?_, fun n hn => ?_, fun n hn => ?_, fun n hn => ?_⟩
  · refine (getNat_congr fun i hi => ?_).trans (Drum.getNat_saveRows wf hr hc)
    rw [x.saveBuffer_out _ (by omega), x.saveFile_out _ (by omega), x.saveDescs_out _ (by omega),
      x.saveStatuses_out _ (by omega)]
  · refine (getNat_congr fun i hi => ?_).trans (Drum.getNat_saveStatuses rows_wf hr)
    rw [x.saveBuffer_out _ (by omega), x.saveFile_out _ (by omega), x.saveDescs_out _ (by omega)]
  · refine (getBytes_congr _ _ fun i hi => ?_).trans (Drum.getBytes_saveDescs statuses_wf hn)
    rw [x.saveBuffer_out _ (by omega), x.saveFile_out _ (by omega)]
  · refine (getNat_congr fun i hi => ?_).trans (Drum.getNat_saveFile descs_wf hn)
    rw [x.saveBuffer_out _ (by omega)]
  · exact Drum.getNat_saveBuffer file_wf hn

end

/-! ### What a restore reads -/

/-- Values over the first n columns of a row. -/
def Shell.putFirst (h : Shell) (r : Nat) (f : Nat → Word) (n : Nat) : Shell := loop (fun c h => h.put r c (f c)) n h

/-- Values over the first n rows of a shell, k columns each. -/
def Shell.putAll (h : Shell) (f : Nat → Nat → Word) (k n : Nat) : Shell := loop (fun r h => h.putFirst r (f r) k) n h

/-- Statuses of the first n rows. -/
def Shell.setAll (h : Shell) (f : Nat → Word) (n : Nat) : Shell := loop (fun r h => h.setStatus r (f r)) n h

section
variable {h : Shell}

theorem Shell.putFirst_kept (hk : h.Kept) (r : Nat) (f : Nat → Word) (n : Nat) : (h.putFirst r f n).Kept :=
  Shell.Kept.loop (fun _ _ k => k.put) hk

theorem Shell.putAll_kept (hk : h.Kept) (f : Nat → Nat → Word) (k n : Nat) : (h.putAll f k n).Kept :=
  Shell.Kept.loop (fun r _ hk => Shell.putFirst_kept hk r (f r) k) hk

theorem Shell.setAll_kept (hk : h.Kept) (f : Nat → Word) (n : Nat) : (h.setAll f n).Kept :=
  Shell.Kept.loop (fun _ _ k => k.setStatus) hk

theorem Shell.shellAt_putFirst (hk : h.Kept) {r i c : Nat} (hc : c < 1024) (f : Nat → Word) : ∀ n, n ≤ 1024 →
    shellAt (h.putFirst r f n) i c = if i = r ∧ c < n then f c else shellAt h i c
  | 0, _ => by simp [Shell.putFirst, loop]
  | n + 1, hn => by
    refine (Shell.shellAt_put (Shell.putFirst_kept hk r f n).1 hn hc (f n)).trans ?_
    rw [Shell.shellAt_putFirst hk hc f n (Nat.le_of_succ_le hn)]
    by_cases now : i = r ∧ c = n
    · obtain ⟨rfl, rfl⟩ := now
      simp
    · rw [if_neg now]
      exact if_congr ⟨fun e => ⟨e.1, by omega⟩, fun e => ⟨e.1, by omega⟩⟩ rfl rfl

theorem Shell.shellAt_putAll (hk : h.Kept) {i c k : Nat} (hc : c < k) (small : k ≤ 1024) (f : Nat → Nat → Word) : ∀ n,
    shellAt (h.putAll f k n) i c = if i < n then f i c else shellAt h i c
  | 0 => by simp [Shell.putAll, loop]
  | n + 1 => by
    refine (Shell.shellAt_putFirst (Shell.putAll_kept hk f k n) (hc.trans_le small) (f n) k small).trans ?_
    rw [Shell.shellAt_putAll hk hc small f n]
    by_cases now : i = n
    · subst now
      simp [hc]
    · rw [if_neg fun e => now e.1]
      exact if_congr (by omega) rfl rfl

theorem Shell.tstatus_setAll (hk : h.Kept) {i : Nat} (f : Nat → Word) : ∀ n,
    (h.setAll f n).tstatus i = if i < n then f i else h.tstatus i
  | 0 => by simp [Shell.setAll, loop]
  | n + 1 => by
    by_cases now : i = n
    · subst now
      exact (getCell_putCell (Shell.setAll_kept hk f i).2 i (f i)).trans (if_pos (Nat.lt_succ_self i)).symm
    · refine (getCell_putCell_ne now).trans ((Shell.tstatus_setAll hk f n).trans ?_)
      exact if_congr (by omega) rfl rfl

/-- Values and statuses written leave the rest of a shell. -/
theorem Shell.putFirst_eq (r : Nat) (f : Nat → Word) (n : Nat) (h : Shell) :
    h.putFirst r f n = { h with rows := (h.putFirst r f n).rows } := by
  induction n with
  | zero => rfl
  | succ n ih =>
    rw [show h.putFirst r f (n + 1) = (h.putFirst r f n).put r n (f n) from rfl, ih]
    rfl

theorem Shell.putAll_eq (f : Nat → Nat → Word) (k n : Nat) (h : Shell) :
    h.putAll f k n = { h with rows := (h.putAll f k n).rows } := by
  induction n with
  | zero => rfl
  | succ n ih =>
    rw [show h.putAll f k (n + 1) = (h.putAll f k n).putFirst n (f n) k from rfl, Shell.putFirst_eq, ih]

theorem Shell.setAll_eq (f : Nat → Word) (n : Nat) (h : Shell) : h.setAll f n = { h with tstat := (h.setAll f n).tstat } := by
  induction n with
  | zero => rfl
  | succ n ih =>
    rw [show h.setAll f (n + 1) = (h.setAll f n).setStatus n (f n) from rfl, ih]
    rfl

theorem Shell.shellAt_setAll (f : Nat → Word) (n : Nat) (h : Shell) (i c : Nat) : shellAt (h.setAll f n) i c = shellAt h i c := by
  rw [Shell.setAll_eq]
  rfl

end

section
variable (x : Drum) (v : Saved)

/-- The shell of a restored drum before its rows and statuses are read. -/
def Drum.blankShell : Shell :=
  { x.shell with rows := [], tstat := [], descs := v.descs, blocks := v.blocks, leaves := v.leaves, seed := v.seed }

theorem Drum.restoreShell_tables : x.restoreShell v =
    ((x.blankShell v).putAll (fun r c => toW (getNat x.pad.mem (saveBase + 4096 * r + 4 * c) 4)) 1024 256).setAll
      (fun r => toW (getNat x.pad.mem (saveBase + 0x100000 + 4 * r) 4)) 256 := rfl

theorem Drum.blankShell_kept : (x.blankShell v).Kept := ⟨rfl, rfl⟩

theorem Drum.restoreShell_eq : x.restoreShell v =
    { x.blankShell v with rows := (x.restoreShell v).rows, tstat := (x.restoreShell v).tstat } := by
  rw [x.restoreShell_tables, Shell.setAll_eq, Shell.putAll_eq]

variable {r : Nat} (hr : r < 256)
include hr

theorem Drum.shellAt_restoreShell {c : Nat} (hc : c < 1024) :
    shellAt (x.restoreShell v) r c = toW (getNat x.pad.mem (saveBase + 4096 * r + 4 * c) 4) := by
  have all := Shell.shellAt_putAll (x.blankShell_kept v) hc le_rfl
    (fun r c => toW (getNat x.pad.mem (saveBase + 4096 * r + 4 * c) 4)) 256 (i := r)
  rw [if_pos hr] at all
  rw [x.restoreShell_tables, Shell.shellAt_setAll, all]

theorem Drum.tstatus_restoreShell :
    (x.restoreShell v).tstatus r = toW (getNat x.pad.mem (saveBase + 0x100000 + 4 * r) 4) := by
  rw [x.restoreShell_tables, Shell.tstatus_setAll (Shell.putAll_kept (x.blankShell_kept v) _ 1024 256), if_pos hr]

end

theorem toW_toNat (w : Word) : toW w.toNat = w := by rw [toW, BitVec.ofNat_toNat, BitVec.setWidth_eq]

theorem Drum.restore_mem (x : Drum) (v : Saved) : (x.restore v).pad.mem = x.pad.mem := by rw [Drum.restore]

/-! ### A save and its restore -/

section
variable (x : Drum)

theorem Drum.save_mem : x.save.pad.mem = x.saveBytes := by rw [Drum.save]

/-- The sequencer that a save leaves, taken up again, stands where the walk goes on. -/
theorem Drum.seq_save_restore : (x.save.restore x.toSaved).seq = { x.walkNext with cache := [] } := rfl

theorem Drum.shellAt_save_restore (wf : Memory.wf x.pad.mem = true) {r c : Nat} (hr : r < 256) (hc : c < 1024) :
    shellAt (x.save.restore x.toSaved).shell r c = shellAt x.shell r c := by
  refine (Drum.shellAt_restoreShell x.save x.toSaved hr hc).trans ?_
  rw [x.save_mem, (x.saveBytes_savedIn wf).rows r c hr hc, toW_toNat]

theorem Drum.tstatus_save_restore (wf : Memory.wf x.pad.mem = true) {r : Nat} (hr : r < 256) :
    (x.save.restore x.toSaved).shell.tstatus r = x.shell.tstatus r := by
  refine (Drum.tstatus_restoreShell x.save x.toSaved hr).trans ?_
  rw [x.save_mem, (x.saveBytes_savedIn wf).statuses r hr, toW_toNat]

theorem Drum.shell_save_restore : (x.save.restore x.toSaved).shell =
    { x.save.blankShell x.toSaved with
      rows := (x.save.restoreShell x.toSaved).rows, tstat := (x.save.restoreShell x.toSaved).tstat } :=
  x.save.restoreShell_eq x.toSaved

end

/-- Settles O33: values and statuses are read from where the save has put them, and the rest comes from what the save kept. -/
theorem saveThenRestoreIsTheSameShell : Obligations.SaveThenRestoreIsTheSameShell := by
  intro x kept y
  obtain ⟨⟨wf, -⟩, -⟩ := Drum.kept_iff.1 kept
  have shell : y.shell = _ := x.shell_save_restore
  refine ⟨fun r c => x.shellAt_save_restore wf, fun r => x.tstatus_save_restore wf, ?_, ?_, ?_, x.seq_save_restore,
    rfl, rfl, rfl, rfl, rfl, rfl, rfl, rfl, rfl, rfl, rfl, fun a below => ?_⟩
  · rw [shell]
    rfl
  · rw [shell]
    rfl
  · rw [shell]
    rfl
  · rw [Drum.restore_mem, x.save_mem, x.saveBytes_below below]

end Sys2Proof.Machine
end

section
/-! PREEMPT_SAVE (R142, R168, R240, R266): what stands in the save area once the class-0 task has started. -/

namespace Sys2Proof.Machine

set_option Elab.async false

section
variable {s : State} {d : Nat}

theorem onDrum_eq (hd : d < 136) (f : State → State) : onDrum d s f = .next (f s) := if_pos hd

theorem State.drum_touchAll (hd : d < s.drums.length) :
    (s.touchAll d).drum d = { s.drum d with pad := (s.drum d).pad.touch s.beat (List.range 64) } :=
  s.drum_modPad hd _

/-! ### The bytes that R240 leaves open -/

/-- The bytes of entries at_ to at_ + n of the form that R240 leaves open. -/
def State.openBytes (s : State) (at_ n : Nat) : List Byte :=
  (List.range n).flatMap fun i => leBytes 8 (Config.freeValue (s.free + at_ + i)).toNat

theorem State.openBytes_length (at_ n : Nat) : (s.openBytes at_ n).length = 8 * n := by
  simp [State.openBytes, List.length_flatMap, leBytes_length, Nat.mul_comm]

/-- A save area's memory once the open bytes are in it. -/
def State.openMem (s : State) (m : Memory) : Memory :=
  putBytes (putBytes m (saveBase + 0x100600) (s.openBytes 0 64)) (saveBase + 0x114800) (s.openBytes 64 128)

theorem State.drum_saveOpen (hd : d < s.drums.length) : (s.saveOpen d).drum d =
    { s.drum d with pad := { (s.drum d).pad with mem := s.openMem (s.drum d).pad.mem } } :=
  State.drum_modPad { s with free := s.free + 192 } hd fun p => { p with mem := s.openMem p.mem }

theorem State.getByte_openMem (m : Memory) {a : Nat}
    (h : a < saveBase + 0x100600 ∨ saveBase + 0x100800 ≤ a ∧ a < saveBase + 0x114800) :
    getByte (s.openMem m) a = getByte m a := by
  rw [State.openMem]
  refine (getByte_putBytes_out _ ?_).trans (getByte_putBytes_out _ ?_)
  · exact Or.inl (by omega)
  · rw [State.openBytes_length]
    unfold saveBase at h ⊢
    omega

/-! ### A task that starts -/

/-- Task i of job j is handed to drum d: the counts of the Metronome and of the task. -/
def State.handsOut (s : State) (d : Nat) (j : Half) (i : Nat) (t : Task) : State :=
  (s.modMet fun m => { m with
    dispatched := m.dispatched + 1
    startmax := if t.trec.cls = 0 ∧ m.startmax < s.beat - t.readyAt then s.beat - t.readyAt else m.startmax }).modTask j i
    fun t => { t with state := .running, started := (s.drum d).logical.toNat :: t.started }

/-- A task of which E is 0 counts as run. -/
def State.countsEmpty (s : State) (d : Nat) (j : Half) (i : Nat) : State :=
  (s.modTask j i fun t => if t.code = .done then { t with code := .doneEmpty } else t).modTask j i
    fun t => { t with ran := if t.ran.contains d then t.ran else d :: t.ran }

def Drum.loadsNothing (x : Drum) (group : Nat) (beat : Dword) (j : Half) (i : Nat) : Drum :=
  { x.noteRun group beat ⟨j, i, 0⟩ with seq := { x.seq with lastJob := some j }, tap := { x.tap with loads := x.tap.loads + 1 } }

/-- A task's counter of claims is there. -/
def State.withCounter (s : State) (j : Half) (i : Nat) : State :=
  if (s.counter? j i).isSome then s else s.modMet fun m => { m with counters := m.counters ++ [⟨j, i, 0, []⟩] }

def Drum.claims (x : Drum) (j : Half) (i : Nat) : Drum :=
  { x with claim := some ⟨j, i, 0, 0⟩, seq := { x.seq.stop with lastJob := some j, cache := [] } }

theorem State.startOn_drum {j : Half} {i b e tiles tile0 : Nat} {t : Task} {set : BitVec 128}
    (body : t.trec.body = .drum set b e tiles tile0) :
    s.startOn d j i t =
      let u := s.handsOut d j i t
      let v := u.countsEmpty d j i
      if e = 0 then (v.modDrum d (·.loadsNothing (jobGroup v j) v.beat j i)).finishShare d j i
      else if tiles = 0 then
        u.beginRun d j i t.trec (tile0 + ((List.range (s.drum d).logical.toNat).filter fun k => set.getLsbD k).length) 0
      else (u.withCounter j i).modDrum d (·.claims j i) := by
  unfold State.startOn
  simp -zeta only [body]
  rfl

/-- A task that starts on a drum, without a pattern to load, changes of it only these. -/
def Drum.Handed (x y : Drum) : Prop := y = { x with seq := y.seq, sound := y.sound, tap := y.tap, claim := y.claim }

theorem Drum.loadsNothing_handed (x : Drum) (group : Nat) (beat : Dword) (j : Half) (i : Nat) :
    x.Handed { x.loadsNothing group beat j i with claim := none, seq := (x.loadsNothing group beat j i).seq.stop } := rfl

theorem Drum.claims_handed (x : Drum) (j : Half) (i : Nat) : x.Handed (x.claims j i) := rfl

theorem State.drum_finishShare (hd : d < s.drums.length) (j : Half) (i : Nat) :
    (s.finishShare d j i).drum d = { s.drum d with claim := none, seq := (s.drum d).seq.stop } :=
  State.drum_modDrum (s.modTask j i _) hd _

theorem State.withCounter_drums (j : Half) (i : Nat) : (s.withCounter j i).drums = s.drums := by
  unfold State.withCounter
  split <;> rfl

theorem State.drum_congr {t : State} (h : t.drums = s.drums) (d : Nat) : t.drum d = s.drum d := by
  rw [State.drum, h, State.drum]

theorem State.startOn_handed (hd : d < s.drums.length) {j : Half} {i b e tiles tile0 : Nat} {t : Task} {set : BitVec 128}
    (body : t.trec.body = .drum set b e tiles tile0) (short : e = 0 ∨ tiles ≠ 0) :
    (s.drum d).Handed ((s.startOn d j i t).drum d) := by
  simp only [State.startOn_drum body]
  by_cases empty : e = 0
  · rw [if_pos empty, State.drum_finishShare ((State.modDrum_length _ d _).symm ▸ hd),
      State.drum_modDrum ((s.handsOut d j i t).countsEmpty d j i) hd, State.drum_congr (s := s) rfl]
    exact Drum.loadsNothing_handed ..
  · have same : ((s.handsOut d j i t).withCounter j i).drums = s.drums := State.withCounter_drums j i
    rw [if_neg empty, if_neg (short.resolve_left empty), State.drum_modDrum _ (same.symm ▸ hd), State.drum_congr same]
    exact Drum.claims_handed ..

/-! ### The save -/

theorem State.nextArray_sound (sound : s.fates.arrays = []) : s.nextArray = (true, s) := by
  rw [State.nextArray, sound]

theorem execPreemptSave_busy (hd : d < 136) (busy : (s.drum d).stoppedUnits = false) :
    exec (.preemptSave d) s = .next s := by
  rw [show exec (.preemptSave d) s = execPreemptSave d s from rfl, execPreemptSave, onDrum_eq hd]
  simp only [busy, if_true]
  split <;> rfl

/-- The part with the shell of drum d in the save area. -/
def State.savedOn (s : State) (d : Nat) : State := ((s.setDrum d (s.drum d).save).saveOpen d).touchAll d

theorem execPreemptSave_stopped (hd : d < 136) {j : Half} {i : Nat} {t : Task} (pre : (s.drum d).preempting = some (j, i))
    (task : s.task? j i = some t) (stopped : (s.drum d).stoppedUnits = true) (sound : s.fates.arrays = []) :
    exec (.preemptSave d) s = .next ((s.savedOn d).startOn d j i t) := by
  rw [show exec (.preemptSave d) s = execPreemptSave d s from rfl, execPreemptSave, onDrum_eq hd]
  have same : (((s.setDrum d (s.drum d).save).saveOpen d).touchAll d).task? j i = some t := task
  simp only [pre, stopped, Bool.true_eq_false, if_false, State.nextArray_sound sound, same]
  rfl

/-- What a save leaves of a drum, but for what its pad's banks note. -/
theorem State.drum_savedOn (hd : d < s.drums.length) :
    (s.savedOn d).drum d = { (s.drum d).save with pad := ((s.savedOn d).drum d).pad } ∧
    SamePad { (s.drum d).save.pad with mem := s.openMem (s.drum d).saveBytes } ((s.savedOn d).drum d).pad := by
  have hd' : d < (s.setDrum d (s.drum d).save).drums.length := (s.setDrum_length d _).symm ▸ hd
  have saved : ((s.setDrum d (s.drum d).save).saveOpen d).drum d = _ := State.drum_saveOpen hd'
  rw [s.drum_setDrum hd, Drum.save_mem] at saved
  have touched := State.drum_touchAll (s := (s.setDrum d (s.drum d).save).saveOpen d) (d := d)
    ((State.modPad_length _ d _).symm ▸ hd')
  rw [saved] at touched
  rw [State.savedOn, touched]
  exact ⟨rfl, touch_same ..⟩

end

end Sys2Proof.Machine
end

section
/-! PREEMPT_RESTORE (R168, R173, R266), and with PREEMPT_SAVE the settling of O32. -/

namespace Sys2Proof.Machine

set_option Elab.async false

/-! ### A tile load reads only bytes and slots of the pad -/

/-- Drums whose sequencer has the same run over pads with the same bytes and slots read the same. -/
structure Drum.SameView (x y : Drum) : Prop where
  run : y.seq.run = x.seq.run
  pad : SamePad x.pad y.pad

namespace Drum.SameView

variable {x y z : Drum} (h : x.SameView y)
include h

theorem trans (k : y.SameView z) : x.SameView z := ⟨k.run.trans h.run, h.pad.trans k.pad⟩

theorem slot : y.slot = x.slot := Drum.slot_congr h.run h.pad.slots

theorem abs (o : Nat) : y.abs o = x.abs o := by rw [Drum.abs, h.slot, Drum.abs]

theorem regionOk (l : List Range) : y.regionOk l = x.regionOk l := by rw [Drum.regionOk, h.slot, Drum.regionOk]

theorem padBytes (o n : Nat) : y.padBytes o n = x.padBytes o n := by
  rw [Drum.padBytes, h.abs, Drum.padBytes, h.pad.mem]

theorem padNat (o n : Nat) : y.padNat o n = x.padNat o n := by
  rw [Drum.padNat, h.abs, Drum.padNat, h.pad.mem]

theorem padPut (o : Nat) (l : List Byte) : (x.padPut o l).SameView (y.padPut o l) := by
  refine ⟨h.run, ?_⟩
  rw [Drum.padPut, Drum.padPut, h.abs]
  exact h.pad.put _ l

end Drum.SameView

section
variable {x : Drum} {p : Pad} (same : SamePad x.pad p)
include same

theorem Drum.sameView_withPad : x.SameView { x with pad := p } := ⟨rfl, same⟩

theorem sourceCells_withPad (t : Step) : sourceCells { x with pad := p } t = sourceCells x t := by
  simp only [sourceCells, (Drum.sameView_withPad same).padBytes]

theorem Drum.loadTile_withPad (t : Step) :
    ({ x with pad := p } : Drum).loadTile t = ({ (x.loadTile t).1 with pad := p }, (x.loadTile t).2) := by
  simp only [Drum.loadTile, halfAt, (Drum.sameView_withPad same).padNat, (Drum.sameView_withPad same).abs,
    sourceCells_withPad same, same.mem]
  by_cases image : t.src = 0
  · simp only [image, if_true]
    split <;> rfl
  · simp only [image, if_false]

theorem Drum.restoreShell_withPad (v : Saved) : ({ x with pad := p } : Drum).restoreShell v = x.restoreShell v := by
  rw [Drum.restoreShell_tables, Drum.restoreShell_tables, same.mem]
  rfl

theorem Drum.restore_withPad (v : Saved) :
    ({ x with pad := p } : Drum).restore v = { x.restore v with pad := { p with saveHeld := false } } := by
  rw [Drum.restore, Drum.restoreShell_withPad same, Drum.restore]

end

/-! ### The tile of a restored run -/

/-- The drum with the tile of its saved run in the latches again. -/
def Drum.reloaded (y : Drum) (tile : Option Tile) : Drum :=
  match tile with
  | none => y
  | some t => { (y.loadTile t.step).1 with tuner := y.tuner }

theorem Drum.reloaded_eq (y : Drum) (tile : Option Tile) : y.reloaded tile = { y with
    skin := { y.skin with tile := (y.reloaded tile).skin.tile, cells := (y.reloaded tile).skin.cells
                          sums := (y.reloaded tile).skin.sums } } := by
  cases tile with
  | none => rfl
  | some t =>
    rw [Drum.reloaded, Drum.loadTile_eq]

/-- What a tile is loaded from. -/
def Tile.reads (t : Tile) (x : Drum) : List Range :=
  ({ t.step with loadw := true, wscl := none, ascl := none } : Step).loadReads x

section
variable {s : State} {d : Nat}

theorem State.drum_access_withPad (hd : d < s.drums.length) {y : Drum} {p : Pad} (drum : s.drum d = { y with pad := p })
    (same : SamePad y.pad p) (l : List Range) : ∃ q, SamePad y.pad q ∧ (s.access d l).drum d = { y with pad := q } := by
  refine ⟨p.accessAll s.beat ((s.drum d).abs 0) l, same.trans (accessAll_same ..), ?_⟩
  rw [drum_access hd, drum]

theorem State.reload_some (t : Tile) : s.reload d (some t) =
    let l := t.reads (s.drum d)
    let u := s.access d l
    if (u.drum d).readFails l then (u.rereads d l).drumFaults d [0x62]
    else if ((u.drum d).loadTile t.step).2.isEmpty then
      u.setDrum d { ((u.drum d).loadTile t.step).1 with tuner := (u.drum d).tuner }
    else (u.setDrum d ((u.drum d).loadTile t.step).1).drumFaults d ((u.drum d).loadTile t.step).2 := rfl

/-- A reload whose words pass and whose image is sound puts the tile into the latches. -/
theorem State.reload_sound (hd : d < s.drums.length) {y : Drum} {p : Pad} {tile : Option Tile}
    (drum : s.drum d = { y with pad := p }) (same : SamePad y.pad p) (failed : y.pad.failed = [])
    (sound : ∀ t, tile = some t → (y.loadTile t.step).2 = []) :
    OnlyDrum d s (s.reload d tile) ∧
    ∃ q, SamePad y.pad q ∧ (s.reload d tile).drum d = { y.reloaded tile with pad := q } := by
  cases tile with
  | none => exact ⟨.refl s d, p, same, drum⟩
  | some t =>
    obtain ⟨q, noted, access⟩ := State.drum_access_withPad hd drum same
      (t.reads (s.drum d))
    have reads := Drum.readFails_eq_false (x := { y with pad := q }) (noted.failed.trans failed)
      (t.reads (s.drum d))
    have load := Drum.loadTile_withPad noted t.step
    have reload : s.reload d (some t) = (s.access d (t.reads (s.drum d))).setDrum d { y.reloaded (some t) with pad := q } := by
      simp only [State.reload_some, access, reads, load, sound t rfl]
      rfl
    rw [reload]
    exact ⟨(onlyDrum_access s d _).trans (onlyDrum_setDrum ..), q, noted,
      State.drum_setDrum _ ((s.access_length d _).symm ▸ hd) _⟩

/-! ### What waits for the shell -/

theorem State.setDrum_self : s.setDrum d (s.drum d) = s := by
  have same : s.drums.set d (s.drum d) = s.drums := by
    by_cases hd : d < s.drums.length
    · rw [State.drum, List.getElem?_eq_getElem hd, Option.getD_some, List.set_getElem_self]
    · exact List.set_eq_of_length_le (Nat.le_of_not_lt hd)
  rw [State.setDrum, same]

theorem State.modDrum_fixed {f : Drum → Drum} (fixed : f (s.drum d) = s.drum d) : s.modDrum d f = s := by
  rw [State.modDrum, fixed, State.setDrum_self]

theorem State.retryHeld_none (none : (s.drum d).pad.held = []) : s.retryHeld d = s := by
  have fixed : s.modPad d (fun p => { p with held := [] }) = s := by
    refine State.modDrum_fixed ?_
    rw [← none]
  rw [State.retryHeld, none, List.foldl_nil, fixed]

theorem State.resumeClimbs_none (none : ∀ rd, rd < 16 → ((s.drum d).stack rd).climb = none) : s.resumeClimbs d = s := by
  refine foldl_fixed_of_mem fun rd hrd => ?_
  simp only [none rd (List.mem_range.1 hrd)]

/-! ### The restore -/

variable {v : Saved}

theorem execPreemptRestore_early (hd : d < 136) (saved : (s.drum d).saved = some v)
    (early : s.liveReadyFor (s.drum d).logical.toNat = true ∨ s.liveStill (s.drum d).logical.toNat = true) :
    exec (.preemptRestore d) s = .next s := by
  rw [show exec (.preemptRestore d) s = execPreemptRestore d s from rfl, execPreemptRestore, onDrum_eq hd]
  simp only [saved]
  rw [if_pos (.inr (.inr (.inr early)))]

theorem execPreemptRestore_due (hd : d < 136) (saved : (s.drum d).saved = some v) (idle : (s.drum d).idleFor 0 = true)
    (clear : (s.drum d).shell.clearing = false) (ready : s.liveReadyFor (s.drum d).logical.toNat = false)
    (still : s.liveStill (s.drum d).logical.toNat = false) (runs : s.halted d = false) :
    exec (.preemptRestore d) s = .next (s.restore d v) := by
  rw [show exec (.preemptRestore d) s = execPreemptRestore d s from rfl, execPreemptRestore, onDrum_eq hd]
  simp only [saved]
  rw [if_neg]
  simp [idle, clear, ready, still, runs]

theorem Drum.unitsRest.restored {x : Drum} {p : Pad} (jobs : v.jobs = []) (roll : v.rollCur = none)
    (queues : x.queues = ⟨[], [], [], []⟩) (cur : x.skin.cur = none) (load : x.skin.load = none) (tuner : x.tuner.cur = none) :
    ({ (x.restore v).reloaded v.tile with pad := p } : Drum).unitsRest := by
  rw [Drum.reloaded_eq]
  exact ⟨jobs, load, cur, queues, roll, tuner⟩

theorem Drum.restored_shell {x : Drum} : ((x.restore v).reloaded v.tile).shell = x.restoreShell v := by
  rw [Drum.reloaded_eq]
  rfl

/-- The part with the saved run of drum d back on it, but for its tile. -/
def State.restoredOn (s : State) (d : Nat) (v : Saved) : State := (s.touchAll d).modDrum d (·.restore v)

theorem onlyDrum_restoredOn (s : State) (d : Nat) (v : Saved) : OnlyDrum d s (s.restoredOn d v) :=
  (onlyDrum_modDrum s d _).trans (onlyDrum_modDrum _ d _)

theorem State.drum_restoredOn (hd : d < s.drums.length) : ∃ p, SamePad ((s.drum d).restore v).pad p ∧
    (s.restoredOn d v).drum d = { (s.drum d).restore v with pad := p } := by
  have touched := State.drum_touchAll hd
  have noted := touch_same (s.drum d).pad s.beat (List.range 64)
  have length : d < (s.touchAll d).drums.length := (s.modPad_length d _).symm ▸ hd
  refine ⟨{ (s.drum d).pad.touch s.beat (List.range 64) with saveHeld := false }, ?_, ?_⟩
  · rw [noted]
    rfl
  · rw [State.restoredOn, State.drum_modDrum _ length, touched, Drum.restore_withPad noted]

/-- A restore where nothing but the shell waits for it: the run that was saved, with its tile. -/
theorem State.restore_sound (hd : d < s.drums.length) (held : (s.drum d).pad.held = []) (failed : (s.drum d).pad.failed = [])
    (climbs : ∀ rd, rd < 16 → (getCell Stack.reset v.blocks rd).climb = none)
    (rest : ∀ p : Pad, ({ ((s.drum d).restore v).reloaded v.tile with pad := p } : Drum).unitsRest)
    (sound : ∀ t, v.tile = some t → (((s.drum d).restore v).loadTile t.step).2 = []) :
    OnlyDrum d s (s.restore d v) ∧
    ∃ q, SamePad { (s.drum d).pad with saveHeld := false } q ∧
      (s.restore d v).drum d = { ((s.drum d).restore v).reloaded v.tile with pad := q } := by
  have passes : ((s.touchAll d).drum d).pad.anyFailed saveBase saveSize = false := by
    rw [Pad.anyFailed, State.drum_touchAll hd, (touch_same ..).failed.trans failed]
    rfl
  obtain ⟨p, noted, back⟩ := State.drum_restoredOn (v := v) hd
  obtain ⟨frame, q, same, drum⟩ :=
    State.reload_sound ((onlyDrum_restoredOn s d v).drum_lt hd) back noted failed sound
  have climb : ∀ rd, rd < 16 → (Drum.stack (((s.restoredOn d v).reload d v.tile).drum d) rd).climb = none := by
    intro rd hrd
    rw [drum, Drum.stack, Drum.restored_shell, Drum.restoreShell_eq]
    exact climbs rd hrd
  have empty : (((s.restoredOn d v).reload d v.tile).drum d).pad.held = [] := by
    rw [drum, same]
    exact held
  have rests : (((s.restoredOn d v).reload d v.tile).drum d).unitsRest := by
    rw [drum]
    exact rest q
  have restored : s.restore d v = (s.restoredOn d v).reload d v.tile := by
    rw [State.restore]
    simp only [passes, Bool.false_eq_true, if_false]
    change ((((s.restoredOn d v).reload d v.tile).resumeClimbs d).retryHeld d).unitsRun d = _
    rw [State.resumeClimbs_none climb, State.retryHeld_none empty, State.unitsRun_rest rests]
  rw [restored]
  exact ⟨(onlyDrum_restoredOn s d v).trans frame, q, same, drum⟩

end

/-! ### O32 -/

theorem SamePad.withMem {p q : Pad} {m : Memory} (h : SamePad { p with mem := m } q) : q.mem = m := h.mem

section
variable {s : State} {d : Nat}

/-- The drum that a save leaves to the class-0 task: what its start changes apart, and what its pad's banks note. -/
theorem State.drum_startOn_savedOn (hd : d < s.drums.length) {j : Half} {i b e tiles tile0 : Nat} {t : Task} {set : BitVec 128}
    (body : t.trec.body = .drum set b e tiles tile0) (short : e = 0 ∨ tiles ≠ 0) :
    let y := ((s.savedOn d).startOn d j i t).drum d
    y = { (s.drum d).save with seq := y.seq, sound := y.sound, tap := y.tap, claim := y.claim, pad := y.pad } ∧
    SamePad { (s.drum d).save.pad with mem := s.openMem (s.drum d).saveBytes } y.pad := by
  obtain ⟨saved, pad⟩ := State.drum_savedOn hd
  have length : d < (s.savedOn d).drums.length := by
    rw [State.savedOn, State.touchAll, State.modPad_length, State.saveOpen, State.modPad_length]
    exact (s.setDrum_length d _).symm ▸ hd
  have handed := State.startOn_handed length (j := j) (i := i) body short
  rw [Drum.Handed, saved] at handed
  have same : (((s.savedOn d).startOn d j i t).drum d).pad = ((s.savedOn d).drum d).pad := by rw [handed]
  rw [← same] at pad handed
  exact ⟨handed, pad⟩

end

/-- Settles O32: the save lays the shell out in the save area, which neither the open bytes nor the class-0 task's start touch;
the restore puts back what it reads there. -/
theorem preemptionSavesAndRestores : Obligations.PreemptionSavesAndRestores := by
  constructor
  · intro s d j i t set b e tiles tile0 hd kept pre task body short sound x
    have length := kept.drum_lt hd
    obtain ⟨⟨wf, -⟩, -⟩ := kept.drum d
    refine ⟨execPreemptSave_busy hd, fun stopped => ⟨_, execPreemptSave_stopped hd pre task stopped sound, ?_⟩⟩
    obtain ⟨drum, pad⟩ := State.drum_startOn_savedOn length (j := j) (i := i) body short
    generalize ((s.savedOn d).startOn d j i t).drum d = y at drum pad
    have mem : y.pad.mem = s.openMem (s.drum d).saveBytes := pad.withMem
    have area : (s.drum d).SavedIn y.pad.mem := ((s.drum d).saveBytes_savedIn wf).congr fun a _ inside => by
      rw [mem]
      exact State.getByte_openMem _ inside
    refine ⟨congrArg Drum.saved drum, congrArg Drum.preempting drum, congrArg Drum.shell drum,
      congrArg (·.skin.tile) drum, congrArg (·.tuner.fvalid) drum, congrArg (·.tuner.rsb) drum, fun n => ?_, ?_,
      area.rows, area.statuses, area.descs, area.file, area.buffer, fun a below => ?_⟩
    · exact congrArg (fun z : Drum => (z.tuner.rowTag n).valid) drum
    · rw [pad]
      rfl
    · have low : a < saveBase + 0x100600 := Nat.lt_add_right 0x100600 below
      rw [mem, State.getByte_openMem _ (.inl low), x.saveBytes_below below]
  · intro s d v hd kept saved x y z
    refine ⟨execPreemptRestore_early hd saved, fun idle clear ready still held jobs roll climbs queues cur load tuner failed
      runs sound => ?_⟩
    have rest (p : Pad) := Drum.unitsRest.restored (v := v) (x := x) (p := p) jobs roll queues cur load tuner
    obtain ⟨frame, q, same, drum⟩ := State.restore_sound (kept.drum_lt hd) held failed climbs rest sound
    have reloaded : z = y.reloaded v.tile := by
      simp only [z]
      cases v.tile <;> rfl
    refine ⟨_, execPreemptRestore_due hd saved idle clear ready still runs, frame, ?_⟩
    rw [drum, reloaded, Drum.reloaded_eq]
    refine ⟨rfl, rfl, rfl, same, fun r c hr hc => x.shellAt_restoreShell v hr hc, fun r hr => x.tstatus_restoreShell v hr⟩

end Sys2Proof.Machine
end

section
/-! The pattern load of a drum task without tiles (R120, R170, R249, R250), for O30. -/

namespace Sys2Proof.Machine

set_option Elab.async false

/-! ### What the checks of a descriptor table depend on -/

/-- Both parts map their drums alike and stand at the same place of the same torus. -/
structure State.SameMap (s t : State) : Prop where
  fab : t.fab = s.fab
  pcie : t.pcie = s.pcie
  status : ∀ p, (t.drum p).status = (s.drum p).status
  logical : ∀ p, (t.drum p).logical = (s.drum p).logical

namespace State.SameMap

variable {s t u : State}

theorem refl (s : State) : s.SameMap s := ⟨rfl, rfl, fun _ => rfl, fun _ => rfl⟩

theorem trans (h : s.SameMap t) (k : t.SameMap u) : s.SameMap u :=
  ⟨k.fab.trans h.fab, k.pcie.trans h.pcie, fun p => (k.status p).trans (h.status p),
    fun p => (k.logical p).trans (h.logical p)⟩

theorem modDrum (h : s.SameMap t) {d : Nat} (hd : d < t.drums.length) {f : Drum → Drum}
    (status : ∀ x, (f x).status = x.status) (logical : ∀ x, (f x).logical = x.logical) : s.SameMap (t.modDrum d f) := by
  refine h.trans ⟨rfl, rfl, fun p => ?_, fun p => ?_⟩ <;> by_cases same : p = d
  · rw [same, t.drum_modDrum hd, status]
  · rw [t.drum_modDrum_ne same]
  · rw [same, t.drum_modDrum hd, logical]
  · rw [t.drum_modDrum_ne same]

variable (h : s.SameMap t)
include h

theorem leaving : t.leaving = s.leaving := by simp only [State.leaving, h.status, h.logical]

theorem exposed : t.exposed = s.exposed := by
  have spares : t.spares = s.spares := by simp only [State.spares, h.status]
  simp only [State.exposed, spares, h.leaving, h.logical]

theorem parentRefused (group : Nat) (de : Desc) : t.parentRefused group de = s.parentRefused group de := by
  rw [State.parentRefused, State.coordRefused, h.fab, h.pcie, h.exposed]
  rfl

theorem descFault (ldrum group : Nat) (l : List (Desc × Bool)) : t.descFault ldrum group l = s.descFault ldrum group l := by
  have refused : t.parentRefused group = s.parentRefused group := funext (h.parentRefused group)
  rw [State.descFault, refused, State.descFault]

end State.SameMap

/-! ### The descriptor table -/

/-- The first n entries of a table that are valid. -/
def validDescs (l : List Desc) (n : Nat) : Cells Desc :=
  loop (fun e c => match l[e]? with
    | some de => if de.valid then putCell Desc.reset c e de else c
    | none => c) n []

theorem validDescs_succ (l : List Desc) (n : Nat) : validDescs l (n + 1) = match l[n]? with
    | some de => if de.valid then putCell Desc.reset (validDescs l n) n de else validDescs l n
    | none => validDescs l n := rfl

theorem validDescs_wf (l : List Desc) : ∀ n, cellsWf Desc.reset (validDescs l n) = true
  | 0 => rfl
  | n + 1 => by
    rw [validDescs_succ]
    split
    · split
      · exact putCell_wf _ _ (validDescs_wf l n)
      · exact validDescs_wf l n
    · exact validDescs_wf l n

theorem getCell_validDescs {l : List Desc} {i : Nat} {de : Desc} (entry : l[i]? = some de) : ∀ n,
    getCell Desc.reset (validDescs l n) i = if i < n ∧ de.valid = true then de else Desc.reset
  | 0 => rfl
  | n + 1 => by
    have before := getCell_validDescs entry n
    rw [validDescs_succ]
    by_cases now : i = n
    · subst now
      rw [entry]
      by_cases valid : de.valid = true
      · simp [valid, getCell_putCell (validDescs_wf l i)]
      · simpa [valid] using before
    · have bound : (i < n + 1 ∧ de.valid = true) ↔ (i < n ∧ de.valid = true) := and_congr_left fun _ => by omega
      rw [if_congr bound rfl rfl, ← before]
      split
      · split
        · exact getCell_putCell_ne now
        · rfl
      · rfl

/-- The 16 entries of the descriptor table before the pattern at a, with what R120 says of their reserved bits. -/
def Drum.table (x : Drum) (a : Nat) : List (Desc × Bool) :=
  (List.range 16).map fun n =>
    (descOf (x.padBytes (16 * a - 512 + 32 * n) 32), descRsvZero (x.padBytes (16 * a - 512 + 32 * n) 32))

theorem Drum.table_length (x : Drum) (a : Nat) : (x.table a).length = 16 := by
  rw [Drum.table, List.length_map, List.length_range]

theorem Drum.SameView.table {x y : Drum} (h : x.SameView y) (a : Nat) : y.table a = x.table a := by
  simp only [Drum.table, h.padBytes]

/-- A valid entry of the table is the descriptor of its number; the others are clear. -/
theorem Drum.getCell_table {x : Drum} {a n : Nat} {de : Desc} {b : Bool} (entry : (x.table a)[n]? = some (de, b)) :
    getCell Desc.reset (validDescs ((x.table a).map (·.1)) 16) n = if de.valid then de else Desc.reset := by
  have inside : n < 16 := x.table_length a ▸ (List.getElem?_eq_some_iff.1 entry).1
  have first : ((x.table a).map (·.1))[n]? = some de := by rw [List.getElem?_map, entry]; rfl
  rw [getCell_validDescs first]
  simp [inside]

/-- A shell with a new descriptor table: no block is under way in it. -/
def Shell.withDescs (h : Shell) (l : List Desc) : Shell := { h with descs := validDescs l 16, blocks := [], leaves := [] }

section
variable {s : State} {d : Nat}

theorem State.drum_loadDescs (hd : d < s.drums.length) (l : List Desc) (held : (s.drum d).pad.held = []) :
    (s.loadDescs d l).drum d = { s.drum d with shell := (s.drum d).shell.withDescs l } := by
  have shell : (s.modShell d (·.withDescs l)).drum d = { s.drum d with shell := (s.drum d).shell.withDescs l } :=
    s.drum_modShell hd _
  have load : s.loadDescs d l = ((s.modShell d (·.withDescs l)).drum d).pad.held.foldl (fun s k => match k.body with
      | .node prid level m n row0 flags vals => s.nodeArrives d k prid level m n row0 flags vals
      | _ => s) ((s.modShell d (·.withDescs l)).modPad d fun p => { p with held := [] }) := rfl
  have none : ((s.modShell d (·.withDescs l)).drum d).pad.held = [] := by rw [shell]; exact held
  rw [load, none, List.foldl_nil, State.drum_modPad _ ((s.modShell_length d _).symm ▸ hd), shell, ← held]

/-! ### The two halves of a pattern load -/

/-- The drum once its run words are written, its position is the pattern's and its seed the score's. -/
def Drum.withPattern (x : Drum) (words : List Byte) (seed : Dword) (k a : Nat) : Drum :=
  let y := x.padPut 0 words
  { y with seq := { y.seq with pc := a, bucket := k }, shell := { y.shell with seed := seed } }

/-- The drum that a pattern load leaves, with its descriptor table, over pad q. -/
def Drum.atPattern (x : Drum) (words : List Byte) (seed : Dword) (k a : Nat) (l : List Desc) (q : Pad) : Drum :=
  let z := x.withPattern words seed k a
  { z with pad := q, shell := z.shell.withDescs l }

section
variable (x : Drum) (words : List Byte) (seed : Dword) (k a : Nat) (l : List Desc) (q : Pad)

theorem Drum.atPattern_shell :
    (x.atPattern words seed k a l q).shell = ({ x.shell with seed := seed } : Shell).withDescs l := rfl

end

theorem Drum.withDescs_withPattern {x y : Drum} {words : List Byte} {seed : Dword} {k a : Nat} {q : Pad}
    (drum : y = { x.withPattern words seed k a with pad := q }) (l : List Desc) :
    ({ y with shell := y.shell.withDescs l } : Drum) = x.atPattern words seed k a l q := by
  rw [drum]
  rfl

theorem Drum.atPattern_withPad (x : Drum) (p : Pad) (words : List Byte) (seed : Dword) (k a : Nat) (l : List Desc) (q : Pad) :
    ({ x with pad := p } : Drum).atPattern words seed k a l q = x.atPattern words seed k a l q := rfl

theorem Drum.sameView_withPattern {x : Drum} {words : List Byte} {q : Pad} (same : SamePad (x.padPut 0 words).pad q)
    (seed : Dword) (k a : Nat) : (x.padPut 0 words).SameView { x.withPattern words seed k a with pad := q } := ⟨rfl, same⟩

theorem Drum.withPattern_logical (x : Drum) (words : List Byte) (seed : Dword) (k a : Nat) :
    (x.withPattern words seed k a).logical = x.logical := rfl

theorem Drum.padPut_held {x : Drum} (held : x.pad.held = []) (o : Nat) (l : List Byte) : (x.padPut o l).pad.held = [] := held

theorem Drum.padPut_slots (x : Drum) (o : Nat) (l : List Byte) : (x.padPut o l).pad.slots = x.pad.slots := rfl

theorem SamePad.held {p q : Pad} (h : SamePad p q) : q.held = p.held := by rw [h]

theorem Drum.withPattern_withPad {x : Drum} {p : Pad} (same : SamePad x.pad p) (words : List Byte) (seed : Dword) (k a : Nat) :
    ∃ q, SamePad (x.withPattern words seed k a).pad q ∧
      ({ x with pad := p } : Drum).withPattern words seed k a = { x.withPattern words seed k a with pad := q } :=
  ⟨_, ((Drum.sameView_withPad same).padPut 0 words).pad, rfl⟩

theorem Drum.padPut_failed {x : Drum} (failed : x.pad.failed = []) (o : Nat) (l : List Byte) :
    (x.padPut o l).pad.failed = [] := by
  simp [Drum.padPut, Pad.put, failed]

theorem State.SameMap.access {t : State} (h : s.SameMap t) (hd : d < t.drums.length) (l : List Range) :
    s.SameMap (t.access d l) := h.modDrum hd (fun _ => rfl) fun _ => rfl

/-- The part once the run words of drum d are written and its descriptor table read. -/
def State.atTable (s : State) (d : Nat) (words : List Byte) (seed : Dword) (k a : Nat) : State :=
  (((s.access d [⟨0, words.length⟩]).modDrum d fun y => y.padPut 0 words).modDrum d fun y =>
    { y with seq := { y.seq with pc := a, bucket := k }, shell := { y.shell with seed := seed } }).access d [⟨16 * a - 512, 512⟩]

theorem State.atTable_length (words : List Byte) (seed : Dword) (k a : Nat) :
    (s.atTable d words seed k a).drums.length = s.drums.length := by
  rw [State.atTable, State.access_length, State.modDrum_length, State.modDrum_length, State.access_length]

theorem State.sameMap_atTable (hd : d < s.drums.length) (words : List Byte) (seed : Dword) (k a : Nat) :
    s.SameMap (s.atTable d words seed k a) := by
  have first := (State.SameMap.refl s).access hd [⟨0, words.length⟩]
  have second := first.modDrum (f := fun y => y.padPut 0 words) ((s.access_length d _).symm ▸ hd) (fun _ => rfl) fun _ => rfl
  have third := second.modDrum (d := d) (by simpa using hd)
    (f := fun y => { y with seq := { y.seq with pc := a, bucket := k }, shell := { y.shell with seed := seed } })
    (fun _ => rfl) fun _ => rfl
  exact third.access (by simpa using hd) _

theorem State.drum_atTable (hd : d < s.drums.length) (words : List Byte) (seed : Dword) (k a : Nat) :
    ∃ q, SamePad ((s.drum d).padPut 0 words).pad q ∧
      (s.atTable d words seed k a).drum d = { (s.drum d).withPattern words seed k a with pad := q } := by
  obtain ⟨p, noted, first⟩ := State.drum_access_withPad (y := s.drum d) hd rfl (.refl _) [⟨0, words.length⟩]
  obtain ⟨q, put, written⟩ := Drum.withPattern_withPad noted words seed k a
  refine State.drum_access_withPad (p := q) (by simpa using hd) ?_ put _
  rw [State.drum_modDrum _ (by simpa using hd), State.drum_modDrum _ (by simpa using hd), first]
  exact written

variable {group tile n e k a : Nat} {seed : Dword} {t : TaskRec}

theorem State.loadTable_eq : s.loadTable d group seed tile n t e k a =
    let u := s.atTable d (runWords e k tile n t) seed k a
    if (u.drum d).readFails [⟨16 * a - 512, 512⟩] then (u.rereads d [⟨16 * a - 512, 512⟩]).drumFault d 0x62 else
    match u.descFault (u.drum d).logical.toNat group ((u.drum d).table a) with
    | some f => u.drumFault d f
    | none => u.loadDescs d (((u.drum d).table a).map (·.1)) := rfl

/-- What pattern load leaves on a drum whose table passes the checks of R121, but for what its pad's banks note. -/
theorem State.drum_loadTable (hd : d < s.drums.length) (held : (s.drum d).pad.held = []) (failed : (s.drum d).pad.failed = [])
    (sound : s.descFault (s.drum d).logical.toNat group (((s.drum d).padPut 0 (runWords e k tile n t)).table a) = none) :
    ∃ q, SamePad ((s.drum d).padPut 0 (runWords e k tile n t)).pad q ∧
      (s.loadTable d group seed tile n t e k a).drum d =
        (s.drum d).atPattern (runWords e k tile n t) seed k a
          ((((s.drum d).padPut 0 (runWords e k tile n t)).table a).map (·.1)) q := by
  obtain ⟨q, same, drum⟩ := State.drum_atTable hd (runWords e k tile n t) seed k a
  have view : ((s.drum d).padPut 0 (runWords e k tile n t)).SameView
      ((s.atTable d (runWords e k tile n t) seed k a).drum d) := by
    rw [drum]
    exact Drum.sameView_withPattern same seed k a
  have logical : ((s.atTable d (runWords e k tile n t) seed k a).drum d).logical = (s.drum d).logical := by
    rw [drum, Drum.withPattern_logical]
  have reads := Drum.readFails_eq_false (view.pad.failed.trans (Drum.padPut_failed failed ..)) [⟨16 * a - 512, 512⟩]
  have checks := (State.sameMap_atTable hd (runWords e k tile n t) seed k a).descFault (s.drum d).logical.toNat group
    (((s.drum d).padPut 0 (runWords e k tile n t)).table a)
  have none : ((s.atTable d (runWords e k tile n t) seed k a).drum d).pad.held = [] :=
    view.pad.held.trans (Drum.padPut_held held ..)
  refine ⟨q, same, ?_⟩
  simp only [State.loadTable_eq, reads, Bool.false_eq_true, if_false, view.table, logical, checks, sound]
  exact (State.drum_loadDescs ((State.atTable_length ..).symm ▸ hd) _ none).trans (Drum.withDescs_withPattern drum _)

/-- What pattern load leaves on a drum: bucket k is the first that holds E, and its pattern stands at a. -/
theorem State.drum_loadPattern (hd : d < s.drums.length) (held : (s.drum d).pad.held = []) (failed : (s.drum d).pad.failed = [])
    {set : BitVec 128} {btab tiles tile0 : Nat} (body : t.body = .drum set btab e tiles tile0)
    (table : (s.drum d).regionOk [⟨16 * btab, 64⟩] = true)
    (good : bucketsOk ((List.range 8).map fun n => bucketOf ((s.drum d).padNat (16 * btab + 8 * n) 8)) = true)
    (pick : pickBucket e ((List.range 8).map fun n => bucketOf ((s.drum d).padNat (16 * btab + 8 * n) 8)) = some (k, a))
    (above : 32 ≤ a) (region : (s.drum d).regionOk [⟨16 * a - 512, 512⟩] = true)
    (sound : s.descFault (s.drum d).logical.toNat group (((s.drum d).padPut 0 (runWords e k tile n t)).table a) = none) :
    ∃ q, SamePad ((s.drum d).padPut 0 (runWords e k tile n t)).pad q ∧
      (s.loadPattern d group seed tile n t).drum d =
        (s.drum d).atPattern (runWords e k tile n t) seed k a
          ((((s.drum d).padPut 0 (runWords e k tile n t)).table a).map (·.1)) q := by
  obtain ⟨p, noted, drum⟩ := State.drum_access_withPad (y := s.drum d) hd rfl (.refl _) [⟨16 * btab, 64⟩]
  have view : (s.drum d).SameView ((s.access d [⟨16 * btab, 64⟩]).drum d) := by
    rw [drum]
    exact ⟨rfl, noted⟩
  have reads := Drum.readFails_eq_false (view.pad.failed.trans failed) [⟨16 * btab, 64⟩]
  have put := view.padPut 0 (runWords e k tile n t)
  have load : s.loadPattern d group seed tile n t =
      (s.access d [⟨16 * btab, 64⟩]).loadTable d group seed tile n t e k a := by
    have inside : ¬ (a < 32 ∨ False) := by rw [or_false]; exact Nat.not_lt.2 above
    simp only [State.loadPattern, body, table, reads, view.padNat, good, pick, view.regionOk, region, Bool.true_eq_false,
      Bool.false_eq_true, if_false, inside]
  have logical : ((s.access d [⟨16 * btab, 64⟩]).drum d).logical = (s.drum d).logical := by
    rw [drum]
  obtain ⟨q, same, loaded⟩ := State.drum_loadTable (s := s.access d [⟨16 * btab, 64⟩]) (group := group) (tile := tile) (n := n)
    (e := e) (k := k) (a := a) (seed := seed) (t := t) ((s.access_length d _).symm ▸ hd) (view.pad.held.trans held)
    (view.pad.failed.trans failed) (by
      rw [((State.SameMap.refl s).access hd _).descFault, put.table, logical]
      exact sound)
  refine ⟨q, put.pad.trans same, ?_⟩
  rw [load, loaded, put.table, drum, Drum.atPattern_withPad]

end

end Sys2Proof.Machine
end

section
/-! The dispatch of a drum task without tiles (R120, R170, R249, R250): the settling of O30. -/

namespace Sys2Proof.Machine

set_option Elab.async false

section
variable {s : State} {d target : Nat}

/-! ### The drum map -/

theorem loop_fixed_of_lt {σ : Type} {f : Nat → σ → σ} {s : σ} : ∀ n, (∀ i < n, f i s = s) → loop f n s = s
  | 0, _ => rfl
  | n + 1, fixed => by
    rw [loop, loop_fixed_of_lt n fun i hi => fixed i (Nat.lt_succ_of_lt hi), fixed n (Nat.lt_succ_self n)]

/-- A drum map without a retired drum that still holds its number stays. -/
theorem State.applyMap_none (none : s.leaving = []) : s.applyMap = s :=
  loop_fixed_of_lt 136 fun p inside => State.moveDrum_stays fun ⟨retired, number⟩ => by
    have leaves : p ∈ s.leaving := State.mem_leaving.2 ⟨inside, retired, number⟩
    rw [none] at leaves
    cases leaves

theorem State.logical_of_physOf (h : s.physOf target = some d) : (s.drum d).logical.toNat = target := by
  have found := List.find?_some h
  rw [Bool.and_eq_true] at found
  exact beq_iff_eq.1 found.2

theorem State.lt_of_physOf (h : s.physOf target = some d) : d < 136 := List.mem_range.1 (List.mem_of_find?_eq_some h)

/-! ### The run that the sequencer takes up -/

/-- The drum once its sequencer has taken up a run: the registers of the run and of its walk start again. -/
def Drum.takesRun (x : Drum) (r : RunId) (t : TaskRec) (tile : Nat) : Drum :=
  { x with
    claim := none
    seq := { x.seq.stop with run := some r, cls := t.cls, miss := t.miss, tile := tile, pc := 0, bucket := 0,
                             walkIm := 0, walkIn := 0, walkIk := 0, wrote := 0, lastJob := some r.job,
                             cache := if r.n = 0 then [] else x.seq.cache }
    tap := { x.tap with seq := if r.n = 0 then 0 else x.tap.seq, replay := none, serial := x.tap.loads + 1, loads := x.tap.loads + 1
                        tiles := [] }
    tuner := { x.tuner with shareOrd := if r.n = 0 then 0 else x.tuner.shareOrd } }

theorem Drum.takesRun_logical (x : Drum) (r : RunId) (t : TaskRec) (tile : Nat) :
    (x.takesRun r t tile).logical = x.logical := rfl

theorem Drum.sameView_takesRun (x : Drum) (r : RunId) (t : TaskRec) (tile : Nat) :
    ({ x with seq := { x.seq with run := some r } } : Drum).SameView (x.takesRun r t tile) := ⟨rfl, .refl _⟩

theorem State.beginRun_eq {j : Half} {i tile n : Nat} {t : TaskRec} {job : Job} (known : s.job? j = some job) :
    s.beginRun d j i t tile n =
      (s.modDrum d (·.takesRun ⟨j, i, n⟩ t tile)).loadPattern d job.group job.score.seed tile n t := by
  unfold State.beginRun
  rw [known]
  rfl

/-- The drum with a run, before anything is loaded for it. -/
def Drum.withRun (x : Drum) (r : RunId) : Drum := { x with seq := { x.seq with run := some r } }

/-- A run begun on a drum whose tables pass their checks: its words, its pattern and its descriptors are there. -/
theorem State.drum_beginRun (hd : d < s.drums.length) {j : Half} {job : Job} (known : s.job? j = some job)
    (held : (s.drum d).pad.held = []) (failed : (s.drum d).pad.failed = []) {y : Drum} {i n : Nat}
    (run : y = (s.drum d).withRun ⟨j, i, n⟩) {t : TaskRec} {set : BitVec 128} {btab e tiles tile0 tile k a : Nat}
    (body : t.body = .drum set btab e tiles tile0) (table : y.regionOk [⟨16 * btab, 64⟩] = true)
    (good : bucketsOk ((List.range 8).map fun n => bucketOf (y.padNat (16 * btab + 8 * n) 8)) = true)
    (pick : pickBucket e ((List.range 8).map fun n => bucketOf (y.padNat (16 * btab + 8 * n) 8)) = some (k, a))
    (above : 32 ≤ a) (region : y.regionOk [⟨16 * a - 512, 512⟩] = true)
    (sound : s.descFault (s.drum d).logical.toNat job.group ((y.padPut 0 (runWords e k tile n t)).table a) = none) :
    ∃ q, SamePad (y.padPut 0 (runWords e k tile n t)).pad q ∧
      (s.beginRun d j i t tile n).drum d = ((s.drum d).takesRun ⟨j, i, n⟩ t tile).atPattern (runWords e k tile n t)
        job.score.seed k a (((y.padPut 0 (runWords e k tile n t)).table a).map (·.1)) q := by
  have begun : (s.modDrum d (·.takesRun ⟨j, i, n⟩ t tile)).drum d = (s.drum d).takesRun ⟨j, i, n⟩ t tile :=
    s.drum_modDrum hd _
  have view : y.SameView ((s.drum d).takesRun ⟨j, i, n⟩ t tile) := by
    rw [run]
    exact Drum.sameView_takesRun ..
  have put := view.padPut 0 (runWords e k tile n t)
  have map := State.SameMap.modDrum (f := (·.takesRun ⟨j, i, n⟩ t tile)) (.refl s) hd (fun _ => rfl) fun _ => rfl
  obtain ⟨q, same, loaded⟩ := State.drum_loadPattern (s := s.modDrum d (·.takesRun ⟨j, i, n⟩ t tile)) (d := d)
    (group := job.group) (tile := tile) (n := n) (e := e) (k := k) (a := a) (seed := job.score.seed) (t := t)
    ((s.modDrum_length d _).symm ▸ hd) (by rw [begun]; exact held) (by rw [begun]; exact failed) body
    (by rw [begun, view.regionOk, table]) (by simpa only [begun, view.padNat] using good)
    (by simpa only [begun, view.padNat] using pick) above (by rw [begun, view.regionOk, region])
    (by rw [begun, map.descFault, put.table, Drum.takesRun_logical, sound])
  rw [begun] at same loaded
  rw [put.table] at loaded
  refine ⟨q, put.pad.trans same, ?_⟩
  rw [State.beginRun_eq known, loaded]

theorem State.job?_handsOut {j : Half} {i : Nat} {t : Task} {job : Job} (known : s.job? j = some job) :
    ∃ v, (s.handsOut d j i t).job? j = some v ∧ v.group = job.group ∧ v.score = job.score :=
  ⟨_, State.job?_modJob (fun _ => rfl) (s := s.modMet _) known, rfl, rfl⟩

theorem runWords_zero (e k tile : Nat) (t : TaskRec) : runWords e k tile 0 t =
    leBytes 8 (e + 2 ^ 32 * k) ++ leBytes 8 (tile % 2 ^ 32) ++
      leBytes 8 (match t.stream with | some v => v.toNat + 2 ^ 16 | none => 0) := by
  have index : tile % 2 ^ 32 + 2 ^ 32 * 0 = tile % 2 ^ 32 := by rw [Nat.mul_zero, Nat.add_zero]
  exact congrArg (fun v => leBytes 8 (e + 2 ^ 32 * k) ++ leBytes 8 v ++ _) index

/-! ### From the command to the run -/

variable {jn : Half} {i : Nat} {j : Job} {t : Task}

theorem State.boundary_stays (due : (s.drum d).boundaryDue = false) (last : (s.drum d).seq.lastJob = some jn) :
    s.boundary d jn = s := by
  simp [State.boundary, due, last]

theorem State.dispatchDrum_idle (phys : s.physOf target = some d) (slot : ((s.drum d).pad.slotOf j.num).isSome = true)
    (runs : s.halted d = false) (idle : (s.drum d).idleFor t.trec.cls = true) :
    s.dispatchDrum target j i t = (s.boundary d j.num).startOn d j.num i t := by
  unfold State.dispatchDrum
  rw [phys]
  have taken : ((s.drum d).pad.slotOf j.num).isNone = false := Option.isNone_eq_false_iff.2 slot
  simp [taken, runs, idle]

theorem execTaskDispatch_drum (map : s.leaving = []) (job : s.job? jn = some j) (task : j.tasks[i]? = some t)
    (up : s.crashed = false) (wants : t.wants target = true) (may : s.dispatchable j i t = true)
    (first : s.outrun j i t target = false) {set : BitVec 128} {btab e tiles tile0 : Nat}
    (body : t.trec.body = .drum set btab e tiles tile0) :
    exec (.taskDispatch jn i target) s = .next (s.dispatchDrum target j i t) := by
  rw [show exec (.taskDispatch jn i target) s = execTaskDispatch jn i target s from rfl, execTaskDispatch,
    State.applyMap_none map]
  simp [job, task, up, wants, may, first, body]

theorem State.startOn_static {set : BitVec 128} {btab e tile0 : Nat} (body : t.trec.body = .drum set btab e 0 tile0) (some_ : e ≠ 0) :
    s.startOn d jn i t = (s.handsOut d jn i t).beginRun d jn i t.trec
      (tile0 + ((List.range (s.drum d).logical.toNat).filter fun k => set.getLsbD k).length) 0 := by
  simp only [State.startOn_drum body, some_, if_true, if_false]

/-- A drum that has loaded a pattern of a job with a slot may issue once the shell clearing of its last boundary has ended. -/
theorem Drum.mayIssue_atPattern {x : Drum} (free : x.preempting = none) (jobs : x.skin.jobs = [])
    (slot : (x.pad.slotOf jn).isSome = true) {t : TaskRec} {tile k a : Nat} {words : List Byte} {seed : Dword} {l : List Desc}
    {q : Pad} (slots : q.slots = x.pad.slots) :
    ((x.takesRun ⟨jn, i, 0⟩ t tile).atPattern words seed k a l q).mayIssue = !x.shell.clearing := by
  have taken : ((x.takesRun ⟨jn, i, 0⟩ t tile).atPattern words seed k a l q).slot = x.pad.slotOf jn := by
    change q.slotOf jn = _
    rw [Pad.slotOf, slots, Pad.slotOf]
  have pending : ((x.takesRun ⟨jn, i, 0⟩ t tile).atPattern words seed k a l q).checkPending = false := by
    change (_ && x.skin.jobs.any SkinJob.isCheck) = false
    rw [jobs, List.any_nil, Bool.and_false]
  rw [Drum.mayIssue, taken, pending, slot]
  change (true && true && true && true && true && x.preempting.isNone && !x.shell.clearing && true && true) = _
  rw [free, Option.isNone_none, Bool.and_true, Bool.and_true]
  rfl

end

/-- Settles O30: each access leaves the bytes and the slots of the pad, so every check reads what stands there at dispatch, and
the run words go over the same pad. -/
theorem drumTaskLoadsItsPattern : Obligations.DrumTaskLoadsItsPattern := by
  intro s jn i target d j t set btab e tile0 k a kept map job task up wants may first body some_ phys slot runs idle last due held
    failed jobs tile y bs words z ds region good pick above table sound
  have num := State.job?_eq_some job
  have hd := kept.drum_lt (State.lt_of_physOf phys)
  have logical := State.logical_of_physOf phys
  obtain ⟨v, known, group, score⟩ := State.job?_handsOut (d := d) (i := i) (t := t) job
  have before : (s.handsOut d jn i t).drum d = s.drum d := rfl
  obtain ⟨q, same, drum⟩ := State.drum_beginRun (s := s.handsOut d jn i t) (d := d) (tile := tile) hd known held failed
    (y := y) rfl body region good pick above table (by
      rw [runWords_zero, before, logical, group]
      exact sound)
  rw [runWords_zero] at same drum
  rw [before] at drum
  have started : s.dispatchDrum target j i t = (s.handsOut d jn i t).beginRun d jn i t.trec tile 0 := by
    rw [State.dispatchDrum_idle phys (by rw [num]; exact slot) runs idle, num, State.boundary_stays due last,
      State.startOn_static body some_, logical]
  have slots : q.slots = (s.drum d).pad.slots := same.slots.trans (y.padPut_slots 0 _)
  have free : (s.drum d).preempting = none := by
    simp only [Drum.idleFor, Bool.and_eq_true, Option.isNone_iff_eq_none] at idle
    obtain ⟨⟨⟨-, -⟩, none⟩, -⟩ := idle
    exact none
  refine ⟨_, execTaskDispatch_drum map job task up wants may first body, ?_⟩
  rw [started, drum]
  refine ⟨rfl, rfl, rfl, rfl, same, ?_, rfl, fun n de b entry => Drum.getCell_table entry,
    Drum.mayIssue_atPattern free jobs slot slots⟩
  rw [Drum.atPattern_shell, score]
  rfl

end Sys2Proof.Machine
end

section
/-! LEAF_DONE (R124, R126): what O13 says fails where the store of the blocks names one block twice, a form that `State.Kept`
does not rule out. -/

namespace Sys2Proof.Machine

set_option Elab.async false

/-- Drum 1 with an even leaf of descriptor 0 that waits: its block of two leaves stands twice in the store, first with level 1
and again, behind it, with another leaf pending. -/
def drumOfTwins : Drum :=
  { Drum.factory 1 with shell := { Shell.reset with
      leaves := [⟨0, 0, false, 0⟩], descs := [(0, { Desc.reset with blk := 1 })]
      blocks := [(0, { Stack.reset with level := 1 }), (0, { Stack.reset with pend := 2 })] } }

def stateOfTwins : State := { State.reset with drums := State.reset.drums.set 1 drumOfTwins }

theorem kept_stateOfTwins : stateOfTwins.Kept := Tests.kept_of (by decide +kernel)

theorem unitsRest_drumOfTwins : drumOfTwins.unitsRest := ⟨rfl, rfl, rfl, rfl, rfl, rfl⟩

/-- With level 0 the first of the twins is a block at rest and leaves the store, so the leaf adds to the second. -/
theorem pend_after_leafDone : ((((stateOfTwins.takeLeaf 1 true).unitsRun 1).drum 1).stack 0).pend = 3 := by decide +kernel

/-- Refutes O13: with a block that stands twice in the store, the leaf is pending beside what the second of them held. -/
theorem not_leafDoneMovesOrEndsTheBlock : ¬ Obligations.LeafDoneMovesOrEndsTheBlock := by
  intro holds
  have leaf := holds stateOfTwins 1 ⟨0, 0, false, 0⟩ [] (by decide) kept_stateOfTwins rfl unitsRest_drumOfTwins (by decide)
  obtain ⟨moves, -⟩ := leaf
  obtain ⟨t, run, -, -, pend, -⟩ := moves rfl (by decide) (by decide)
  have next : exec (.leafDone 1 true) stateOfTwins = .next ((stateOfTwins.takeLeaf 1 true).unitsRun 1) :=
    onDrum_eq (d := 1) (by decide) fun s => (s.takeLeaf 1 true).unitsRun 1
  obtain rfl := Host.Outcome.next.inj (next.symm.trans run)
  rw [pend_after_leafDone] at pend
  exact absurd pend (by decide)

end Sys2Proof.Machine
end

section
/-! Bell nodes and bell statistics (R23, R128, R140): the settling of O14. -/

namespace Sys2Proof.Machine

set_option Elab.async false

/-! ### Rows of a node -/

theorem Stack.rowAt_eq (b : Stack) (j i : Nat) : b.rowAt j i = b.rowAt j 0 + i := rfl

/-- The first m rows of a node in slot j, row i with the values f i. -/
def Shell.placeRows (h : Shell) (b : Stack) (j level : Nat) (f : Nat → Nat → Word) (flags : Word) (m : Nat) : Shell :=
  loop (fun i h => h.nodeRow b j i level ((List.range b.n).map (f i)) flags) m h

section
variable {h : Shell} {b : Stack} {j level : Nat} {flags : Word}

theorem Shell.shellAt_nodeRow (kept : h.Kept) (small : b.n ≤ 1024) (i : Nat) (f : Nat → Word) {r c : Nat} (hc : c < 1024) :
    shellAt (h.nodeRow b j i level ((List.range b.n).map f) flags) r c =
      if r = b.rowAt j i ∧ c < b.n then f c else shellAt h r c := by
  obtain ⟨rows, -⟩ := kept
  have row : shellAt (h.nodeRow b j i level ((List.range b.n).map f) flags) r c =
      shellAt (h.putRow (b.rowAt j i) 0 ((List.range b.n).map f)) r c := rfl
  rw [row, List.range_eq_range', Shell.putRow_eq_putCols, Shell.shellAt_putCols hc rows]
  · simp [List.mem_range'_1]
  · intro a ha
    exact (List.mem_range'_1.1 ha).2.trans_le (by omega)

theorem Shell.placeRows_kept (kept : h.Kept) (f : Nat → Nat → Word) (m : Nat) : (h.placeRows b j level f flags m).Kept :=
  Shell.Kept.loop (fun _ _ k => k.nodeRow) kept

theorem Shell.shellAt_placeRows (kept : h.Kept) (small : b.n ≤ 1024) (f : Nat → Nat → Word) {r c : Nat} (hc : c < 1024) :
    ∀ m, shellAt (h.placeRows b j level f flags m) r c =
      if b.rowAt j 0 ≤ r ∧ r < b.rowAt j 0 + m ∧ c < b.n then f (r - b.rowAt j 0) c else shellAt h r c
  | 0 => (if_neg fun ⟨lo, hi, _⟩ => Nat.not_lt.2 lo hi).symm
  | m + 1 => by
    refine (Shell.shellAt_nodeRow (Shell.placeRows_kept kept f m) small m (f m) hc).trans ?_
    rw [Shell.shellAt_placeRows kept small f hc m, Stack.rowAt_eq]
    by_cases now : r = b.rowAt j 0 + m
    · subst now
      simp
    · rw [if_neg fun e => now e.1]
      exact if_congr (by omega) rfl rfl

/-- A node's rows leave all of a shell but rows and statuses. -/
theorem Shell.placeRows_eq (f : Nat → Nat → Word) (m : Nat) (h : Shell) : h.placeRows b j level f flags m =
    { h with rows := (h.placeRows b j level f flags m).rows, tstat := (h.placeRows b j level f flags m).tstat } := by
  induction m with
  | zero => rfl
  | succ m ih =>
    have put := Shell.putCols_eq (row := b.rowAt j m) (f := f m) (List.range' 0 b.n) (h.placeRows b j level f flags m)
    have row : h.placeRows b j level f flags (m + 1) = ((h.placeRows b j level f flags m).putRow (b.rowAt j m) 0
        ((List.range b.n).map (f m))).setStatus (b.rowAt j m) _ := rfl
    rw [row, List.range_eq_range', Shell.putRow_eq_putCols, put, ih]
    rfl

end

/-! ### A node taken in -/

section
variable (y : Drum) (rd level : Nat) (flags : Word) (vals : Cells Word)

/-- The shell with a node's rows in the receive slot of its level. -/
def Drum.receives : Shell :=
  y.shell.placeRows (y.stack rd) ((y.desc rd).recvSlot level) level (fun i k => getCell 0#32 vals (i * 1024 + k)) flags
    (y.stack rd).m

theorem Drum.placeNode_eq : y.placeNode rd level flags vals =
    (({ y with shell := y.receives rd level flags vals } : Drum).noteRows
        ((y.stack rd).rowAt ((y.desc rd).recvSlot level) 0) (y.stack rd).m).modStack rd
      (fun b => { b with rcv := b.rcv ||| BitVec.ofNat 32 (2 ^ level) }) := rfl

theorem Drum.receives_eq : y.receives rd level flags vals =
    { y.shell with rows := (y.receives rd level flags vals).rows, tstat := (y.receives rd level flags vals).tstat } :=
  Shell.placeRows_eq ..

theorem Drum.placeNode_shell : (y.placeNode rd level flags vals).shell =
    { y.receives rd level flags vals with blocks := (y.placeNode rd level flags vals).shell.blocks } := rfl

theorem Drum.shellAt_placeNode (r c : Nat) :
    shellAt (y.placeNode rd level flags vals).shell r c = shellAt (y.receives rd level flags vals) r c := rfl

theorem Drum.placeNode_stack (started : (y.stack rd).started = true) : (y.placeNode rd level flags vals).stack rd =
    { y.stack rd with rcv := (y.stack rd).rcv ||| BitVec.ofNat 32 (2 ^ level) } := by
  have same : (({ y with shell := y.receives rd level flags vals } : Drum).noteRows
      ((y.stack rd).rowAt ((y.desc rd).recvSlot level) 0) (y.stack rd).m).stack rd = y.stack rd := by
    change getCell Stack.reset (y.receives rd level flags vals).blocks rd = _
    rw [Drum.receives_eq]
    rfl
  rw [Drum.placeNode_eq, Drum.stack_modStack, same]
  rw [same]
  exact started

/-- The drum once a started block has taken a node in. -/
def Drum.acceptNode (x : Drum) (rd : Nat) (pk : Packet) (level : Nat) : Drum :=
  let y := x.modStack rd (·.accept pk level)
  { y with shell := { y.shell with rxnodes := y.shell.rxnodes + 1 } }

end

section
variable {x : Drum} {rd level : Nat} {pk : Packet} {flags : Word} {vals : Cells Word}

theorem Drum.acceptNode_stack (started : (x.stack rd).started = true) :
    (x.acceptNode rd pk level).stack rd = (x.stack rd).accept pk level :=
  x.stack_modStack rd (·.accept pk level) started

/-- The shell that a node leaves: its values over the rows of its slot. -/
theorem Drum.shellAt_takesNode (kept : x.shell.Kept) (started : (x.stack rd).started = true) (small : (x.stack rd).n ≤ 1024)
    {r c : Nat} (hc : c < 1024) : shellAt ((x.acceptNode rd pk level).placeNode rd level flags vals).shell r c =
      let lo := (x.stack rd).rowAt ((x.desc rd).recvSlot level) 0
      if lo ≤ r ∧ r < lo + (x.stack rd).m ∧ c < (x.stack rd).n then getCell 0#32 vals ((r - lo) * 1024 + c)
      else shellAt x.shell r c := by
  rw [Drum.shellAt_placeNode, Drum.receives, Drum.acceptNode_stack started]
  exact Shell.shellAt_placeRows (h := (x.acceptNode rd pk level).shell) (b := (x.stack rd).accept pk level) kept small
    (fun i k => getCell 0#32 vals (i * 1024 + k)) hc _

theorem Drum.shellAt_takesNode_in (kept : x.shell.Kept) (started : (x.stack rd).started = true) (small : (x.stack rd).n ≤ 1024)
    {i c : Nat} (hi : i < (x.stack rd).m) (hc : c < (x.stack rd).n) :
    shellAt ((x.acceptNode rd pk level).placeNode rd level flags vals).shell
      ((x.stack rd).rowAt ((x.desc rd).recvSlot level) i) c = getCell 0#32 vals (i * 1024 + c) := by
  rw [Drum.shellAt_takesNode kept started small (hc.trans_le small), Stack.rowAt_eq _ _ i]
  generalize (x.stack rd).rowAt ((x.desc rd).recvSlot level) 0 = lo
  simp only [Nat.le_add_right, Nat.add_lt_add_iff_left, hi, hc, and_self, if_true, Nat.add_sub_cancel_left]

theorem Drum.shellAt_takesNode_out (kept : x.shell.Kept) (started : (x.stack rd).started = true) (small : (x.stack rd).n ≤ 1024)
    {r c : Nat} (hc : c < 1024) (out : r < (x.stack rd).rowAt ((x.desc rd).recvSlot level) 0 ∨
      (x.stack rd).rowAt ((x.desc rd).recvSlot level) 0 + (x.stack rd).m ≤ r) :
    shellAt ((x.acceptNode rd pk level).placeNode rd level flags vals).shell r c = shellAt x.shell r c := by
  rw [Drum.shellAt_takesNode kept started small hc]
  exact if_neg fun ⟨lo, hi, _⟩ => out.elim (Nat.not_lt.2 lo) (Nat.not_le.2 hi)

theorem Drum.takesNode_stack (started : (x.stack rd).started = true) :
    ((x.acceptNode rd pk level).placeNode rd level flags vals).stack rd =
      { (x.stack rd).accept pk level with rcv := (x.stack rd).rcv ||| BitVec.ofNat 32 (2 ^ level) } := by
  have accept := Drum.acceptNode_stack (pk := pk) (level := level) started
  rw [Drum.placeNode_stack _ _ _ _ _ (by rw [accept]; exact started), accept]
  rfl

theorem Drum.takesNode_rxnodes :
    ((x.acceptNode rd pk level).placeNode rd level flags vals).shell.rxnodes = x.shell.rxnodes + 1 := by
  rw [Drum.placeNode_shell, Drum.receives_eq]
  rfl

end

section
variable {s : State} {d rd level : Nat} {pk : Packet} {flags : Word} {vals : Cells Word}

/-- A started block at whose levels no climb waits takes a node in and goes no further. -/
theorem State.takeNode_started (hd : d < s.drums.length) (started : ((s.drum d).stack rd).started = true)
    (climb : ((s.drum d).stack rd).climb = none) : s.takeNode d rd pk level flags vals =
      s.modDrum d fun x => (x.acceptNode rd pk level).placeNode rd level flags vals := by
  have accept : (s.modDrum d fun x => x.modStack rd (·.accept pk level)).modShell d
      (fun h => { h with rxnodes := h.rxnodes + 1 }) = s.modDrum d (·.acceptNode rd pk level) := State.modDrum_modDrum hd ..
  have length : d < (s.modDrum d (·.acceptNode rd pk level)).drums.length := (s.modDrum_length d _).symm ▸ hd
  have stack : ((s.modDrum d (·.acceptNode rd pk level)).drum d).stack rd = ((s.drum d).stack rd).accept pk level := by
    rw [s.drum_modDrum hd, Drum.acceptNode_stack started]
  have placed : ((s.modDrum d (·.acceptNode rd pk level)).modDrum d (·.placeNode rd level flags vals)) =
      s.modDrum d fun x => (x.acceptNode rd pk level).placeNode rd level flags vals := State.modDrum_modDrum hd ..
  have rests : (((s.modDrum d fun x => (x.acceptNode rd pk level).placeNode rd level flags vals).drum d).stack rd).climb = none := by
    rw [← placed, State.drum_modDrum _ length, Drum.placeNode_stack _ _ _ _ _ (by rw [stack]; exact started), stack]
    exact climb
  unfold State.takeNode
  simp only [accept, stack]
  rw [if_pos (by exact started), placed, State.resumeClimb]
  simp only [rests]

variable {src prid m n row0 : Nat} {k : Packet} {rest : List Packet}

/-- A node that leaves the NoC and changes drum d by f, which leaves the units at rest. -/
theorem execNodeArrival_changes (hd : d < 136) (kept : s.Kept) (full : s.stationFull d = false)
    (take : takePacket (fun p => p.src == src && p.dst == d) s.noc = some (k, rest)) (node : k.isNode = true) {f : Drum → Drum}
    (land : State.landNode { s with noc := rest } d true k = State.modDrum { s with noc := rest } d f)
    (rests : (f (s.drum d)).unitsRest) :
    ∃ t, exec (.nodeArrival d src .arrives) s = .next t ∧ t.noc = rest ∧ OnlyDrumNoc d s t ∧ t.drum d = f (s.drum d) := by
  have drum : (State.modDrum { s with noc := rest } d f).drum d = f (s.drum d) :=
    State.drum_modDrum { s with noc := rest } (kept.drum_lt hd) f
  refine ⟨State.modDrum { s with noc := rest } d f, ?_, rfl, (onlyDrum_modDrum s d f).withNoc rest, drum⟩
  rw [show exec (.nodeArrival d src .arrives) s = execNodeArrival d src .arrives s from rfl, execNodeArrival,
    onStation_drum hd, State.deliver_arrives _ full take node, land, State.unitsRun_rest]
  rw [drum]
  exact rests

section
variable (body : k.body = .node prid level m n row0 flags vals)
include body

theorem Packet.isNode_of_body : k.isNode = true := by
  rw [Packet.isNode, body]

theorem State.landNode_ended (ended : (k.job.bind s.job?).isSome = false) :
    s.landNode d true k = s.modPad d fun p => { p with discards := p.discards + 1 } := by
  rw [State.landNode, body]
  simp only [ended, Bool.false_eq_true, if_false]

theorem State.landNode_known (known : (k.job.bind s.job?).isSome = true) :
    s.landNode d true k = s.nodeArrives d k prid level m n row0 flags vals := by
  rw [State.landNode, body]
  simp only [known, if_true]

end

/-- A node that finds no descriptor, on a drum without a saved run, waits at the station. -/
theorem State.nodeArrives_held (saved : (s.drum d).saved = none)
    (lost : (s.drum d).seq.run.map (·.job) ≠ k.job ∨ findRid (s.drum d).shell.descs prid = none) :
    s.nodeArrives d k prid level m n row0 flags vals = s.modPad d fun p => { p with held := p.held ++ [k] } := by
  have here : (if k.job.isSome ∧ (s.drum d).seq.run.map (·.job) = k.job then findRid (s.drum d).shell.descs prid else none) =
      none := by
    split
    · next run => exact lost.resolve_left fun other => other run.2
    · rfl
  unfold State.nodeArrives
  simp only [here, saved]

/-- A node that the block of its descriptor takes. -/
theorem State.nodeArrives_taken (job : k.job.isSome = true) (run : (s.drum d).seq.run.map (·.job) = k.job)
    (found : findRid (s.drum d).shell.descs prid = some rd)
    (takes : ((s.drum d).stack rd).takes ((s.drum d).desc rd) level m n row0 = true) :
    s.nodeArrives d k prid level m n row0 flags vals = s.takeNode d rd k level flags vals := by
  unfold State.nodeArrives
  simp only [job, run, found, takes, and_self, if_true]

end

/-! ### Statistics -/

section
variable {s : State} {d src : Nat} {k : Packet} {rest : List Packet} {qid m n group rid : Nat} {his los : List Word}

theorem takePacket_eq_some {p : Packet → Bool} : ∀ {l : List Packet} {k : Packet} {rest : List Packet},
    takePacket p l = some (k, rest) → p k = true
  | [], _, _, h => by cases h
  | a :: l, k, rest, h => by
    rw [takePacket] at h
    split at h
    · next found =>
      cases h
      exact found
    · obtain ⟨⟨b, l'⟩, later, same⟩ := Option.map_eq_some_iff.1 h
      cases same
      exact takePacket_eq_some later

theorem Packet.src_of_take (take : takePacket (fun p => p.src == src && p.dst == d) s.noc = some (k, rest)) : k.src = src := by
  have both := takePacket_eq_some take
  rw [Bool.and_eq_true] at both
  exact beq_iff_eq.1 both.1

theorem SentNode.job_of_answers {t : SentNode} {j : Half} (h : t.answers k rid = true) (job : k.job = some j) : t.job = j := by
  simp only [SentNode.answers, SentNode.sameWay, job, Bool.and_eq_true, beq_iff_eq, Option.some.injEq] at h
  obtain ⟨⟨-, same⟩, -⟩ := h
  exact same.symm

variable (hd : d < 136) (full : s.stationFull d = false)
  (take : takePacket (fun p => p.src == src && p.dst == d) s.noc = some (k, rest))
  (body : k.body = .stats qid m n group rid his los)
include hd full take body

theorem execBellStatsArrival_lands : exec (.bellStatsArrival d src .arrives) s =
    .next (State.statsArrive { s with noc := rest } d k true qid m n group rid his los) := by
  have stats : k.isStats = true := by rw [Packet.isStats, body]
  rw [show exec (.bellStatsArrival d src .arrives) s = execBellStatsArrival d src .arrives s from rfl, execBellStatsArrival,
    onStation_drum hd, State.deliver_arrives _ full take stats, State.landStats, body]

end

section
variable {s : State} {d : Nat} {k : Packet} {qid m n group rid : Nat} {his los : List Word}

theorem State.statsArrive_strange (none : (s.drum d).shell.sent.filter (·.answers k rid) = []) (par : Bool) :
    s.statsArrive d k par qid m n group rid his los = s := by
  rw [State.statsArrive, none]

theorem State.statsDown_none (s : State) (d : Nat) (j : Half) : s.statsDown d j rid qid m n group his los [] = s := rfl

/-- The shell that awaits an answer to the nodes of this way and up to this serial no more. -/
def Shell.answered (h : Shell) (k : Packet) (rid : Nat) : Shell :=
  { h with sent := h.sent.filter fun v => !(v.sameWay k rid && decide (v.serial ≤ k.span.2)) }

/-- Statistics that answer a node of this drum alone fold into the record of its job. -/
theorem State.statsArrive_folds (hd : d < s.drums.length) {t : SentNode} {l : List SentNode} {u : Tuner}
    (own : (s.drum d).shell.sent.filter (·.answers k rid) = t :: l) (other : k.src ≠ d)
    (leaves : ∀ v ∈ t :: l, v.senders = [])
    (fold : (s.drum d).tuner.foldTree t.job qid m n group (his.zip los) = some u) :
    s.statsArrive d k true qid m n group rid his los =
      s.modDrum d fun x => { x with tuner := u, shell := x.shell.answered k rid } := by
  have both : (s.modTuner d fun _ => u).modShell d (·.answered k rid) = _ := State.modDrum_modDrum hd ..
  rw [State.statsArrive, own, ← both]
  simp only [other, fold, if_false, Bool.not_true, Bool.false_eq_true]
  refine foldl_fixed_of_mem fun v hv => ?_
  rw [leaves v hv, State.statsDown_none]

end

/-- Settles O14: what lands changes the drum alone, and a node that a block takes writes the rows of its receive slot alone. -/
theorem nodesAndStatisticsArrive : Obligations.NodesAndStatisticsArrive := by
  constructor
  · intro s d src k rest prid level m n row0 fl vals hd kept full take body rests x
    have node := Packet.isNode_of_body body
    refine ⟨fun ended => ?_, fun known saved lost => ?_, ?_⟩
    · exact execNodeArrival_changes hd kept full take node
        (f := fun x => { x with pad := { x.pad with discards := x.pad.discards + 1 } }) (State.landNode_ended body ended) rests
    · have known' := State.landNode_known (s := { s with noc := rest }) (d := d) body known
      have waits := State.nodeArrives_held (s := { s with noc := rest }) (d := d) (level := level) (m := m) (n := n) (row0 := row0)
        (flags := fl) (vals := vals) saved lost
      exact execNodeArrival_changes hd kept full take node
        (f := fun x => { x with pad := { x.pad with held := x.pad.held ++ [k] } }) (known'.trans waits) rests
    · intro rd known run found takes started climb small b j
      have job : k.job.isSome = true := by
        cases job : k.job with
        | none =>
          rw [job] at known
          cases known
        | some j => rfl
      have known' := State.landNode_known (s := { s with noc := rest }) (d := d) body known
      have taken := State.nodeArrives_taken (s := { s with noc := rest }) (d := d) (flags := fl) (vals := vals) job run found takes
      have lands := State.takeNode_started (s := { s with noc := rest }) (d := d) (rd := rd) (level := level) (pk := k) (flags := fl)
        (vals := vals) (kept.drum_lt hd) started climb
      have land := known'.trans (taken.trans lands)
      obtain ⟨t, next, noc, frame, drum⟩ := execNodeArrival_changes hd kept full take node land rests
      have shell := (kept.drum d).2
      refine ⟨t, next, noc, frame, ?_⟩
      rw [drum]
      exact ⟨Drum.takesNode_rxnodes, congrArg Stack.rcv (Drum.takesNode_stack started),
        fun i c => Drum.shellAt_takesNode_in shell started small, fun r c => Drum.shellAt_takesNode_out shell started small, rfl⟩
  · intro s d src k rest qid m n group rid his los hd kept full take body x f
    have lands := execBellStatsArrival_lands hd full take body
    refine ⟨fun none => ?_, fun j u other some_ leaves job fold => ?_⟩
    · rw [lands, State.statsArrive_strange (s := { s with noc := rest }) none]
    · obtain ⟨t, l, own⟩ : ∃ t l, f = t :: l := List.exists_cons_of_ne_nil some_
      have answers : t ∈ f := own ▸ List.mem_cons_self
      have mine : t.answers k rid = true := (List.mem_filter.1 answers).2
      have job' : t.job = j := SentNode.job_of_answers mine job
      have source : k.src = src := Packet.src_of_take take
      have folds := State.statsArrive_folds (s := { s with noc := rest }) (d := d) (kept.drum_lt hd) own (source.symm ▸ other)
        (own ▸ leaves) (job'.symm ▸ fold)
      rw [lands, folds]
      exact ⟨_, rfl, rfl, (onlyDrum_modDrum s d fun x => { x with tuner := u, shell := x.shell.answered k rid }).withNoc rest,
        State.drum_modDrum { s with noc := rest } (kept.drum_lt hd) _⟩

end Sys2Proof.Machine
end

section
/-! Events at a pad (R116, R235, R236, R237, R239): the first half of O16. -/

namespace Sys2Proof.Machine

set_option Elab.async false

/-! ### Slots whose job has ended -/

theorem Pad.foldl_zeroTallies (l : List Slot) (p : Pad) :
    l.foldl (fun p t => if t.ending then p.zeroTallies t else p) p =
      { p with tallies := (l.foldl (fun p t => if t.ending then p.zeroTallies t else p) p).tallies } := by
  induction l generalizing p with
  | nil => rfl
  | cons t l ih =>
    rw [List.foldl_cons, ih]
    split <;> rfl

theorem Pad.releaseEnded_eq (p : Pad) : p.releaseEnded =
    { p with slots := p.slots.map fun t => if t.ending then t.release else t, tallies := p.releaseEnded.tallies } := by
  unfold Pad.releaseEnded
  rw [Pad.foldl_zeroTallies]

theorem Pad.releaseEnded_ending (p : Pad) : ∀ m ∈ p.releaseEnded.slots, m.ending = false := by
  rw [Pad.releaseEnded_eq]
  intro m hm
  obtain ⟨t, -, rfl⟩ := List.mem_map.1 hm
  split
  · rfl
  · next open_ => exact eq_false_of_ne_true open_

section
variable {s : State} {d : Nat}

/-- The drum once its clearing has ended. -/
def Drum.cleared (x : Drum) : Drum :=
  { x with shell := { x.shell with clearing := false }, pad := x.pad.releaseEnded }

theorem execShellClearDone_still (hd : d < 136) (kept : s.Kept) (map : s.leaving = []) :
    exec (.shellClearDone d) s = .next (s.modDrum d Drum.cleared) := by
  have same := (State.SameMap.refl s).modDrum (kept.drum_lt hd) (f := Drum.cleared) (fun _ => rfl) fun _ => rfl
  rw [show exec (.shellClearDone d) s = execShellClearDone d s from rfl, execShellClearDone, onDrum_eq hd]
  exact congrArg _ (State.applyMap_none (same.leaving.trans map))

/-! ### Words read again -/

/-- A word counts no more as failed, and the re-read counts. -/
def Pad.rereadAt (p : Pad) (word : Nat) : Pad :=
  { p with rereads := p.rereads + 1, failed := p.failed.filter fun w => decide (w ≠ word) }

/-- The word fails again, and its slot is marked. -/
def Pad.failAt (p : Pad) (word : Nat) : Pad := { p.markPurge (16 * word) with failed := p.failed ++ [word] }

/-- The pad once a word has failed its second read. -/
def Pad.refail (p : Pad) (word : Nat) : Pad := (p.rereadAt word).failAt word

theorem execPadReread_passes (hd : d < 136) (word : Nat) (outside : Bool) :
    exec (.padReread d word ⟨true, outside⟩) s = .next (s.modPad d (·.rereadAt word)) := by
  rw [show exec (.padReread d word ⟨true, outside⟩) s = execPadReread d word ⟨true, outside⟩ s from rfl, execPadReread,
    onDrum_eq hd]
  simp only [Bool.true_or, if_true]
  rfl

theorem execPadReread_fails (hd : d < 136) (kept : s.Kept) {word : Nat} (inside : word < 262144) (outside : Bool) :
    exec (.padReread d word ⟨false, outside⟩) s =
      .next ((s.modPad d (·.refail word)).parityFault d word outside) := by
  have bound : (false || decide (262144 ≤ word)) = false := by
    rw [Bool.false_or]
    exact decide_eq_false (Nat.not_le.2 inside)
  rw [show exec (.padReread d word ⟨false, outside⟩) s = execPadReread d word ⟨false, outside⟩ s from rfl, execPadReread,
    onDrum_eq hd]
  simp only [bound, Bool.false_eq_true, if_false]
  exact congrArg (fun u : State => Host.Outcome.next (u.parityFault d word outside)) (State.modPad_modPad (kept.drum_lt hd) _ _)

end

/-! ### Readers of a word -/

/-- The slot of a word that fails again, marked where its resident part holds the word (R235). -/
def Slot.mark (a : Nat) (t : Slot) : Slot :=
  if t.state = .bound ∧ t.base * 65536 ≤ a ∧ a < t.resv * 65536 then { t with purgeMark := true } else t

theorem Slot.mark_eq (a : Nat) (t : Slot) : t.mark a = { t with purgeMark := (t.mark a).purgeMark } := by
  unfold Slot.mark
  split <;> rfl

/-- Marks do not move a job's slot. -/
theorem Pad.start_markPurge (p : Pad) (a : Nat) (j : Half) :
    ((p.markPurge a).slotOf j).map Slot.start = (p.slotOf j).map Slot.start := by
  have start : Slot.start ∘ Slot.mark a = Slot.start := funext fun t => by
    rw [Function.comp_apply, Slot.mark_eq]
    rfl
  have found : (fun t : Slot => t.job == j && t.state == .bound && !t.ending) ∘ Slot.mark a =
      fun t => t.job == j && t.state == .bound && !t.ending := funext fun t => by
    rw [Function.comp_apply, Slot.mark_eq]
  have marked : (p.markPurge a).slots = p.slots.map (Slot.mark a) := rfl
  rw [Pad.slotOf, marked, List.find?_map, Option.map_map, start, found, Pad.slotOf]

section
variable {x y : Drum}

/-- A drum over the same bytes, with its region at the same place, and with the same units at work meets a word alike. -/
theorem Drum.skinReader_congr (mem : y.pad.mem = x.pad.mem) (abs : y.abs = x.abs) (skin : y.skin = x.skin) (a : Nat) :
    y.skinReader a = x.skinReader a := by
  have header (off : Nat) : y.sclHdr off = x.sclHdr off := by simp only [Drum.sclHdr, Drum.padBytes, mem, abs]
  have bytes (off : Nat) : y.fileBytes off = x.fileBytes off := by simp only [Drum.fileBytes, header]
  have ranges (t : Step) : t.ranges y = t.ranges x := by simp only [Step.ranges, Step.loadReads, header, bytes]
  have feed : y.rowsToFeed = x.rowsToFeed := funext fun t => by rw [Drum.rowsToFeed, skin, Drum.rowsToFeed]
  rw [Drum.skinReader, Drum.skinReader, skin, abs, feed]
  simp only [ranges]

theorem Drum.rowReader_congr (mem : y.pad.mem = x.pad.mem) (abs : y.abs = x.abs) (roll : y.roll = x.roll)
    (tuner : y.tuner = x.tuner) (a : Nat) : y.rowReader a = x.rowReader a := by
  have header (off : Nat) : y.sclHdr off = x.sclHdr off := by simp only [Drum.sclHdr, Drum.padBytes, mem, abs]
  have rows (q : TuneW) (m : Nat) : q.rowReads y m = q.rowReads x m := by simp only [TuneW.rowReads, header]
  rw [Drum.rowReader, Drum.rowReader, roll, tuner, abs]
  simp only [rows]

end

/-! ### A word that fails its second read -/

section
variable {s : State} {d word : Nat}

theorem Pad.mem_refail (p : Pad) (word : Nat) : word ∈ (p.refail word).failed :=
  List.mem_append_right _ (List.mem_singleton_self word)

theorem Drum.abs_refail (x : Drum) (word : Nat) : ({ x with pad := x.pad.refail word } : Drum).abs = x.abs := by
  have start : (({ x with pad := x.pad.refail word } : Drum).slot.map Slot.start) = x.slot.map Slot.start := by
    rw [Drum.slot, Drum.slot, Option.map_bind, Option.map_bind]
    exact congrArg x.seq.run.bind (funext fun r => Pad.start_markPurge (x.pad.rereadAt word) (16 * word) r.job)
  funext o
  rw [Drum.abs, start, Drum.abs]

theorem Drum.skinReader_refail (x : Drum) (word a : Nat) :
    ({ x with pad := x.pad.refail word } : Drum).skinReader a = x.skinReader a :=
  Drum.skinReader_congr (x := x) (y := { x with pad := x.pad.refail word }) rfl (x.abs_refail word) rfl a

theorem Drum.rowReader_refail (x : Drum) (word a : Nat) :
    ({ x with pad := x.pad.refail word } : Drum).rowReader a = x.rowReader a :=
  Drum.rowReader_congr (x := x) (y := { x with pad := x.pad.refail word }) rfl (x.abs_refail word) rfl rfl a

/-- A fault of the running instruction, where the drum's record is free: the record latches and the drum stops. -/
theorem State.drumFault_effect (hd : d < s.drums.length) {r : RunId} (run : (s.drum d).seq.run = some r)
    (free : (s.fault d).valid = false) (sub : Nat) :
    (s.drumFault d sub).latched d sub (some r.job) s.beat ∧
    (s.drumFault d sub).drum d =
      { s.drum d with seq := { (s.drum d).seq with stopped := true, waiting := none } } := by
  let t := (s.modSeq d fun q => { q with stopped := true, waiting := none }).markFaulted r.job r.task
  have fault : s.drumFault d sub = t.raiseWith ⟨d, BitVec.ofNat 8 sub, some r.job, some r, false⟩ := by
    rw [State.drumFault, run]
    rfl
  obtain ⟨latched, drums⟩ := t.raiseWith_latches (n := d) (sub := sub) (j := some r.job) (run := some r) free
  rw [fault]
  have stopped := s.drum_modSeq hd fun q => { q with stopped := true, waiting := none }
  exact ⟨latched, (State.drum_congr drums d).trans stopped⟩

theorem State.parityFault_inside {r : RunId} (hd : d < s.drums.length) (run : (s.drum d).seq.run = some r)
    (skin : (s.drum d).skinReader (16 * word) = none) (row : (s.drum d).rowReader (16 * word) = none)
    (free : (s.fault d).valid = false) :
    let t := (s.modPad d (·.refail word)).parityFault d word false
    t.latched d 0x62 (some r.job) s.beat ∧
    t.drum d = { s.drum d with
      pad := (s.drum d).pad.refail word, seq := { (s.drum d).seq with stopped := true, waiting := none } } := by
  have drum := s.drum_modPad hd (·.refail word)
  have skin' : ((s.modPad d (·.refail word)).drum d).skinReader (16 * word) = none := by
    rw [drum, Drum.skinReader_refail, skin]
  have row' : ((s.modPad d (·.refail word)).drum d).rowReader (16 * word) = none := by
    rw [drum, Drum.rowReader_refail, row]
  have fault : (s.modPad d (·.refail word)).parityFault d word false = (s.modPad d (·.refail word)).drumFault d 0x62 := by
    simp only [State.parityFault, skin', row', Bool.false_eq_true, if_false]
  have effect := State.drumFault_effect (s := s.modPad d (·.refail word)) ((s.modPad_length d _).symm ▸ hd)
    (by rw [drum]; exact run) free 0x62
  rw [drum] at effect
  rw [fault]
  exact effect

theorem State.parityFault_outside (hd : d < s.drums.length) (free : (s.fault d).valid = false) :
    let t := (s.modPad d (·.refail word)).parityFault d word true
    t.latched d 0x62 none s.beat ∧ t.drum d = { s.drum d with pad := (s.drum d).pad.refail word } := by
  obtain ⟨latched, drums⟩ := (s.modPad d (·.refail word)).raiseWith_latches (n := d) (sub := 0x62) (j := none) (run := none) free
  exact ⟨latched, (State.drum_congr drums d).trans (s.drum_modPad hd _)⟩

end

/-! ### Banks -/

section
variable {s : State} {d bank : Nat}

/-- May the bank be gated at a beat: untouched for IDLE us, with gating on and the save area off? -/
def Pad.mayGate (p : Pad) (beat : Dword) (bank : Nat) : Prop :=
  p.idle ≠ 0 ∧ p.saveEn = false ∧ bank < 64 ∧ getCell Bank.awake p.banks bank = .awake ∧
    (getCell 0#64 p.touched bank).toNat + 320 * p.idle.toNat ≤ beat.toNat

/-- The pad with a bank gated, which wakes no sooner than its retention is entered. -/
def Pad.gate (p : Pad) (beat : Dword) (bank : Nat) : Pad :=
  { p with banks := putCell .awake p.banks bank .gated, wakes := putCell 0#64 p.wakes bank (beat + 8) }

theorem Pad.bank_gate (p : Pad) (beat : Dword) (bank : Nat) : getCell Bank.awake (p.gate beat bank).banks bank = .gated :=
  getCell_putCell_of_ne_default (by decide) bank p.banks

theorem execBankGate_eq (hd : d < 136) : exec (.bankGate d bank) s = .next (s.modPad d fun p =>
    if p.idle ≠ 0 ∧ p.saveEn = false ∧ bank < 64 ∧ getCell Bank.awake p.banks bank = .awake ∧
        (getCell 0#64 p.touched bank).toNat + 320 * p.idle.toNat ≤ s.beat.toNat then p.gate s.beat bank else p) := by
  rw [show exec (.bankGate d bank) s = execBankGate d bank s from rfl, execBankGate, onDrum_eq hd]
  rfl

theorem execBankGate_gates (hd : d < 136) (kept : s.Kept) (may : (s.drum d).pad.mayGate s.beat bank) :
    ∃ t, exec (.bankGate d bank) s = .next t ∧ OnlyDrum d s t ∧
      t.drum d = { s.drum d with pad := (s.drum d).pad.gate s.beat bank } := by
  refine ⟨_, execBankGate_eq hd, onlyDrum_modDrum s d _, ?_⟩
  unfold Pad.mayGate at may
  rw [s.drum_modPad (kept.drum_lt hd), if_pos may]

theorem execBankGate_waits (hd : d < 136) (kept : s.Kept) (early : ¬ (s.drum d).pad.mayGate s.beat bank) :
    ∃ t, exec (.bankGate d bank) s = .next t ∧ OnlyDrum d s t ∧ t.drum d = s.drum d := by
  refine ⟨_, execBankGate_eq hd, onlyDrum_modDrum s d _, ?_⟩
  unfold Pad.mayGate at early
  rw [s.drum_modPad (kept.drum_lt hd), if_neg early]

/-- The pad with a bank awake again. -/
def Pad.wakeBank (p : Pad) (bank : Nat) : Pad :=
  { p with banks := putCell .awake p.banks bank .awake, wakes := putCell 0#64 p.wakes bank 0 }

theorem Pad.bank_wakeBank {p : Pad} (kept : p.Kept) (bank : Nat) :
    getCell Bank.awake (p.wakeBank bank).banks bank = .awake := by
  obtain ⟨-, -, banks⟩ := kept
  exact getCell_putCell banks bank .awake

/-- The end of a wake that no arrival waited for. -/
theorem execBankWakeEnd_wakes (hd : d < 136) (kept : s.Kept) (waking : getCell Bank.awake (s.drum d).pad.banks bank = .waking)
    (none : (s.drum d).pad.eject = []) (due : (getCell 0#64 (s.drum d).pad.wakes bank).toNat + 640 ≤ s.beat.toNat) :
    exec (.bankWakeEnd d bank) s = .next (s.modPad d (·.wakeBank bank)) := by
  have drum := s.drum_modPad (kept.drum_lt hd) (·.wakeBank bank)
  have empty : ((s.modPad d (·.wakeBank bank)).drum d).pad.eject = [] := by
    rw [drum]
    exact none
  have fixed : (s.modPad d (·.wakeBank bank)).modPad d (fun p => { p with eject := [] }) = s.modPad d (·.wakeBank bank) := by
    refine State.modDrum_fixed ?_
    rw [← empty]
  rw [show exec (.bankWakeEnd d bank) s = execBankWakeEnd d bank s from rfl, execBankWakeEnd, onDrum_eq hd]
  simp only [waking, due, and_self, if_true]
  change Host.Outcome.next (List.foldl _ ((s.modPad d (·.wakeBank bank)).modPad d fun p => { p with eject := [] })
    ((s.modPad d (·.wakeBank bank)).drum d).pad.eject) = _
  rw [empty, List.foldl_nil, fixed]

end

end Sys2Proof.Machine
end

section
/-! The life of a pad's region slots (R226, R227, R238, R239, R253, R261): the second half of O16. -/

namespace Sys2Proof.Machine

set_option Elab.async false

/-! ### Ranges zeroed -/

theorem getCell_zeroRange {α : Type} (z : α) (lo hi a : Nat) : ∀ c : Cells α,
    getCell z (zeroRange c lo hi) a = if lo ≤ a ∧ a < hi then z else getCell z c a
  | [] => by simp [zeroRange, getCell]
  | (k, v) :: c => by
    have rest := getCell_zeroRange z lo hi a c
    unfold zeroRange at rest ⊢
    rw [List.filter_cons]
    by_cases kept : k < lo ∨ hi ≤ k
    · rw [if_pos (by simpa using kept), getCell, getCell, rest]
      by_cases same : k = a
      · subst same
        rw [if_pos rfl, if_pos rfl, if_neg (by omega)]
      · rw [if_neg same, if_neg same]
    · rw [if_neg (by simpa using kept), rest, getCell]
      by_cases inside : lo ≤ a ∧ a < hi
      · rw [if_pos inside, if_pos inside]
      · rw [if_neg inside, if_neg inside, if_neg (by omega)]

theorem Pad.zeroBlocks_eq (p : Pad) (beat : Dword) (lo hi : Nat) : ∃ q, SamePad p q ∧ p.zeroBlocks beat lo hi =
    { q with mem := zeroRange p.mem (lo * 65536) (hi * 65536)
             failed := p.failed.filter fun w => decide (16 * w < lo * 65536 ∨ hi * 65536 ≤ 16 * w)
             damped := p.damped + BitVec.ofNat 64 (64 * (hi - lo)) } := by
  by_cases rows : lo < hi
  · refine ⟨p.touch beat (List.range 64), touch_same .., ?_⟩
    have same := touch_same p beat (List.range 64)
    have count : (p.touch beat (List.range 64)).damped = p.damped := by rw [same]
    unfold Pad.zeroBlocks
    simp only [rows, if_true, Pad.zero, same.mem, same.failed, count]
  · refine ⟨p, .refl p, ?_⟩
    unfold Pad.zeroBlocks
    rw [if_neg rows]
    rfl

theorem Pad.getByte_zeroBlocks (p : Pad) (beat : Dword) (lo hi a : Nat) : getByte (p.zeroBlocks beat lo hi).mem a =
    if lo * 65536 ≤ a ∧ a < hi * 65536 then 0 else getByte p.mem a := by
  obtain ⟨q, -, zeroed⟩ := p.zeroBlocks_eq beat lo hi
  rw [zeroed]
  exact getCell_zeroRange blankByte _ _ a p.mem

theorem Pad.damped_zeroBlocks (p : Pad) (beat : Dword) (lo hi : Nat) :
    (p.zeroBlocks beat lo hi).damped = p.damped + BitVec.ofNat 64 (64 * (hi - lo)) := by
  obtain ⟨q, -, zeroed⟩ := p.zeroBlocks_eq beat lo hi
  rw [zeroed]

theorem Pad.slots_zeroBlocks (p : Pad) (beat : Dword) (lo hi : Nat) : (p.zeroBlocks beat lo hi).slots = p.slots := by
  obtain ⟨q, same, zeroed⟩ := p.zeroBlocks_eq beat lo hi
  rw [zeroed]
  exact same.slots

theorem Pad.tallies_zeroBlocks (p : Pad) (beat : Dword) (lo hi : Nat) : (p.zeroBlocks beat lo hi).tallies = p.tallies := by
  obtain ⟨q, same, zeroed⟩ := p.zeroBlocks_eq beat lo hi
  rw [zeroed]
  exact same.tallies

/-! ### The damper -/

/-- The first block that the damper zeroes of a slot. -/
def Slot.dampFrom (t : Slot) : Nat := if t.state = .damp then t.resv else t.base

/-- What the damper makes of a slot: a residency that stays is HELD, and any other slot is free. -/
def Slot.damped (t : Slot) (serial : Nat) : Slot :=
  if t.state = .damp ∧ t.base < t.resv then { t with state := .held, heldAt := serial } else Slot.reset

section
variable {p : Pad} {beat : Dword} {k serial : Nat} {m : Slot}

theorem Pad.dampSlot_other (other : k ≠ p.dampNext) : p.dampSlot beat k serial = p := if_pos other

theorem Pad.dampSlot_slot (hk : k < 8) (slot : p.slots[k]? = some m) (due : m.state = .damp ∨ m.state = .purge)
    (next : p.dampNext = k) : p.dampSlot beat k serial =
      { p.zeroBlocks beat m.dampFrom m.bound with slots := p.slots.set k (m.damped serial) } := by
  unfold Pad.dampSlot
  rw [if_neg (not_not.2 next.symm), if_neg (by omega), slot]
  rcases due with damp | purge
  · simp [damp, Slot.dampFrom, Slot.damped]
  · simp [purge, Slot.dampFrom, Slot.damped]

theorem Pad.dampSlot_save (dirty : p.saveDirty = true) (next : p.dampNext = 8) (ended : p.slots.any (·.ending) = false) :
    p.dampSlot beat 8 serial = { p.zeroBlocks beat 46 64 with saveDirty := false } := by
  unfold Pad.dampSlot
  rw [if_neg (not_not.2 next.symm), if_pos rfl, dirty, ended]
  rfl

theorem Slot.damped_state (due : m.state = .damp ∨ m.state = .purge) (serial : Nat) : (m.damped serial).state ≠ m.state := by
  unfold Slot.damped
  rcases due with damp | purge
  · rw [damp]
    split
    · exact fun held => nomatch held
    · exact fun free => nomatch free
  · rw [if_neg (by simp [purge]), purge]
    decide

end

section
variable {s : State} {d k : Nat} {m : Slot}

theorem State.retryHeads_none (none : s.rings.all (fun p => p.2.head.isNone) = true) : s.retryHeads = s := by
  have waits : s.rings.filter (fun p => p.2.head.isSome) = [] := by
    refine List.filter_eq_nil_iff.2 fun p hp => ?_
    rw [Option.isNone_iff_eq_none.1 (List.all_eq_true.1 none p hp)]
    decide
  rw [State.retryHeads, waits, List.map_nil, List.foldl_nil]

theorem execDamperFinish_same (hd : d < 136)
    (same : (s.drum d).pad.dampSlot s.beat k (s.met.heldSerial + 1) = (s.drum d).pad) :
    exec (.damperFinish d k) s = .next s := by
  rw [show exec (.damperFinish d k) s = execDamperFinish d k s from rfl, execDamperFinish, onDrum_eq hd]
  simp only [same, if_true]

/-- The part once the damper has made a pad of another form. -/
def State.dampedTo (s : State) (d : Nat) (q : Pad) : State :=
  (s.modPad d fun _ => q).modMet fun m => { m with heldSerial := m.heldSerial + 1 }

theorem State.drum_dampedTo (hd : d < s.drums.length) (q : Pad) :
    (s.dampedTo d q).drum d = { s.drum d with pad := q } := s.drum_modPad hd fun _ => q

theorem State.drum_dampedTo_ne {e : Nat} (other : e ≠ d) (q : Pad) : (s.dampedTo d q).drum e = s.drum e :=
  s.drum_modPad_ne other fun _ => q

theorem execDamperFinish_changes (hd : d < 136) (heads : s.rings.all (fun p => p.2.head.isNone) = true) {q : Pad}
    (damp : (s.drum d).pad.dampSlot s.beat k (s.met.heldSerial + 1) = q) (changed : q ≠ (s.drum d).pad) :
    exec (.damperFinish d k) s = .next (s.dampedTo d q) := by
  have none : (s.dampedTo d q).retryHeads = s.dampedTo d q := State.retryHeads_none heads
  rw [show exec (.damperFinish d k) s = execDamperFinish d k s from rfl, execDamperFinish, onDrum_eq hd]
  simp only [damp, changed, if_false]
  exact congrArg _ none

theorem dampSlot_changes {p : Pad} {beat : Dword} {serial : Nat} (slot : p.slots[k]? = some m)
    (due : m.state = .damp ∨ m.state = .purge) :
    ({ p.zeroBlocks beat m.dampFrom m.bound with slots := p.slots.set k (m.damped serial) } : Pad) ≠ p := by
  intro same
  obtain ⟨hk, -⟩ := List.getElem?_eq_some_iff.1 slot
  have slots : p.slots.set k (m.damped serial) = p.slots := congrArg Pad.slots same
  have here : some (m.damped serial) = some m := by rw [← slot, ← slots, List.getElem?_set_self hk]
  exact Slot.damped_state due serial (congrArg Slot.state (Option.some.inj here))

end

/-! ### Slots that pass to PURGE -/

/-- Slot i once it has passed to PURGE where it should. -/
def Slot.purgedIf (m : Slot) (c : Prop) [Decidable c] : Slot := if c then { m with state := .purge } else m

section
variable {p : Pad} {i : Nat} {m : Slot}

theorem Pad.slots_purge (slot : p.slots[i]? = some m) (k : Nat) :
    (p.purge k).slots[i]? = some (m.purgedIf (i = k)) := by
  unfold Slot.purgedIf
  by_cases here : i = k
  · subst here
    obtain ⟨hi, -⟩ := List.getElem?_eq_some_iff.1 slot
    rw [if_pos rfl]
    refine (List.getElem?_set_self hi).trans ?_
    rw [slot]
    rfl
  · rw [if_neg here]
    exact (List.getElem?_set_ne (Ne.symm here)).trans slot

theorem Slot.purgedIf_purgedIf (m : Slot) (c e : Prop) [Decidable c] [Decidable e] :
    (m.purgedIf c).purgedIf e = m.purgedIf (c ∨ e) := by
  unfold Slot.purgedIf
  by_cases hc : c <;> by_cases he : e <;> simp [hc, he]

theorem Slot.purgedIf_congr {c e : Prop} [Decidable c] [Decidable e] (same : c ↔ e) : m.purgedIf c = m.purgedIf e :=
  if_congr same rfl rfl

/-- Slots of a list that pass to PURGE by what a list says of them. -/
theorem Pad.slots_foldl_purge (c : Slot × Nat → Prop) [DecidablePred c] (l : List (Slot × Nat)) :
    ∀ {p : Pad} {m : Slot}, p.slots[i]? = some m →
      (l.foldl (fun p t => if c t then p.purge t.2 else p) p).slots[i]? =
        some (m.purgedIf (∃ t ∈ l, c t ∧ i = t.2)) := by
  induction l with
  | nil =>
    intro p m slot
    simpa [Slot.purgedIf] using slot
  | cons t l ih =>
    intro p m slot
    rw [List.foldl_cons]
    by_cases due : c t
    · rw [if_pos due, ih (Pad.slots_purge slot t.2), Slot.purgedIf_purgedIf]
      exact congrArg some (Slot.purgedIf_congr (by simp [due]))
    · rw [if_neg due, ih slot]
      exact congrArg some (Slot.purgedIf_congr (by simp [due]))

end

/-- A purge leaves of a pad all but tallies and slots. -/
theorem Pad.foldl_purge_eq (c : Slot × Nat → Prop) [DecidablePred c] (l : List (Slot × Nat)) (p : Pad) :
    l.foldl (fun p t => if c t then p.purge t.2 else p) p = { p with
      slots := (l.foldl (fun p t => if c t then p.purge t.2 else p) p).slots
      tallies := (l.foldl (fun p t => if c t then p.purge t.2 else p) p).tallies } := by
  induction l generalizing p with
  | nil => rfl
  | cons t l ih =>
    rw [List.foldl_cons, ih]
    split <;> rfl

section
variable {s : State} {d i : Nat} {m : Slot}

/-! ### Release by key -/

theorem Pad.slots_releaseKey {p : Pad} (key : Word) (slot : p.slots[i]? = some m) : (p.releaseKey key).slots[i]? =
    some (if m.state = .held ∧ (key = 0 ∨ m.key = key) then { m with state := .purge } else m) := by
  have purged := Pad.slots_foldl_purge (fun t => t.1.state = .held ∧ (key = 0 ∨ t.1.key = key)) p.slots.zipIdx slot
  refine purged.trans (congrArg some (Slot.purgedIf_congr ⟨?_, fun due => ?_⟩))
  · rintro ⟨⟨t, j⟩, mem, due, rfl⟩
    have same : p.slots[i]? = some t := List.mem_zipIdx_iff_getElem?.1 mem
    obtain rfl : m = t := Option.some.inj (slot.symm.trans same)
    exact due
  · exact ⟨(m, i), List.mem_zipIdx_iff_getElem?.2 slot, due, rfl⟩

theorem Pad.mem_releaseKey (p : Pad) (key : Word) : (p.releaseKey key).mem = p.mem := by
  rw [Pad.releaseKey, Pad.foldl_purge_eq fun t => t.1.state = .held ∧ (key = 0 ∨ t.1.key = key)]

theorem State.drum_releaseKey (hd : d < s.drums.length) (key : Word) :
    (s.releaseKey key).drum d = { s.drum d with pad := (s.drum d).pad.releaseKey key } := by
  simp [State.releaseKey, State.drum, hd]

theorem State.drum_releaseKey_reset (hd : ¬ d < s.drums.length) (key : Word) :
    s.drum d = Drum.reset ∧ (s.releaseKey key).drum d = Drum.reset := by
  simp [State.releaseKey, State.drum, hd]

theorem State.releaseKey_slot {key : Word} (slot : (s.drum d).pad.slots[i]? = some m) :
    ((s.releaseKey key).drum d).pad.mem = (s.drum d).pad.mem ∧ ((s.releaseKey key).drum d).pad.slots[i]? =
      some (if m.state = .held ∧ (key = 0 ∨ m.key = key) then { m with state := .purge } else m) := by
  by_cases hd : d < s.drums.length
  · rw [State.drum_releaseKey hd]
    exact ⟨Pad.mem_releaseKey .., Pad.slots_releaseKey key slot⟩
  · obtain ⟨before, after⟩ := State.drum_releaseKey_reset hd key
    rw [before] at slot ⊢
    have free : m = Slot.reset := List.eq_of_mem_replicate (n := 8) (List.mem_of_getElem? slot)
    subst free
    rw [after, slot]
    exact ⟨rfl, rfl⟩

theorem execMetRelease_open {key : Word} (bar : s.boot.bar0 = true) (mode : s.boot.mode ≠ 2) :
    exec (.metRelease key) s = .next (s.releaseKey key) := by
  rw [show exec (.metRelease key) s = execMetRelease key s from rfl, execMetRelease, bar, bne_iff_ne.2 mode]
  rfl

/-! ### The live reserve -/

theorem State.reserveDrum_of_physOf {l : Nat} (phys : s.physOf l = some d) : s.reserveDrum l = some d := by
  rw [State.reserveDrum, phys, Option.some_or]

theorem execLiveReserveApply_eq {l : Nat} {on : Bool} (phys : s.physOf l = some d) (held : (s.drum d).liveHeld = some on) :
    exec (.liveReserveApply l) s = .next (s.changeReserve l d on) := by
  rw [show exec (.liveReserveApply l) s = execLiveReserveApply l s from rfl, execLiveReserveApply,
    State.reserveDrum_of_physOf phys]
  simp only [held]

/-- The slots in the way of a change of the reserve bit. -/
def Pad.inWay (p : Pad) (on : Bool) : List Nat := if on then p.overSave else []

theorem Pad.inWay_nil {p : Pad} {on : Bool} (free : on = false ∨ p.overSave = []) : p.inWay on = [] := by
  rcases free with rfl | none
  · rfl
  · rw [Pad.inWay, none, ite_self]

theorem State.changeReserve_eq (l : Nat) (on : Bool) : s.changeReserve l d on =
    if (s.drum d).hasJob || !((s.drum d).pad.inWay on).isEmpty then
      (s.modDrum d fun y => { y with liveHeld := some on }).modPad d fun p =>
        ((s.drum d).pad.inWay on).foldl Pad.purgeIfHeld p
    else s.setReserve l d on := rfl

theorem State.liveHeld_fixed {on : Bool} (held : (s.drum d).liveHeld = some on) :
    (s.modDrum d fun y => { y with liveHeld := some on }) = s := by
  refine State.modDrum_fixed ?_
  rw [← held]

/-- A drum that holds a job keeps its held change. -/
theorem State.changeReserve_waits {l : Nat} {on : Bool} (held : (s.drum d).liveHeld = some on)
    (job : (s.drum d).hasJob = true) (free : on = false ∨ (s.drum d).pad.overSave = []) : s.changeReserve l d on = s := by
  rw [State.changeReserve_eq, job, Bool.true_or, if_pos rfl, State.liveHeld_fixed held, Pad.inWay_nil free]
  exact State.modDrum_fixed rfl

theorem State.changeReserve_gives {l : Nat} (held : (s.drum d).liveHeld = some true) (high : (s.drum d).pad.overSave ≠ []) :
    s.changeReserve l d true = s.modPad d fun p => (s.drum d).pad.overSave.foldl Pad.purgeIfHeld p := by
  have some_ : ((s.drum d).pad.inWay true).isEmpty = false := List.isEmpty_eq_false_iff.2 high
  rw [State.changeReserve_eq, some_, Bool.not_false, Bool.or_true, if_pos rfl, State.liveHeld_fixed held]
  rfl

theorem State.changeReserve_joins {l : Nat} {on : Bool} (job : (s.drum d).hasJob = false)
    (free : on = false ∨ (s.drum d).pad.overSave = []) : s.changeReserve l d on = s.setReserve l d on := by
  rw [State.changeReserve_eq, job, Pad.inWay_nil free]
  rfl

/-- HELD slots of a list pass to PURGE, and nothing else of the slots changes. -/
theorem Pad.slots_purgeIfHeld {p : Pad} (slot : p.slots[i]? = some m) (k : Nat) :
    (p.purgeIfHeld k).slots[i]? = some (m.purgedIf (i = k ∧ m.state = .held)) := by
  unfold Pad.purgeIfHeld
  by_cases here : i = k
  · subst here
    rw [slot, Option.getD_some]
    split
    · next held =>
      rw [Pad.slots_purge slot]
      exact congrArg some (Slot.purgedIf_congr (by simp [held]))
    · next other =>
      rw [slot, Slot.purgedIf, if_neg fun c => other c.2]
  · have stays : m.purgedIf (i = k ∧ m.state = .held) = m := if_neg fun c => here c.1
    rw [stays]
    split
    · rw [Pad.slots_purge slot, Slot.purgedIf, if_neg here]
    · exact slot

theorem Slot.purgedIf_held (m : Slot) (c : Prop) [Decidable c] :
    (m.purgedIf (c ∧ m.state = .held)).state = .held ↔ ¬ c ∧ m.state = .held := by
  unfold Slot.purgedIf
  by_cases hc : c <;> by_cases held : m.state = .held <;> simp [hc, held]

theorem Pad.slots_foldl_purgeIfHeld (l : List Nat) : ∀ {p : Pad} {m : Slot}, p.slots[i]? = some m →
    (l.foldl Pad.purgeIfHeld p).slots[i]? = some (m.purgedIf (i ∈ l ∧ m.state = .held)) := by
  induction l with
  | nil =>
    intro p m slot
    simpa [Slot.purgedIf] using slot
  | cons k l ih =>
    intro p m slot
    rw [List.foldl_cons, ih (Pad.slots_purgeIfHeld slot k), Slot.purgedIf_purgedIf]
    refine congrArg some (Slot.purgedIf_congr ?_)
    rw [Slot.purgedIf_held, List.mem_cons]
    tauto

theorem Pad.foldl_purgeIfHeld_eq (l : List Nat) (p : Pad) : l.foldl Pad.purgeIfHeld p =
    { p with slots := (l.foldl Pad.purgeIfHeld p).slots, tallies := (l.foldl Pad.purgeIfHeld p).tallies } := by
  induction l generalizing p with
  | nil => rfl
  | cons k l ih =>
    rw [List.foldl_cons, ih]
    unfold Pad.purgeIfHeld
    split <;> rfl

theorem Pad.saveEn_foldl_purgeIfHeld (l : List Nat) (p : Pad) : (l.foldl Pad.purgeIfHeld p).saveEn = p.saveEn := by
  rw [Pad.foldl_purgeIfHeld_eq]

theorem Pad.mem_foldl_purgeIfHeld (l : List Nat) (p : Pad) : (l.foldl Pad.purgeIfHeld p).mem = p.mem := by
  rw [Pad.foldl_purgeIfHeld_eq]

theorem Pad.mem_overSave {p : Pad} (hi : i < 8) (slot : p.slots[i]? = some m) :
    i ∈ p.overSave ↔ m.state ≠ .free ∧ 46 < m.bound := by
  simp [Pad.overSave, hi, slot]

theorem Pad.slots_givesUp {p : Pad} (hi : i < 8) (slot : p.slots[i]? = some m) : (p.overSave.foldl Pad.purgeIfHeld p).slots[i]? =
    some (if m.state = .held ∧ 46 < m.bound then { m with state := .purge } else m) := by
  refine (Pad.slots_foldl_purgeIfHeld p.overSave slot).trans (congrArg some (Slot.purgedIf_congr ?_))
  rw [Pad.mem_overSave hi slot]
  constructor
  · exact fun ⟨⟨_, high⟩, held⟩ => ⟨held, high⟩
  · exact fun ⟨held, high⟩ => ⟨⟨fun free => (nomatch held.symm.trans free), high⟩, held⟩

theorem State.getLsbD_setReserve {l : Nat} (hl : l < 128) (d : Nat) (on : Bool) (b : Nat) :
    (s.setReserve l d on).met.mask.getLsbD b = if b = l then on else s.met.mask.getLsbD b := by
  have bit : (BitVec.ofNat 128 (2 ^ l)).getLsbD b = decide (b = l) := by
    rw [BitVec.getLsbD_ofNat, Nat.testBit_two_pow]
    by_cases here : b = l
    · simp [here, hl]
    · simp [here, Ne.symm here]
  cases on
  · have mask : (s.setReserve l d false).met.mask = s.met.mask &&& ~~~(BitVec.ofNat 128 (2 ^ l)) := rfl
    rw [mask, BitVec.getLsbD_and, BitVec.getLsbD_not, bit]
    by_cases here : b = l
    · simp [here]
    · by_cases inside : b < 128
      · simp [here, inside]
      · simp [here, BitVec.getLsbD_of_ge _ _ (Nat.not_lt.1 inside)]
  · have mask : (s.setReserve l d true).met.mask = s.met.mask ||| BitVec.ofNat 128 (2 ^ l) := rfl
    rw [mask, BitVec.getLsbD_or, bit]
    by_cases here : b = l
    · simp [here]
    · simp [here]

theorem State.drum_setReserve (hd : d < s.drums.length) (l : Nat) (on : Bool) : (s.setReserve l d on).drum d =
    { s.drum d with liveHeld := none, pad := { (s.drum d).pad with saveEn := on } } :=
  State.drum_modDrum (s.modMet _) hd fun x => { x with liveHeld := none, pad := { x.pad with saveEn := on } }

theorem State.drum_setReserve_ne {e : Nat} (other : e ≠ d) (l : Nat) (on : Bool) : (s.setReserve l d on).drum e = s.drum e :=
  State.drum_modDrum_ne (s.modMet _) other _

end

/-! ### O16 -/

/-- Settles O16: each event changes the pad, or the place of its slots, in the one way that its rule gives. -/
theorem padEventsAndSlots : Obligations.PadEventsAndSlots := by
  constructor
  · intro s d hd kept x
    have length := kept.drum_lt hd
    refine ⟨fun map => ?_, fun word outside => ?_, fun word r inside run skin row free => ?_, fun word inside free => ?_,
      fun bank on off low awake late => ?_, fun bank awake early => ?_, fun bank waking none due => ?_⟩
    · have drum : (s.modDrum d Drum.cleared).drum d = x.cleared := s.drum_modDrum length _
      refine ⟨_, execShellClearDone_still hd kept map, onlyDrum_modDrum s d _, ?_⟩
      rw [drum]
      refine ⟨rfl, x.pad.releaseEnded_ending, ?_, ?_, rfl⟩
      · rw [Drum.cleared, Pad.releaseEnded_eq]
        exact List.length_map ..
      · rw [Drum.cleared, Pad.releaseEnded_eq]
    · exact ⟨_, execPadReread_passes hd word outside, onlyDrum_modDrum s d _, s.drum_modPad length (·.rereadAt word)⟩
    · obtain ⟨latched, drum⟩ := State.parityFault_inside length run skin row free
      refine ⟨_, execPadReread_fails hd kept inside false, latched, ?_⟩
      rw [drum]
      exact ⟨rfl, Pad.mem_refail .., rfl, rfl⟩
    · obtain ⟨latched, drum⟩ := State.parityFault_outside (word := word) length free
      refine ⟨_, execPadReread_fails hd kept inside true, latched, ?_⟩
      rw [drum]
      exact ⟨Pad.mem_refail .., rfl⟩
    · obtain ⟨t, next, frame, drum⟩ := execBankGate_gates hd kept ⟨on, off, low, awake, late⟩
      refine ⟨t, next, frame, ?_⟩
      rw [drum]
      exact ⟨Pad.bank_gate .., rfl⟩
    · exact execBankGate_waits hd kept fun ⟨_, _, _, _, late⟩ => Nat.not_le.2 early late
    · refine ⟨_, execBankWakeEnd_wakes hd kept waking none due, onlyDrum_modDrum s d _, ?_⟩
      obtain ⟨pad, -⟩ := kept.drum d
      rw [s.drum_modPad length]
      exact ⟨Pad.bank_wakeBank pad bank, rfl⟩
  · intro s kept heads
    refine ⟨fun d k m hd hk slot due next => ?_, fun d k hd other => ?_, fun d hd dirty next ended => ?_, fun key open_ mode => ?_,
      fun l d on hl phys held => ?_⟩
    · have damp := Pad.dampSlot_slot (beat := s.beat) (serial := s.met.heldSerial + 1) hk slot due next
      refine ⟨_, execDamperFinish_changes hd heads damp (dampSlot_changes slot due), rfl,
        fun e other => State.drum_dampedTo_ne other _, ?_⟩
      rw [State.drum_dampedTo (kept.drum_lt hd)]
      exact ⟨fun a => Pad.getByte_zeroBlocks .., rfl, Pad.damped_zeroBlocks .., Pad.tallies_zeroBlocks ..⟩
    · exact execDamperFinish_same hd (Pad.dampSlot_other other)
    · have damp := Pad.dampSlot_save (beat := s.beat) (serial := s.met.heldSerial + 1) dirty next ended
      refine ⟨_, execDamperFinish_changes hd heads damp fun same => ?_, ?_⟩
      · rw [← same] at dirty
        cases dirty
      · rw [State.drum_dampedTo (kept.drum_lt hd)]
        exact ⟨rfl, Pad.getByte_zeroBlocks (s.drum d).pad s.beat 46 64, Pad.slots_zeroBlocks (s.drum d).pad s.beat 46 64⟩
    · refine ⟨_, execMetRelease_open open_ mode, rfl, fun d k m slot => ?_⟩
      exact State.releaseKey_slot slot
    · have hd := kept.drum_lt (State.lt_of_physOf phys)
      have next := execLiveReserveApply_eq phys held
      refine ⟨fun job free => ?_, fun join high => ?_, fun job free => ?_⟩
      · rw [next, State.changeReserve_waits held job free]
      · subst join
        refine ⟨_, next, ?_⟩
        rw [State.changeReserve_gives held high, s.drum_modPad hd]
        exact ⟨rfl, Pad.saveEn_foldl_purgeIfHeld .., held, Pad.mem_foldl_purgeIfHeld ..,
          fun k m hk slot => Pad.slots_givesUp hk slot⟩
      · refine ⟨_, next, ?_⟩
        rw [State.changeReserve_joins job free]
        exact ⟨State.getLsbD_setReserve hl d on, State.drum_setReserve hd l on, fun e other => State.drum_setReserve_ne other l on⟩

end Sys2Proof.Machine
end

section
/-! An instruction handed to a unit of a drum whose units are still: the unit takes it up, unless something that the drum has
not finished holds it (R150), and a fault ends it there (R152). -/

namespace Sys2Proof.Machine

set_option Elab.async false

section
variable {x : Drum}

theorem Drum.still.unitsRest (h : x.still) : x.unitsRest := by
  obtain ⟨jobs, load, cur, -, -, queues, roll, tuner, -⟩ := h
  exact ⟨jobs, load, cur, queues, roll, tuner⟩

theorem Drum.still.sound (h : x.still) : x.pad.failed = [] := by
  obtain ⟨-, -, -, -, -, -, -, -, -, -, sound⟩ := h
  exact sound

theorem Drum.unitsRest.congr {y : Drum} (h : x.unitsRest) (same : y = { x with seq := y.seq, pad := y.pad, shell := y.shell }) :
    y.unitsRest := by
  rw [same]
  exact h

/-- An instruction that faults leaves units at rest. -/
theorem Drum.unitsRest.dropped (h : x.unitsRest) (o : Nat) (q : Seq) : ({ x.dropOrd o with seq := q } : Drum).unitsRest := by
  obtain ⟨jobs, load, cur, queues, roll, tuner⟩ := h
  exact ⟨by simp only [Drum.dropOrd, jobs, List.filter_nil], load, cur, queues,
    by simp only [Drum.dropOrd, roll, Option.filter_none], by simp only [Drum.dropOrd, tuner, Option.filter_none]⟩

end

section
variable {s u : State} {d : Nat} {w : Quad} {r : RunId} {par : Bool}

/-- A fault of an instruction in its unit, where the other units rest: the record latches, the sequencer stops, and the pad
and the shell are as they were. -/
theorem State.unitFault_ends (hu : d < u.drums.length) (run : (u.drum d).seq.run = some r) (free : (u.fault d).valid = false)
    (rests : (u.drum d).unitsRest) (o f n : Nat) :
    let t := unitsGo d n (u.unitFault d o [f])
    t.latched d f (some r.job) u.beat ∧ (t.drum d).seq.stopped = true ∧ (t.drum d).pad = (u.drum d).pad ∧
      (t.drum d).shell = (u.drum d).shell := by
  obtain ⟨latched, drum⟩ := State.unitFault_latches hu run free o f
  have after : ((u.unitFault d o [f]).drum d).unitsRest := by
    rw [drum]
    exact rests.dropped o _
  have ⟨jobs, _, cur, _⟩ := after
  simp only [unitsGo_idle after.others cur (.inl jobs)]
  refine ⟨latched, ?_⟩
  rw [drum]
  exact ⟨rfl, rfl, rfl⟩

/-! ### The hand-over -/

/-- The state with the instruction w handed to a unit of drum d. -/
def State.handed (s : State) (d : Nat) (k : UnitId) (w : Quad) (par : Bool) : State :=
  ((s.fetched d).took d 1 w).modDrum d fun y => y.setQueue k (y.queues.get k ++ [(s.drum d).newJob w par])

theorem State.handed_drum (offers : s.offers d w) (queues : (s.drum d).queues = ⟨[], [], [], []⟩) (k : UnitId) :
    (s.handed d k w par).drum d = { s.drum d with
      seq := ((s.drum d).fetched s.beat).seq.took 1 w, pad := ((s.drum d).fetched s.beat).pad
      queues := (⟨[], [], [], []⟩ : Queues).put k [(s.drum d).newJob w par] } := by
  have ⟨_, hl, _⟩ := offers
  have queues' : ((s.drum d).fetched s.beat).queues = ⟨[], [], [], []⟩ := by
    rw [Drum.fetched, fillLine_queues]
    exact queues
  have nothing : (⟨[], [], [], []⟩ : Queues).get k = [] := by cases k <;> rfl
  rw [State.handed, State.drum_modDrum _ (by rwa [State.took_length, fetched_length]),
    drum_took (by rwa [fetched_length]), drum_fetched hl, Drum.setQueue, queues', nothing,
    (fetched_filled (s.drum d) s.beat).same]
  rfl

/-- A word without a fault of encoding is handed to its unit, whose queue is empty. -/
theorem issueTo_hands (offers : s.offers d w) (queues : (s.drum d).queues = ⟨[], [], [], []⟩) (k : UnitId)
    {bad : Quad → Bool} (good : bad w = false) (more : State → UnitJob → List Nat) :
    issueTo d k par bad more w s (s.fetched d) = (s.handed d k w par).unitsRun d := by
  have ⟨_, hl, _⟩ := offers
  have room : ¬ 2 ≤ (((s.fetched d).drum d).queues.get k).length := by
    rw [drum_fetched hl, Drum.fetched, fillLine_queues, queues]
    cases k <;> decide
  simp only [issueTo, if_neg room, good, Bool.false_eq_true, if_false]
  rw [drum_fetched hl, newJob_fetched]
  rfl

theorem onlyDrum_handed (s : State) (d : Nat) (k : UnitId) (w : Quad) (par : Bool) : OnlyDrum d s (s.handed d k w par) :=
  (onlyDrum_fetched s d).trans ((onlyDrum_took _ d 1 w).trans (onlyDrum_modDrum _ d _))

/-- The drum with the instruction off its unit's queue again. -/
theorem State.handed_taken (offers : s.offers d w) (queues : (s.drum d).queues = ⟨[], [], [], []⟩) (k : UnitId) :
    OnlyDrum d s ((s.handed d k w par).takeFront d k) ∧
    Taken w (s.drum d) (((s.handed d k w par).takeFront d k).drum d) := by
  have ⟨_, hl, _, reissue, _⟩ := offers
  have filled := fetched_filled (s.drum d) s.beat
  have only := onlyDrum_handed s d k w par
  have emptied : ((⟨[], [], [], []⟩ : Queues).put k [(s.drum d).newJob w par]).put k
      (((⟨[], [], [], []⟩ : Queues).put k [(s.drum d).newJob w par]).get k).tail = ⟨[], [], [], []⟩ := by cases k <;> rfl
  have drum : ((s.handed d k w par).takeFront d k).drum d = { s.drum d with
      seq := ((s.drum d).fetched s.beat).seq.took 1 w, pad := ((s.drum d).fetched s.beat).pad } := by
    rw [State.takeFront, State.drum_modDrum _ (only.drum_lt hl), State.handed_drum offers queues, Drum.setQueue]
    exact congrArg (fun l => ({ s.drum d with seq := _, pad := _, queues := l } : Drum)) (emptied.trans queues.symm)
  refine ⟨only.trans (onlyDrum_takeFront _ d k), ?_⟩
  rw [drum]
  refine ⟨filled.moved reissue rfl, ?_, filled.pad, rfl⟩
  rw [took_eq _ _ _ (filled.reissue.trans reissue)]
  exact fillLine_cls ..

/-! ### The take-up -/

/-- The units of a drum that was still: its one instruction is at the front of its queue. -/
theorem State.front_handed (offers : s.offers d w) (still : (s.drum d).still) (k : UnitId) {held : UnitJob → Bool}
    (free : held ((s.drum d).newJob w par) = false) :
    ((s.handed d k w par).drum d).front k held = some ((s.drum d).newJob w par) := by
  obtain ⟨-, -, -, -, -, queues, -, -, -, calm, -⟩ := still
  have calm' : ((s.handed d k w par).drum d).preempting = none := by
    rw [State.handed_drum offers queues]
    exact calm
  have waits : ((s.handed d k w par).drum d).queues.get k = [(s.drum d).newJob w par] := by
    rw [State.handed_drum offers queues]
    cases k <;> rfl
  simp only [Drum.front, calm', waits, free, Option.isSome_none, Bool.false_eq_true, if_false]

/-- The queue of every other unit is empty. -/
theorem State.front_handed_ne (offers : s.offers d w) (queues : (s.drum d).queues = ⟨[], [], [], []⟩) {k l : UnitId}
    (other : l ≠ k) (held : UnitJob → Bool) : ((s.handed d k w par).drum d).front l held = none := by
  refine Drum.front_nil ?_
  rw [State.handed_drum offers queues]
  revert other
  cases k <;> cases l <;> simp [Queues.put, Queues.get]

theorem State.skinStep_handed (offers : s.offers d w) (still : (s.drum d).still) (k : UnitId) :
    (s.handed d k w par).skinStep d = none := by
  obtain ⟨jobs, -, cur, -, -, queues, -⟩ := still
  refine State.skinStep_none ?_ (.inl ?_) <;> rw [State.handed_drum offers queues] <;> assumption

theorem State.tunerStep_handed (offers : s.offers d w) (still : (s.drum d).still) {k : UnitId} (other : UnitId.tuner ≠ k) :
    (s.handed d k w par).tunerStep d = none := by
  have ⟨_, _, _, _, _, queues, _, idle, _⟩ := still
  have idle' : ((s.handed d k w par).drum d).tuner.cur = none := by
    rw [State.handed_drum offers queues]
    exact idle
  simp only [State.tunerStep, idle', State.front_handed_ne offers queues other, Option.map_none]

theorem State.rollStep_handed (offers : s.offers d w) (still : (s.drum d).still) {k : UnitId} (other : UnitId.roll ≠ k) :
    (s.handed d k w par).rollStep d = none := by
  have ⟨_, _, _, _, _, queues, idle, _⟩ := still
  have idle' : ((s.handed d k w par).drum d).roll.cur = none := by
    rw [State.handed_drum offers queues]
    exact idle
  simp only [State.rollStep, idle', State.front_handed_ne offers queues other, Option.map_none]

/-- Units that have an instruction have steps left to do it. -/
theorem State.unitsRun_handed (k : UnitId) (h : (s.handed d k w par).unitStep d = some u) :
    ∃ n, (s.handed d k w par).unitsRun d = unitsGo d n u := by
  obtain ⟨n, fuel⟩ : ∃ n, ((s.handed d k w par).drum d).workLeft = n + 1 :=
    Nat.exists_eq_add_of_le' (Nat.le_trans (by decide : 1 ≤ 8) (Nat.le_add_left ..))
  exact ⟨n, by rw [State.unitsRun, fuel]; exact unitsGo_of_some h n⟩

end

/-! ### What holds an instruction -/

section
variable {s : State} {d : Nat} {w : Quad} {par : Bool}

/-- Nothing holds a FILL or a COPY. -/
theorem Drum.padHeld_handed (offers : s.offers d w) (still : (s.drum d).still) :
    ((s.handed d .pad w par).drum d).padHeld ((s.drum d).newJob w par) = false := by
  obtain ⟨jobs, -, -, -, -, queues, roll, tuner, -⟩ := still
  have reads (o : Nat) : ((s.handed d .pad w par).drum d).unitReads o = 0 := by
    rw [State.handed_drum offers queues]
    simp [Drum.unitReads, Drum.rollsBefore, Queues.put, roll, tuner, orRows]
  have checks (o : Nat) (rows : BitVec 256) (l : Unit → List Range) :
      ((s.handed d .pad w par).drum d).checkHolds o rows l = false := by
    rw [State.handed_drum offers queues]
    simp [Drum.checkHolds, jobs]
  simp [Drum.padHeld, reads, checks]

/-- A ROLL is held by an open bell row only. -/
theorem Drum.rollHeld_handed (offers : s.offers d w) (still : (s.drum d).still)
    (closed : (s.drum d).shell.openRow ((rollW w).rowsFrom 0) = false) :
    ((s.handed d .roll w par).drum d).rollHeld ((s.drum d).newJob w par) = false := by
  obtain ⟨jobs, load, cur, lanes, leaves, queues, roll, -⟩ := still
  have skin (o : Nat) : ((s.handed d .roll w par).drum d).skinWrites o = 0 := by
    rw [State.handed_drum offers queues]
    simp [Drum.skinWrites, Skin.steps, jobs, load, cur, lanes, leaves, orRows]
  have units : ((s.handed d .roll w par).drum d).unitWrites ((s.drum d).newJob w par).ord = 0 := by
    rw [State.handed_drum offers queues]
    simp [Drum.unitWrites, Drum.rollsBefore, Queues.put, roll, orRows]
  have closed' : ((s.handed d .roll w par).drum d).shell.openRow ((rollW w).rowsFrom 0) = false := by
    rw [State.handed_drum offers queues]
    exact closed
  have checks (o : Nat) (rows : BitVec 256) (l : Unit → List Range) :
      ((s.handed d .roll w par).drum d).checkHolds o rows l = false := by
    rw [State.handed_drum offers queues]
    simp [Drum.checkHolds, jobs]
  simp [Drum.rollHeld, Drum.rowsHeld, Drum.newJob_w, skin, units, closed', checks]

/-! ### The units take it up -/

theorem State.unitStep_pad (offers : s.offers d w) (still : (s.drum d).still) :
    (s.handed d .pad w par).unitStep d = some (
      let t := (s.handed d .pad w par).takeFront d .pad
      if isFill w then t.startFill d ((s.drum d).newJob w par) else t.startCopy d ((s.drum d).newJob w par)) := by
  rw [State.unitStep, State.skinStep_handed offers still, State.tunerStep_handed offers still (by decide),
    State.rollStep_handed offers still (by decide), State.padStep,
    State.front_handed offers still .pad (Drum.padHeld_handed offers still)]
  simp only [Option.map_some, Drum.newJob_w]

theorem State.unitStep_roll (offers : s.offers d w) (still : (s.drum d).still)
    (closed : (s.drum d).shell.openRow ((rollW w).rowsFrom 0) = false) :
    (s.handed d .roll w par).unitStep d =
      some (((s.handed d .roll w par).takeFront d .roll).startRoll d ((s.drum d).newJob w par)) := by
  have ⟨_, _, _, _, _, queues, idle, _⟩ := still
  have idle' : ((s.handed d .roll w par).drum d).roll.cur = none := by
    rw [State.handed_drum offers queues]
    exact idle
  rw [State.unitStep, State.skinStep_handed offers still, State.tunerStep_handed offers still (by decide)]
  simp only [State.rollStep, idle']
  rw [State.front_handed offers still .roll (by rw [Drum.rollHeld_handed offers still closed, Bool.and_false]), Option.map_some]

theorem State.unitStep_tuner (offers : s.offers d w) (still : (s.drum d).still)
    (closed : (s.drum d).shell.openRow (tuneW w).rowsRead = false) :
    (s.handed d .tuner w par).unitStep d =
      some (((s.handed d .tuner w par).takeFront d .tuner).startTune d ((s.drum d).newJob w par)) := by
  have ⟨_, _, _, _, _, queues, _, idle, _⟩ := still
  have idle' : ((s.handed d .tuner w par).drum d).tuner.cur = none := by
    rw [State.handed_drum offers queues]
    exact idle
  have free : ((s.handed d .tuner w par).drum d).tuneHeld ((s.drum d).newJob w par) = false :=
    still.takesTune (by rw [State.handed_drum offers queues]; rfl) (by rw [Drum.newJob_w]; exact closed)
  rw [State.unitStep, State.skinStep_handed offers still]
  simp only [State.tunerStep, idle']
  rw [State.front_handed offers still .tuner free, Option.map_some]

end

end Sys2Proof.Machine
end

section
/-! Reserved opcodes, bytes outside the region and words that fail their parity fault the running job (R152-R154, R357): the
settling of O5. -/

namespace Sys2Proof.Machine

set_option Elab.async false

section
variable {s u : State} {d : Nat} {w : Quad} {r : RunId} {q : SkinRow} {rest : List SkinRow}

theorem OnlyDrum.fault (h : OnlyDrum d s u) (n : Nat) : u.fault n = s.fault n := by
  rw [h.1]
  rfl

theorem OnlyDrum.beat (h : OnlyDrum d s u) : u.beat = s.beat := by rw [h.1]

/-! ### Reserved opcodes -/

/-- Whichever row meets a word of a reserved opcode, it is taken and faults. -/
theorem exec_reserved (offers : s.offers d w) (reserved : opcodes.contains (opcode w) = false) (par : Bool) :
    ∀ i ∈ [Instr.strike d, .tap d par, .check d par, .narrow d par, .rollScale d par, .fill d, .copy d, .send d, .wait d,
      .fence d, .endRun d], exec i s = .next (((s.fetched d).took d 1 w).drumFault d 0x01) := by
  have meets (opc : Nat) (fits : Quad → Bool) (run : Quad → State → State → State) :
      onDrum d s (fun s => s.issue d opc fits run) = .next (((s.fetched d).took d 1 w).drumFault d 0x01) :=
    (onDrum_eq offers.1 _).trans (congrArg _ (issue_reserved offers reserved opc fits run))
  intro i hi
  simp only [List.mem_cons, List.not_mem_nil, or_false] at hi
  rcases hi with rfl | rfl | rfl | rfl | rfl | rfl | rfl | rfl | rfl | rfl | rfl
  all_goals exact meets _ _ _

theorem fetched_took_taken (offers : s.offers d w) :
    OnlyDrum d s ((s.fetched d).took d 1 w) ∧ Taken w (s.drum d) (((s.fetched d).took d 1 w).drum d) := by
  have ⟨_, hl, _, reissue, _⟩ := offers
  have filled := fetched_filled (s.drum d) s.beat
  refine ⟨(onlyDrum_fetched s d).trans (onlyDrum_took _ d 1 w), ?_⟩
  rw [drum_took (by rwa [fetched_length]), drum_fetched hl]
  refine ⟨filled.moved reissue rfl, ?_, filled.pad, ?_⟩
  · rw [took_eq _ _ _ (filled.reissue.trans reissue)]
    exact fillLine_cls ..
  · rw [filled.same]

/-! ### Bytes outside the region -/

theorem State.regionFault_outside {l : List Range} (outside : (s.drum d).regionOk l = false) : s.regionFault d l =
    [if ∃ g ∈ l, g.len ≠ 0 ∧ 4194304 < (s.drum d).abs g.off + g.len then 0x61 else 0x60] := by
  have past : (l.any fun g => decide (g.len ≠ 0) && decide (4194304 < (s.drum d).abs g.off + g.len)) = true ↔
      ∃ g ∈ l, g.len ≠ 0 ∧ 4194304 < (s.drum d).abs g.off + g.len := by
    simp only [List.any_eq_true, Bool.and_eq_true, decide_eq_true_eq]
  simp only [State.regionFault, outside, Bool.false_eq_true, if_false, past]
  split <;> rfl

theorem State.regionFault_taken (taken : Taken w (s.drum d) (u.drum d)) (l : List Range) :
    u.regionFault d l = s.regionFault d l := by
  simp only [State.regionFault, taken.regionOk, taken.abs]

/-- A fault of an instruction that its unit has taken from its queue, where of the units only what the roll unit notes of its
last ROLL differs. -/
theorem State.unitFault_taken (offers : s.offers d w) (still : (s.drum d).still) (run : (s.drum d).seq.run = some r)
    (free : (s.fault d).valid = false) (only : OnlyDrum d s u) {y : Drum} {k : Roll} (taken : Taken w (s.drum d) y)
    (drum : u.drum d = { y with roll := k }) (idle : k.cur = y.roll.cur) (o f n : Nat) :
    let t := unitsGo d n (u.unitFault d o [f])
    t.latched d f (some r.job) s.beat ∧ (t.drum d).seq.stopped = true ∧ SamePad (s.drum d).pad (t.drum d).pad ∧
      (t.drum d).shell = (s.drum d).shell := by
  have ⟨_, hl, _⟩ := offers
  have rests : (u.drum d).unitsRest := by
    obtain ⟨jobs, load, cur, queues, roll, tuner⟩ := (taken.still still).unitsRest
    rw [drum]
    exact ⟨jobs, load, cur, queues, idle.trans roll, tuner⟩
  obtain ⟨latched, stopped, pad, shell⟩ := State.unitFault_ends (only.drum_lt hl) (by rw [drum]; exact taken.run.trans run)
    (by rw [only.fault]; exact free) rests o f n
  rw [only.beat] at latched
  rw [drum] at pad shell
  exact ⟨latched, stopped, by rw [pad]; exact taken.pad, shell.trans taken.shell⟩

theorem State.startFill_outside {j : UnitJob} {f : Nat} (faults : s.regionFault d (fillW j.w).ranges = [f]) :
    s.startFill d j = s.unitFault d j.ord [f] := by
  simp only [State.startFill, faults, List.isEmpty_cons, Bool.not_false, if_true]

theorem State.startCopy_outside {j : UnitJob} {f : Nat}
    (faults : s.regionFault d ((copyW j.w).readRanges ++ (copyW j.w).writeRanges) = [f]) :
    s.startCopy d j = s.unitFault d j.ord [f] := by
  simp only [State.startCopy, faults, List.isEmpty_cons, Bool.not_false, if_true]

/-- The pad engine begins the instruction that it is handed at once. -/
theorem State.pad_starts (offers : s.offers d w) (still : (s.drum d).still) :
    ∃ u n, (s.handed d .pad w true).unitsRun d = unitsGo d n (if isFill w then u.startFill d ((s.drum d).newJob w true)
        else u.startCopy d ((s.drum d).newJob w true)) ∧ OnlyDrum d s u ∧ Taken w (s.drum d) (u.drum d) := by
  have ⟨_, _, _, _, _, queues, _⟩ := still
  obtain ⟨n, runs⟩ := State.unitsRun_handed .pad (State.unitStep_pad (par := true) offers still)
  exact ⟨_, n, runs, State.handed_taken offers queues .pad⟩

theorem exec_fill_starts (offers : s.offers d w) (still : (s.drum d).still) (op : opcode w = 0x40)
    (good : (fillW w).bad = false) :
    ∃ u n, exec (.fill d) s = .next (unitsGo d n (u.startFill d ((s.drum d).newJob w true))) ∧ OnlyDrum d s u ∧
      Taken w (s.drum d) (u.drum d) := by
  have ⟨_, _, _, _, _, queues, _⟩ := still
  obtain ⟨u, n, runs, frame⟩ := State.pad_starts offers still
  have next : execFill d s = .next ((s.handed d .pad w true).unitsRun d) := by
    rw [execFill, onDrum_eq offers.1, issue_offered offers (by rw [op]; decide), if_pos ⟨op, rfl⟩,
      issueTo_hands offers queues .pad good]
  rw [runs, if_pos (show isFill w = true from beq_iff_eq.2 op)] at next
  exact ⟨u, n, next, frame⟩

theorem exec_copy_starts (offers : s.offers d w) (still : (s.drum d).still) (op : opcode w = 0x41)
    (good : (copyW w).rsv = 0) :
    ∃ u n, exec (.copy d) s = .next (unitsGo d n (u.startCopy d ((s.drum d).newJob w true))) ∧ OnlyDrum d s u ∧
      Taken w (s.drum d) (u.drum d) := by
  have ⟨_, _, _, _, _, queues, _⟩ := still
  obtain ⟨u, n, runs, frame⟩ := State.pad_starts offers still
  have good' : ((copyW w).rsv != 0) = false := by rw [good]; rfl
  have next : execCopy d s = .next ((s.handed d .pad w true).unitsRun d) := by
    rw [execCopy, onDrum_eq offers.1, issue_offered offers (by rw [op]; decide), if_pos ⟨op, rfl⟩,
      issueTo_hands offers queues .pad good']
  rw [runs, if_neg (by rw [isFill, op]; decide)] at next
  exact ⟨u, n, next, frame⟩

/-! ### Words that fail their parity -/

theorem RollW.faults_taken (q : RollW) (taken : Taken w (s.drum d) (u.drum d)) : q.faults u d = q.faults s d := by
  rw [RollW.faults, State.regionFault_taken taken, RollW.faults]

/-- A ROLL with rows whose first word fails its parity ends before its first row. -/
theorem State.startRoll_lost {x : Drum} {j : UnitJob} (hu : d < u.drums.length) (taken : Taken w x (u.drum d))
    (sound : x.pad.failed = []) (word : j.w = w) (par : j.par = false) (faults : (rollW w).faults u d = [])
    (rows : (rollW w).m ≠ 0) (columns : (rollW w).n ≠ 0) :
    ∃ v y k, u.startRoll d j = v.unitFault d j.ord [0x72] ∧ OnlyDrum d u v ∧ Taken w x y ∧ v.drum d = { y with roll := k } ∧
      k.cur = y.roll.cur := by
  let a := (u.access d (rollW w).readRanges).access d (rollW w).writeRanges
  have ha : d < a.drums.length := by rwa [State.access_length, u.access_length]
  have taken' : Taken w x (a.drum d) := (taken.access hu _).access (by rwa [u.access_length]) _
  have only : OnlyDrum d u a := (onlyDrum_access u d _).trans (onlyDrum_access _ d _)
  let f (k : Roll) : Roll := { k with func := BitVec.ofNat 8 (rollW w).func, row := 0 }
  refine ⟨a.modRoll d f, a.drum d, f (a.drum d).roll, ?_, only.trans (onlyDrum_modDrum a d _), taken', a.drum_modRoll ha f, rfl⟩
  have reads := Drum.readFails_eq_false (taken'.pad.failed.trans sound) (rollW w).tableReads
  subst word
  simp only [State.startRoll, faults, List.isEmpty_nil, Bool.not_true, Bool.false_eq_true, if_false, State.reading, a, reads,
    State.checked, par, rows, columns, or_self, Bool.or_self]
  rfl

/-- A ROLL of one function, whose first word fails its parity. -/
theorem State.roll_lost (offers : s.offers d w) (still : (s.drum d).still) (run : (s.drum d).seq.run = some r)
    (free : (s.fault d).valid = false) (op : opcode w = 0x30) (good : (rollW w).instrBad = false)
    (closed : (s.drum d).shell.openRow ((rollW w).rowsFrom 0) = false) (faults : (rollW w).faults s d = [])
    (rows : (rollW w).m ≠ 0) (columns : (rollW w).n ≠ 0) {func : Nat} (kind : (rollW w).func = func) :
    let t := s.roll d func false
    t.latched d 0x72 (some r.job) s.beat ∧ (t.drum d).seq.stopped = true ∧ SamePad (s.drum d).pad (t.drum d).pad ∧
      (t.drum d).shell = (s.drum d).shell := by
  have ⟨_, hl, _⟩ := offers
  have ⟨_, _, _, _, _, queues, _⟩ := still
  obtain ⟨only, taken⟩ := State.handed_taken (par := false) offers queues .roll
  obtain ⟨v, y, k, lost, only', taken', drum, idle⟩ := State.startRoll_lost (only.drum_lt hl) taken still.sound
    (Drum.newJob_w ..) (Drum.newJob_par ..) ((RollW.faults_taken _ taken).trans faults) rows columns
  obtain ⟨n, runs⟩ := State.unitsRun_handed .roll (State.unitStep_roll (par := false) offers still closed)
  have fits : ((rollW w).func == func || !rollFuncs.contains (rollW w).func) = true := by
    rw [kind, beq_self_eq_true, Bool.true_or]
  rw [State.roll, issue_offered offers (by rw [op]; decide), if_pos ⟨op, fits⟩, issueTo_hands offers queues .roll good, runs,
    lost]
  exact State.unitFault_taken offers still run free (only.trans only') taken' drum idle ..

theorem TuneW.rowsRead_qsave {q : TuneW} (op : q.op = 7) : q.rowsRead = 0 := by simp [TuneW.rowsRead, op]

/-- A QSAVE of a valid record, a word of which fails its parity, ends before it writes. -/
theorem State.startTune_lost {x : Drum} {j : UnitJob} (hu : d < u.drums.length) (taken : Taken w x (u.drum d))
    (sound : x.pad.failed = []) (run : x.seq.run = some r) (word : j.w = w) (par : j.par = false) (op : (tuneW w).op = 7)
    (faults : (tuneW w).faults u d r = []) (valid : (x.tuner.recAt (tuneW w).qid).valid = true) :
    ∃ v, u.startTune d j = v.unitFault d j.ord [0x72] ∧ OnlyDrum d u v ∧ Taken w x (v.drum d) := by
  let a := (u.access d ((tuneW w).readRanges (u.drum d))).access d (tuneW w).writeRanges
  have taken' : Taken w x (a.drum d) := (taken.access hu _).access (by rwa [u.access_length]) _
  refine ⟨a, ?_, (onlyDrum_access u d _).trans (onlyDrum_access _ d _), taken'⟩
  have record : ((a.drum d).tuner.recAt (tuneW w).qid).valid = true := by rw [taken'.tuner, valid]
  subst word
  have whole : j.rowWise = false := by rw [UnitJob.rowWise, TuneW.rowsRead_qsave op, bne_self_eq_false, Bool.and_false]
  simp only [State.startTune, taken.run.trans run, faults, List.isEmpty_nil, Bool.not_true, Bool.false_eq_true, if_false]
  rw [State.readWrite_sound hu (taken.pad.failed.trans sound)]
  simp only [whole, Bool.false_eq_true, if_false, State.runTune, op, State.checked, par]
  exact if_neg (by rw [show (_ : QRec).valid = true from record]; decide)

theorem State.qsave_lost (offers : s.offers d w) (still : (s.drum d).still) (run : (s.drum d).seq.run = some r)
    (free : (s.fault d).valid = false) (opc : opcode w = 0x20) (op : (tuneW w).op = 7) (good : (tuneW w).rsv = false)
    (faults : (tuneW w).faults s d r = []) (valid : ((s.drum d).tuner.recAt (tuneW w).qid).valid = true) :
    let t := s.tune d 7 false
    t.latched d 0x72 (some r.job) s.beat ∧ (t.drum d).seq.stopped = true ∧ SamePad (s.drum d).pad (t.drum d).pad ∧
      (t.drum d).shell = (s.drum d).shell := by
  have ⟨_, hl, _⟩ := offers
  have ⟨_, _, _, _, _, queues, _⟩ := still
  have closed : (s.drum d).shell.openRow (tuneW w).rowsRead = false := by
    rw [TuneW.rowsRead_qsave op]
    simp [Shell.openRow]
  obtain ⟨only, taken⟩ := State.handed_taken (par := false) offers queues .tuner
  obtain ⟨v, lost, only', taken'⟩ := State.startTune_lost (only.drum_lt hl) taken still.sound run (Drum.newJob_w ..)
    (Drum.newJob_par ..) op ((TuneW.faults_congr _ only taken).trans faults) valid
  obtain ⟨n, runs⟩ := State.unitsRun_handed .tuner (State.unitStep_tuner (par := false) offers still closed)
  have fits : ((tuneW w).op == 7 || decide (8 < (tuneW w).op)) = true := by rw [op]; rfl
  rw [State.tune, issue_offered offers (by rw [opc]; decide), if_pos ⟨opc, fits⟩, issueTo_hands offers queues .tuner good, runs,
    lost]
  exact State.unitFault_taken offers still run free (only.trans only') taken' rfl rfl ..

/-- A skin without the strike of order o. -/
def Skin.lostStrike (k : Skin) (o : Nat) : Skin :=
  { k with cur := k.cur.filter fun t => decide (t.ord ≠ o)
           load := k.load.filter fun t => decide (t.ord ≠ o)
           laneQ := k.laneQ.filter fun r => decide (r.step.ord ≠ o) }

/-- A row of the lane queues that fails its parity ends its strike. -/
theorem exec_dequantiseRow_lost (hd : d < 136) (front : (s.drum d).skin.laneQ = q :: rest) (chain : q.step.bell = false) :
    exec (.dequantiseRow d false) s =
      .next (((s.modSkin d (·.lostStrike q.step.ord)).unitFault d q.step.ord [0x72]).unitsRun d) := by
  change execDequantiseRow d false s = _
  rw [execDequantiseRow, onDrum_eq hd]
  simp only [front, chain, Bool.false_and, Bool.false_eq_true, if_false]
  rfl

theorem Drum.unitsRest.lostStrike {x : Drum} (h : x.unitsRest) (o : Nat) :
    ({ x with skin := x.skin.lostStrike o } : Drum).unitsRest := by
  obtain ⟨jobs, load, cur, queues, roll, tuner⟩ := h
  exact ⟨jobs, by simp only [Skin.lostStrike, load, Option.filter_none],
    by simp only [Skin.lostStrike, cur, Option.filter_none], queues, roll, tuner⟩

end

/-- Settles O5: a reserved opcode faults at issue, a byte outside the region when the pad engine begins, and a word that
fails its parity once the unit has begun and before it writes. -/
theorem reservedOpcodesRegionsAndParityFault : Obligations.ReservedOpcodesRegionsAndParityFault := by
  refine ⟨?_, ?_, ?_⟩
  · intro s d w r offers reserved run free par i hi
    obtain ⟨only, taken⟩ := fetched_took_taken offers
    obtain ⟨latched, drum⟩ := State.drumFault_effect (only.drum_lt offers.2.1) (taken.run.trans run)
      (by rw [only.fault]; exact free) 0x01
    obtain ⟨pc, -⟩ := taken.moved
    refine ⟨_, exec_reserved offers reserved par i hi, latched, ?_⟩
    rw [drum]
    exact ⟨rfl, pc, taken.pad, taken.shell⟩
  · intro s d w r offers still run free _ outside
    have word : ((s.drum d).newJob w true).w = w := Drum.newJob_w ..
    refine ⟨fun op good out => ?_, fun op good out => ?_⟩
    · obtain ⟨u, n, next, only, taken⟩ := exec_fill_starts offers still op good
      rw [State.startFill_outside (by rw [word, State.regionFault_taken taken, State.regionFault_outside out])] at next
      exact ⟨_, next, State.unitFault_taken offers still run free only taken rfl rfl ..⟩
    · obtain ⟨u, n, next, only, taken⟩ := exec_copy_starts offers still op good
      rw [State.startCopy_outside (by rw [word, State.regionFault_taken taken, State.regionFault_outside out])] at next
      exact ⟨_, next, State.unitFault_taken offers still run free only taken rfl rfl ..⟩
  · intro s d r kept hd run free x lost
    refine ⟨fun w offers op good still closed faults rows columns p hp kind => ?_,
      fun w offers opc op good still faults valid => ?_, fun q rest rests lanes chain => ?_⟩
    · obtain ⟨latched, stopped, pad, shell⟩ :=
        State.roll_lost offers still run free op good closed faults rows columns kind
      have ends : ∃ t, onDrum d s (fun s => s.roll d p.1 false) = .next t ∧ t.latched d 0x72 (some r.job) s.beat ∧
          (t.drum d).seq.stopped = true ∧ (t.drum d).shell.rows = x.shell.rows ∧ (t.drum d).pad.mem = x.pad.mem :=
        ⟨_, onDrum_eq hd _, latched, stopped, congrArg Shell.rows shell, pad.mem⟩
      simp only [List.mem_cons, List.not_mem_nil, or_false] at hp
      rcases hp with rfl | rfl | rfl | rfl | rfl | rfl | rfl | rfl | rfl
      all_goals exact ends
    · obtain ⟨latched, stopped, pad, shell⟩ := State.qsave_lost offers still run free opc op good faults valid
      exact ⟨_, if_pos hd, latched, stopped, congrArg Shell.rows shell, pad.mem⟩
    · have hl := kept.drum_lt hd
      have drum := s.drum_modSkin hl (·.lostStrike q.step.ord)
      obtain ⟨latched, stopped, pad, shell⟩ := State.unitFault_ends (u := s.modSkin d (·.lostStrike q.step.ord))
        (by rwa [s.modSkin_length]) (by rw [drum]; exact run) free (by rw [drum]; exact rests.lostStrike _) q.step.ord 0x72 _
      rw [drum] at pad shell
      exact ⟨_, exec_dequantiseRow_lost hd lanes chain, latched, stopped, congrArg Shell.rows shell, congrArg Pad.mem pad⟩

end Sys2Proof.Machine
end

section
/-! FILL (R159): what it writes to the pad or to the shell. -/

namespace Sys2Proof.Machine

set_option Elab.async false

/-! ### The bytes of a FILL -/

theorem getElem?_flatMap_const {α : Type} (l : List α) : ∀ {n i : Nat}, i < n * l.length →
    ((List.range n).flatMap fun _ => l)[i]? = l[i % l.length]?
  | 0, i, h => absurd h (by simp)
  | n + 1, i, h => by
    have before : ((List.range n).flatMap fun _ => l).length = n * l.length := by
      simp [List.length_flatMap]
    rw [List.range_succ, List.flatMap_append, List.flatMap_singleton]
    by_cases here : i < n * l.length
    · rw [List.getElem?_append_left (by rwa [before]), getElem?_flatMap_const l here]
    · have last : i = i - n * l.length + n * l.length := by omega
      rw [Nat.succ_mul] at h
      rw [List.getElem?_append_right (by omega), before]
      conv_rhs => rw [last, Nat.add_mul_mod_self_right, Nat.mod_eq_of_lt (by omega)]

/-- The bytes that a FILL writes to the pad. -/
def FillW.bytes (q : FillW) : List Byte := (List.range (4 * q.len)).flatMap fun _ => leBytes 4 q.value.toNat

theorem FillW.bytes_length (q : FillW) : q.bytes.length = 16 * q.len := by
  simp only [FillW.bytes, List.length_flatMap, leBytes_length, List.map_const', List.length_range, List.sum_replicate, smul_eq_mul]
  omega

theorem FillW.bytes_getElem? (q : FillW) {i : Nat} (h : i < 16 * q.len) : q.bytes[i]? = (leBytes 4 q.value.toNat)[i % 4]? := by
  have inside : i < 4 * q.len * (leBytes 4 q.value.toNat).length := by
    rw [leBytes_length]
    omega
  rw [FillW.bytes, getElem?_flatMap_const _ inside, leBytes_length]

theorem Drum.fillPad_eq (x : Drum) (q : FillW) :
    x.fillPad q = { x with pad := x.pad.put (x.abs (16 * q.dst)) q.bytes } := rfl

/-! ### The rows of a FILL -/

/-- A row with a value in its first k columns. -/
def Shell.fillRow (h : Shell) (row k : Nat) (v : Word) : Shell := h.putRow row 0 (List.replicate k v)

/-- Rows from row0 on with a value in every column, and its flags. -/
def Shell.fillRows (h : Shell) (row0 : Nat) (v : Word) (n : Nat) : Shell :=
  loop (fun i h => (h.fillRow (row0 + i) 1024 v).setStatus (row0 + i) (valueFlag v)) n h

theorem Drum.fillShell_eq (x : Drum) (q : FillW) : x.fillShell q =
    ({ x with shell := x.shell.fillRows q.dst q.value q.len } : Drum).noteRows q.dst q.len := rfl

theorem Shell.fillRow_eq_putCols (h : Shell) (row k : Nat) (v : Word) :
    h.fillRow row k v = h.putCols row (List.range' 0 k) fun _ => v := by
  have columns : List.replicate k v = (List.range' 0 k).map fun _ => v := by
    rw [List.map_const', List.length_range']
  rw [Shell.fillRow, columns, Shell.putRow_eq_putCols]

theorem Shell.tstatus_fillRow (h : Shell) (row k : Nat) (v : Word) (r : Nat) : (h.fillRow row k v).tstatus r = h.tstatus r := by
  rw [Shell.fillRow_eq_putCols, Shell.putCols_eq]
  rfl

theorem Shell.shellAt_setStatus (h : Shell) (row : Nat) (f : Word) (r c : Nat) :
    shellAt (h.setStatus row f) r c = shellAt h r c := rfl

theorem Shell.fillRows_succ (h : Shell) (row0 : Nat) (v : Word) (n : Nat) : h.fillRows row0 v (n + 1) =
    ((h.fillRows row0 v n).fillRow (row0 + n) 1024 v).setStatus (row0 + n) (valueFlag v) := rfl

section
variable {h : Shell} (kept : h.Kept) {row0 : Nat} {v : Word}
include kept

theorem Shell.fillRow_kept (row k : Nat) : (h.fillRow row k v).Kept := kept.putRow

theorem Shell.fillRows_kept (n : Nat) : (h.fillRows row0 v n).Kept :=
  Shell.Kept.loop (fun _ _ k => (Shell.fillRow_kept k _ _).setStatus) kept

theorem Shell.shellAt_fillRow {row k i c : Nat} (hc : c < k) (small : k ≤ 1024) :
    shellAt (h.fillRow row k v) i c = if i = row then v else shellAt h i c := by
  obtain ⟨rows, -⟩ := kept
  rw [Shell.fillRow_eq_putCols, Shell.shellAt_putCols (hc.trans_le small) rows fun a ha => by
    have := (List.mem_range'_1.1 ha).2
    omega]
  exact if_congr (and_iff_left (List.mem_range'_1.2 ⟨Nat.zero_le c, by omega⟩)) rfl rfl

theorem Shell.shellAt_fillRows {r c : Nat} (hc : c < 1024) : ∀ n,
    shellAt (h.fillRows row0 v n) r c = if row0 ≤ r ∧ r < row0 + n then v else shellAt h r c
  | 0 => (if_neg fun ⟨lo, hi⟩ => Nat.not_lt.2 lo hi).symm
  | n + 1 => by
    rw [Shell.fillRows_succ, Shell.shellAt_setStatus, Shell.shellAt_fillRow (Shell.fillRows_kept kept n) hc le_rfl,
      Shell.shellAt_fillRows hc n]
    by_cases now : r = row0 + n
    · subst now
      simp
    · rw [if_neg now]
      exact if_congr (by omega) rfl rfl

theorem Shell.tstatus_setStatus (row : Nat) (f : Word) (r : Nat) :
    (h.setStatus row f).tstatus r = if r = row then f else h.tstatus r := by
  obtain ⟨-, statuses⟩ := kept
  by_cases same : r = row
  · subst same
    exact (getCell_putCell statuses r f).trans (if_pos rfl).symm
  · exact (getCell_putCell_ne same).trans (if_neg same).symm

theorem Shell.tstatus_fillRows {r : Nat} : ∀ n,
    (h.fillRows row0 v n).tstatus r = if row0 ≤ r ∧ r < row0 + n then valueFlag v else h.tstatus r
  | 0 => (if_neg fun ⟨lo, hi⟩ => Nat.not_lt.2 lo hi).symm
  | n + 1 => by
    rw [Shell.fillRows_succ, Shell.tstatus_setStatus (Shell.fillRow_kept (Shell.fillRows_kept kept n) _ _),
      Shell.tstatus_fillRow, Shell.tstatus_fillRows n]
    by_cases now : r = row0 + n
    · subst now
      simp
    · rw [if_neg now]
      exact if_congr (by omega) rfl rfl

end

/-! ### The command -/

/-- What a FILL does to its drum. -/
def Drum.filled (x : Drum) (q : FillW) : Drum := if q.shell then x.fillShell q else x.fillPad q

theorem Drum.filled_eq (x : Drum) (q : FillW) :
    x.filled q = { x with seq := (x.filled q).seq, pad := (x.filled q).pad, shell := (x.filled q).shell } := by
  unfold Drum.filled
  split <;> rfl

section
variable {s u : State} {d : Nat} {w : Quad} {x y : Drum}

theorem State.regionFault_inside {l : List Range} (inside : (s.drum d).regionOk l = true) : s.regionFault d l = [] := by
  simp only [State.regionFault, inside, if_true]

theorem Taken.filled_moved (h : Taken w x y) (q : FillW) : Moved x (y.filled q) 1 w := by
  have moved := h.moved
  unfold Drum.filled
  split <;> exact moved

/-- A FILL inside its region notes its access and writes. -/
theorem State.startFill_inside {j : UnitJob} (word : j.w = w) (inside : (u.drum d).regionOk (fillW w).ranges = true) :
    u.startFill d j = (u.reach d (fillW w).ranges).modDrum d (·.filled (fillW w)) := by
  subst word
  simp only [State.startFill, State.regionFault_inside inside, List.isEmpty_nil, Bool.not_true, Bool.false_eq_true, if_false]
  rfl

/-- A FILL of a drum whose units are still, beside what the fetch and the access note. -/
theorem exec_fill_fills (offers : s.offers d w) (still : (s.drum d).still) (op : opcode w = 0x40)
    (good : (fillW w).bad = false) (inside : (s.drum d).regionOk (fillW w).ranges = true) :
    ∃ t y, exec (.fill d) s = .next t ∧ OnlyDrum d s t ∧ Taken w (s.drum d) y ∧ t.drum d = y.filled (fillW w) := by
  have ⟨_, hl, _⟩ := offers
  obtain ⟨u, n, next, only, taken⟩ := exec_fill_starts offers still op good
  rw [State.startFill_inside (Drum.newJob_w ..) ((taken.regionOk _).trans inside)] at next
  have hu := only.drum_lt hl
  let v := u.reach d (fillW w).ranges
  have onlyV : OnlyDrum d s v := only.trans (onlyDrum_reach u d _)
  have takenV : Taken w (s.drum d) (v.drum d) := taken.reach hu _
  have drum : (v.modDrum d (·.filled (fillW w))).drum d = (v.drum d).filled (fillW w) :=
    v.drum_modDrum (onlyV.drum_lt hl) _
  have rests : ((v.modDrum d (·.filled (fillW w))).drum d).unitsRest := by
    rw [drum]
    exact (takenV.still still).unitsRest.congr (Drum.filled_eq ..)
  have ⟨jobs, _, cur, _⟩ := rests
  rw [unitsGo_idle rests.others cur (.inl jobs)] at next
  exact ⟨_, _, next, onlyV.trans (onlyDrum_modDrum v d _), takenV, drum⟩

end

end Sys2Proof.Machine
end

section
/-! COPY (R228): what it writes, and with FILL the settling of O6. -/

namespace Sys2Proof.Machine

set_option Elab.async false

/-! ### Words of a memory -/

/-- A memory with 16-byte words written one after the other, each at its place from a base. -/
def putWords (base : Nat) (l : List (Nat × List Byte)) (m : Memory) : Memory :=
  l.foldl (fun m p => putBytes m (base + 16 * p.1) p.2) m

section
variable {base a : Nat}

theorem getByte_putWords_out : ∀ {l : List (Nat × List Byte)} {m : Memory}, (∀ p ∈ l, p.2.length = 16) →
    (∀ p ∈ l, a < base + 16 * p.1 ∨ base + 16 * p.1 + 16 ≤ a) → getByte (putWords base l m) a = getByte m a
  | [], _, _, _ => rfl
  | p :: l, m, size, apart => by
    have rest : getByte (putWords base (p :: l) m) a = getByte (putBytes m (base + 16 * p.1) p.2) a :=
      getByte_putWords_out (fun k hk => size k (List.mem_cons_of_mem p hk)) fun k hk => apart k (List.mem_cons_of_mem p hk)
    refine rest.trans (getByte_putBytes_out _ ?_)
    rw [size p List.mem_cons_self]
    exact apart p List.mem_cons_self

/-- Of words at different places, each is read as it was written. -/
theorem getByte_putWords_in {b : Nat} (hb : b < 16) : ∀ {l : List (Nat × List Byte)} {m : Memory}, Memory.wf m = true →
    (∀ p ∈ l, p.2.length = 16) → (l.map (·.1)).Nodup → ∀ p ∈ l,
    getByte (putWords base l m) (base + 16 * p.1 + b) = p.2[b]?.getD 0
  | [], _, _, _, _, p, hp => absurd hp List.not_mem_nil
  | k :: l, m, wf, size, apart, p, hp => by
    have size' : ∀ p ∈ l, p.2.length = 16 := fun p hp => size p (List.mem_cons_of_mem k hp)
    obtain ⟨first, rest⟩ := List.nodup_cons.1 apart
    rcases List.mem_cons.1 hp with rfl | later
    · have out : ∀ q ∈ l, base + 16 * p.1 + b < base + 16 * q.1 ∨ base + 16 * q.1 + 16 ≤ base + 16 * p.1 + b := by
        intro q hq
        have other : q.1 ≠ p.1 := fun same => first (List.mem_map.2 ⟨q, hq, same⟩)
        omega
      exact (getByte_putWords_out size' out).trans (getByte_putBytes _ wf (by rwa [size p List.mem_cons_self]))
    · exact getByte_putWords_in hb (putBytes_wf _ _ wf) size' rest p later

end

/-! ### One access set -/

/-- The words that set k of a copy moves: place and bytes. -/
def CopyW.moves (q : CopyW) (x : Drum) (k : Nat) : List (Nat × List Byte) :=
  (List.range (min 64 (q.len * q.rows - 64 * k))).map fun i =>
    ((q.word (64 * k + i)).2, x.padBytes (16 * (q.word (64 * k + i)).1) 16)

/-- The rows that a COPY writes. -/
def CopyW.target (q : CopyW) : List Range := (List.range q.rows).map fun r => ⟨16 * (q.dst + r * q.dstr), 16 * q.len⟩

theorem CopyW.moves_size {q : CopyW} {x : Drum} {k : Nat} : ∀ p ∈ q.moves x k, p.2.length = 16 := by
  intro p hp
  obtain ⟨i, -, rfl⟩ := List.mem_map.1 hp
  exact getBytes_length ..

/-- From x to y bytes of the pad and what its banks note differ. -/
structure Copied (x y : Drum) : Prop where
  same : y = { x with pad := y.pad }
  pad : SamePad { x.pad with mem := y.pad.mem } y.pad

section
variable {x y z : Drum} {q : CopyW}

theorem Copied.refl (x : Drum) : Copied x x := ⟨rfl, .refl _⟩

theorem Copied.ofPad {p : Pad} (h : SamePad { x.pad with mem := p.mem } p) : Copied x { x with pad := p } := ⟨rfl, h⟩

theorem Copied.trans (h : Copied x y) (k : Copied y z) : Copied x z := by
  refine ⟨by rw [k.same, h.same], ?_⟩
  have first := h.pad
  have second := k.pad
  unfold SamePad at *
  rw [second, first]

theorem SamePad.ownMem {p k : Pad} {m : Memory} (h : SamePad { p with mem := m } k) : SamePad { p with mem := k.mem } k := by
  rw [h.mem]
  exact h

theorem Copied.unitsRest (h : Copied x y) (k : x.unitsRest) : y.unitsRest := k.congr (by rw [h.same])

theorem Copied.failed (h : Copied x y) : y.pad.failed = x.pad.failed := h.pad.failed

theorem Copied.abs (h : Copied x y) (off : Nat) : y.abs off = x.abs off := by
  have slot : y.slot = x.slot := Drum.slot_congr (by rw [h.same]) h.pad.slots
  simp only [Drum.abs, slot]

theorem Pad.put_sound {p : Pad} (sound : p.failed = []) (a : Nat) (l : List Byte) :
    p.put a l = { p with mem := putBytes p.mem a l } := by
  cases p
  subst sound
  rfl

/-- Words written one after the other, on a pad whose words pass their parity. -/
theorem Drum.foldl_padPut : ∀ (l : List (Nat × List Byte)) {x : Drum}, x.pad.failed = [] →
    l.foldl (fun x p => x.padPut (16 * p.1) p.2) x =
      { x with pad := { x.pad with mem := putWords (x.abs 0) l x.pad.mem } }
  | [], _, _ => rfl
  | p :: l, x, sound => by
    have put : x.padPut (16 * p.1) p.2 = { x with pad := { x.pad with mem := putBytes x.pad.mem (x.abs 0 + 16 * p.1) p.2 } } := by
      rw [Drum.padPut, Pad.put_sound sound, x.abs_eq]
    rw [List.foldl_cons, put]
    exact Drum.foldl_padPut l (x := { x with pad := { x.pad with mem := putBytes x.pad.mem (x.abs 0 + 16 * p.1) p.2 } }) sound

/-- Conflicts of the sets of a copy's reads and writes. -/
def CopyW.noted (q : CopyW) (x : Drum) (k : Nat) (p : Pad) : Pad :=
  let l := (List.range (min 64 (q.len * q.rows - 64 * k))).map fun i => q.word (64 * k + i)
  (p.countSet (l.map fun p => x.abs 0 / 16 + p.1)).countSet (l.map fun p => x.abs 0 / 16 + p.2)

theorem CopyW.noted_same (q : CopyW) (x : Drum) (k : Nat) (p : Pad) : SamePad p (q.noted x k p) := by
  have reads := countSet_same p
  have writes (l : List Nat) := countSet_same (p.countSet l)
  unfold CopyW.noted
  exact (reads _).trans (writes _ _)

theorem Drum.copySet_eq (sound : x.pad.failed = []) (k : Nat) : x.copySet q k =
    { x with pad := q.noted x k { x.pad with mem := putWords (x.abs 0) (q.moves x k) x.pad.mem } } := by
  let l := (List.range (min 64 (q.len * q.rows - 64 * k))).map fun i => q.word (64 * k + i)
  have zip : l.zip (l.map fun p => x.padBytes (16 * p.1) 16) = l.map fun p => (p, x.padBytes (16 * p.1) 16) := by
    simpa only [List.map_id, id] using List.zip_map' (f := id) (g := fun p => x.padBytes (16 * p.1) 16) (l := l)
  have moved : (l.zip (l.map fun p => x.padBytes (16 * p.1) 16)).foldl (fun x p => x.padPut (16 * p.1.2) p.2) x =
      { x with pad := { x.pad with mem := putWords (x.abs 0) (q.moves x k) x.pad.mem } } := by
    rw [zip, ← Drum.foldl_padPut _ sound, List.foldl_map, List.foldl_map, CopyW.moves, List.foldl_map]
  exact congrArg (fun y : Drum => { y with pad := q.noted x k y.pad }) moved

/-- Set k of a copy writes its words; the banks note its conflicts. -/
theorem Drum.copySet_effect (sound : x.pad.failed = []) (k : Nat) : Copied x (x.copySet q k) ∧
    (x.copySet q k).pad.mem = putWords (x.abs 0) (q.moves x k) x.pad.mem := by
  have noted := q.noted_same x k { x.pad with mem := putWords (x.abs 0) (q.moves x k) x.pad.mem }
  rw [Drum.copySet_eq sound]
  exact ⟨.ofPad noted.ownMem, noted.mem⟩

/-! ### Which bytes a copy writes -/

theorem CopyW.row_lt {i : Nat} (h : i < q.len * q.rows) : i / q.len < q.rows ∧ i % q.len < q.len := by
  have wide : 0 < q.len := Nat.pos_of_mul_pos_right (Nat.zero_lt_of_lt h)
  exact ⟨Nat.div_lt_of_lt_mul h, Nat.mod_lt i wide⟩

/-- The words of a set lie in the rows that the COPY writes. -/
theorem CopyW.moves_inside {base a k : Nat} (out : inRanges base q.target a = false) :
    ∀ p ∈ q.moves x k, a < base + 16 * p.1 ∨ base + 16 * p.1 + 16 ≤ a := by
  intro p hp
  obtain ⟨i, hi, rfl⟩ := List.mem_map.1 hp
  have small : 64 * k + i < q.len * q.rows := by
    have := List.mem_range.1 hi
    omega
  obtain ⟨row, column⟩ := CopyW.row_lt small
  have apart := out
  simp only [inRanges, CopyW.target, List.any_map, List.any_eq_false, List.mem_range] at apart
  have clear := apart _ row
  simp only [Function.comp, decide_eq_true_eq] at clear
  simp only [CopyW.word]
  generalize (64 * k + i) / q.len * q.dstr = step at *
  omega

/-- The sets of a copy leave every byte outside its rows. -/
theorem Drum.copySets_effect (sound : x.pad.failed = []) : ∀ n, Copied x (loop (Drum.copySet q) n x) ∧
    x.Leaves (loop (Drum.copySet q) n x) q.target
  | 0 => ⟨.refl x, .refl x _⟩
  | n + 1 => by
    obtain ⟨copied, leaves⟩ := Drum.copySets_effect sound n
    obtain ⟨next, mem⟩ := Drum.copySet_effect (q := q) (copied.failed.trans sound) n
    refine ⟨copied.trans next, fun a out => ?_⟩
    refine Eq.trans ?_ (leaves a out)
    rw [loop, mem, copied.abs]
    exact getByte_putWords_out CopyW.moves_size (CopyW.moves_inside out)

/-- Rows that do not overlap: different words go to different places. -/
theorem CopyW.word_inj (apart : q.rows = 1 ∨ q.len ≤ q.dstr) {i j : Nat} (hi : i < q.len * q.rows) (hj : j < q.len * q.rows)
    (same : (q.word i).2 = (q.word j).2) : i = j := by
  obtain ⟨rowI, columnI⟩ := CopyW.row_lt hi
  obtain ⟨rowJ, columnJ⟩ := CopyW.row_lt hj
  have place : i / q.len * q.dstr + i % q.len = j / q.len * q.dstr + j % q.len := by
    simp only [CopyW.word] at same
    omega
  have both : i / q.len = j / q.len ∧ i % q.len = j % q.len := by
    rcases apart with one | wide
    · have firstI : i / q.len = 0 := Nat.lt_one_iff.1 (one ▸ rowI)
      have firstJ : j / q.len = 0 := Nat.lt_one_iff.1 (one ▸ rowJ)
      rw [firstI, firstJ] at place
      exact ⟨firstI.trans firstJ.symm, by omega⟩
    · have split (n : Nat) (column : n % q.len < q.len) :
          (n / q.len * q.dstr + n % q.len) / q.dstr = n / q.len := by
        rw [Nat.add_comm, Nat.add_mul_div_right _ _ (by omega), Nat.div_eq_of_lt (by omega), Nat.zero_add]
      have row : i / q.len = j / q.len := by rw [← split i columnI, ← split j columnJ, place]
      rw [row] at place
      exact ⟨row, by omega⟩
  obtain ⟨row, column⟩ := both
  rw [← Nat.div_add_mod i q.len, row, column, Nat.div_add_mod]

/-- A copy of one set whose rows do not overlap: each word holds what its source held. -/
theorem Drum.copySets_one (sound : x.pad.failed = []) (wf : Memory.wf x.pad.mem = true) (one : q.len * q.rows ≤ 64)
    (apart : q.rows = 1 ∨ q.len ≤ q.dstr) {i b : Nat} (hi : i < q.len * q.rows) (hb : b < 16) :
    getByte (loop (Drum.copySet q) (ceilDiv (q.len * q.rows) 64) x).pad.mem (x.abs (16 * (q.word i).2) + b) =
      getByte x.pad.mem (x.abs (16 * (q.word i).1) + b) := by
  have sets : ceilDiv (q.len * q.rows) 64 = 1 := by
    unfold ceilDiv
    omega
  have all : q.moves x 0 = (List.range (q.len * q.rows)).map fun i => ((q.word i).2, x.padBytes (16 * (q.word i).1) 16) := by
    simp only [CopyW.moves, Nat.mul_zero, Nat.zero_add, Nat.sub_zero, Nat.min_eq_right one]
  have places : ((q.moves x 0).map (·.1)).Nodup := by
    rw [all, List.map_map]
    refine List.Nodup.map_on (fun i hi j hj same => ?_) List.nodup_range
    exact CopyW.word_inj apart (List.mem_range.1 hi) (List.mem_range.1 hj) same
  obtain ⟨-, mem⟩ := Drum.copySet_effect (q := q) sound 0
  rw [sets, loop, loop, mem, x.abs_eq (16 * (q.word i).2)]
  have word : ((q.word i).2, x.padBytes (16 * (q.word i).1) 16) ∈ q.moves x 0 := by
    rw [all]
    exact List.mem_map_of_mem (List.mem_range.2 hi)
  refine (getByte_putWords_in hb wf CopyW.moves_size places _ word).trans ?_
  have inside : b < (x.padBytes (16 * (q.word i).1) 16).length := by rwa [Drum.padBytes, getBytes_length]
  rw [List.getElem?_eq_getElem inside, Option.getD_some]
  exact getBytes_getElem ..

end

/-! ### The command -/

section
variable {s u : State} {d : Nat} {w : Quad}

/-- A COPY inside its region notes its accesses and moves its words, where every word of the pad passes its parity. -/
theorem State.startCopy_inside {x : Drum} {j : UnitJob} (hu : d < u.drums.length) (taken : Taken w x (u.drum d))
    (sound : x.pad.failed = []) (word : j.w = w)
    (inside : x.regionOk ((copyW w).readRanges ++ (copyW w).writeRanges) = true) :
    ∃ v, u.startCopy d j = v.modDrum d (loop (Drum.copySet (copyW w)) (ceilDiv ((copyW w).len * (copyW w).rows) 64)) ∧
      OnlyDrum d u v ∧ Taken w x (v.drum d) := by
  have taken' := taken.reach hu (copyW w).readRanges
  have hv : d < (u.reach d (copyW w).readRanges).drums.length := by rwa [State.reach, State.modDrum_length]
  refine ⟨_, ?_, (onlyDrum_reach u d (copyW w).readRanges).trans (onlyDrum_reach _ d (copyW w).writeRanges),
    taken'.reach hv _⟩
  subst word
  have reads := Drum.readFails_eq_false (taken'.pad.failed.trans sound) (copyW j.w).readRanges
  simp only [State.startCopy, State.regionFault_inside ((taken.regionOk _).trans inside), List.isEmpty_nil, Bool.not_true,
    Bool.false_eq_true, if_false, State.reading, reads]

/-- A COPY of a drum whose units are still, beside what the fetch and the accesses note. -/
theorem exec_copy_copies (offers : s.offers d w) (still : (s.drum d).still) (op : opcode w = 0x41) (good : (copyW w).rsv = 0)
    (inside : (s.drum d).regionOk ((copyW w).readRanges ++ (copyW w).writeRanges) = true) :
    ∃ t y, exec (.copy d) s = .next t ∧ OnlyDrum d s t ∧ Taken w (s.drum d) y ∧
      t.drum d = loop (Drum.copySet (copyW w)) (ceilDiv ((copyW w).len * (copyW w).rows) 64) y := by
  have ⟨_, hl, _⟩ := offers
  obtain ⟨u, n, next, only, taken⟩ := exec_copy_starts offers still op good
  obtain ⟨v, copy, only', taken'⟩ := State.startCopy_inside (only.drum_lt hl) taken still.sound (Drum.newJob_w ..) inside
  have onlyV := only.trans only'
  have drum := v.drum_modDrum (onlyV.drum_lt hl) (loop (Drum.copySet (copyW w)) (ceilDiv ((copyW w).len * (copyW w).rows) 64))
  obtain ⟨copied, -⟩ := Drum.copySets_effect (q := copyW w) (taken'.pad.failed.trans still.sound)
    (ceilDiv ((copyW w).len * (copyW w).rows) 64)
  have rests := copied.unitsRest (taken'.still still).unitsRest
  rw [← drum] at rests
  have ⟨jobs, _, cur, _⟩ := rests
  rw [copy, unitsGo_idle rests.others cur (.inl jobs)] at next
  exact ⟨_, _, next, onlyV.trans (onlyDrum_modDrum v d _), taken', drum⟩

/-- The pad after the instruction is taken and its bytes are moved. -/
theorem Taken.copied {x y z : Drum} (h : Taken w x y) (k : Copied y z) : Moved x z 1 w ∧
    z = { x with seq := z.seq, pad := z.pad } ∧ SamePad { x.pad with mem := z.pad.mem } z.pad := by
  have moved := h.moved
  have pad := k.pad
  have fetch := h.pad
  refine ⟨?_, by rw [k.same, h.same], ?_⟩
  · rw [k.same]
    exact moved
  · unfold SamePad at *
    rw [pad, fetch]

end

/-- Settles O6: what FILL and COPY write, each after a fetch that leaves the pad's bytes and the shell. -/
theorem fillAndCopyWriteTheirRanges : Obligations.FillAndCopyWriteTheirRanges := by
  refine ⟨?_, ?_⟩
  · intro s d w kept offers still op good inside
    obtain ⟨t, y, next, only, taken, drum⟩ := exec_fill_fills offers still op good inside
    obtain ⟨⟨wf, -⟩, shellKept⟩ := kept.drum d
    refine ⟨t, next, only, ?_⟩
    rw [drum]
    refine ⟨taken.filled_moved _, by rw [Drum.filled_eq, taken.same], fun pad => ?_, fun shell => ?_⟩
    · have fills : y.filled (fillW w) = y.fillPad (fillW w) := if_neg (by rw [pad]; decide)
      have bytes : (y.fillPad (fillW w)).pad.mem =
          putBytes (s.drum d).pad.mem ((s.drum d).abs (16 * (fillW w).dst)) (fillW w).bytes := by
        rw [Drum.fillPad_eq, taken.abs, ← taken.mem]
        rfl
      have sound : y.pad.failed = [] := taken.pad.failed.trans still.sound
      have copied : Copied y (y.fillPad (fillW w)) := by
        rw [Drum.fillPad_eq, Pad.put_sound sound]
        exact ⟨rfl, .refl _⟩
      obtain ⟨-, -, same⟩ := taken.copied copied
      rw [fills]
      refine ⟨taken.shell, same, fun i hi => ?_, fun b out => ?_⟩
      · rw [bytes, getByte_putBytes _ wf (by rwa [FillW.bytes_length]), FillW.bytes_getElem? _ hi]
      · rw [bytes, getByte_putBytes_out _ (by rwa [FillW.bytes_length])]
    · have fills : y.filled (fillW w) = y.fillShell (fillW w) := if_pos shell
      have rows : (y.fillShell (fillW w)).shell = (s.drum d).shell.fillRows (fillW w).dst (fillW w).value (fillW w).len := by
        rw [Drum.fillShell_eq, taken.shell]
        rfl
      rw [fills, rows]
      exact ⟨taken.pad, fun r c hc => Shell.shellAt_fillRows shellKept hc _, fun r => Shell.tstatus_fillRows shellKept _⟩
  · intro s d w kept offers still sound op good inside q x
    obtain ⟨t, y, next, only, taken, drum⟩ := exec_copy_copies offers still op good inside
    obtain ⟨⟨wf, -⟩, -⟩ := kept.drum d
    have soundY := taken.pad.failed.trans sound
    obtain ⟨copied, leaves⟩ := Drum.copySets_effect (q := q) soundY (ceilDiv (q.len * q.rows) 64)
    obtain ⟨moved, same, pad⟩ := taken.copied copied
    refine ⟨t, next, only, ?_⟩
    rw [drum]
    refine ⟨moved, same, pad, fun a out => ?_, fun one apart i b hi hb => ?_⟩
    · exact (leaves a (by rw [taken.abs]; exact out)).trans (by rw [taken.mem])
    · have copy := Drum.copySets_one soundY (by rw [taken.mem]; exact wf) one apart hi hb
      rw [taken.abs, taken.abs, taken.mem] at copy
      exact copy

end Sys2Proof.Machine
end

section
/-! WAIT, FENCE and END (R160, R232, R256): what they hold, and how they end. -/

namespace Sys2Proof.Machine

set_option Elab.async false

/-! ### Issue held -/

section
variable {x : Drum}

theorem Drum.mayIssue_waiting {q : Waiting} (h : x.seq.waiting = some q) : x.mayIssue = false := by
  simp [Drum.mayIssue, h]

theorem Drum.mayIssue_fencing {f : Fencing} (h : x.seq.fencing = some f) : x.mayIssue = false := by
  simp [Drum.mayIssue, h]

end

section
variable {s : State} {d : Nat} {w : Quad}

/-- The state with the instruction w taken, and the sequencer held as `hold` says. -/
def State.held (s : State) (d : Nat) (w : Quad) (hold : Seq → Seq) : State := ((s.fetched d).took d 1 w).modSeq d hold

/-- A hold that leaves what the sequencer notes of the word that it has taken. -/
def Seq.Holds (hold : Seq → Seq) : Prop := ∀ k : Seq, hold k = { k with waiting := (hold k).waiting, fencing := (hold k).fencing }

/-- An instruction that holds issue: what p says of the hold, and nothing else beside the word taken. -/
theorem State.held_effect (offers : s.offers d w) {hold : Seq → Seq} (holds : Seq.Holds hold) {p : Seq → Prop}
    (state : ∀ k, p (hold k)) (stays : ∀ x : Drum, p x.seq → x.mayIssue = false) :
    let t := s.held d w hold
    OnlyDrum d s t ∧ Moved (s.drum d) (t.drum d) 1 w ∧ p (t.drum d).seq ∧ SamePad (s.drum d).pad (t.drum d).pad ∧
      t.drum d = { s.drum d with seq := (t.drum d).seq, pad := (t.drum d).pad } ∧ (t.drum d).mayIssue = false := by
  have ⟨_, hl, _⟩ := offers
  obtain ⟨only, taken⟩ := fetched_took_taken offers
  have drum : (s.held d w hold).drum d = _ := State.drum_modSeq ((s.fetched d).took d 1 w) (only.drum_lt hl) hold
  intro t
  have shown : p (t.drum d).seq := by
    rw [drum]
    exact state _
  refine ⟨only.trans (onlyDrum_modSeq _ d hold), ?_, shown, ?_, ?_, stays _ shown⟩
  · have moved := taken.moved
    rw [drum]
    unfold Moved at *
    rw [holds]
    exact moved
  · rw [drum]
    exact taken.pad
  · rw [drum, taken.same]

/-- The WAIT w of slot m issued at a beat. -/
def WaitW.wait (q : WaitW) (m : Slot) (beat : Dword) : Waiting := ⟨m.tbase + q.tally, q.value, q.dec, q.tmo, beat⟩

theorem exec_wait_holds (offers : s.offers d w) (op : opcode w = 0x60) (good : (waitW w).rsv = 0) {m : Slot}
    (slot : (s.drum d).slot = some m) (tally : (waitW w).tally < m.tcnt) :
    exec (.wait d) s = .next (s.held d w fun k => { k with waiting := some ((waitW w).wait m s.beat) }) := by
  have ⟨hd, hl, _⟩ := offers
  have slot' : ((s.fetched d).drum d).slot = some m := by
    rw [drum_fetched hl, Drum.fetched, fillLine_slot, slot]
  have next : execWait d s = .next (waitRun d w s (s.fetched d)) := by
    rw [execWait, onDrum_eq hd, issue_offered offers (by rw [op]; decide), if_pos ⟨op, rfl⟩]
  refine next.trans (congrArg _ ?_)
  simp only [waitRun, slot', good, ne_eq, not_true_eq_false, if_false, Nat.not_le.2 tally, List.append_nil, List.isEmpty_nil,
    Bool.not_true, Bool.false_eq_true]
  rfl

theorem exec_fence_holds (offers : s.offers d w) (op : opcode w = 0x61) (good : wf w 117 0 = 0) (named : wf w 119 118 ≠ 0) :
    exec (.fence d) s = .next (s.held d w fun k => { k with fencing := some ⟨wb w 119, wb w 118, false⟩ }) := by
  have next : execFence d s = .next (fenceRun d w s (s.fetched d)) := by
    rw [execFence, onDrum_eq offers.1, issue_offered offers (by rw [op]; decide), if_pos ⟨op, rfl⟩]
  exact next.trans (congrArg _ (if_neg (by simp only [good, named, ne_eq, not_true_eq_false, or_self, not_false_eq_true])))

theorem exec_endRun_holds (offers : s.offers d w) (op : opcode w = 0x7F) (good : wf w 119 0 = 0)
    (ends : (s.drum d).skin.busy = true ∨ (s.drum d).shell.anyBlock Stack.isOpen = false) :
    exec (.endRun d) s = .next (s.held d w fun k => { k with fencing := some ⟨true, true, true⟩ }) := by
  obtain ⟨-, taken⟩ := fetched_took_taken offers
  have next : execEndRun d s = .next (endRunOf d w s (s.fetched d)) := by
    rw [execEndRun, onDrum_eq offers.1, issue_offered offers (by rw [op]; decide), if_pos ⟨op, rfl⟩]
  have block : ¬((((s.fetched d).took d 1 w).drum d).skin.busy = false ∧
      (((s.fetched d).took d 1 w).drum d).shell.anyBlock Stack.isOpen = true) := by
    rw [taken.same]
    rcases ends with busy | closed
    · exact fun h => Bool.false_ne_true (h.1.symm.trans busy)
    · exact fun h => Bool.false_ne_true (closed.symm.trans h.2)
  exact next.trans (congrArg _ ((if_neg (not_not.2 good)).trans (if_neg block)))

/-! ### The end of a WAIT -/

/-- The drum whose WAIT q has ended. -/
def Drum.waited (x : Drum) (q : Waiting) : Drum :=
  { x with seq := { x.seq with waiting := none }
           pad := if q.dec then x.pad.setTally q.tally (x.pad.tally q.tally - q.value) else x.pad }

theorem State.waitDone_reached {q : Waiting} (waiting : (s.drum d).seq.waiting = some q)
    (reached : q.value ≤ (s.drum d).pad.tally q.tally) : s.waitDone d = s.setDrum d ((s.drum d).waited q) := by
  simp only [State.waitDone, waiting]
  exact if_pos reached

theorem State.waitDone_below {q : Waiting} (waiting : (s.drum d).seq.waiting = some q)
    (below : (s.drum d).pad.tally q.tally < q.value) : s.waitDone d = s := by
  simp only [State.waitDone, waiting]
  exact if_neg (BitVec.not_le.2 below)

theorem State.waitLate_late {q : Waiting} (waiting : (s.drum d).seq.waiting = some q)
    (below : (s.drum d).pad.tally q.tally < q.value) (timed : q.tmo ≠ 0)
    (late : q.since.toNat + 320 * q.tmo ≤ s.beat.toNat) : s.waitLate d = s.drumFault d 0x04 := by
  simp only [State.waitLate, waiting]
  exact if_pos ⟨timed, below, late⟩

theorem Drum.waited_tally {x : Drum} (kept : x.pad.Kept) (q : Waiting) (i : Nat) : (x.waited q).pad.tally i =
    if i = q.tally ∧ q.dec = true then x.pad.tally i - q.value else x.pad.tally i := by
  obtain ⟨-, tallies, -⟩ := kept
  unfold Drum.waited
  cases dec : q.dec with
  | false => simp
  | true =>
    simp only [if_true, and_true]
    by_cases same : i = q.tally
    · subst same
      exact (getCell_putCell tallies _ _).trans (if_pos rfl).symm
    · exact (getCell_putCell_ne same).trans (if_neg same).symm

theorem Drum.waited_eq (x : Drum) (q : Waiting) : x.waited q =
    { x with seq := (x.waited q).seq, pad := { x.pad with tallies := (x.waited q).pad.tallies } } := by
  unfold Drum.waited
  cases q.dec <;> rfl

/-! ### The end of a FENCE -/

theorem State.fenceDone_ends {f : Fencing} {r : RunId} (fencing : (s.drum d).seq.fencing = some f)
    (run : (s.drum d).seq.run = some r) (done : (s.drum d).fenceDone f = true) (goes : (s.drum d).seq.stopped = false)
    (calm : (s.drum d).preempting = none) : s.fenceDone d =
      let t := s.modSeq d fun k => { k with fencing := none }
      if f.isEnd then (if (s.drum d).shell.anyBlock Stack.isOpen then t.drumFault d 0x31 else s.endRun t d r) else t := by
  have ready : ¬((s.drum d).fenceDone f = false ∨ (s.drum d).seq.stopped = true ∨ (s.drum d).preempting.isSome = true) := by
    simp [done, goes, calm]
  simp only [State.fenceDone, fencing, run, if_neg ready]

end

/-! ### The end of a run -/

section
variable {s : State} {d : Nat} {j : Half} {i : Nat} {t : Task} {r : RunId}

theorem modAt_getElem? {α : Type} {l : List α} {i : Nat} {a : α} (h : l[i]? = some a) (f : α → α) :
    (modAt l i f)[i]? = some (f a) := by
  obtain ⟨small, -⟩ := List.getElem?_eq_some_iff.1 h
  simp only [modAt, h]
  exact List.getElem?_set_self small

theorem State.task?_modTask (h : s.task? j i = some t) (f : Task → Task) : (s.modTask j i f).task? j i = some (f t) := by
  obtain ⟨x, job, task⟩ := Option.bind_eq_some_iff.1 h
  have job' := State.job?_modJob (f := fun x => { x with tasks := modAt x.tasks i f }) (fun _ => rfl) job
  rw [State.task?, State.modTask, job']
  exact modAt_getElem? task f

theorem State.bankRun_run (run : (s.drum d).seq.run = some r) : s.bankRun d = s.modTask r.job r.task fun t =>
    { t with madeup := t.madeup || (s.drum d).seq.madeup, count := t.count + (s.drum d).seq.tapMisses } := by
  simp only [State.bankRun, State.bankSeq, run]

/-- The state in which the flags, the counts and the drum of a run that ends are noted. -/
def State.runCounted (s : State) (d : Nat) (r : RunId) : State :=
  let u := (s.bankRun d).modTask r.job r.task fun t =>
    { t with flags := t.flags ||| taskFlags ((s.drum d).shell.flagsOf (s.drum d).seq.wrote)
             ran := if t.ran.contains d then t.ran else d :: t.ran }
  u.modDrum d (·.noteRun (jobGroup u r.job) u.beat r)

/-- The drum has done its run of a task with tiles, and claims the next tile. -/
def Drum.claimsNext (x : Drum) (r : RunId) : Drum := { x with claim := some ⟨r.job, r.task, r.n + 1, 0⟩, seq := x.seq.stop }

theorem State.runCounted_task (run : (s.drum d).seq.run = some r) (task : s.task? r.job r.task = some t) :
    ∃ t', (s.runCounted d r).task? r.job r.task = some t' ∧ t'.code = t.code := by
  rw [State.runCounted, State.bankRun_run run]
  exact ⟨_, State.task?_modTask (State.task?_modTask task _) _, rfl⟩

theorem State.runCounted_drum (hd : d < s.drums.length) (run : (s.drum d).seq.run = some r) :
    ∃ sound, (s.runCounted d r).drum d = { s.drum d with sound := sound } := by
  rw [State.runCounted, State.bankRun_run run]
  exact ⟨_, State.drum_modDrum (State.modTask (s.modTask r.job r.task _) r.job r.task _) hd _⟩

theorem State.runCounted_length : (s.runCounted d r).drums.length = s.drums.length := by
  have bank : (s.bankRun d).drums = s.drums := by
    unfold State.bankRun State.bankSeq
    split <;> rfl
  rw [State.runCounted, State.modDrum_length, State.modTask, State.modJob, State.modMet, bank]

/-- A run of a task without a ledger ends: the share is finished, or the next tile is claimed. -/
theorem State.finishRun_noLedger (run : (s.drum d).seq.run = some r) (task : s.task? r.job r.task = some t)
    {set : BitVec 128} {b e tiles tile0 : Nat} (body : t.trec.body = .drum set b e tiles tile0) (ledger : t.trec.ledger = 0)
    (f : Fetched) : s.finishRun d r f =
      if tiles = 0 ∨ t.code.good = false then (s.runCounted d r).finishShare d r.job r.task
      else (s.runCounted d r).modDrum d (·.claimsNext r) := by
  obtain ⟨t', task', code⟩ := State.runCounted_task run task
  have counted : s.finishRun d r f =
      if (decide (tiles = 0) || !(((s.runCounted d r).task? r.job r.task).map (·.code.good)).getD false) = true then
        (s.runCounted d r).finishShare d r.job r.task
      else (s.runCounted d r).modDrum d (·.claimsNext r) := by
    simp only [State.finishRun, task, body, ledger, ne_eq, not_true_eq_false, if_false]
    rfl
  rw [counted, task', Option.map_some, Option.getD_some, code]
  exact if_congr (by simp) rfl rfl

theorem State.finishShare_finished (task : s.task? j i = some t) :
    ∃ t', (s.finishShare d j i).task? j i = some t' ∧ (s.drum d).logical.toNat ∈ t'.finished := by
  refine ⟨_, State.task?_modTask task _, ?_⟩
  simp only []
  split
  next h => exact List.contains_iff_mem.1 h
  next => exact List.mem_cons_self

end

/-- Settles O8: each of the three holds the sequencer, a WAIT ends as its counter and its time say, and FENCE_COMPLETE lets
issue go on or ends the run. -/
theorem waitsAndFencesHoldAndEnd : Obligations.WaitsAndFencesHoldAndEnd := by
  refine ⟨?_, ?_, ?_⟩
  · intro s d w offers held
    refine ⟨fun m op good slot tally => ?_, fun op good named => ?_, fun op good ends => ?_⟩
    · exact ⟨_, exec_wait_holds offers op good slot tally, State.held_effect offers (fun _ => rfl)
        (p := fun k => k.waiting = some ((waitW w).wait m s.beat)) (fun _ => rfl) fun _ => Drum.mayIssue_waiting⟩
    · exact ⟨_, exec_fence_holds offers op good named, State.held_effect offers (fun _ => rfl)
        (p := fun k => k.fencing = some ⟨wb w 119, wb w 118, false⟩) (fun _ => rfl) fun _ => Drum.mayIssue_fencing⟩
    · exact ⟨_, exec_endRun_holds offers op good ends, State.held_effect offers (fun _ => rfl)
        (p := fun k => k.fencing = some ⟨true, true, true⟩) (fun _ => rfl) fun _ => Drum.mayIssue_fencing⟩
  · intro s d q hd kept waiting x
    have hl := kept.drum_lt hd
    refine ⟨fun reached => ?_, fun below => ?_, fun r below timed late run free => ?_⟩
    · have drum := s.drum_setDrum hl (x.waited q)
      refine ⟨s.setDrum d (x.waited q), (if_pos hd).trans (congrArg _ (State.waitDone_reached waiting reached)),
        onlyDrum_setDrum s d _, ?_⟩
      have tally := Drum.waited_tally (kept.drum d).1 q
      rw [drum]
      refine ⟨rfl, ?_, fun i other => ?_, x.waited_eq q⟩
      · exact (tally q.tally).trans (if_congr (and_iff_right rfl) rfl rfl)
      · exact (tally i).trans (if_neg fun h => other h.1)
    · exact (if_pos hd).trans (congrArg _ (State.waitDone_below waiting below))
    · obtain ⟨latched, drum⟩ := State.drumFault_effect hl run free 0x04
      refine ⟨_, (if_pos hd).trans (congrArg _ (State.waitLate_late waiting below timed late)), latched, ?_⟩
      rw [drum]
      exact ⟨rfl, rfl, rfl⟩
  · intro s d f r hd kept fencing run done goes calm
    have hl := kept.drum_lt hd
    have next : exec (.fenceComplete d) s = .next (s.fenceDone d) := if_pos hd
    rw [State.fenceDone_ends fencing run done goes calm] at next
    let t := s.modSeq d fun k => { k with fencing := none }
    have drum : t.drum d = { s.drum d with seq := { (s.drum d).seq with fencing := none } } := s.drum_modSeq hl _
    have ht : d < t.drums.length := by rwa [s.modSeq_length]
    refine ⟨fun fence => ?_, fun tk set b e tiles tile0 isEnd closed task body ledger => ?_⟩
    · rw [fence] at next
      exact ⟨t, next, onlyDrum_modSeq s d _, drum⟩
    · have run' : (t.drum d).seq.run = some r := by
        rw [drum]
        exact run
      have ends : s.endRun t d r = t.finishRun d r .error := by
        simp only [State.endRun, task, ledger, if_true]
      simp only [isEnd, closed, if_true, Bool.false_eq_true, if_false] at next
      rw [ends, State.finishRun_noLedger run' task body ledger] at next
      obtain ⟨sound, counted⟩ := State.runCounted_drum ht run'
      have hc : d < (t.runCounted d r).drums.length := by rwa [State.runCounted_length]
      by_cases last : tiles = 0 ∨ tk.code.good = false
      · rw [if_pos last] at next
        obtain ⟨tk', task', -⟩ := State.runCounted_task run' task
        obtain ⟨tk'', task'', finished⟩ := State.finishShare_finished (d := d) task'
        have after := State.drum_finishShare hc r.job r.task
        refine ⟨_, next, ?_⟩
        rw [after, counted, drum]
        rw [counted, drum] at finished
        exact ⟨rfl, rfl, rfl, fun _ => ⟨rfl, tk'', task'', finished⟩, fun some_ good =>
          absurd good (by rw [last.resolve_left some_]; decide)⟩
      · rw [if_neg last] at next
        refine ⟨_, next, ?_⟩
        rw [State.drum_modDrum _ hc, counted, drum]
        exact ⟨rfl, rfl, rfl, fun none => absurd (.inl none) last, fun _ _ => rfl⟩

end Sys2Proof.Machine
end

section
/-! The shell rows of a ROLL (R158, R175, R190): a logical row written segment by segment, and what its rows read then. -/

namespace Sys2Proof.Machine

/-! ### Values over the first columns of a row -/

section
variable {h : Shell} {row i c n : Nat} {l : List Word}

theorem Shell.putRow_eq_putCols_range (h : Shell) (row : Nat) (l : List Word) :
    h.putRow row 0 l = h.putCols row (List.range' 0 l.length) fun c => (l[c]?).getD 0#32 := by
  have values : (List.range' 0 l.length).map (fun c => (l[c]?).getD 0#32) = l :=
    List.ext_getElem (by simp) fun c _ hc => by simp [List.getElem?_eq_getElem hc]
  rw [← Shell.putRow_eq_putCols, values]

theorem Shell.putRow_eq (h : Shell) (row : Nat) (l : List Word) :
    h.putRow row 0 l = { h with rows := (h.putRow row 0 l).rows } := by
  rw [Shell.putRow_eq_putCols_range]
  exact Shell.putCols_eq _ h

theorem Shell.shellAt_putRow (kept : h.Kept) (fits : l.length ≤ 1024) (hc : c < 1024) :
    shellAt (h.putRow row 0 l) i c = if i = row ∧ c < l.length then (l[c]?).getD 0#32 else shellAt h i c := by
  obtain ⟨rows, -⟩ := kept
  rw [Shell.putRow_eq_putCols_range, Shell.shellAt_putCols hc rows fun a ha => by
    have := (List.mem_range'_1.1 ha).2
    omega]
  exact if_congr (and_congr_right' (by simp [List.mem_range'_1])) rfl rfl

theorem Shell.rowList_putRow (kept : h.Kept) (fits : l.length ≤ 1024) : (h.putRow row 0 l).rowList row l.length = l := by
  refine List.ext_getElem (by simp [Shell.rowList]) fun c _ hc => ?_
  simp only [Shell.rowList, List.getElem_map, List.getElem_range]
  rw [Shell.shellAt_putRow kept fits (by omega), if_pos ⟨rfl, hc⟩, List.getElem?_eq_getElem hc, Option.getD_some]

theorem Shell.rowList_putRow_ne (kept : h.Kept) (fits : l.length ≤ 1024) (narrow : n ≤ 1024) (other : i ≠ row) :
    (h.putRow row 0 l).rowList i n = h.rowList i n := by
  refine List.map_congr_left fun c hc => ?_
  have := List.mem_range.1 hc
  rw [Shell.shellAt_putRow kept fits (by omega), if_neg fun same => other same.1]

end

/-! ### Rows that stand open -/

section
variable {α : Type} [DecidableEq α] {d v : α} {k : Nat}

theorem cellsFrom_le : ∀ {c : Cells α} {lo : Nat}, cellsFrom d lo c = true → ∀ p ∈ c, lo ≤ p.1
  | [], _, _, p, hp => absurd hp List.not_mem_nil
  | (a, w) :: c, lo, wf, p, hp => by
    simp only [cellsFrom, Bool.and_eq_true, decide_eq_true_eq] at wf
    obtain ⟨⟨first, -⟩, rest⟩ := wf
    rcases List.mem_cons.1 hp with rfl | later
    · exact first
    · exact Nat.le_of_lt (first.trans_lt (cellsFrom_le rest p later))

/-- A canonical store reads each of its entries. -/
theorem getCell_of_mem : ∀ {c : Cells α} {lo : Nat}, cellsFrom d lo c = true → (k, v) ∈ c → getCell d c k = v
  | [], _, _, hp => absurd hp List.not_mem_nil
  | (a, w) :: c, lo, wf, hp => by
    simp only [cellsFrom, Bool.and_eq_true] at wf
    obtain ⟨-, rest⟩ := wf
    rcases List.mem_cons.1 hp with same | later
    · obtain ⟨rfl, rfl⟩ := Prod.mk.inj same
      exact if_pos rfl
    · have beyond : a + 1 ≤ k := cellsFrom_le rest _ later
      exact (if_neg (by omega)).trans (getCell_of_mem rest later)

omit [DecidableEq α] in
theorem mem_of_getCell : ∀ {c : Cells α}, getCell d c k ≠ d → (k, getCell d c k) ∈ c
  | [], value => absurd rfl value
  | (a, w) :: c, value => by
    rw [getCell] at value ⊢
    split at value
    · next same =>
      subst same
      rw [if_pos rfl]
      exact List.mem_cons_self
    · next other =>
      rw [if_neg other]
      exact List.mem_cons_of_mem _ (mem_of_getCell value)

end

section
variable {h : Shell} {a b : BitVec 256}

/-- No row of a mask is open: each bell row of it is done. -/
theorem Shell.openRow_eq_false (kept : h.Kept) : h.openRow a = false ↔
    ∀ r, a.getLsbD r = true → tsBell (h.tstatus r) = true → tsDone (h.tstatus r) = true := by
  obtain ⟨-, statuses⟩ := kept
  simp only [Shell.openRow, List.any_eq_false, Bool.and_eq_true, Bool.not_eq_true', not_and, Bool.not_eq_false]
  constructor
  · intro closed r inside bell
    have entry : (r, h.tstatus r) ∈ h.tstat := mem_of_getCell fun blank => by
      rw [Shell.tstatus, blank] at bell
      exact absurd bell (by decide)
    exact closed (r, h.tstatus r) entry ⟨inside, bell⟩
  · rintro closed ⟨r, v⟩ entry ⟨inside, bell⟩
    have status : h.tstatus r = v := getCell_of_mem statuses entry
    rw [← status] at bell ⊢
    exact closed r inside bell

theorem Shell.openRow_mono (inside : ∀ r, a.getLsbD r = true → b.getLsbD r = true) (closed : h.openRow b = false) :
    h.openRow a = false := by
  simp only [Shell.openRow, List.any_eq_false, Bool.and_eq_true, Bool.not_eq_true', not_and, Bool.not_eq_false] at closed ⊢
  exact fun p hp ⟨row, bell⟩ => closed p hp ⟨inside _ row, bell⟩

end

/-- The flags of values are INF and NAN alone. -/
theorem valuesFlag_bits (l : List Word) : (valuesFlag l).getLsbD 15 = false ∧ (valuesFlag l).getLsbD 16 = false := by
  have one (w : Word) : (valueFlag w).getLsbD 15 = false ∧ (valueFlag w).getLsbD 16 = false := by
    unfold valueFlag
    split <;> decide
  have all : ∀ (l : List Word) (f : Word), f.getLsbD 15 = false ∧ f.getLsbD 16 = false →
      (l.foldl (fun f w => f ||| valueFlag w) f).getLsbD 15 = false ∧
        (l.foldl (fun f w => f ||| valueFlag w) f).getLsbD 16 = false := by
    intro l
    induction l with
    | nil => exact fun _ clear => clear
    | cons w l ih =>
      intro f ⟨bell, done⟩
      obtain ⟨bell', done'⟩ := one w
      exact ih _ ⟨by rw [BitVec.getLsbD_or, bell, bell', Bool.or_false], by rw [BitVec.getLsbD_or, done, done', Bool.or_false]⟩
  exact all l 0#32 ⟨by decide, by decide⟩

/-- A row that gains INF or NAN is open as before. -/
theorem tsBell_gainFlags (old : Word) (l : List Word) : tsBell (gainFlags old (valuesFlag l)) = tsBell old := by
  rw [tsBell, gainFlags, BitVec.getLsbD_or, (valuesFlag_bits l).1, Bool.or_false, tsBell]

theorem tsDone_gainFlags (old : Word) (l : List Word) : tsDone (gainFlags old (valuesFlag l)) = tsDone old := by
  rw [tsDone, gainFlags, BitVec.getLsbD_or, (valuesFlag_bits l).2, Bool.or_false, tsDone]

/-! ### The segments of a logical row -/

/-- The values of segment j among those of a logical row. -/
def RollW.seg (q : RollW) (l : List Word) (j : Nat) : List Word := (l.drop (j * q.n)).take q.n

/-- Segment j of logical row m written, with what its row's status gains. -/
def Shell.rollSeg (h : Shell) (q : RollW) (m : Nat) (l : List Word) (j : Nat) : Shell :=
  (h.putRow (q.rowAt m j) 0 (q.seg l j)).setStatus (q.rowAt m j)
    (gainFlags (h.tstatus (q.rowAt m j)) (valuesFlag (q.seg l j)))

/-- The first k segments of logical row m written. -/
def Shell.rollSegs (h : Shell) (q : RollW) (m : Nat) (l : List Word) (k : Nat) : Shell :=
  (List.range k).foldl (fun h j => h.rollSeg q m l j) h

theorem Shell.rollSegs_succ (h : Shell) (q : RollW) (m : Nat) (l : List Word) (k : Nat) :
    h.rollSegs q m l (k + 1) = (h.rollSegs q m l k).rollSeg q m l k := by
  rw [Shell.rollSegs, List.range_succ, List.foldl_append]
  rfl

theorem RollW.seg_length_le (q : RollW) (l : List Word) (j : Nat) : (q.seg l j).length ≤ q.n := by
  rw [RollW.seg, List.length_take]
  exact Nat.min_le_left ..

theorem RollW.seg_length {q : RollW} {l : List Word} {j : Nat} (size : l.length = q.len) (hj : j < q.span) :
    (q.seg l j).length = q.n := by
  have inside : j * q.n + q.n ≤ q.span * q.n := by
    rw [← Nat.succ_mul]
    exact Nat.mul_le_mul_right q.n hj
  rw [RollW.len] at size
  rw [RollW.seg, List.length_take, List.length_drop]
  omega

/-- The segments are the logical row. -/
theorem RollW.flatMap_seg (q : RollW) (l : List Word) : ∀ k, (List.range k).flatMap (q.seg l) = l.take (k * q.n)
  | 0 => by simp
  | k + 1 => by
    rw [List.range_succ, List.flatMap_append, RollW.flatMap_seg q l k, List.flatMap_singleton, Nat.succ_mul, List.take_add,
      RollW.seg]

section
variable {h : Shell} {q : RollW} {m : Nat} {l : List Word}

/-- Segments change the rows and the statuses of a shell alone. -/
theorem Shell.rollSegs_eq : ∀ k, h.rollSegs q m l k =
    { h with rows := (h.rollSegs q m l k).rows, tstat := (h.rollSegs q m l k).tstat }
  | 0 => rfl
  | k + 1 => by
    rw [Shell.rollSegs_succ, Shell.rollSegs_eq k, Shell.rollSeg, Shell.putRow_eq]
    rfl

section
variable (kept : h.Kept)
include kept

theorem Shell.rollSegs_kept : ∀ k, (h.rollSegs q m l k).Kept
  | 0 => kept
  | k + 1 => by
    rw [Shell.rollSegs_succ]
    exact (Shell.rollSegs_kept k).putRow.setStatus

theorem Shell.tstatus_rollSeg (j r : Nat) : tsBell ((h.rollSeg q m l j).tstatus r) = tsBell (h.tstatus r) ∧
    tsDone ((h.rollSeg q m l j).tstatus r) = tsDone (h.tstatus r) := by
  have row : (h.putRow (q.rowAt m j) 0 (q.seg l j)).tstatus r = h.tstatus r := by
    rw [Shell.putRow_eq]
    rfl
  rw [Shell.rollSeg, Shell.tstatus_setStatus kept.putRow, row]
  split
  · next same =>
    rw [same]
    exact ⟨tsBell_gainFlags .., tsDone_gainFlags ..⟩
  · exact ⟨rfl, rfl⟩

/-- Rows that are not open stay so. -/
theorem Shell.openRow_rollSegs {rows : BitVec 256} (closed : h.openRow rows = false) : ∀ k,
    (h.rollSegs q m l k).openRow rows = false
  | 0 => closed
  | k + 1 => by
    have before := Shell.rollSegs_kept kept (q := q) (m := m) (l := l) k
    have ih := (Shell.openRow_eq_false before).1 (Shell.openRow_rollSegs closed k)
    have after := Shell.rollSegs_kept kept (q := q) (m := m) (l := l) (k + 1)
    refine (Shell.openRow_eq_false after).2 fun r inside => ?_
    obtain ⟨bell, done⟩ := Shell.tstatus_rollSeg before (q := q) (m := m) (l := l) k r
    rw [Shell.rollSegs_succ, bell, done]
    exact ih r inside

section
variable (narrow : q.n ≤ 1024)
include narrow

theorem Shell.rowList_rollSeg_ne {j r : Nat} (other : r ≠ q.rowAt m j) : (h.rollSeg q m l j).rowList r q.n = h.rowList r q.n :=
  Shell.rowList_putRow_ne kept ((q.seg_length_le l j).trans narrow) narrow other

theorem Shell.rowList_rollSegs_ne {r : Nat} : ∀ k, (∀ j, j < k → r ≠ q.rowAt m j) →
    (h.rollSegs q m l k).rowList r q.n = h.rowList r q.n
  | 0, _ => rfl
  | k + 1, other => by
    rw [Shell.rollSegs_succ, Shell.rowList_rollSeg_ne (Shell.rollSegs_kept kept k) narrow (other k (Nat.lt_succ_self k))]
    exact Shell.rowList_rollSegs_ne k fun j hj => other j (Nat.lt_succ_of_lt hj)

/-- Each row of a logical row reads its segment. -/
theorem Shell.rowList_rollSegs (size : l.length = q.len)
    (inj : ∀ i j, i < q.span → j < q.span → q.rowAt m i = q.rowAt m j → i = j) {j : Nat} : ∀ k, k ≤ q.span → j < k →
    (h.rollSegs q m l k).rowList (q.rowAt m j) q.n = q.seg l j
  | 0, _, before => absurd before (Nat.not_lt_zero j)
  | k + 1, inside, hj => by
    have before := Shell.rollSegs_kept kept (q := q) (m := m) (l := l) k
    rw [Shell.rollSegs_succ]
    rcases Nat.lt_succ_iff_lt_or_eq.1 hj with earlier | rfl
    · have other : q.rowAt m j ≠ q.rowAt m k := fun same => by
        have := inj j k (by omega) (by omega) same
        omega
      exact (Shell.rowList_rollSeg_ne before narrow other).trans (Shell.rowList_rollSegs size inj k (by omega) earlier)
    · have full := RollW.seg_length size (show j < q.span by omega)
      have last := Shell.rowList_putRow before (row := q.rowAt m j) (l := q.seg l j) (full.le.trans narrow)
      rw [full] at last
      exact last

end

end

end

/-! ### Logical rows -/

/-- Logical rows that do not overlap have their shell rows to themselves. -/
theorem RollW.rowAt_inj {q : RollW} (apart : q.span = 1 ∨ q.m ≤ q.rstride) {m i j k : Nat} (hm : m < q.m) (hi : i < q.m)
    (hj : j < q.span) (hk : k < q.span) (same : q.rowAt m j = q.rowAt i k) : m = i ∧ j = k := by
  unfold RollW.rowAt at same
  rcases apart with one | wide
  · have first : j = 0 := by omega
    have second : k = 0 := by omega
    subst first second
    exact ⟨by omega, rfl⟩
  · have place : m + j * q.rstride = i + k * q.rstride := by omega
    have split (a b : Nat) (ha : a < q.m) : (a + b * q.rstride) / q.rstride = b := by
      rw [Nat.add_mul_div_right _ _ (by omega), Nat.div_eq_of_lt (by omega), Nat.zero_add]
    have segment : j = k := by rw [← split m j hm, place, split i k hi]
    subst segment
    exact ⟨by omega, rfl⟩

theorem Drum.rollIn_length (x : Drum) (q : RollW) (m : Nat) : (x.rollIn q m).length = q.len := by
  simp [Drum.rollIn, Shell.rowList, List.length_flatMap, RollW.len]

theorem Drum.rollIn_congr {x y : Drum} (shell : y.shell = x.shell) (q : RollW) (m : Nat) : y.rollIn q m = x.rollIn q m := by
  rw [Drum.rollIn, shell, Drum.rollIn]

section
variable {x y : Drum} {q : RollW} {m : Nat} {l : List Word} (kept : x.shell.Kept) (narrow : q.n ≤ 1024)
  (apart : q.span = 1 ∨ q.m ≤ q.rstride) (hm : m < q.m) (written : y.shell = x.shell.rollSegs q m l q.span)
include kept narrow apart hm written

/-- A logical row reads as it was written. -/
theorem Drum.rollIn_written (size : l.length = q.len) : y.rollIn q m = l := by
  have segs : ∀ j ∈ List.range q.span, y.shell.rowList (q.rowAt m j) q.n = q.seg l j := by
    intro j hj
    rw [written]
    exact Shell.rowList_rollSegs kept narrow size (fun _ _ hi hk same => (RollW.rowAt_inj apart hm hm hi hk same).2) q.span
      le_rfl (List.mem_range.1 hj)
  have whole : (List.range q.span).flatMap (q.seg l) = l := by
    rw [q.flatMap_seg, List.take_of_length_le (by rw [size, RollW.len])]
  rw [Drum.rollIn, List.flatMap_congr segs, whole]

/-- Every other logical row reads as before. -/
theorem Drum.rollIn_written_ne {i : Nat} (hi : i < q.m) (other : i ≠ m) : y.rollIn q i = x.rollIn q i := by
  refine List.flatMap_congr fun j hj => ?_
  rw [written]
  exact Shell.rowList_rollSegs_ne kept narrow q.span fun k hk same =>
    other (RollW.rowAt_inj apart hi hm (List.mem_range.1 hj) hk same).1

end

/-- With DSEL 0 a logical row goes to the shell: beside it the roll unit counts non-finite values, and the run has written the
rows. -/
theorem Drum.rollOut_shell (x : Drum) {q : RollW} (dsel : q.dsel = false) (m : Nat) (l : List Word) :
    ∃ wrote nonfin, x.rollOut q m l = { x with seq := { x.seq with wrote := wrote }, roll := { x.roll with nonfin := nonfin }
                                               shell := x.shell.rollSegs q m l q.span } := by
  have segs : ∀ (k : Nat) (y : Drum), ∃ wrote, (List.range k).foldl (fun x j =>
      let part := (l.drop (j * q.n)).take q.n
      let r := q.rowAt m j
      ({ x with
          shell := (x.shell.putRow r 0 part).setStatus r (gainFlags (x.shell.tstatus r) (valuesFlag part)) }).noteRows r 1) y =
        { y with seq := { y.seq with wrote := wrote }, shell := y.shell.rollSegs q m l k } := by
    intro k y
    induction k with
    | zero => exact ⟨_, rfl⟩
    | succ k ih =>
      obtain ⟨wrote, before⟩ := ih
      rw [List.range_succ, List.foldl_append, before, Shell.rollSegs_succ]
      exact ⟨_, rfl⟩
  obtain ⟨wrote, rows⟩ := segs q.span
    { x with roll := { x.roll with nonfin := x.roll.nonfin + BitVec.ofNat 64 (l.filter fun w => !(val w).isFin).length } }
  refine ⟨wrote, x.roll.nonfin + BitVec.ofNat 64 (l.filter fun w => !(val w).isFin).length, ?_⟩
  rw [Drum.rollOut, if_neg (by rw [dsel]; decide)]
  exact rows

end Sys2Proof.Machine
end

section
/-! A ROLL on a drum whose units are still: its issue, its take-up, and its rows one after the other (R175, R191). -/

namespace Sys2Proof.Machine

/-! ### Shell rows that a ROLL holds -/

theorem getLsbD_rowMask (lo n r : Nat) : (rowMask lo n).getLsbD r = decide (r < 256 ∧ lo ≤ r ∧ r < lo + n) := by
  rw [rowMask, BitVec.getLsbD_ofNat, Nat.testBit_mul_two_pow, Nat.testBit_two_pow_sub_one, ← Bool.decide_and, ← Bool.decide_and]
  exact decide_eq_decide.2 (by omega)

theorem getLsbD_foldl_or (f : Nat → BitVec 256) (r : Nat) : ∀ (l : List Nat) (b : BitVec 256),
    (l.foldl (fun b j => b ||| f j) b).getLsbD r = (b.getLsbD r || l.any fun j => (f j).getLsbD r)
  | [], b => (Bool.or_false _).symm
  | j :: l, b => by
    rw [List.foldl_cons, getLsbD_foldl_or f r l, BitVec.getLsbD_or, List.any_cons, Bool.or_assoc]

theorem getLsbD_orRows (f : Nat → BitVec 256) (r : Nat) (l : List Nat) :
    (l.foldl (fun b j => b ||| f j) 0).getLsbD r = true ↔ ∃ j ∈ l, (f j).getLsbD r = true := by
  rw [getLsbD_foldl_or, BitVec.ofNat_eq_ofNat, BitVec.getLsbD_zero, Bool.false_or, List.any_eq_true]

/-- The shell rows of one logical row are among those of all. -/
theorem RollW.rowsOf_sub {q : RollW} (columns : q.n ≠ 0) {m : Nat} (hm : m < q.m) (r : Nat)
    (h : (q.rowsOf m).getLsbD r = true) : (q.rowsFrom 0).getLsbD r = true := by
  simp only [RollW.rowsOf, getLsbD_orRows, getLsbD_rowMask, decide_eq_true_eq] at h
  obtain ⟨j, hj, row⟩ := h
  simp only [RollW.rowsFrom, if_neg columns, getLsbD_orRows, getLsbD_rowMask, decide_eq_true_eq]
  refine ⟨j, hj, ?_⟩
  unfold RollW.rowAt at row ⊢
  omega

theorem RollW.bounds {q : RollW} (good : q.instrBad = false) : q.m ≤ 256 ∧ q.n ≤ 1024 := by
  simp only [RollW.instrBad, Bool.or_eq_false_iff, decide_eq_false_iff_not] at good
  obtain ⟨⟨⟨-, rows⟩, columns⟩, -⟩ := good
  omega

/-! ### A drum of which only the roll unit works -/

/-- Beside the roll unit no unit of the drum has anything that it could take up. -/
structure Drum.OnlyRolls (x : Drum) : Prop where
  jobs : x.skin.jobs = []
  cur : x.skin.cur = none
  tuner : x.tuner.cur = none
  queues : x.queues = ⟨[], [], [], []⟩

theorem Drum.still.onlyRolls {x : Drum} (h : x.still) : x.OnlyRolls := by
  obtain ⟨jobs, -, cur, -, -, queues, -, tuner, -⟩ := h
  exact ⟨jobs, cur, tuner, queues⟩

/-- The drum once the roll unit has done a row. -/
def Drum.rowDone (z : Drum) (q : RollW) : Drum :=
  { z with roll := { z.roll with row := z.roll.row + 1, cur := if z.roll.row + 1 = q.m then none else z.roll.cur } }

section
variable {u : State} {d : Nat} {j : UnitJob}

theorem State.unitStep_onlyRolls (h : (u.drum d).OnlyRolls) : u.unitStep d = u.rollStep d := by
  have nothing (k : UnitId) (held : UnitJob → Bool) : (u.drum d).front k held = none := by
    refine Drum.front_nil ?_
    rw [h.queues]
    cases k <;> rfl
  have tuner : u.tunerStep d = none := by simp only [State.tunerStep, h.tuner, nothing, Option.map_none]
  have pad : u.padStep d = none := by rw [State.padStep, nothing, Option.map_none]
  have noc : u.nocStep d = none := by rw [State.nocStep, nothing, Option.map_none]
  rw [State.unitStep, State.skinStep_none h.cur (.inl h.jobs), tuner, pad, noc]
  cases u.rollStep d <;> rfl

/-- Without a ROLL in progress, or with one that does its rows in the idle ac (R191), no unit has a step. -/
theorem State.unitStep_waits (h : (u.drum d).OnlyRolls) (waits : (u.drum d).roll.cur = none ∨ (u.drum d).preemptible = true) :
    u.unitStep d = none := by
  rw [State.unitStep_onlyRolls h, State.rollStep]
  cases busy : (u.drum d).roll.cur with
  | none =>
    have nothing (held : UnitJob → Bool) : (u.drum d).front .roll held = none := Drum.front_nil (by rw [h.queues]; rfl)
    simp only [nothing, Option.map_none]
  | some j =>
    have idles : (u.drum d).preemptible = true := waits.resolve_left (by rw [busy]; exact Option.some_ne_none j)
    simp only [idles, Bool.true_or, if_true]

theorem State.unitStep_rollRow (h : (u.drum d).OnlyRolls) (busy : (u.drum d).roll.cur = some j)
    (single : (u.drum d).preemptible = false) (calm : (u.drum d).preempting = none)
    (free : (u.drum d).rollRowHeld j = false) : u.unitStep d = some (u.nextRollRow d j) := by
  rw [State.unitStep_onlyRolls h, State.rollStep, busy]
  simp only [single, calm, free, Option.isSome_none, Bool.or_self, Bool.false_eq_true, if_false]

/-! ### One row -/

/-- The state with the accesses of row i noted. -/
def State.rowReached (s : State) (d : Nat) (q : RollW) (i : Nat) : State := (s.reach d (q.rowReads i)).reach d (q.rowWrites i)

theorem onlyDrum_rowReached (s : State) (d : Nat) (q : RollW) (i : Nat) : OnlyDrum d s (s.rowReached d q i) :=
  (onlyDrum_reach s d _).trans (onlyDrum_reach _ d _)

theorem State.drum_reach (hu : d < u.drums.length) (l : List Range) : ∃ p, SamePad (u.drum d).pad p ∧
    (u.reach d l).drum d = { u.drum d with pad := p } := by
  rw [State.reach, u.drum_modDrum hu]
  exact ⟨_, foldl_samePad (fun p r => reach_same p u.beat _ r.len) l _, rfl⟩

theorem State.drum_rowReached (hu : d < u.drums.length) (q : RollW) (i : Nat) : ∃ p, SamePad (u.drum d).pad p ∧
    (u.rowReached d q i).drum d = { u.drum d with pad := p } := by
  obtain ⟨p, noted, reads⟩ := State.drum_reach hu (q.rowReads i)
  obtain ⟨p', noted', writes⟩ := State.drum_reach ((onlyDrum_reach u d (q.rowReads i)).drum_lt hu) (q.rowWrites i)
  rw [reads] at noted' writes
  exact ⟨p', noted.trans noted', writes⟩

section
variable (hu : d < u.drums.length) (sound : (u.drum d).pad.failed = [])
include hu sound

/-- Where every word passes its parity, a row follows its accesses. -/
theorem State.nextRollRow_eq : u.nextRollRow d j =
    let v := u.rowReached d (rollW j.w) (u.drum d).roll.row
    (((v.drum d).rollRow (rollW j.w) (u.drum d).roll.row).map fun z => v.setDrum d (z.rowDone (rollW j.w))).getD
      (v.unitFault d j.ord [0x41]) := by
  obtain ⟨p, noted, reads⟩ := State.drum_reach hu ((rollW j.w).rowReads (u.drum d).roll.row)
  have good : ((u.reach d ((rollW j.w).rowReads (u.drum d).roll.row)).drum d).readFails
      ((rollW j.w).rowReads (u.drum d).roll.row) = false :=
    Drum.readFails_eq_false (by rw [reads]; exact noted.failed.trans sound) _
  obtain ⟨p', -, drum⟩ := State.drum_rowReached hu (rollW j.w) (u.drum d).roll.row
  have row : ((u.rowReached d (rollW j.w) (u.drum d).roll.row).drum d).roll.row = (u.drum d).roll.row := by rw [drum]
  unfold State.rowReached at row ⊢
  simp only [State.nextRollRow, State.rowAccess, State.reading, good, Bool.false_eq_true, if_false, row]
  cases Drum.rollRow _ _ _ <;> rfl

end

end

/-! ### The drum while a ROLL runs -/

/-- What the roll unit holds of a GELU's or SILU's table (R183). -/
def RollW.table (q : RollW) (x : Drum) : List Byte := if q.func = 0x30 ∨ q.func = 0x31 then x.padBytes q.aux 2368 else []

/-- From x to y the sequencer has taken the ROLL w, and the roll unit stands before row i of it: beside the unit and the
sequencer, only values and statuses of the shell, bytes of the pad and what its banks note differ. -/
structure Rolling (w : Quad) (x : Drum) (i : Nat) (y : Drum) : Prop where
  moved : Moved x y 1 w
  cls : y.seq.cls = x.seq.cls
  pad : SamePad { x.pad with mem := y.pad.mem } y.pad
  leaves : y.shell.leaves = x.shell.leaves
  same : y = { x with seq := y.seq, pad := y.pad, roll := y.roll, shell := y.shell }
  closed : y.shell.openRow ((rollW w).rowsFrom 0) = false
  func : y.roll.func = BitVec.ofNat 8 (rollW w).func
  table : y.roll.table = (rollW w).table x
  row : y.roll.row = i
  cur : y.roll.cur = if i = (rollW w).m then none else some (x.newJob w true)

section
variable {w : Quad} {x y : Drum} {i : Nat}

theorem Rolling.run (h : Rolling w x i y) : y.seq.run = x.seq.run := by
  obtain ⟨-, -, -, run, -⟩ := h.moved
  exact run
theorem Rolling.abs (h : Rolling w x i y) (off : Nat) : y.abs off = x.abs off := by
  have slot : y.slot = x.slot := Drum.slot_congr h.run h.pad.slots
  simp only [Drum.abs, slot]
theorem Rolling.failed (h : Rolling w x i y) : y.pad.failed = x.pad.failed := h.pad.failed
theorem Rolling.preemptible (h : Rolling w x i y) : y.preemptible = x.preemptible := by
  rw [Drum.preemptible, h.cls, h.pad.saveEn, Drum.preemptible]

/-- Accesses noted. -/
theorem Rolling.noted (h : Rolling w x i y) {p : Pad} (noted : SamePad y.pad p) : Rolling w x i { y with pad := p } := by
  refine ⟨h.moved, h.cls, ?_, h.leaves, by rw [h.same], h.closed, h.func, h.table, h.row, h.cur⟩
  have pad : SamePad { x.pad with mem := y.pad.mem } p := h.pad.trans noted
  rwa [← noted.mem] at pad

/-- A row done that has left all but the shell's values and statuses, the pad's bytes and the unit's counters. -/
theorem Rolling.rowDone (h : Rolling w x i y) (more : i < (rollW w).m) {q : Seq} {wrote : BitVec 256}
    (seq : q = { y.seq with wrote := wrote }) {p : Pad} (pad : p = { y.pad with mem := p.mem }) {k : Roll}
    (roll : k = { y.roll with elems := k.elems, nonfin := k.nonfin, empty := k.empty, tails := k.tails }) {g : Shell}
    (leaves : g.leaves = y.shell.leaves) (closed : g.openRow ((rollW w).rowsFrom 0) = false) :
    Rolling w x (i + 1) (({ y with seq := q, pad := p, roll := k, shell := g } : Drum).rowDone (rollW w)) := by
  have row : k.row = i := by rw [roll]; exact h.row
  have cur : k.cur = some (x.newJob w true) := by rw [roll]; exact h.cur.trans (if_neg (Nat.ne_of_lt more))
  refine ⟨?_, ?_, ?_, leaves.trans h.leaves, ?_, closed, ?_, ?_, congrArg (· + 1) row, ?_⟩
  · subst seq
    exact h.moved
  · subst seq
    exact h.cls
  · have before := h.pad
    unfold SamePad at before ⊢
    have banks : p = { y.pad with mem := p.mem } := pad
    rw [before] at banks
    simp only [Drum.rowDone]
    rw [banks]
  · rw [Drum.rowDone, h.same]
  · simp only [Drum.rowDone]
    rw [roll]
    exact h.func
  · simp only [Drum.rowDone]
    rw [roll]
    exact h.table
  · simp only [Drum.rowDone, row, cur]

section
variable (still : x.still)
include still

theorem Rolling.onlyRolls (h : Rolling w x i y) : y.OnlyRolls := by
  rw [h.same]
  exact ⟨still.onlyRolls.jobs, still.onlyRolls.cur, still.onlyRolls.tuner, still.onlyRolls.queues⟩

/-- Nothing holds a row of the ROLL: units that are still write no shell row, and no row of it is open. -/
theorem Rolling.rollRowHeld (h : Rolling w x i y) (columns : (rollW w).n ≠ 0) (more : i < (rollW w).m) :
    y.rollRowHeld (x.newJob w true) = false := by
  obtain ⟨jobs, load, cur, lanes, leaves, queues, -⟩ := still
  have skin : y.skin = x.skin := by rw [h.same]
  have queues' : y.queues = ⟨[], [], [], []⟩ := by
    rw [h.same]
    exact queues
  have writes (o : Nat) : y.skinWrites o = 0 := by
    simp [Drum.skinWrites, Skin.steps, skin, h.leaves, jobs, load, cur, lanes, leaves, orRows]
  have last (o : Nat) : y.unwritten o = 0 := by simp [Drum.unwritten, skin, jobs, load, cur, lanes, orRows]
  have busy : y.roll.cur = some (x.newJob w true) := h.cur.trans (if_neg (Nat.ne_of_lt more))
  have units : y.unitWrites (x.newJob w true).ord = 0 := by
    simp [Drum.unitWrites, Drum.rollsBefore, queues', busy, orRows]
  have closed : y.shell.openRow ((rollW w).rowsOf i) = false := Shell.openRow_mono (RollW.rowsOf_sub columns more) h.closed
  simp [Drum.rollRowHeld, Drum.rowsHeld, Drum.newJob_w, writes, last, units, h.row, closed]

end

end

/-! ### Issue and take-up -/

/-- Drum d offers the ROLL w, which has rows; its units are still, and the ROLL's decode finds no fault. -/
structure State.Rolls (s : State) (d : Nat) (w : Quad) : Prop where
  offers : s.offers d w
  opcode : opcode w = 0x30
  good : (rollW w).instrBad = false
  still : (s.drum d).still
  closed : (s.drum d).shell.openRow ((rollW w).rowsFrom 0) = false
  faults : (rollW w).faults s d = []
  rows : (rollW w).m ≠ 0
  columns : (rollW w).n ≠ 0

/-- A GELU or SILU has a legal table (R183). -/
def RollW.tableGood (q : RollW) (x : Drum) : Prop :=
  q.func = 0x30 ∨ q.func = 0x31 → actBad (x.padBytes q.aux 2368) q.func = false

/-- The roll unit has taken the ROLL w up and done none of its rows. -/
structure RollStarted (w : Quad) (x y : Drum) : Prop where
  rolling : Rolling w x 0 y
  shell : y.shell = x.shell
  mem : y.pad.mem = x.pad.mem
  elems : y.roll.elems = x.roll.elems

section
variable {s u : State} {d : Nat} {w : Quad} {r : RunId}

/-- A ROLL with rows, whose table is legal if it has one, is taken up. -/
theorem State.startRoll_starts {x : Drum} (hu : d < u.drums.length) (taken : Taken w x (u.drum d)) (sound : x.pad.failed = [])
    (closed : x.shell.openRow ((rollW w).rowsFrom 0) = false) (faults : (rollW w).faults u d = [])
    (rows : (rollW w).m ≠ 0) (columns : (rollW w).n ≠ 0) (tableGood : (rollW w).tableGood x) :
    OnlyDrum d u (u.startRoll d (x.newJob w true)) ∧ RollStarted w x ((u.startRoll d (x.newJob w true)).drum d) := by
  let a := (u.access d (rollW w).readRanges).access d (rollW w).writeRanges
  have ha : d < a.drums.length := by rwa [State.access_length, u.access_length]
  have taken' : Taken w x (a.drum d) := (taken.access hu _).access (by rwa [u.access_length]) _
  have only : OnlyDrum d u a := (onlyDrum_access u d _).trans (onlyDrum_access _ d _)
  let f (k : Roll) : Roll := { k with func := BitVec.ofNat 8 (rollW w).func, row := 0 }
  let b := a.modRoll d f
  have hb : d < b.drums.length := (onlyDrum_modDrum a d _).drum_lt ha
  have drumB : b.drum d = { a.drum d with roll := f (a.drum d).roll } := a.drum_modRoll ha f
  have bytes : (b.drum d).padBytes (rollW w).aux 2368 = x.padBytes (rollW w).aux 2368 := by
    rw [drumB]
    exact taken'.padBytes _ _
  let g (k : Roll) : Roll := { k with cur := some (x.newJob w true), table := (rollW w).table x }
  have reads := Drum.readFails_eq_false (taken'.pad.failed.trans sound) (rollW w).tableReads
  have starts : u.startRoll d (x.newJob w true) = b.modRoll d g := by
    have start : u.startRoll d (x.newJob w true) =
        if (rollW w).func = 0x30 ∨ (rollW w).func = 0x31 then
          if actBad ((b.drum d).padBytes (rollW w).aux 2368) (rollW w).func then b.unitFault d (x.newJob w true).ord [0x41]
          else b.modRoll d fun r => { r with cur := some (x.newJob w true), table := (b.drum d).padBytes (rollW w).aux 2368 }
        else b.modRoll d fun r => { r with cur := some (x.newJob w true), table := [] } := by
      simp only [State.startRoll, Drum.newJob_w, Drum.newJob_par, faults, List.isEmpty_nil, Bool.not_true, Bool.false_eq_true,
        if_false, State.reading, a, b, f, reads, State.checked, rows, columns, or_self, Bool.true_or, if_true]
    rw [start, bytes]
    simp only [g, RollW.table]
    split
    · next act => rw [tableGood act, if_neg Bool.false_ne_true]
    · rfl
  have onlyB : OnlyDrum d u b := only.trans (onlyDrum_modDrum a d _)
  have drum : (b.modRoll d g).drum d = { a.drum d with roll := g (f (a.drum d).roll) } := by
    rw [State.drum_modRoll _ hb, drumB]
  rw [starts]
  refine ⟨onlyB.trans (onlyDrum_modDrum b d _), ?_⟩
  rw [drum]
  have pad := taken'.pad
  refine ⟨⟨taken'.moved, taken'.cls, ?_, by rw [taken'.shell], by rw [taken'.same], by rw [taken'.shell]; exact closed, rfl,
    rfl, rfl, (if_neg (Ne.symm rows)).symm⟩, taken'.shell, taken'.mem, ?_⟩
  · unfold SamePad at *
    rw [pad]
  · rw [taken'.same]

/-- A ROLL of a drum whose units are still is taken up at once; the units have steps left for all of its rows. -/
theorem State.Rolls.starts (h : s.Rolls d w) (tableGood : (rollW w).tableGood (s.drum d)) {func : Nat}
    (kind : (rollW w).func = func) : ∃ u n, s.roll d func true = unitsGo d (n + (rollW w).m) u ∧ OnlyDrum d s u ∧
      RollStarted w (s.drum d) (u.drum d) := by
  have ⟨_, hl, _⟩ := h.offers
  have queues := h.still.onlyRolls.queues
  obtain ⟨only, taken⟩ := State.handed_taken (par := true) h.offers queues .roll
  obtain ⟨only', started⟩ := State.startRoll_starts (only.drum_lt hl) taken h.still.sound h.closed
    ((RollW.faults_taken _ taken).trans h.faults) h.rows h.columns tableGood
  obtain ⟨few, -⟩ := RollW.bounds h.good
  obtain ⟨n, fuel⟩ : ∃ n, ((s.handed d .roll w true).drum d).workLeft = n + ((rollW w).m + 1) := by
    refine Nat.exists_eq_add_of_le' ?_
    simp only [Drum.workLeft, State.handed_drum h.offers queues, Queues.put, List.length_singleton, List.length_nil]
    omega
  have fits : ((rollW w).func == func || !rollFuncs.contains (rollW w).func) = true := by
    rw [kind, beq_self_eq_true, Bool.true_or]
  refine ⟨_, n, ?_, only.trans only', started⟩
  rw [State.roll, issue_offered h.offers (by rw [h.opcode]; decide), if_pos ⟨h.opcode, fits⟩,
    issueTo_hands h.offers queues .roll h.good, State.unitsRun, fuel]
  exact unitsGo_of_some (State.unitStep_roll h.offers h.still h.closed) _

/-! ### All rows -/

/-- P describes the drum before each row of a ROLL, and the rows of the ROLL keep it. -/
structure RowWise (w : Quad) (x : Drum) (P : Nat → Drum → Prop) : Prop where
  rolling : ∀ i y, P i y → Rolling w x i y
  noted : ∀ i y p, P i y → SamePad y.pad p → P i { y with pad := p }
  next : ∀ i y, i < (rollW w).m → P i y → ∃ z, y.rollRow (rollW w) i = some z ∧ P (i + 1) (z.rowDone (rollW w))

section
variable {x : Drum} {P : Nat → Drum → Prop} (still : x.still) (single : x.preemptible = false) (columns : (rollW w).n ≠ 0)
include still single columns

/-- Before a row that is to come the roll unit goes on. -/
theorem Rolling.unitStep {i : Nat} (h : Rolling w x i (u.drum d)) (more : i < (rollW w).m) :
    u.unitStep d = some (u.nextRollRow d (x.newJob w true)) := by
  have calm : (u.drum d).preempting = none := by
    obtain ⟨-, -, -, -, -, -, -, -, -, calm, -⟩ := still
    rw [h.same]
    exact calm
  exact State.unitStep_rollRow (h.onlyRolls still) (h.cur.trans (if_neg (Nat.ne_of_lt more))) (h.preemptible.trans single) calm
    (h.rollRowHeld still columns more)

theorem RowWise.unitStep (rowWise : RowWise w x P) (hu : d < u.drums.length) {i : Nat} (more : i < (rollW w).m)
    (before : P i (u.drum d)) : ∃ v, u.unitStep d = some v ∧ OnlyDrum d u v ∧ P (i + 1) (v.drum d) := by
  have rolling := rowWise.rolling i _ before
  obtain ⟨p, noted, drum⟩ := State.drum_rowReached hu (rollW w) i
  have hv : d < (u.rowReached d (rollW w) i).drums.length := (onlyDrum_rowReached u d _ i).drum_lt hu
  obtain ⟨z, row, after⟩ := rowWise.next i _ more (rowWise.noted i _ p before noted)
  refine ⟨_, rolling.unitStep still single columns more, ?_⟩
  rw [State.nextRollRow_eq hu (rolling.failed.trans still.sound), Drum.newJob_w, rolling.row]
  simp only [drum, row, Option.map_some, Option.getD_some]
  refine ⟨(onlyDrum_rowReached u d _ i).trans (onlyDrum_setDrum _ d _), ?_⟩
  rw [State.drum_setDrum _ hv]
  exact after

theorem RowWise.unitsGo (rowWise : RowWise w x P) (hu : d < u.drums.length) (first : P 0 (u.drum d)) (n : Nat) :
    ∀ i, i ≤ (rollW w).m → ∃ v, Machine.unitsGo d (n + i) u = Machine.unitsGo d n v ∧ OnlyDrum d u v ∧ P i (v.drum d) := by
  intro i
  induction i generalizing n with
  | zero => exact fun _ => ⟨u, rfl, .refl u d, first⟩
  | succ i ih =>
    intro inside
    obtain ⟨v, rows, only, before⟩ := ih (n + 1) (Nat.le_of_succ_le inside)
    obtain ⟨t, step, only', after⟩ := rowWise.unitStep still single columns (only.drum_lt hu) inside before
    refine ⟨t, ?_, only.trans only', after⟩
    rw [show n + (i + 1) = n + 1 + i by omega, rows]
    exact unitsGo_of_some step n

end

/-- A ROLL whose run no class-0 task may preempt does all of its rows at once. -/
theorem State.Rolls.runs (h : s.Rolls d w) (single : (s.drum d).preemptible = false)
    (tableGood : (rollW w).tableGood (s.drum d)) {func : Nat} (kind : (rollW w).func = func) {P : Nat → Drum → Prop}
    (rowWise : RowWise w (s.drum d) P) (first : ∀ y, RollStarted w (s.drum d) y → P 0 y) :
    OnlyDrum d s (s.roll d func true) ∧ P (rollW w).m ((s.roll d func true).drum d) := by
  have ⟨_, hl, _⟩ := h.offers
  obtain ⟨u, n, runs, only, started⟩ := h.starts tableGood kind
  obtain ⟨v, rows, only', last⟩ := rowWise.unitsGo h.still single h.columns (only.drum_lt hl) (first _ started) n _ le_rfl
  have done := rowWise.rolling _ _ last
  have rests : v.unitStep d = none :=
    State.unitStep_waits (done.onlyRolls h.still) (.inl (done.cur.trans (if_pos rfl)))
  rw [runs, rows, unitsGo_of_none rests]
  exact ⟨only.trans only', last⟩

/-- A ROLL whose run a class-0 task may preempt is taken up, and its rows wait for idle ac. -/
theorem State.Rolls.waits (h : s.Rolls d w) (idles : (s.drum d).preemptible = true)
    (tableGood : (rollW w).tableGood (s.drum d)) {func : Nat} (kind : (rollW w).func = func) :
    OnlyDrum d s (s.roll d func true) ∧ RollStarted w (s.drum d) ((s.roll d func true).drum d) := by
  obtain ⟨u, n, runs, only, started⟩ := h.starts tableGood kind
  have rests : u.unitStep d = none :=
    State.unitStep_waits (started.rolling.onlyRolls h.still) (.inr (started.rolling.preemptible.trans idles))
  rw [runs, unitsGo_of_none rests]
  exact ⟨only, started⟩

/-- The command: drum d is one of the part's. -/
theorem State.Rolls.exec (h : s.Rolls d w) {i : Instr} {func : Nat}
    (arm : Machine.exec i s = onDrum d s fun s => s.roll d func true) : Machine.exec i s = .next (s.roll d func true) :=
  arm.trans (onDrum_eq h.offers.1 _)

end

end Sys2Proof.Machine
end

section
/-! What the functions of one row make of the rows of a ROLL, and where their results stand (R179-R190): the settling of O23. -/

namespace Sys2Proof.Machine

/-! ### The functions of one row -/

/-- A function reads, beside its row, bytes of the pad and the table that the unit holds. -/
theorem Drum.rollFun_congr {x y : Drum} (bytes : y.padNat = x.padNat) (table : y.roll.table = x.roll.table) (q : RollW)
    (m : Nat) (l : List Word) : y.rollFun q m l = x.rollFun q m l := by
  have half (off : Nat) : halfAt y off = halfAt x off := by rw [halfAt, bytes, halfAt]
  have masked (c : Nat) : y.masked q m c = x.masked q m c := by simp only [Drum.masked, bytes]
  have norm (layer : Bool) : normRow y q layer m l = normRow x q layer m l := by
    simp only [normRow, Drum.gammaAt, Drum.betaAt, half]
  have entry : y.ropeEntry q m = x.ropeEntry q m := funext fun i => by simp only [Drum.ropeEntry, half]
  have rope : y.ropeRow q m l = x.ropeRow q m l := by rw [Drum.ropeRow, entry, Drum.ropeRow]
  simp only [Drum.rollFun, masked, norm, rope, table]

theorem softRow_length (scale : Word) (l : List Word) : (softRow scale l).1.length = l.length := by
  unfold softRow
  split
  · exact List.length_map _
  · split
    · exact List.length_map _
    · simp

theorem normRow_length (x : Drum) (q : RollW) (layer : Bool) (m : Nat) (l : List Word) :
    (normRow x q layer m l).1.length = l.length := by
  unfold normRow
  dsimp only
  split
  · exact List.length_map _
  · rw [apply_ite Prod.fst, apply_ite List.length, List.length_map, List.length_map, List.length_range, ite_self]

/-- Rotations replace elements. -/
theorem ropeRow_length {x : Drum} {q : RollW} {m : Nat} {l r : List Word} (h : x.ropeRow q m l = some r) :
    r.length = l.length := by
  unfold Drum.ropeRow at h
  dsimp only at h
  split at h
  · rw [← Option.some.inj h]
    exact List.foldlRecOn (motive := fun r : List Word => r.length = l.length) _ _ rfl fun r ih i _ => by
      rw [List.length_set, List.length_set, ih]
  · cases h

/-! ### Results in the shell -/

section
variable {w : Quad} {x y : Drum} {i passes : Nat} {f : Nat → List Word → List Word}

/-- The drum with the table of a GELU or SILU in its roll unit. -/
def Drum.tabled (x : Drum) (q : RollW) : Drum := { x with roll := { x.roll with table := q.table x } }

/-- The ROLL's function makes f m of its row m, in so many passes (R176, R177). -/
structure RollW.Makes (q : RollW) (x : Drum) (passes : Nat) (f : Nat → List Word → List Word) : Prop where
  size : ∀ m, m < q.m → (f m (x.rollIn q m)).length = q.len
  gives : ∀ m, m < q.m → ∃ e t, (x.tabled q).rollFun q m (x.rollIn q m) = some (f m (x.rollIn q m), passes, e, t)

/-- Row i is the next of a ROLL with DSEL 0: the rows before it hold the results, and those from it on are as they were. -/
structure ShellRolled (w : Quad) (x : Drum) (passes : Nat) (f : Nat → List Word → List Word) (i : Nat) (y : Drum) : Prop where
  rolling : Rolling w x i y
  mem : y.pad.mem = x.pad.mem
  kept : y.shell.Kept
  rows : ∀ m, m < (rollW w).m →
    y.rollIn (rollW w) m = if m < i then f m (x.rollIn (rollW w) m) else x.rollIn (rollW w) m
  elems : y.roll.elems = x.roll.elems + BitVec.ofNat 64 (passes * (rollW w).len * i)

theorem Rolling.samePad (h : Rolling w x i y) (mem : y.pad.mem = x.pad.mem) : SamePad x.pad y.pad := by
  have pad := h.pad
  rw [mem] at pad
  exact pad

theorem Rolling.rollFun (h : Rolling w x i y) (mem : y.pad.mem = x.pad.mem) (m : Nat) (l : List Word) :
    y.rollFun (rollW w) m l = (x.tabled (rollW w)).rollFun (rollW w) m l := by
  refine Drum.rollFun_congr ?_ h.table _ m l
  funext off n
  rw [Drum.padNat, h.abs, mem]
  rfl

theorem RollStarted.shellRolled (h : RollStarted w x y) (kept : x.shell.Kept) : ShellRolled w x passes f 0 y := by
  refine ⟨h.rolling, h.mem, by rw [h.shell]; exact kept, fun m _ => ?_, ?_⟩
  · rw [Drum.rollIn_congr h.shell, if_neg (Nat.not_lt_zero m)]
  · rw [h.elems, Nat.mul_zero, BitVec.add_zero]

theorem Drum.rollRow_of_rollFun {q : RollW} {m e t : Nat} {l : List Word}
    (gives : y.rollFun q m (y.rollIn q m) = some (l, passes, e, t)) :
    y.rollRow q m = some ((y.rollOut q m l).rollCount (passes * q.len) e t) := by
  have other : q.func ≠ 0x50 := fun top => by
    rw [Drum.rollFun, top] at gives
    cases gives
  rw [Drum.rollRow, if_neg other, gives]
  rfl

section
variable (dsel : (rollW w).dsel = false) (narrow : (rollW w).n ≤ 1024)
  (apart : (rollW w).span = 1 ∨ (rollW w).m ≤ (rollW w).rstride) (makes : (rollW w).Makes x passes f)
include dsel narrow apart makes

theorem ShellRolled.next (h : ShellRolled w x passes f i y) (more : i < (rollW w).m) :
    ∃ z, y.rollRow (rollW w) i = some z ∧ ShellRolled w x passes f (i + 1) (z.rowDone (rollW w)) := by
  obtain ⟨e, t, gives⟩ := makes.gives i more
  have row : y.rollIn (rollW w) i = x.rollIn (rollW w) i := (h.rows i more).trans (if_neg (Nat.lt_irrefl i))
  obtain ⟨wrote, nonfin, out⟩ := y.rollOut_shell dsel i (f i (x.rollIn (rollW w) i))
  refine ⟨_, Drum.rollRow_of_rollFun (by rw [row, h.rolling.rollFun h.mem, gives]), ?_⟩
  rw [out]
  refine ⟨h.rolling.rowDone more rfl (p := y.pad) rfl rfl ?_ (Shell.openRow_rollSegs h.kept h.rolling.closed _), h.mem,
    Shell.rollSegs_kept h.kept _, fun m hm => ?_, ?_⟩
  · rw [Shell.rollSegs_eq]
  · by_cases now : m = i
    · subst now
      rw [if_pos (Nat.lt_succ_self m)]
      exact Drum.rollIn_written h.kept narrow apart hm rfl (makes.size m hm)
    · refine (Drum.rollIn_written_ne h.kept narrow apart more rfl hm now).trans ((h.rows m hm).trans ?_)
      exact if_congr (by omega) rfl rfl
  · have count : passes * (rollW w).len * (i + 1) = passes * (rollW w).len * i + passes * (rollW w).len := Nat.mul_succ ..
    rw [count, BitVec.ofNat_add, ← BitVec.add_assoc, ← h.elems]
    rfl

theorem ShellRolled.rowWise : RowWise w x (ShellRolled w x passes f) where
  rolling _ _ h := h.rolling
  noted _ _ _ h same := ⟨h.rolling.noted same, same.mem.trans h.mem, h.kept, h.rows, h.elems⟩
  next _ _ more h := h.next dsel narrow apart makes more

end

end

/-! ### Results in the pad -/

section
variable {base w n i a : Nat} {f : Nat → List Byte} (size : ∀ i, (f i).length ≤ w)
include size

theorem putTable_apart_le (i : Nat) (m : Memory) (a : Nat) (h : a < base + w * i ∨ base + w * (i + 1) ≤ a) :
    getByte (putBytes m (base + w * i) (f i)) a = getByte m a := by
  have := size i
  have next : w * (i + 1) = w * i + w := Nat.mul_succ ..
  exact getByte_putBytes_out _ (by omega)

theorem getByte_putTable_out_le (m : Memory) (h : a < base ∨ base + w * n ≤ a) :
    getByte (putTable base w f n m) a = getByte m a :=
  getByte_loop_out (putTable_apart_le size) m n h

/-- Entries no longer than their places are read as they were written. -/
theorem getBytes_putTable_le {m : Memory} (wf : Memory.wf m = true) (h : i < n) :
    getBytes (putTable base w f n m) (base + w * i) (f i).length = f i := by
  have := size i
  have next : w * (i + 1) = w * i + w := Nat.mul_succ ..
  refine (getBytes_loop_in (putTable_apart_le size) m h le_rfl (by omega)).trans ?_
  exact getBytes_putBytes (putTable_wf (base := base) (w := w) (f := f) i wf) (f i) _

end

section
variable {w : Quad} {x y : Drum} {i stride : Nat} {bytes : Nat → List Byte}

/-- Row i is the next of a ROLL whose rows go to the pad: the shell is as it was, and the bytes of the rows before row i stand
at their places from the destination on. -/
structure PadRolled (w : Quad) (x : Drum) (stride : Nat) (bytes : Nat → List Byte) (i : Nat) (y : Drum) : Prop where
  rolling : Rolling w x i y
  shell : y.shell = x.shell
  mem : y.pad.mem = putTable (x.abs (rollW w).dst) stride bytes i x.pad.mem

theorem RollStarted.padRolled (h : RollStarted w x y) : PadRolled w x stride bytes 0 y := ⟨h.rolling, h.shell, h.mem⟩

/-- The ROLL's function makes so many bytes of a row, a stride apart, and leaves all but them and the unit's counters. -/
def RollW.Puts (q : RollW) (x : Drum) (stride : Nat) (bytes : Nat → List Byte) : Prop :=
  ∀ (y : Drum) (m : Nat), y.shell = x.shell → ∃ k : Roll,
    y.rollRow q m = some { y.padPut (q.dst + m * stride) (bytes m) with roll := k } ∧
    k = { y.roll with elems := k.elems, nonfin := k.nonfin, empty := k.empty, tails := k.tails }

theorem PadRolled.next (h : PadRolled w x stride bytes i y) (sound : x.pad.failed = []) (puts : (rollW w).Puts x stride bytes)
    (more : i < (rollW w).m) :
    ∃ z, y.rollRow (rollW w) i = some z ∧ PadRolled w x stride bytes (i + 1) (z.rowDone (rollW w)) := by
  obtain ⟨k, row, counters⟩ := puts y i h.shell
  have put : (y.padPut ((rollW w).dst + i * stride) (bytes i)).pad =
      { y.pad with mem := putTable (x.abs (rollW w).dst) stride bytes (i + 1) x.pad.mem } := by
    have place : y.abs ((rollW w).dst + i * stride) = x.abs (rollW w).dst + stride * i := by
      rw [h.rolling.abs, Nat.mul_comm]
      exact (Nat.add_assoc ..).symm
    rw [Drum.padPut, Pad.put_sound (h.rolling.failed.trans sound), place, h.mem]
    rfl
  refine ⟨_, row, h.rolling.rowDone more (q := y.seq) rfl (p := (y.padPut _ _).pad) ?_ counters (g := y.shell) rfl
    h.rolling.closed, h.shell, congrArg Pad.mem put⟩
  rw [put]

theorem PadRolled.rowWise (sound : x.pad.failed = []) (puts : (rollW w).Puts x stride bytes) :
    RowWise w x (PadRolled w x stride bytes) where
  rolling _ _ h := h.rolling
  noted _ _ _ h same := ⟨h.rolling.noted same, h.shell, same.mem.trans h.mem⟩
  next _ _ more h := h.next sound puts more

end

/-! ### SCALE -/

/-- What SCALE makes of an element (R187). -/
def RollW.scaled (q : RollW) (v : Word) : Word := rn (((val v).mul (bfVal q.arg0)).add (bfVal q.arg1))

/-- The bytes of logical row m under SCALE. -/
def Drum.scaledBytes (x : Drum) (q : RollW) (m : Nat) : List Byte :=
  (x.rollIn q m).flatMap fun v => leBytes 4 (q.scaled v).toNat

section
variable {x : Drum} {q : RollW}

theorem Drum.rollFun_scale (x : Drum) (func : q.func = 0x01) (m : Nat) (l : List Word) :
    x.rollFun q m l = some (l.map q.scaled, 1, 0, 0) := by
  rw [Drum.rollFun, func]
  rfl

theorem RollW.makes_scale (x : Drum) (func : q.func = 0x01) : q.Makes x 1 fun _ l => l.map q.scaled where
  size m _ := (List.length_map _).trans (x.rollIn_length q m)
  gives m _ := ⟨0, 0, Drum.rollFun_scale _ func m _⟩

theorem RollW.puts_scale (x : Drum) (func : q.func = 0x01) (dsel : q.dsel = true) : q.Puts x q.outStride (x.scaledBytes q) := by
  intro y m shell
  let z := (y.rollOut q m ((y.rollIn q m).map q.scaled)).rollCount (1 * q.len) 0 0
  have row : y.rollRow q m = some z := Drum.rollRow_of_rollFun (Drum.rollFun_scale y func m _)
  have out : z = { y.padPut (q.dst + m * q.outStride) (x.scaledBytes q m) with roll := z.roll } := by
    simp only [z, Drum.rollOut, if_pos dsel, List.flatMap_map, Drum.rollIn_congr shell]
    rfl
  refine ⟨z.roll, row.trans (congrArg some out), ?_⟩
  simp only [z, Drum.rollOut, if_pos dsel]
  rfl

theorem Drum.scaledBytes_length (x : Drum) (q : RollW) (m : Nat) : (x.scaledBytes q m).length = 4 * q.len := by
  simp [Drum.scaledBytes, List.length_flatMap, Drum.rollIn_length, Nat.mul_comm]

theorem RollW.len_le_outStride (q : RollW) : 4 * q.len ≤ q.outStride := by
  unfold RollW.outStride ceilDiv
  omega

/-- A ROLL of another function than GELU and SILU has no table. -/
theorem RollW.tableGood_of_func {func : Nat} (kind : q.func = func) (gelu : func ≠ 0x30) (silu : func ≠ 0x31) (x : Drum) :
    q.tableGood x := fun act => by
  rw [kind] at act
  exact absurd act (not_or.2 ⟨gelu, silu⟩)

end

section
variable {s : State} {d : Nat} {w : Quad}

/-- A ROLL with DSEL 0 leaves in each logical row what its function makes of it. -/
theorem State.Rolls.shellRows (h : s.Rolls d w) (kept : s.Kept) (single : (s.drum d).preemptible = false)
    (tableGood : (rollW w).tableGood (s.drum d)) {func : Nat} (kind : (rollW w).func = func) (dsel : (rollW w).dsel = false)
    (apart : (rollW w).span = 1 ∨ (rollW w).m ≤ (rollW w).rstride) {passes : Nat} {f : Nat → List Word → List Word}
    (makes : (rollW w).Makes (s.drum d) passes f) :
    OnlyDrum d s (s.roll d func true) ∧ ShellRolled w (s.drum d) passes f (rollW w).m ((s.roll d func true).drum d) :=
  h.runs single tableGood kind (ShellRolled.rowWise dsel (RollW.bounds h.good).2 apart makes)
    fun _ started => started.shellRolled (kept.drum d).2

/-- A ROLL whose rows go to the pad leaves them there, and the shell as it was. -/
theorem State.Rolls.padRows (h : s.Rolls d w) (single : (s.drum d).preemptible = false)
    (tableGood : (rollW w).tableGood (s.drum d)) {func : Nat} (kind : (rollW w).func = func) {stride : Nat}
    {bytes : Nat → List Byte} (puts : (rollW w).Puts (s.drum d) stride bytes) :
    OnlyDrum d s (s.roll d func true) ∧ PadRolled w (s.drum d) stride bytes (rollW w).m ((s.roll d func true).drum d) :=
  h.runs single tableGood kind (PadRolled.rowWise h.still.sound puts) fun _ started => started.padRolled

end

/-- Settles O23: SCALE is a function of one row, whose results replace the row or stand at its place in the pad. -/
theorem scaleMultipliesAndAddsWithOneRounding : Obligations.ScaleMultipliesAndAddsWithOneRounding := by
  intro s d w kept offers op q x f good still closed faults rows columns func single
  have rolls : s.Rolls d w := ⟨offers, op, good, still, closed, faults, rows, columns⟩
  have noTable : q.tableGood x := RollW.tableGood_of_func func (by decide) (by decide) x
  have runs : exec (.rollScale d true) s = .next (s.roll d 0x01 true) := rolls.exec rfl
  refine ⟨fun dsel apart => ?_, fun dsel => ?_⟩
  · obtain ⟨only, done⟩ := rolls.shellRows kept single noTable func dsel apart (RollW.makes_scale x func)
    refine ⟨_, runs, only, done.rolling.moved, fun m hm => (done.rows m hm).trans (if_pos hm), done.rolling.samePad done.mem,
      ?_, done.rolling.func, done.rolling.row⟩
    rw [done.elems, Nat.one_mul]
  · obtain ⟨only, done⟩ := rolls.padRows single noTable func (RollW.puts_scale x func dsel)
    have size (m : Nat) : (x.scaledBytes q m).length ≤ q.outStride := (x.scaledBytes_length q m).le.trans q.len_le_outStride
    refine ⟨_, runs, only, done.rolling.moved, done.shell, fun m hm => ?_, fun a out => ?_⟩
    · have place : x.abs (q.dst + m * q.outStride) = x.abs q.dst + q.outStride * m := by
        rw [Nat.mul_comm]
        exact (Nat.add_assoc ..).symm
      rw [Drum.padBytes, done.rolling.abs, done.mem, place, ← x.scaledBytes_length q m]
      exact getBytes_putTable_le size (kept.drum d).1.1 hm
    · rw [done.mem]
      exact getByte_putTable_out_le size _ (by rwa [Nat.mul_comm])

end Sys2Proof.Machine
end

section
/-! The functions of a ROLL (R179-R190), a rotary entry that is not finite (R186), and the entries of a TOPK (R189). -/

namespace Sys2Proof.Machine

/-! ### What each function makes of a row -/

section
variable {q : RollW} (x : Drum)

theorem RollW.makes_mask (func : q.func = 0x02) : q.Makes x 1 fun m l =>
    (List.range l.length).map fun c => if x.masked q m c then negInf32 else (l[c]?).getD 0#32 where
  size m _ := by rw [List.length_map, List.length_range, x.rollIn_length]
  gives m _ := ⟨0, 0, by rw [Drum.rollFun, func]; rfl⟩

theorem RollW.makes_softmax (func : q.func = 0x10) : q.Makes x 2 fun _ l => (softRow (widen16 q.arg0) l).1 where
  size m _ := (softRow_length _ _).trans (x.rollIn_length q m)
  gives m _ := ⟨(softRow (widen16 q.arg0) (x.rollIn q m)).2.toNat, 0, by rw [Drum.rollFun, func]; rfl⟩

theorem RollW.makes_rmsnorm (func : q.func = 0x20) : q.Makes x 2 fun m l => (normRow x q false m l).1 where
  size m _ := (normRow_length ..).trans (x.rollIn_length q m)
  gives m _ := ⟨(normRow x q false m (x.rollIn q m)).2.toNat, 0, by rw [Drum.rollFun, func]; rfl⟩

theorem RollW.makes_layernorm (func : q.func = 0x21) : q.Makes x 3 fun m l => (normRow x q true m l).1 where
  size m _ := (normRow_length ..).trans (x.rollIn_length q m)
  gives m _ := ⟨(normRow x q true m (x.rollIn q m)).2.toNat, 0, by rw [Drum.rollFun, func]; rfl⟩

theorem Drum.rollFun_act (func : q.func = 0x30 ∨ q.func = 0x31) (m : Nat) (l : List Word) :
    x.rollFun q m l = some (l.map fun v => (actOne x.roll.table (actTable x.roll.table) v).1, 1, 0,
      ((l.map fun v => actOne x.roll.table (actTable x.roll.table) v).filter (·.2)).length) := by
  rcases func with gelu | silu
  · rw [Drum.rollFun, gelu]
    simp only [List.map_map]
    rfl
  · rw [Drum.rollFun, silu]
    simp only [List.map_map]
    rfl

/-- GELU and SILU evaluate the table that the unit has read. -/
theorem RollW.makes_act (func : q.func = 0x30 ∨ q.func = 0x31) : q.Makes x 1 fun _ r =>
    r.map fun v => (actOne (x.padBytes q.aux 2368) (actTable (x.padBytes q.aux 2368)) v).1 where
  size m _ := (List.length_map _).trans (x.rollIn_length q m)
  gives m _ := by
    have table : (x.tabled q).roll.table = x.padBytes q.aux 2368 := if_pos func
    rw [Drum.rollFun_act _ func, table]
    exact ⟨0, _, rfl⟩

/-- ROPE of one row whose entries are all finite. -/
theorem RollW.makes_rope (func : q.func = 0x40) (one : q.m = 1) {l : List Word}
    (rotated : x.ropeRow q 0 (x.rollIn q 0) = some l) :
    q.Makes x 1 fun _ _ => l where
  size _ _ := (ropeRow_length rotated).trans (x.rollIn_length q 0)
  gives m hm := by
    obtain rfl : m = 0 := by omega
    refine ⟨0, 0, ?_⟩
    rw [Drum.rollFun, func]
    exact congrArg (Option.map _) rotated

/-- Bytes from the start of one row's entries to the next row's (R189). -/
def RollW.topStride (q : RollW) : Nat := ceilDiv (8 * q.arg0.toNat) 32 * 32

theorem RollW.puts_topk (func : q.func = 0x50) :
    q.Puts x q.topStride fun m => topEntries q.arg0.toNat q.arg1.toNat (x.rollIn q m) := by
  intro y m shell
  have row : y.rollRow q m = some (y.topRow q m (y.rollIn q m)) := by rw [Drum.rollRow, if_pos func]
  simp only [← Drum.rollIn_congr shell]
  exact ⟨(y.topRow q m (y.rollIn q m)).roll, row, rfl⟩

end

/-! ### A ROLL of one function -/

/-- What the model does with a ROLL of a function of one row and DSEL 0: it does the rows at once, or, where a class-0 task may
preempt the run, takes the ROLL up and leaves the rows to the idle ac (R191, R266). -/
def State.RollDone (s : State) (d : Nat) (w : Quad) (i : Instr) (passes : Nat) (f : Nat → List Word → List Word) : Prop :=
  let q := rollW w
  let x := s.drum d
  (x.preemptible = false → ∃ t, exec i s = .next t ∧ OnlyDrum d s t ∧ Moved x (t.drum d) 1 w ∧
    (∀ m, m < q.m → (t.drum d).rollIn q m = f m (x.rollIn q m)) ∧
    (t.drum d).roll.elems = x.roll.elems + BitVec.ofNat 64 (passes * q.len * q.m) ∧
    (t.drum d).roll.func = BitVec.ofNat 8 q.func ∧ (t.drum d).roll.row = q.m ∧ (t.drum d).roll.cur = none ∧
    SamePad x.pad (t.drum d).pad) ∧
  (x.preemptible = true → ∃ t, exec i s = .next t ∧ OnlyDrum d s t ∧ Moved x (t.drum d) 1 w ∧
    (t.drum d).roll.cur = some (x.newJob w true) ∧ (t.drum d).roll.row = 0 ∧ (t.drum d).shell = x.shell ∧
    SamePad x.pad (t.drum d).pad)

section
variable {s : State} {d : Nat} {w : Quad} {r : RunId}

theorem State.Rolls.rollDone (h : s.Rolls d w) (kept : s.Kept) (dsel : (rollW w).dsel = false)
    (apart : (rollW w).span = 1 ∨ (rollW w).m ≤ (rollW w).rstride) {i : Instr} {func : Nat}
    (arm : Machine.exec i s = onDrum d s fun s => s.roll d func true) (kind : (rollW w).func = func)
    (tableGood : (rollW w).tableGood (s.drum d)) {passes : Nat} {f : Nat → List Word → List Word}
    (makes : (rollW w).Makes (s.drum d) passes f) : s.RollDone d w i passes f := by
  refine ⟨fun single => ?_, fun idles => ?_⟩
  · obtain ⟨only, done⟩ := h.shellRows kept single tableGood kind dsel apart makes
    have rolling := done.rolling
    exact ⟨_, h.exec arm, only, rolling.moved, fun m hm => (done.rows m hm).trans (if_pos hm), done.elems, rolling.func,
      rolling.row, rolling.cur.trans (if_pos rfl), rolling.samePad done.mem⟩
  · obtain ⟨only, started⟩ := h.waits idles tableGood kind
    have rolling := started.rolling
    exact ⟨_, h.exec arm, only, rolling.moved, rolling.cur.trans (if_neg (Ne.symm h.rows)), rolling.row, started.shell,
      rolling.samePad started.mem⟩

/-! ### A rotary entry that is not finite -/

/-- The fault of the ROLL in progress ends it, and leaves nothing to do. -/
theorem Drum.OnlyRolls.dropped {x : Drum} {j : UnitJob} (h : x.OnlyRolls) (busy : x.roll.cur = some j) (q : Seq) :
    ({ x.dropOrd j.ord with seq := q } : Drum).OnlyRolls ∧ ({ x.dropOrd j.ord with seq := q } : Drum).roll.cur = none := by
  refine ⟨⟨?_, h.cur, ?_, h.queues⟩, ?_⟩
  · simp only [Drum.dropOrd, h.jobs, List.filter_nil]
  · simp only [Drum.dropOrd, h.tuner, Option.filter_none]
  · simp [Drum.dropOrd, busy]

/-- A ROLL that finds no result for its first row raises the roll table fault, and has written nothing. -/
theorem State.Rolls.firstLost (h : s.Rolls d w) (single : (s.drum d).preemptible = false)
    (tableGood : (rollW w).tableGood (s.drum d)) {func : Nat} (kind : (rollW w).func = func) (run : (s.drum d).seq.run = some r)
    (free : (s.fault d).valid = false) (other : (rollW w).func ≠ 0x50)
    (lost : ((s.drum d).tabled (rollW w)).rollFun (rollW w) 0 ((s.drum d).rollIn (rollW w) 0) = none) :
    (s.roll d func true).latched d 0x41 (some r.job) s.beat ∧ ((s.roll d func true).drum d).shell = (s.drum d).shell ∧
      ((s.roll d func true).drum d).pad.mem = (s.drum d).pad.mem := by
  have ⟨_, hl, _⟩ := h.offers
  obtain ⟨u, n, runs, only, started⟩ := h.starts tableGood kind
  have hu := only.drum_lt hl
  have rolling := started.rolling
  let v := u.rowReached d (rollW w) 0
  have onlyV : OnlyDrum d s v := only.trans (onlyDrum_rowReached u d _ 0)
  obtain ⟨p, noted, drum⟩ := State.drum_rowReached hu (rollW w) 0
  have rollingV : Rolling w (s.drum d) 0 (v.drum d) := by
    rw [drum]
    exact rolling.noted noted
  have shellV : (v.drum d).shell = (s.drum d).shell := by rw [drum]; exact started.shell
  have memV : (v.drum d).pad.mem = (s.drum d).pad.mem := by rw [drum]; exact noted.mem.trans started.mem
  have row : (v.drum d).rollRow (rollW w) 0 = none := by
    rw [Drum.rollRow, if_neg other, Drum.rollIn_congr shellV, rollingV.rollFun memV, lost]
    rfl
  have step : u.unitStep d = some (v.unitFault d ((s.drum d).newJob w true).ord [0x41]) := by
    rw [rolling.unitStep h.still single h.columns (Nat.pos_of_ne_zero h.rows),
      State.nextRollRow_eq hu (rolling.failed.trans h.still.sound), Drum.newJob_w, rolling.row]
    simp only [v] at row
    simp only [v, row, Option.map_none, Option.getD_none]
  obtain ⟨latched, ends⟩ := State.unitFault_latches (onlyV.drum_lt hl) (rollingV.run.trans run)
    (by rw [onlyV.fault]; exact free) ((s.drum d).newJob w true).ord 0x41
  obtain ⟨rests, idle⟩ := (rollingV.onlyRolls h.still).dropped (rollingV.cur.trans (if_neg (Ne.symm h.rows)))
    { (v.drum d).seq with stopped := true, waiting := none }
  rw [← ends] at rests idle
  obtain ⟨k, fuel⟩ : ∃ k, n + (rollW w).m = k + 1 := Nat.exists_eq_add_one_of_ne_zero (by have := h.rows; omega)
  rw [runs, fuel, unitsGo_of_some step, unitsGo_of_none (State.unitStep_waits rests (.inl idle)), ends]
  rw [onlyV.beat] at latched
  exact ⟨latched, shellV, memV⟩

end

end Sys2Proof.Machine
end

section
/-! One idle ac of a ROLL that a class-0 task may preempt (R191, R266), and the settling of O22. -/

namespace Sys2Proof.Machine

/-! ### What else an ac brings -/

/-- Beside its drums, nothing of the part goes on by itself: no transfer is under way, no record waits to be written, and no
port holds a packet or a credit back or waits for one. -/
structure State.BaseRests (s : State) : Prop where
  moves : s.met.moves = []
  out : ∀ p ∈ s.rings, p.2.out = []
  ports : ∀ p ∈ s.fab.ports, p.ingress = [] ∧ p.stuck = [0, 0, 0, 0, 0, 0, 0] ∧ p.starved = false ∧
    ∀ l ∈ p.rxPart, s.transits l = false

section
variable {s : State}

/-- Its base die alone is a quiet part. -/
theorem State.BaseRests.quiet (h : s.BaseRests) : State.quiet { s with drums := [] } :=
  ⟨fun _ => ⟨rfl, rfl⟩, h.moves, h.out, h.ports⟩

theorem State.BaseRests.runMoves (h : s.BaseRests) : s.runMoves = s := by
  simp [State.runMoves, h.moves]

theorem State.BaseRests.flushAll (h : s.BaseRests) : s.flushAll = s := by
  have written : s.rings.filter (fun p => !p.2.out.isEmpty) = [] :=
    List.filter_eq_nil_iff.2 fun p hp => by simp [h.out p hp]
  have count : (s.rings.map fun p => p.2.out.length).sum = 0 := by
    rw [List.map_congr_left (g := fun _ => 0) fun p hp => by rw [h.out p hp]; rfl]
    simp
  simp only [State.flushAll, count, urgentGo, written, List.map_nil, List.foldl_nil]

theorem State.BaseRests.creditWait (h : s.BaseRests) : s.creditWait = s := by
  refine List.foldl_fixed' (fun p => ?_) _
  obtain ⟨-, -, fed, -⟩ := h.quiet.port_empty p
  exact if_neg (by rw [show (s.port p).starved = false from fed]; decide)

theorem State.BaseRests.letChannelGo (h : s.BaseRests) (p v : Nat) : s.letChannelGo p v = s := by
  obtain ⟨-, stuck, -, arriving⟩ := h.quiet.port_empty p
  have here : s.transits (((s.port p).rxPart[v]?).getD []) = false := by
    rcases arrives : (s.port p).rxPart[v]? with _ | l
    · exact s.transits_nil
    · exact arriving l (List.mem_of_getElem? arrives)
  have kept : (s.modPort p fun x => s.letGo x (((s.port p).rxPart[v]?).getD []) v ((x.stuck[v]?).getD 0)) = s := by
    refine State.modPort_fixed fun x hx => ?_
    have none_stuck : x.stuck = [0, 0, 0, 0, 0, 0, 0] := (h.ports x (List.mem_of_getElem? hx)).2.1
    rw [State.letGo, here, if_neg Bool.false_ne_true, none_stuck, getD_stuck_none, Port.unstick_zero]
  rw [State.letChannelGo]
  simp only [kept, here, Bool.false_eq_true, if_false]

theorem State.BaseRests.drainPorts (h : s.BaseRests) : s.drainPorts = s := by
  refine List.foldl_fixed' (fun p => ?_) _
  obtain ⟨held, -⟩ := h.quiet.port_empty p
  have held' : (s.port p).ingress = [] := held
  have go : s.letAllGo p = s := List.foldl_fixed' (h.letChannelGo p) _
  simp only [State.drainPort, held', List.isEmpty_nil, if_true, go, ite_self]

/-- Where no failed check runs again, an ac is that of the drums' units. -/
theorem State.BaseRests.pass_eq (h : s.idle.BaseRests) (clock : s.power.locked = true) (cool : s.power.tripped = false)
    (checks : ∀ e, (s.idle.drum e).sound.failIn = 0) : s.pass = s.idle := by
  have sound : s.idle.soundTick = s.idle := List.foldl_fixed' (fun e => by rw [checks e]) _
  rw [State.pass, if_pos (clock_runs clock cool), sound, h.runMoves, h.drainPorts, h.creditWait, h.flushAll]

/-- Where one drum alone has work, an idle ac is that of its units. -/
theorem State.idle_one {d : Nat} (hd : d < 136) (clock : s.power.locked = true) (cool : s.power.tripped = false)
    (rest : ∀ e, e ≠ d → (s.drum e).hasWork = false) (busy : (s.drum d).hasWork = true)
    (only : OnlyDrum d s.tick ((s.tick.rollTick d).unitsRun d)) : s.idle = (s.tick.rollTick d).unitsRun d := by
  have drum (e : Nat) : s.tick.drum e = s.drum e := by
    rw [State.tick_running clock cool]
    rfl
  let f (e : Nat) (t : State) : State := if (t.drum e).hasWork then (t.rollTick e).unitsRun e else t
  have here : f d s.tick = (s.tick.rollTick d).unitsRun d := if_pos (by rw [drum]; exact busy)
  have idle : s.idle = loop f 136 s.tick := if_pos (clock_runs clock cool)
  rw [idle, ← here]
  refine (loop_once (fun e _ other => ?_) fun e _ other => ?_).trans (if_pos hd)
  · exact if_neg (by rw [drum, rest e other]; decide)
  · obtain ⟨-, -, others⟩ := only
    exact if_neg (by rw [here, others e other, drum, rest e other]; decide)

end

/-! ### One row of a SCALE -/

section
variable {u : State} {d : Nat} {j : UnitJob}

theorem State.drum_rowReached_none (hu : d < u.drums.length) {q : RollW} {i : Nat} (reads : q.rowReads i = [])
    (writes : q.rowWrites i = []) : (u.rowReached d q i).drum d = u.drum d := by
  have nothing {v : State} (hv : d < v.drums.length) : (v.reach d []).drum d = v.drum d := v.drum_modDrum hv _
  rw [State.rowReached, reads, writes, nothing ((onlyDrum_reach u d []).drum_lt hu), nothing hu]

/-- The drum once SCALE has done the row before which its unit stands. -/
def Drum.scaleRow (x : Drum) (q : RollW) : Drum :=
  ((x.rollOut q x.roll.row ((x.rollIn q x.roll.row).map q.scaled)).rollCount (1 * q.len) 0 0).rowDone q

/-- With DSEL 0 a SCALE reaches no bytes of the pad. -/
theorem State.nextRollRow_scale (hu : d < u.drums.length) (sound : (u.drum d).pad.failed = [])
    (func : (rollW j.w).func = 0x01) (dsel : (rollW j.w).dsel = false) :
    OnlyDrum d u (u.nextRollRow d j) ∧ (u.nextRollRow d j).drum d = (u.drum d).scaleRow (rollW j.w) := by
  let q := rollW j.w
  let i := (u.drum d).roll.row
  have reads : q.rowReads i = [] := by
    rw [RollW.rowReads, func]
    rfl
  have writes : q.rowWrites i = [] := by
    rw [RollW.rowWrites, func, dsel]
    rfl
  have drum : (u.rowReached d q i).drum d = u.drum d := State.drum_rowReached_none hu reads writes
  have row := Drum.rollRow_of_rollFun (Drum.rollFun_scale (u.drum d) func i ((u.drum d).rollIn q i))
  have next : u.nextRollRow d j = (u.rowReached d q i).setDrum d ((u.drum d).scaleRow q) := by
    rw [State.nextRollRow_eq hu sound]
    simp only [q, i] at drum row
    simp only [drum, row, Option.map_some, Option.getD_some]
    rfl
  have reached := onlyDrum_rowReached u d q i
  rw [next]
  exact ⟨reached.trans (onlyDrum_setDrum _ d _), State.drum_setDrum _ (reached.drum_lt hu) _⟩

theorem Drum.scaleRow_eq (x : Drum) {q : RollW} (dsel : q.dsel = false) : ∃ (wrote : BitVec 256) (k : Roll), x.scaleRow q =
    { x with
      seq := { x.seq with wrote := wrote }
      roll := { k with row := x.roll.row + 1, cur := if x.roll.row + 1 = q.m then none else x.roll.cur }
      shell := x.shell.rollSegs q x.roll.row ((x.rollIn q x.roll.row).map q.scaled) q.span } := by
  obtain ⟨wrote, nonfin, out⟩ := x.rollOut_shell dsel x.roll.row ((x.rollIn q x.roll.row).map q.scaled)
  refine ⟨wrote, (x.scaleRow q).roll, ?_⟩
  rw [Drum.scaleRow, out]
  rfl

/-- ROLL j is in progress on a drum whose run a class-0 task may preempt; nothing holds its next row, and no other unit works. -/
structure Drum.RollsIdly (x : Drum) (j : UnitJob) : Prop where
  alone : x.OnlyRolls
  busy : x.roll.cur = some j
  idles : x.preemptible = true
  calm : x.preempting = none
  sound : x.pad.failed = []
  free : x.rollRowHeld j = false

/-- On a part in which no other drum works, an idle ac does one row of the SCALE. -/
theorem State.idle_scaleRow {s : State} (kept : s.Kept) (hd : d < 136) (clock : s.power.locked = true)
    (cool : s.power.tripped = false) (rest : ∀ e, e ≠ d → (s.drum e).hasWork = false) (rolls : (s.drum d).RollsIdly j)
    (func : (rollW j.w).func = 0x01) (dsel : (rollW j.w).dsel = false) :
    OnlyDrum d s.tick s.idle ∧ s.idle.drum d = (s.drum d).scaleRow (rollW j.w) := by
  have hu : d < s.tick.drums.length := by
    rw [State.tick_running clock cool]
    exact kept.drum_lt hd
  have here : s.tick.drum d = s.drum d := by
    rw [State.tick_running clock cool]
    rfl
  obtain ⟨only, drum⟩ := State.nextRollRow_scale (j := j) hu (by rw [here]; exact rolls.sound) func dsel
  rw [here] at drum
  have ticks : s.tick.rollTick d = s.tick.nextRollRow d j := by
    simp only [State.rollTick, here, rolls.busy, rolls.calm, rolls.free, Option.isSome_none, Bool.or_self, Bool.false_eq_true,
      if_false]
  have waits : (s.tick.nextRollRow d j).unitStep d = none := by
    obtain ⟨wrote, k, row⟩ := (s.drum d).scaleRow_eq dsel
    have alone := rolls.alone
    have idles := rolls.idles
    rw [row] at drum
    refine State.unitStep_waits ?_ (.inr ?_)
    · rw [drum]
      exact ⟨alone.jobs, alone.cur, alone.tuner, alone.queues⟩
    · rw [drum]
      exact idles
  have units : (s.tick.rollTick d).unitsRun d = s.tick.nextRollRow d j := by
    rw [ticks, State.unitsRun, unitsGo_of_none waits]
  have work : (s.drum d).hasWork = true := by simp [Drum.hasWork, rolls.busy]
  rw [State.idle_one hd clock cool rest work (by rw [units]; exact only), units]
  exact ⟨only, drum⟩

end

/-- Settles O22: each function's row is written whole before the next is read; a ROPE's entry that is not finite ends it before
its row; and the ROLL that may be preempted does one row in an ac. -/
theorem rollFunctionsOfTheirRows : Obligations.RollFunctionsOfTheirRows := by
  refine ⟨?_, ?_, ?_⟩
  · intro s d w kept offers op q x l good still closed faults rows columns dsel apart done
    have rolls : s.Rolls d w := ⟨offers, op, good, still, closed, faults, rows, columns⟩
    have noTable {func : Nat} (kind : q.func = func) (gelu : func ≠ 0x30) (silu : func ≠ 0x31) : q.tableGood x :=
      RollW.tableGood_of_func kind gelu silu x
    refine ⟨fun func => ?_, fun func => ?_, fun func => ?_, fun func => ?_, fun func legal => ?_, fun func legal => ?_⟩
    · exact rolls.rollDone kept dsel apart rfl func (noTable func (by decide) (by decide)) (RollW.makes_mask x func)
    · exact rolls.rollDone kept dsel apart rfl func (noTable func (by decide) (by decide)) (RollW.makes_softmax x func)
    · exact rolls.rollDone kept dsel apart rfl func (noTable func (by decide) (by decide)) (RollW.makes_rmsnorm x func)
    · exact rolls.rollDone kept dsel apart rfl func (noTable func (by decide) (by decide)) (RollW.makes_layernorm x func)
    · exact rolls.rollDone kept dsel apart rfl func (fun _ => legal) (RollW.makes_act x (.inl func))
    · exact rolls.rollDone kept dsel apart rfl func (fun _ => legal) (RollW.makes_act x (.inr func))
  · intro s d w r kept offers op run q x good still closed faults one columns single
    have rolls : s.Rolls d w := ⟨offers, op, good, still, closed, faults, by rw [one]; decide, columns⟩
    refine ⟨fun l func dsel apart rotated => ?_, fun func lost free => ?_, fun func => ?_⟩
    · have noTable : q.tableGood x := RollW.tableGood_of_func func (by decide) (by decide) x
      obtain ⟨only, done⟩ := rolls.shellRows kept single noTable func dsel (by rw [one]; exact apart)
        (RollW.makes_rope x func one rotated)
      have inside : 0 < q.m := by omega
      exact ⟨_, rolls.exec rfl, only, done.rolling.moved, (done.rows 0 inside).trans (if_pos inside), done.mem⟩
    · have noTable : q.tableGood x := RollW.tableGood_of_func func (by decide) (by decide) x
      have noRow : (x.tabled q).rollFun q 0 (x.rollIn q 0) = none := by
        rw [Drum.rollFun, func]
        exact congrArg (Option.map _) lost
      obtain ⟨latched, shell, mem⟩ := rolls.firstLost single noTable func run free (by rw [func]; decide) noRow
      exact ⟨_, rolls.exec rfl, latched, congrArg Shell.rows shell, mem⟩
    · have noTable : q.tableGood x := RollW.tableGood_of_func func (by decide) (by decide) x
      obtain ⟨only, done⟩ := rolls.padRows single noTable func (RollW.puts_topk x func)
      refine ⟨_, rolls.exec rfl, only, done.rolling.moved, done.shell, ?_⟩
      rw [done.mem, one]
      rfl
  · intro s d j hd kept empty clock cool rest checks moves out ports x q busy idles calm jobs load cur queues tuner sound free
      func dsel narrow more apart
    obtain ⟨only, drum⟩ := State.idle_scaleRow kept hd clock cool rest
      ⟨⟨jobs, cur, tuner, queues⟩, busy, idles, calm, sound, free⟩ func dsel
    obtain ⟨wrote, k, row⟩ := x.scaleRow_eq dsel
    have shellKept : x.shell.Kept := (kept.drum d).2
    obtain ⟨base, -, others⟩ := only
    have rests : s.idle.BaseRests := by
      rw [base, State.tick_running clock cool]
      exact ⟨moves, out, ports⟩
    have passed (e : Nat) : (s.idle.drum e).sound.failIn = 0 := by
      by_cases same : e = d
      · rw [same, drum, row]
        exact checks d
      · rw [others e same, State.tick_running clock cool]
        exact checks e
    have beat : s.idle.beat = s.beat + 1 := by rw [base, State.tick_running clock cool]
    have written : (s.idle.drum d).shell = x.shell.rollSegs q x.roll.row ((x.rollIn q x.roll.row).map q.scaled) q.span := by
      rw [drum, row]
    refine ⟨s.idle, (step_empty empty).trans (congrArg _ (rests.pass_eq clock cool passed)), beat, ?_, ?_, fun m hm other => ?_,
      ?_, ?_⟩
    · rw [drum, row]
    · exact Drum.rollIn_written shellKept narrow apart more written ((List.length_map _).trans (x.rollIn_length q _))
    · exact Drum.rollIn_written_ne shellKept narrow apart more written hm other
    · rw [drum, row, ← busy]
    · rw [drum, row]

end Sys2Proof.Machine
end

section
/-! A TAP or a CHECK on a drum whose units are still (R150, R201, R210, R211): its issue, and its take-up by the skin. -/

namespace Sys2Proof.Machine

/-! ### Issue -/

/-- Drum d offers the TAP or CHECK w, and its units are still. -/
structure State.Taps (s : State) (d : Nat) (w : Quad) : Prop where
  offers : s.offers d w
  opcode : opcode w = 0x11
  good : (tapW w).rsv = 0
  still : (s.drum d).still

/-- The state with the TAP or CHECK w handed to the skin of drum d. -/
def State.tapped (s : State) (d : Nat) (w : Quad) : State :=
  ((s.fetched d).took d 1 w).queueSkin d ((s.drum d).tapJob w true)

section
variable {s : State} {d : Nat} {w : Quad}

theorem fillLine_miss (x : Drum) (beat : Dword) (pc : Nat) : (x.fillLine beat pc).seq.miss = x.seq.miss := by
  simp only [Drum.fillLine]
  split <;> rfl

theorem tapJob_fetched (x : Drum) (beat : Dword) (w : Quad) (par : Bool) : (x.fetched beat).tapJob w par = x.tapJob w par := by
  rw [Drum.tapJob, newJob_fetched, Drum.tapJob]

theorem State.tapped_issued (offers : s.offers d w) :
    OnlyDrum d s (s.tapped d w) ∧
      (((s.tapped d w).drum d).seq.cls = (s.drum d).seq.cls ∧ ((s.tapped d w).drum d).seq.miss = (s.drum d).seq.miss) ∧
      Issued (s.drum d) ((s.tapped d w).drum d) 1 w ((s.drum d).tapJob w true) := by
  have ⟨_, hl, _, reissue, _⟩ := offers
  have filled := fetched_filled (s.drum d) s.beat
  have drum : (s.tapped d w).drum d = { s.drum d with
      seq := ((s.drum d).fetched s.beat).seq.took 1 w, pad := ((s.drum d).fetched s.beat).pad
      skin := { (s.drum d).skin with jobs := (s.drum d).skin.jobs ++ [(s.drum d).tapJob w true] } } := by
    rw [State.tapped, State.queueSkin, State.drum_modSkin _ (by rwa [State.took_length, fetched_length]),
      drum_took (by rwa [fetched_length]), drum_fetched hl, filled.same]
  refine ⟨?_, ?_, ?_⟩
  · rw [State.tapped, State.queueSkin]
    exact (onlyDrum_fetched s d).trans ((onlyDrum_took _ d 1 w).trans (onlyDrum_modSkin _ d _))
  · rw [drum, took_eq _ _ _ (filled.reissue.trans reissue)]
    exact ⟨fillLine_cls .., fillLine_miss ..⟩
  · rw [drum]
    exact ⟨filled.moved reissue rfl, filled.pad, rfl⟩

theorem State.Taps.queue_room (h : s.Taps d w) : ¬ 2 ≤ ((s.fetched d).drum d).skin.queued := by
  obtain ⟨jobs, -⟩ := h.still
  rw [drum_fetched h.offers.2.1, Drum.fetched, fillLine_skin, Skin.queued, jobs]
  decide

theorem State.Taps.exec_tap (h : s.Taps d w) (sel : (tapW w).sel ≠ 3) :
    exec (.tap d true) s = .next ((s.tapped d w).unitsRun d) := by
  have run : execTap d true s = .next ((s.tapped d w).unitsRun d) := by
    rw [execTap, onDrum_eq h.offers.1, issue_offered h.offers (by rw [h.opcode]; decide),
      if_pos ⟨h.opcode, bne_iff_ne.2 sel⟩]
    simp only [tapRun, if_neg h.queue_room, h.good, ne_eq, not_true_eq_false, if_false]
    rw [drum_fetched h.offers.2.1, tapJob_fetched]
    rfl
  exact run

/-- A CHECK that no replay comes back to is queued. -/
theorem State.Taps.exec_check (h : s.Taps d w) (sel : (tapW w).sel = 3) (first : (s.drum d).tap.replay = none) :
    exec (.check d true) s = .next ((s.tapped d w).unitsRun d) := by
  have first' : ((s.fetched d).drum d).tap.replay = none := by
    rw [drum_fetched h.offers.2.1, Drum.fetched, fillLine_tap]
    exact first
  have run : execCheck d true s = .next ((s.tapped d w).unitsRun d) := by
    rw [execCheck, onDrum_eq h.offers.1, issue_offered h.offers (by rw [h.opcode]; decide),
      if_pos ⟨h.opcode, beq_iff_eq.2 sel⟩]
    simp only [checkRun, if_neg h.queue_room, h.good, first', Option.isSome_none, Bool.false_eq_true, ne_eq, not_true_eq_false,
      if_false]
    rw [drum_fetched h.offers.2.1, tapJob_fetched]
    rfl
  exact run

/-! ### What holds a TAP or a CHECK -/

/-- Nothing holds a TAP on units that were still; a CHECK waits for its open bell rows only. -/
theorem Drum.skinHeld_tap {x y : Drum} {j : SkinJob} {n : Nat} (still : x.still) (issued : Issued x y n w j)
    (op : opcode j.u.w = 0x11) (closed : j.isCheck = true → x.shell.openRow j.rows = false) : y.skinHeld j = false := by
  obtain ⟨empty, load, cur, lanes, leaves, queues, roll, tuner, -⟩ := still
  have jobs : y.skin.jobs = [j] := by rw [issued.jobs, empty, List.nil_append]
  have steps : y.skin.steps = [] := by rw [issued.same]; simp [Skin.steps, load, cur, lanes]
  have lanes' : y.skin.laneQ = [] := by rw [issued.same]; exact lanes
  have leaves' : y.shell.leaves = [] := by rw [issued.shell]; exact leaves
  have queues' : y.queues = ⟨[], [], [], []⟩ := by rw [issued.same]; exact queues
  have roll' : y.roll.cur = none := by rw [issued.same]; exact roll
  have tuner' : y.tuner.cur = none := by rw [issued.same]; exact tuner
  have tap : j.isTap = true := beq_iff_eq.2 op
  have reads : y.unitReads j.u.ord = 0 := by simp [Drum.unitReads, Drum.rollsBefore, queues', roll', tuner', orRows]
  cases check : j.isCheck with
  | true =>
    have writes : y.skinWrites j.u.ord = 0 := by simp [Drum.skinWrites, steps, jobs, leaves', orRows]
    have units : y.unitWrites j.u.ord = 0 := by simp [Drum.unitWrites, Drum.rollsBefore, queues', roll', orRows]
    have held : y.rowsHeld j.u.ord false j.rows = false := by
      simp [Drum.rowsHeld, writes, units, issued.shell, closed check]
    simp [Drum.skinHeld, tap, check, lanes', reads, held]
  | false =>
    have scales : y.scalesPending j = false := by simp [Drum.scalesPending, Drum.tunes, queues', tuner']
    simp [Drum.skinHeld, tap, check, lanes', reads, scales]

/-! ### The take-up -/

/-- From x to y the sequencer has taken the TAP or CHECK w, and the pad has noted accesses; the MISS policy stays. -/
structure TapTaken (w : Quad) (x y : Drum) : Prop extends Taken w x y where
  miss : y.seq.miss = x.seq.miss

theorem TapTaken.access {x : Drum} {u : State} (hd : d < u.drums.length) (h : TapTaken w x (u.drum d)) (l : List Range) :
    TapTaken w x ((u.access d l).drum d) :=
  ⟨h.toTaken.access hd l, by rw [drum_access hd]; exact h.miss⟩

/-- The state with the TAP or CHECK off the skin's queue. -/
def State.tapTaken (s : State) (d : Nat) (w : Quad) : State :=
  (s.tapped d w).modDrum d (·.dropOrd ((s.drum d).newJob w true).ord)

theorem State.Taps.taken (h : s.Taps d w) :
    OnlyDrum d s (s.tapTaken d w) ∧ TapTaken w (s.drum d) ((s.tapTaken d w).drum d) := by
  obtain ⟨only, ⟨cls, miss⟩, issued⟩ := State.tapped_issued h.offers
  obtain ⟨jobs, -, -, -, -, -, roll, tuner, -⟩ := h.still
  have ⟨_, hl, _⟩ := h.offers
  have dropped : ((s.tapped d w).drum d).dropOrd ((s.drum d).newJob w true).ord = { s.drum d with
      seq := ((s.tapped d w).drum d).seq, pad := ((s.tapped d w).drum d).pad } := by
    have skin : (s.drum d).skin = { (s.drum d).skin with jobs := [] } := by rw [← jobs]
    have roll' : (s.drum d).roll = { (s.drum d).roll with cur := none } := by rw [← roll]
    have tuner' : (s.drum d).tuner = { (s.drum d).tuner with cur := none } := by rw [← tuner]
    rw [Drum.dropOrd, issued.same, jobs]
    simp only [List.nil_append, Drum.tapJob, ne_eq, not_true_eq_false, decide_false, List.filter_cons_of_neg, Bool.false_eq_true,
      not_false_eq_true, List.filter_nil, roll, tuner, Option.filter_none]
    rw [← skin, ← roll', ← tuner']
  rw [State.tapTaken, State.drum_modDrum _ (only.drum_lt hl), dropped]
  refine ⟨only.trans (onlyDrum_modDrum _ d _), ⟨issued.moved.congr rfl rfl rfl rfl rfl, cls, issued.pad, rfl⟩, miss⟩

/-- Units that were still do nothing but take the TAP or CHECK up. -/
theorem State.Taps.takes (h : s.Taps d w)
    (closed : ((s.drum d).tapJob w true).isCheck = true → (s.drum d).shell.openRow ((s.drum d).tapJob w true).rows = false) :
    ∃ n, (s.tapped d w).unitsRun d = unitsGo d n ((s.tapped d w).startSkin d ((s.drum d).tapJob w true)) := by
  obtain ⟨-, -, issued⟩ := State.tapped_issued h.offers
  have still := h.still
  have held : ((s.tapped d w).drum d).skinHeld ((s.drum d).tapJob w true) = false :=
    Drum.skinHeld_tap still issued (by rw [Drum.tapJob, Drum.newJob_w]; exact h.opcode) closed
  obtain ⟨empty, load, cur, -, -, queues, roll, tuner, -, calm, -⟩ := still
  have jobs : ((s.tapped d w).drum d).skin.jobs = [(s.drum d).tapJob w true] := by rw [issued.jobs, empty, List.nil_append]
  have load' : ((s.tapped d w).drum d).skin.load = none := by rw [issued.same]; exact load
  have cur' : ((s.tapped d w).drum d).skin.cur = none := by rw [issued.same]; exact cur
  have calm' : ((s.tapped d w).drum d).preempting = none := by rw [issued.same]; exact calm
  have next : (s.tapped d w).unitStep d = some ((s.tapped d w).startSkin d ((s.drum d).tapJob w true)) := by
    rw [State.unitStep_eq_skinStep (issued.othersRest (Drum.othersRest_of_empty queues roll tuner))]
    simp only [State.skinStep, cur', load', calm', jobs, held, Option.isSome_none, Bool.or_self, Bool.false_eq_true, if_false]
  obtain ⟨n, fuel⟩ := Nat.exists_eq_add_of_le' (Drum.workLeft_ge ((s.tapped d w).drum d))
  exact ⟨n + 7, by rw [State.unitsRun, fuel]; exact unitsGo_of_some next _⟩

/-- The state in which a TAP or CHECK past its checks takes effect: its accesses have been noted. -/
def State.tapNoted (s : State) (d : Nat) (w : Quad) (reads writes : List Range) : State :=
  ((s.tapTaken d w).access d reads).access d writes

theorem State.Taps.noted (h : s.Taps d w) (reads writes : List Range) :
    OnlyDrum d s (s.tapNoted d w reads writes) ∧ TapTaken w (s.drum d) ((s.tapNoted d w reads writes).drum d) := by
  obtain ⟨only, taken⟩ := h.taken
  have ⟨_, hl, _⟩ := h.offers
  have hu := only.drum_lt hl
  exact ⟨only.trans ((onlyDrum_access _ d _).trans (onlyDrum_access _ d _)),
    (taken.access hu reads).access (by rwa [State.access_length]) writes⟩

/-- The words that it reads pass their parity, so that its effect follows (R235, R357). -/
theorem State.Taps.readWrite (h : s.Taps d w) (reads writes : List Range) (rows : Bool) (effect : State → State) :
    (s.tapTaken d w).readWrite d ((s.drum d).newJob w true).ord reads writes
      (·.checked d ((s.drum d).newJob w true) rows effect) = effect (s.tapNoted d w reads writes) := by
  obtain ⟨only, taken⟩ := h.taken
  have ⟨_, hl, _⟩ := h.offers
  rw [State.readWrite_sound (only.drum_lt hl) (taken.pad.failed.trans h.still.sound), State.checked, Drum.newJob_par]
  rfl

/-! ### The checks at decode -/

theorem State.regionFault_view {u : State} (view : (s.drum d).SameView (u.drum d)) (l : List Range) :
    u.regionFault d l = s.regionFault d l := by
  simp only [State.regionFault, view.regionOk, view.abs]

theorem Issued.sameView {x y : Drum} {n : Nat} {j : SkinJob} (h : Issued x y n w j) : x.SameView y := by
  obtain ⟨-, -, -, run, -⟩ := h.moved
  exact ⟨run, h.pad⟩

/-- A TAP's checks read the tile, the scales and the region. -/
theorem TapW.faults_issued (q : TapW) {u : State} {n : Nat} {j : SkinJob} (h : Issued (s.drum d) (u.drum d) n w j) :
    q.faults u d = q.faults s d := by
  have tile : q.step.badTile (u.drum d).skin = q.step.badTile (s.drum d).skin := by rw [h.same]; rfl
  have skew : q.step.skew (u.drum d) = q.step.skew (s.drum d) := by rw [h.same]; rfl
  simp only [TapW.faults, tile, skew, State.regionFault_view h.sameView]

theorem replayBad_view {x y : Drum} (view : x.SameView y) (stop : Nat) : ∀ n pc, replayBad y stop n pc = replayBad x stop n pc
  | 0, _ => rfl
  | n + 1, pc => by simp only [replayBad, view.padNat, replayBad_view view stop n]

theorem Drum.SameView.mapHdr {x y : Drum} (view : x.SameView y) (mout : Nat) : y.mapHdr mout = x.mapHdr mout := by
  simp only [Drum.mapHdr, view.padNat]

/-- A CHECK's checks read its map, the words of its replay, the MISS policy and the region. -/
theorem TapW.checkFaults_issued (q : TapW) {u : State} {n : Nat} {j : SkinJob} (h : Issued (s.drum d) (u.drum d) n w j)
    (miss : (u.drum d).seq.miss = (s.drum d).seq.miss) (pc : Nat) : q.checkFaults u d pc = q.checkFaults s d pc := by
  have serial : (u.drum d).tap.serial = (s.drum d).tap.serial := by rw [h.same]
  have bad (hdr : MapHdr) : (u.drum d).badReplay hdr pc = (s.drum d).badReplay hdr pc := by
    simp only [Drum.badReplay, replayBad_view h.sameView]
  simp only [TapW.checkFaults, State.regionFault_view h.sameView, h.sameView.mapHdr, miss, serial, bad]

/-! ### The command -/

theorem Drum.newJob_pc {x : Drum} (reissue : x.seq.reissue = []) (w : Quad) (par : Bool) : (x.newJob w par).pc = x.seq.pc := by
  simp only [Drum.newJob, Seq.nextPc, reissue]

/-- An estimating TAP without fault takes its effect at once. -/
theorem State.Taps.tap_runs (h : s.Taps d w) (sel : (tapW w).sel ≠ 3) (faults : (tapW w).faults s d = []) :
    ∃ u n, exec (.tap d true) s = .next (unitsGo d n (u.modDrum d (·.runTap (tapW w) (s.drum d).seq.pc))) ∧
      OnlyDrum d s u ∧ TapTaken w (s.drum d) (u.drum d) := by
  have ⟨_, _, _, reissue, _⟩ := h.offers
  obtain ⟨-, -, issued⟩ := State.tapped_issued h.offers
  have check : ((s.drum d).tapJob w true).isCheck = false := by
    rw [SkinJob.isCheck, Drum.tapJob, Drum.newJob_w]
    exact Bool.and_eq_false_imp.2 fun _ => beq_eq_false_iff_ne.2 sel
  have tap : ((s.drum d).tapJob w true).isTap = true := by
    rw [SkinJob.isTap, Drum.tapJob, Drum.newJob_w]
    exact beq_iff_eq.2 h.opcode
  obtain ⟨n, runs⟩ := h.takes fun yes => absurd yes (by rw [check]; decide)
  have start : (s.tapped d w).startSkin d ((s.drum d).tapJob w true) =
      (s.tapNoted d w (tapW w).reads [(tapW w).mapRange]).modDrum d (·.runTap (tapW w) (s.drum d).seq.pc) := by
    have word : ((s.drum d).tapJob w true).u = (s.drum d).newJob w true := rfl
    simp only [State.startSkin, check, tap, Bool.false_eq_true, if_false, if_true, State.startTap, word, Drum.newJob_w,
      TapW.faults_issued _ issued, faults, List.isEmpty_nil, Bool.not_true]
    rw [Drum.newJob_pc reissue]
    exact h.readWrite _ _ _ _
  obtain ⟨only, taken⟩ := h.noted (tapW w).reads [(tapW w).mapRange]
  exact ⟨_, n, by rw [h.exec_tap sel, runs, start], only, taken⟩

/-- A CHECK without fault whose rows are final takes its effect at once. -/
theorem State.Taps.check_runs (h : s.Taps d w) (sel : (tapW w).sel = 3) (first : (s.drum d).tap.replay = none)
    (closed : (s.drum d).shell.openRow (rowMask (tapW w).row0 (min 256 (tapW w).m)) = false)
    (faults : (tapW w).checkFaults s d (s.drum d).seq.pc = []) :
    ∃ u n, exec (.check d true) s = .next (unitsGo d n (u.runCheck d (tapW w) ((s.drum d).newJob w true))) ∧
      OnlyDrum d s u ∧ TapTaken w (s.drum d) (u.drum d) := by
  have ⟨_, _, _, reissue, _⟩ := h.offers
  obtain ⟨-, ⟨-, miss⟩, issued⟩ := State.tapped_issued h.offers
  have check : ((s.drum d).tapJob w true).isCheck = true := by
    rw [SkinJob.isCheck, Drum.tapJob, Drum.newJob_w]
    exact Bool.and_eq_true_iff.2 ⟨beq_iff_eq.2 h.opcode, beq_iff_eq.2 sel⟩
  obtain ⟨n, runs⟩ := h.takes fun _ => closed
  have start : (s.tapped d w).startSkin d ((s.drum d).tapJob w true) =
      (s.tapNoted d w [(tapW w).mapRange] []).runCheck d (tapW w) ((s.drum d).newJob w true) := by
    have word : ((s.drum d).tapJob w true).u = (s.drum d).newJob w true := rfl
    simp only [State.startSkin, check, if_true, State.startCheck, word, Drum.newJob_w, Drum.newJob_pc reissue,
      TapW.checkFaults_issued _ issued miss, faults, List.isEmpty_nil, Bool.not_true, Bool.false_eq_true, if_false]
    exact h.readWrite _ _ _ _
  obtain ⟨only, taken⟩ := h.noted [(tapW w).mapRange] []
  exact ⟨_, n, by rw [h.exec_check sel first, runs, start], only, taken⟩

end
end Sys2Proof.Machine
end

section
/-! The map of an estimating TAP and the rows of its estimates (R201-R208): the settling of O24. -/

namespace Sys2Proof.Machine

/-! ### Estimates -/

/-- The drum once an estimating TAP has written its rows, into a new map or a continued one (R203, R204). -/
def Drum.estimated (x : Drum) (q : TapW) (cont : Bool) : Drum :=
  if q.m = 0 ∨ q.k = 0 then x
  else if q.n = 0 then { x with shell := loop (fun m h => h.setStatus (q.row0 + m) 0#32) q.m x.shell }.noteRows q.row0 q.m
  else loop (fun m x => x.tapRow q.step cont m) q.m x

/-- From x to y estimates of the TAP's rows have been written: beside the lane timing and the counters of the skin and what
the run notes, only the shell's rows q.row0 to q.row0 + q.m - 1 differ. -/
structure Estimated (q : TapW) (x y : Drum) : Prop where
  same : y = { x with
    seq := { x.seq with wrote := y.seq.wrote }
    skin := { y.skin with load := x.skin.load, cur := x.skin.cur, jobs := x.skin.jobs }
    shell := y.shell }
  kept : y.shell.Kept
  rows : ∀ i n, n < 1024 → i < q.row0 ∨ q.row0 + q.m ≤ i → shellAt y.shell i n = shellAt x.shell i n

/-- A row of estimates goes to its shell row, as many as the TAP has outputs. -/
theorem Drum.tapRow_eq (x : Drum) (t : Step) (cont : Bool) (m : Nat) : ∃ vals f adds k wrote, vals.length = t.n ∧
    k = { k with load := x.skin.load, cur := x.skin.cur, jobs := x.skin.jobs } ∧
    x.tapRow t cont m = { x with
      seq := { x.seq with wrote := wrote }, skin := k
      shell := { (x.shell.putRow (t.row0 + m) 0 vals).setStatus (t.row0 + m) f with adds := adds } } :=
  ⟨_, _, _, _, _, by rw [List.length_map, List.length_range], rfl, rfl⟩

section
variable {q : TapW} {x y : Drum}

theorem Estimated.tapRow (h : Estimated q x y) (narrow : q.n ≤ 1024) (cont : Bool) {m : Nat} (hm : m < q.m) :
    Estimated q x (y.tapRow q.step cont m) := by
  obtain ⟨vals, f, adds, k, wrote, size, skin, row⟩ := y.tapRow_eq q.step cont m
  have size' : vals.length ≤ 1024 := size.trans_le narrow
  rw [row]
  refine ⟨?_, h.kept.putRow.setStatus, fun i n hn out => ?_⟩
  · rw [skin, h.same]
  · rw [← h.rows i n hn out]
    refine (Shell.shellAt_putRow h.kept size' hn).trans (if_neg fun ⟨same, _⟩ => ?_)
    have : q.step.row0 = q.row0 := rfl
    omega

theorem Estimated.loop (h : Estimated q x y) (narrow : q.n ≤ 1024) (cont : Bool) : ∀ n, n ≤ q.m →
    Estimated q x (Machine.loop (fun m x => x.tapRow q.step cont m) n y)
  | 0, _ => h
  | n + 1, inside => (Estimated.loop h narrow cont n (by omega)).tapRow narrow cont inside

theorem Drum.estimated_rows (kept : x.shell.Kept) (narrow : q.n ≤ 1024) (cont : Bool) : Estimated q x (x.estimated q cont) := by
  have first : Estimated q x x := ⟨rfl, kept, fun _ _ _ _ => rfl⟩
  unfold Drum.estimated
  split
  · exact first
  · split
    · have statuses : ∀ n, (Machine.loop (fun m h => h.setStatus (q.row0 + m) 0#32) n x.shell).rows = x.shell.rows :=
        loop_keeps (g := Shell.rows) (f := fun m h => h.setStatus (q.row0 + m) 0#32) (fun _ _ => rfl) x.shell
      refine ⟨rfl, Shell.Kept.loop (fun _ _ k => k.setStatus) kept, fun i n _ _ => ?_⟩
      exact congrArg (getCell 0#32 · (i * 1024 + n)) (statuses q.m)
    · exact first.loop narrow cont q.m le_rfl

end

/-! ### The map -/

/-- From x to y bytes of the map have been written, and nothing else. -/
structure MapWritten (q : TapW) (x y : Drum) : Prop where
  copied : Copied x y
  wf : Memory.wf y.pad.mem = true
  out : ∀ a, a < x.abs q.mout ∨ x.abs q.mout + 4096 + 128 * q.m ≤ a → getByte y.pad.mem a = getByte x.pad.mem a

theorem MapWritten.padPut {q : TapW} {x y : Drum} (h : MapWritten q x y) (sound : x.pad.failed = []) {off : Nat} {l : List Byte}
    (lo : q.mout ≤ off) (hi : off + l.length ≤ q.mout + 4096 + 128 * q.m) : MapWritten q x (y.padPut off l) := by
  have put : (y.padPut off l).pad = { y.pad with mem := putBytes y.pad.mem (x.abs off) l } := by
    rw [Drum.padPut, Pad.put_sound (h.copied.failed.trans sound), h.copied.abs]
  refine ⟨h.copied.trans ⟨rfl, ?_⟩, putBytes_wf _ _ h.wf, fun a apart => ?_⟩
  · rw [put]
    rfl
  · rw [put, ← h.out a apart]
    refine getByte_putBytes_out _ ?_
    rw [x.abs_eq] at apart ⊢
    omega

/-- The lane mask and the keep bitmap of row m (R206, R208). -/
def Drum.putRowMap (x : Drum) (q : TapW) (seq : Half) (keeps : List (List Bool)) (m : Nat) : Drum :=
  let keep := (keeps[m]?).getD []
  let mask := laneMask q.wfmt q.n keep (auditLane x.shell.seed x.logical.toNat seq.toNat q.row0 m)
  (x.padPut (q.mout + 8 * m) (leBytes 8 mask)).padPut (q.mout + 4096 + 128 * m) (leBytes 128 (boolBits keep))

def Drum.putRowMaps (x : Drum) (q : TapW) (seq : Half) (keeps : List (List Bool)) : Drum :=
  (List.range q.m).foldl (fun x m => x.putRowMap q seq keeps m) x

/-- The lane masks and keep bitmaps of all rows stand inside the map. -/
theorem Drum.putRowMaps_written {q : TapW} {x : Drum} (wf : Memory.wf x.pad.mem = true) (sound : x.pad.failed = [])
    (few : q.m ≤ 512) (seq : Half) (keeps : List (List Bool)) : MapWritten q x (x.putRowMaps q seq keeps) := by
  refine List.foldlRecOn (motive := MapWritten q x) _ _ ⟨.refl x, wf, fun _ _ => rfl⟩ fun y h m hm => ?_
  have := List.mem_range.1 hm
  refine (h.padPut sound (by omega) ?_).padPut sound (by omega) ?_ <;> rw [leBytes_length] <;> omega

/-! ### The map's header -/

theorem getNat_putBytes {m : Memory} (wf : Memory.wf m = true) (l : List Byte) (a : Nat) {o n : Nat}
    (inside : o + n ≤ l.length) : getNat (putBytes m a l) (a + o) n = leNat ((l.drop o).take n) := by
  have size : ((l.drop o).take n).length = n := by rw [List.length_take, List.length_drop]; omega
  refine congrArg leNat (List.ext_getElem ((getBytes_length ..).trans size.symm) fun i hi hl => ?_)
  rw [size] at hl
  rw [getBytes_getElem, Nat.add_assoc, getByte_putBytes l wf (by omega), List.getElem_take, List.getElem_drop,
    List.getElem?_eq_getElem (by omega), Option.getD_some]

theorem MapHdr.bytes_length (h : MapHdr) : h.bytes.length = 32 := by simp [MapHdr.bytes]

theorem Drum.padPut_abs (x : Drum) (off : Nat) (l : List Byte) (o : Nat) : (x.padPut off l).abs o = x.abs o := by
  have slot : (x.padPut off l).slot = x.slot := Drum.slot_congr rfl rfl
  rw [Drum.abs, slot, Drum.abs]

theorem Drum.padPut_mem (x : Drum) (off : Nat) (l : List Byte) :
    (x.padPut off l).pad.mem = putBytes x.pad.mem (x.abs off) l := rfl

theorem Drum.abs_add (x : Drum) (a b : Nat) : x.abs (a + b) = x.abs a + b := by
  rw [x.abs_eq, x.abs_eq a, Nat.add_assoc]

theorem Drum.padNat_putHdr {x : Drum} (wf : Memory.wf x.pad.mem = true) (h : MapHdr) (mout : Nat) {o n : Nat}
    (inside : o + n ≤ 32) : (x.padPut (mout + 2048) h.bytes).padNat (mout + 2048 + o) n = leNat ((h.bytes.drop o).take n) := by
  rw [Drum.padNat, Drum.padPut_abs, Drum.abs_add, Drum.padPut_mem, getNat_putBytes wf]
  rwa [h.bytes_length]

/-- The first byte of a header holds OPEN, MADEUP and SEL (R206). -/
theorem MapHdr.flags_read (o u : Bool) {sel : Nat} (h : sel < 4) : bit (o.toNat + 2 * u.toNat + 4 * sel) 0 = o ∧
    fld (o.toNat + 2 * u.toNat + 4 * sel) 2 2 = sel := by
  have := Bool.toNat_le o
  have := Bool.toNat_le u
  refine ⟨?_, by simp only [fld]; omega⟩
  have low : fld (o.toNat + 2 * u.toNat + 4 * sel) 0 1 = o.toNat := by simp only [fld]; omega
  rw [bit, low]
  cases o <;> rfl

/-- A header that fits its fields is read as it was written. -/
theorem Drum.mapHdr_putHdr {x : Drum} (wf : Memory.wf x.pad.mem = true) (mout : Nat) {h : MapHdr} (sel : h.sel < 4)
    (row0 : h.row0 < 256) (m : h.m < 65536) (n : h.n < 65536) (topk : h.topk < 65536) :
    let k := (x.padPut (mout + 2048) h.bytes).mapHdr mout
    k.opened = h.opened ∧ k.sel = h.sel ∧ k.row0 = h.row0 ∧ k.m = h.m ∧ k.n = h.n ∧ k.thr = h.thr ∧
      k.topk = h.topk ∧ k.tapseq = h.tapseq ∧ k.serial = h.serial := by
  have field {o n : Nat} (v : Nat) (inside : o + n ≤ 32) (bytes : (h.bytes.drop o).take n = leBytes n v) (fits : v < 256 ^ n) :
      (x.padPut (mout + 2048) h.bytes).padNat (mout + 2048 + o) n = v := by
    rw [Drum.padNat_putHdr wf h mout inside, bytes, leNat_leBytes n v fits]
  obtain ⟨opened, selected⟩ := MapHdr.flags_read h.opened h.madeup sel
  have flags := field (o := 0) (n := 1) (h.opened.toNat + 2 * h.madeup.toNat + 4 * h.sel) (by decide) rfl (by
    have := Bool.toNat_le h.opened
    have := Bool.toNat_le h.madeup
    omega)
  have thr := field (o := 6) (n := 2) h.thr.toNat (by decide) rfl h.thr.isLt
  have tapseq := field (o := 10) (n := 2) h.tapseq.toNat (by decide) rfl h.tapseq.isLt
  have serial := field (o := 12) (n := 4) h.serial.toNat (by decide) rfl h.serial.isLt
  refine ⟨?_, ?_, field (o := 1) (n := 1) _ (by decide) rfl row0, field (o := 2) (n := 2) _ (by decide) rfl m,
    field (o := 4) (n := 2) _ (by decide) rfl n, ?_, field (o := 8) (n := 2) _ (by decide) rfl topk, ?_, ?_⟩
  · simp only [Drum.mapHdr, flags, opened]
  · simp only [Drum.mapHdr, flags, selected]
  · simp only [Drum.mapHdr, thr, BitVec.ofNat_toNat, BitVec.setWidth_eq]
  · simp only [Drum.mapHdr, tapseq, BitVec.ofNat_toNat, BitVec.setWidth_eq]
  · simp only [Drum.mapHdr, serial, toW, BitVec.ofNat_toNat, BitVec.setWidth_eq]

/-! ### The TAP -/

/-- The header that a TAP of number seq writes into its map (R206). -/
def TapW.header (q : TapW) (seq : Half) (serial : Word) (kept replay parts : Nat) : MapHdr :=
  { opened := true, madeup := false, sel := q.sel, rsv := false, row0 := q.row0, m := q.m, n := q.n, thr := q.thr,
    topk := q.topk, tapseq := seq, serial := serial, kept := kept, replay := replay, parts := parts }

/-- The drum with the lane timing of a new chain. -/
def Drum.rechained (x : Drum) : Drum := { x with skin := x.skin.restart x.skin.free }

/-- The TAP's estimates, then the maps of its rows, then the header. -/
theorem Drum.runTap_eq (x : Drum) (q : TapW) (pc : Nat) : ∃ cont keeps kept parts src tiles,
    let y := x.rechained.estimated q cont
    let z := y.putRowMaps q y.tap.seq keeps
    x.runTap q pc = { z.padPut (q.mout + 2048) (q.header y.tap.seq z.tap.serial kept (pc + 1) parts).bytes with
      tap := { z.tap with seq := y.tap.seq + 1, tile := src, tiles := tiles } } :=
  ⟨_, _, _, _, _, _, rfl⟩

/-- The fields of a TAP's word lie in their widths (R156). -/
theorem tapW_bounds (w : Quad) : (tapW w).sel < 4 ∧ (tapW w).row0 < 256 ∧ (tapW w).topk < 65536 := by
  have below (n lo k : Nat) : fld n lo k < 2 ^ k := Nat.mod_lt _ (Nat.two_pow_pos k)
  exact ⟨below _ _ 2, below _ _ 8, (below _ _ 11).trans (by decide)⟩

/-- A TAP without fault has at most 256 rows of at most 1024 outputs (R47, R201). -/
theorem TapW.bounds {q : TapW} {s : State} {d : Nat} (faults : q.faults s d = []) : q.m ≤ 256 ∧ q.n ≤ 1024 := by
  have operands : q.step.badOperands = false := by
    cases bad : q.step.badOperands with
    | false => rfl
    | true => simp [TapW.faults, bad] at faults
  simp only [Step.badOperands, Bool.or_eq_false_iff, decide_eq_false_iff_not] at operands
  obtain ⟨⟨⟨⟨⟨⟨⟨⟨rows, columns⟩, -⟩, -⟩, -⟩, -⟩, -⟩, -⟩, -⟩ := operands
  exact ⟨Nat.not_lt.1 rows, Nat.not_lt.1 columns⟩

/-- From x to y an estimating TAP has run: beside the skin's counters only the shell's rows, the pad's bytes and what the tap
and the run note differ. -/
structure Tapped (q : TapW) (x y : Drum) : Prop where
  same : y = { x with
    seq := { x.seq with wrote := y.seq.wrote }
    skin := { y.skin with load := x.skin.load, cur := x.skin.cur, jobs := x.skin.jobs }
    shell := y.shell, pad := y.pad, tap := y.tap }
  seq : y.tap.seq = x.tap.seq + 1
  header : let h := y.mapHdr q.mout
    h.opened = true ∧ h.sel = q.sel ∧ h.row0 = q.row0 ∧ h.m = q.m ∧ h.n = q.n ∧ h.thr = q.thr ∧ h.topk = q.topk ∧
      h.tapseq = x.tap.seq ∧ h.serial = x.tap.serial
  bytes : ∀ a, a < x.abs q.mout ∨ x.abs q.mout + 4096 + 128 * q.m ≤ a → getByte y.pad.mem a = getByte x.pad.mem a
  rows : ∀ i n, n < 1024 → i < q.row0 ∨ q.row0 + q.m ≤ i → shellAt y.shell i n = shellAt x.shell i n

theorem Drum.runTap_tapped {x : Drum} {q : TapW} (shell : x.shell.Kept) (wf : Memory.wf x.pad.mem = true)
    (sound : x.pad.failed = []) (sel : q.sel < 4) (row0 : q.row0 < 256) (topk : q.topk < 65536) (few : q.m ≤ 256)
    (narrow : q.n ≤ 1024) (pc : Nat) : Tapped q x (x.runTap q pc) := by
  obtain ⟨cont, keeps, count, parts, src, tiles, run⟩ := x.runTap_eq q pc
  dsimp only at run
  have estimates : Estimated q x.rechained (x.rechained.estimated q cont) :=
    Drum.estimated_rows (x := x.rechained) shell narrow cont
  generalize x.rechained.estimated q cont = y at run estimates
  obtain ⟨same, -, rows⟩ := estimates
  have tap : y.tap = x.tap := by rw [same]; rfl
  have pad : y.pad = x.pad := by rw [same]; rfl
  have slot : y.slot = x.slot := Drum.slot_congr (by rw [same]; rfl) (by rw [pad])
  have abs (off : Nat) : y.abs off = x.abs off := by rw [Drum.abs, slot, Drum.abs]
  have soundY : y.pad.failed = [] := by rw [pad]; exact sound
  have maps := Drum.putRowMaps_written (by rw [pad]; exact wf) soundY (few.trans (by decide)) y.tap.seq keeps
  generalize y.putRowMaps q y.tap.seq keeps = z at run maps
  have serialZ : z.tap.serial = x.tap.serial := by rw [maps.copied.same]; exact congrArg Tap.serial tap
  let hdr := q.header y.tap.seq z.tap.serial count (pc + 1) parts
  have whole : MapWritten q y (z.padPut (q.mout + 2048) hdr.bytes) :=
    maps.padPut soundY (Nat.le_add_right ..) (by rw [MapHdr.bytes_length]; omega)
  obtain ⟨opened, selected, first, m, n, thr, top, tapseq, serial⟩ := Drum.mapHdr_putHdr maps.wf q.mout (h := hdr) sel row0
    (show q.m < 65536 by omega) (show q.n < 65536 by omega) topk
  generalize z.padPut (q.mout + 2048) hdr.bytes = v at *
  have copied := whole.copied.same
  rw [run]
  refine ⟨?_, ?_, ?_, fun a out => ?_, fun i n hn out => ?_⟩
  · rw [copied, same]
    rfl
  · rw [← tap]
  · exact ⟨opened, selected, first, m, n, thr, top, tapseq.trans (congrArg Tap.seq tap), serial.trans serialZ⟩
  · rw [← abs] at out
    rw [← pad]
    exact whole.out a out
  · have shell : v.shell = y.shell := by rw [copied]
    exact (congrArg (shellAt · i n) shell).trans (rows i n hn out)

/-- A drum whose units are at rest stays so when its skin keeps its jobs, its load and its feed. -/
theorem Drum.unitsRest.withSkin {x y : Drum} (h : x.unitsRest) (skin : y.skin.jobs = x.skin.jobs ∧ y.skin.load = x.skin.load ∧
    y.skin.cur = x.skin.cur) (queues : y.queues = x.queues) (roll : y.roll = x.roll) (tuner : y.tuner.cur = x.tuner.cur) :
    y.unitsRest := by
  obtain ⟨jobs, load, cur⟩ := skin
  unfold Drum.unitsRest
  rw [jobs, load, cur, queues, roll, tuner]
  exact h

theorem Tapped.unitsRest {q : TapW} {x y : Drum} (h : Tapped q x y) (rests : x.unitsRest) : y.unitsRest := by
  refine rests.withSkin ⟨?_, ?_, ?_⟩ ?_ ?_ ?_ <;> rw [h.same]

/-- Settles O24: the estimates change the rows, and the masks, the bitmaps and the header the map; the header is written last
and its fields hold what the TAP gives. -/
theorem tapOpensItsMap : Obligations.TapOpensItsMap := by
  intro s d w kept offers op q x sel good still faults
  obtain ⟨selBound, row0, topk⟩ := tapW_bounds w
  obtain ⟨few, narrow⟩ := TapW.bounds faults
  have taps : s.Taps d w := ⟨offers, op, good, still⟩
  obtain ⟨u, n, runs, only, taken⟩ := taps.tap_runs sel faults
  have hu := only.drum_lt offers.2.1
  have drum : (u.modDrum d (·.runTap q x.seq.pc)).drum d = (u.drum d).runTap q x.seq.pc := u.drum_modDrum hu _
  obtain ⟨⟨wf, -⟩, shell⟩ := kept.drum d
  have done := Drum.runTap_tapped (by rw [taken.shell]; exact shell) (by rw [taken.mem]; exact wf)
    (taken.pad.failed.trans still.sound) selBound row0 topk few narrow x.seq.pc
  have rests : ((u.modDrum d (·.runTap q x.seq.pc)).drum d).unitsRest := by
    rw [drum]
    exact done.unitsRest (taken.still still).unitsRest
  have ⟨jobs, _, cur, _⟩ := rests
  rw [unitsGo_idle rests.others cur (.inl jobs)] at runs
  refine ⟨_, runs, only.trans (onlyDrum_modDrum u d _), ?_⟩
  rw [drum]
  have tap : (u.drum d).tap = x.tap := by rw [taken.same]
  refine ⟨?_, by rw [done.seq, tap], ?_, fun a out => ?_, fun i k hk out => ?_⟩
  · refine taken.moved.congr ?_ ?_ ?_ ?_ ?_ <;> rw [done.same]
  · rw [← tap]
    exact done.header
  · rw [← taken.abs] at out
    rw [done.bytes a out, taken.mem]
  · rw [done.rows i k hk out, taken.shell]

end Sys2Proof.Machine
end

section
/-! The CHECK (R211-R214): its audit, its overwrite, and what follows a miss: the settling of O25. -/

namespace Sys2Proof.Machine

/-! ### The audit -/

/-- Misses, their mass and audited outputs of the first k rows (R212). -/
def Drum.audit (x : Drum) (h : MapHdr) (f : BitVec 3) (mout row0 k : Nat) : Nat × Nat × Nat :=
  (List.range k).foldl (fun p m =>
    let r := x.auditRow h f mout row0 m
    (p.1 + r.1, p.2.1 + r.2.1, p.2.2 + r.2.2)) (0, 0, 0)

section
variable {x y : Drum} {h : MapHdr} {f : BitVec 3} {mout row0 : Nat}

theorem Drum.audit_succ (k : Nat) :
    (x.audit h f mout row0 (k + 1)).1 = (x.audit h f mout row0 k).1 + (x.auditRow h f mout row0 k).1 := by
  rw [Drum.audit, List.range_succ, List.foldl_append]
  rfl

/-- Nothing was missed exactly if no row has a miss. -/
theorem Drum.audit_eq_zero : ∀ k, (x.audit h f mout row0 k).1 = 0 ↔ ∀ m, m < k → (x.auditRow h f mout row0 m).1 = 0
  | 0 => iff_of_true rfl fun _ hm => absurd hm (Nat.not_lt_zero _)
  | k + 1 => by
    rw [Drum.audit_succ, Nat.add_eq_zero_iff, Drum.audit_eq_zero k]
    constructor
    · rintro ⟨before, last⟩ m hm
      rcases Nat.lt_succ_iff_lt_or_eq.1 hm with earlier | rfl
      · exact before m earlier
      · exact last
    · exact fun all => ⟨fun m hm => all m (Nat.lt_succ_of_lt hm), all k (Nat.lt_succ_self k)⟩

theorem Drum.SameView.keptAt (view : x.SameView y) (m n : Nat) : y.keptAt mout m n = x.keptAt mout m n := by
  rw [Drum.keptAt, view.padNat, Drum.keptAt]

/-- The audit reads the shell, the map and the drum's number. -/
theorem Drum.SameView.audit (view : x.SameView y) (shell : y.shell = x.shell) (logical : y.logical = x.logical) (k : Nat) :
    y.audit h f mout row0 k = x.audit h f mout row0 k := by
  have row (m : Nat) : y.auditRow h f mout row0 m = x.auditRow h f mout row0 m := by
    simp only [Drum.auditRow, shell, logical, view.keptAt]
  simp only [Drum.audit, row]

end

/-! ### The overwrite -/

/-- What a dropped output reads once a CHECK has overwritten it (R213). -/
def MapHdr.fill (h : MapHdr) : Word := if h.sel = 1 then negInf32 else 0#32

/-- From x to y the first k rows of a CHECK have been overwritten: beside the statuses and what the run notes, only their
dropped outputs differ. -/
structure Overwritten (h : MapHdr) (mout row0 k : Nat) (x y : Drum) : Prop where
  same : y = { x with seq := { x.seq with wrote := y.seq.wrote }, shell := y.shell }
  kept : y.shell.Kept
  cells : ∀ i n, n < 1024 → shellAt y.shell i n =
    if row0 ≤ i ∧ i < row0 + k ∧ n < h.n ∧ x.keptAt mout (i - row0) n = false then h.fill else shellAt x.shell i n

section
variable {x y : Drum} {h : MapHdr} {mout row0 k : Nat}

theorem Overwritten.keptAt (o : Overwritten h mout row0 k x y) (m n : Nat) : y.keptAt mout m n = x.keptAt mout m n :=
  Drum.SameView.keptAt ⟨by rw [o.same], by rw [o.same]; exact .refl _⟩ m n

/-- A row's dropped outputs are filled, its kept ones stay. -/
theorem Drum.overwriteRow_eq (x : Drum) (h : MapHdr) (mout row0 m : Nat) : ∃ f, x.overwriteRow h mout row0 m =
    ({ x with shell := (x.shell.putCols (row0 + m) ((List.range h.n).filter fun n => !x.keptAt mout m n) fun _ =>
      h.fill).setStatus (row0 + m) f } : Drum).noteRows (row0 + m) 1 := by
  have cols : (List.range h.n).foldl (fun g n => if x.keptAt mout m n then g else g.put (row0 + m) n h.fill) x.shell =
      x.shell.putCols (row0 + m) ((List.range h.n).filter fun n => !x.keptAt mout m n) fun _ => h.fill := by
    rw [Shell.putCols, List.foldl_filter]
    congr 1
    funext g n
    cases x.keptAt mout m n <;> rfl
  rw [← cols]
  exact ⟨_, rfl⟩

theorem Shell.Kept.putCols {g : Shell} (kept : g.Kept) (row : Nat) (l : List Nat) (f : Nat → Word) : (g.putCols row l f).Kept :=
  Shell.Kept.foldl (fun _ _ k => k.put) kept

theorem Overwritten.next (o : Overwritten h mout row0 k x y) (narrow : h.n ≤ 1024) :
    Overwritten h mout row0 (k + 1) x (y.overwriteRow h mout row0 k) := by
  obtain ⟨f, row⟩ := y.overwriteRow_eq h mout row0 k
  rw [row]
  refine ⟨?_, (o.kept.putCols _ _ _).setStatus, fun i n hn => ?_⟩
  · rw [o.same]
    rfl
  · have columns : ∀ a ∈ (List.range h.n).filter fun n => !y.keptAt mout k n, a < 1024 := fun a ha =>
      (List.mem_range.1 (List.mem_filter.1 ha).1).trans_le narrow
    have dropped : n ∈ (List.range h.n).filter (fun n => !y.keptAt mout k n) ↔ n < h.n ∧ x.keptAt mout k n = false := by
      rw [List.mem_filter, List.mem_range, Bool.not_eq_true', o.keptAt]
    refine (Shell.shellAt_putCols hn o.kept.1 columns).trans ?_
    rw [o.cells i n hn]
    by_cases now : i = row0 + k
    · subst now
      rw [Nat.add_sub_cancel_left]
      simp [dropped]
    · rw [if_neg fun same => now same.1]
      exact if_congr (by rw [show i < row0 + (k + 1) ↔ i < row0 + k by omega]) rfl rfl

theorem Drum.overwritten (kept : x.shell.Kept) (narrow : h.n ≤ 1024) :
    ∀ k, Overwritten h mout row0 k x (loop (fun m x => x.overwriteRow h mout row0 m) k x)
  | 0 => ⟨rfl, kept, fun _ _ _ => (if_neg fun ⟨lo, hi, _⟩ => Nat.not_lt.2 lo hi).symm⟩
  | k + 1 => (Drum.overwritten kept narrow k).next narrow

end

/-! ### The map closed -/

/-- A closed header: OPEN is 0, MADEUP and SEL stay (R213). -/
theorem Drum.opened_closeMap {x : Drum} (wf : Memory.wf x.pad.mem = true) (mout : Nat) {h : MapHdr} (sel : h.sel < 4)
    (madeup : Bool) : ((x.closeMap mout h madeup).mapHdr mout).opened = false := by
  have := Bool.toNat_le (h.madeup || madeup)
  have first : (x.closeMap mout h madeup).padNat (mout + 2048 + 0) 1 = 2 * (h.madeup || madeup).toNat + 4 * h.sel := by
    rw [Drum.closeMap, Drum.padNat, Drum.padPut_abs, Drum.abs_add, Drum.padPut_mem,
      getNat_putBytes wf _ _ (o := 0) (n := 1) (leBytes_length ..).ge]
    exact leNat_leBytes 1 _ (by omega)
  have flags := (MapHdr.flags_read false (h.madeup || madeup) sel).1
  rw [Bool.toNat_false, Nat.zero_add] at flags
  simp only [Drum.mapHdr, first, flags]

/-! ### The tile loaded again -/

section
variable {x y : Drum}

/-- What a reload makes of the latches and the scales it reads from the pad and the tuner. -/
theorem Drum.SameView.reload_faults (view : x.SameView y) (tuner : y.tuner = x.tuner) (t : Step) :
    (y.reload t).2 = (x.reload t).2 := by
  have half (off : Nat) : halfAt y off = halfAt x off := by rw [halfAt, view.padNat, halfAt]
  have source : sourceCells y t = sourceCells x t := by simp only [sourceCells, view.padBytes]
  have scales (t : Step) : sourceScales y t = sourceScales x t := by simp only [sourceScales, half]
  have header (off : Nat) : y.sclHdr off = x.sclHdr off := by simp only [Drum.sclHdr, view.padBytes]
  have file (off : Nat) : y.readFile off = x.readFile off := by simp only [Drum.readFile, header, half, tuner]
  have step (t : Step) : y.stepFile t = x.stepFile t := by simp only [Drum.stepFile, scales, file, tuner]
  have tile : (y.loadTile t).2 = (x.loadTile t).2 := by
    by_cases image : t.src = 0
    · simp only [Drum.loadTile, image, if_true, view.padNat, view.abs, view.pad.mem]
      split <;> rfl
    · simp only [Drum.loadTile, image, if_false]
  simp only [Drum.reload, step, tile]
  split
  · split <;> rfl
  · rfl

/-- A reload leaves all but the latches, the weight sums and the tuner's scales. -/
theorem Drum.reload_eq (x : Drum) (t : Step) : ∃ tile cells sums u, u.cur = x.tuner.cur ∧
    (x.reload t).1 = { x with skin := { x.skin with tile := tile, cells := cells, sums := sums }, tuner := u } := by
  have tile := x.loadTile_eq t
  unfold Drum.reload
  dsimp only
  split
  · next u file =>
    split
    · rw [tile]
      exact ⟨_, _, _, u, Drum.stepFile_cur file, rfl⟩
    · exact ⟨_, _, _, _, x.loadTile_cur t, tile⟩
  · exact ⟨_, _, _, _, rfl, rfl⟩

end

/-! ### What a CHECK past its checks does -/

/-- The weight format of the tile that the map's last TAP struck (log 18). -/
def Tap.mapFmt (p : Tap) (mout : Nat) : BitVec 3 :=
  match p.mapTile mout with
  | some t => t.wfmt
  | none => 0

/-- What the CHECK of q finds on the drum. -/
def Drum.found (x : Drum) (q : TapW) : Nat × Nat × Nat :=
  x.audit (x.mapHdr q.mout) (x.tap.mapFmt q.mout) q.mout q.row0 q.m

/-- The counters of the tap once a CHECK of a map with so many kept outputs has audited (R212, R216). -/
def Tap.counted (p : Tap) (kept : Nat) (a : Nat × Nat × Nat) : Tap :=
  { p with kept := p.kept + BitVec.ofNat 64 kept, audited := p.audited + BitVec.ofNat 64 a.2.2
           misses := p.misses + BitVec.ofNat 64 a.1, mass := BitVec.ofNat 64 (min (2 ^ 64 - 1) (p.mass.toNat + a.2.1)) }

/-- The drum's counters and its run's misses with what the CHECK of q has found. -/
def Drum.audited (x : Drum) (q : TapW) : Drum :=
  { x with tap := x.tap.counted (x.mapHdr q.mout).kept (x.found q)
           seq := { x.seq with tapMisses := x.seq.tapMisses + (x.found q).1 } }

def State.audited (s : State) (d : Nat) (q : TapW) : State :=
  (s.modTap d (·.counted ((s.drum d).mapHdr q.mout).kept ((s.drum d).found q))).modSeq d
    fun k => { k with tapMisses := k.tapMisses + ((s.drum d).found q).1 }

/-- The sequencer goes back to the map's TAP (R214). -/
def State.sentBack (s : State) (d : Nat) (q : TapW) (h : MapHdr) : State :=
  (s.modTap d fun t => { t with replay := some q.mout, makeups := t.makeups + 1 }).modSeq d
    fun k => { k with pc := h.replay, madeup := true }

/-- The reload of drum d takes the place of its tile, or faults in the CHECK of order o. -/
def State.reloads (s : State) (d o : Nat) (t : Step) : State :=
  let u := s.setDrum d ((s.drum d).reload t).1
  if ((s.drum d).reload t).2.isEmpty then u else u.unitFault d o ((s.drum d).reload t).2

/-- The tile of a make-up replay, if there is one, is loaded again (R214). -/
def State.refetched (s : State) (d o : Nat) (tile : Option Step) : State :=
  match tile with
  | some t => s.readWrite d o ({ t with loadw := true, ascl := none }.loadReads (s.drum d)) [] (·.reloads d o t)
  | none => s

/-- The three ends of a CHECK past its checks (R213). -/
theorem State.runCheck_eq (s : State) (d : Nat) (q : TapW) (j : UnitJob) :
    let h := (s.drum d).mapHdr q.mout
    s.runCheck d q j =
      if ((s.drum d).found q).1 = 0 ∨ (s.drum d).seq.miss = 0 then
        (s.audited d q).modDrum d fun x =>
          (loop (fun m x => x.overwriteRow h q.mout q.row0 m) q.m x).closeMap q.mout h false
      else if (s.drum d).seq.miss = 1 then
        ((s.audited d q).sentBack d q h).refetched d j.ord ((s.drum d).tap.mapTile q.mout)
      else (s.audited d q).unitFault d j.ord [0x52] := rfl

section
variable {u : State} {d : Nat} {q : TapW} {j : UnitJob}

theorem onlyDrum_audited (u : State) (d : Nat) (q : TapW) : OnlyDrum d u (u.audited d q) := by
  rw [State.audited]
  exact (onlyDrum_modDrum u d _).trans (onlyDrum_modSeq _ d _)

theorem onlyDrum_sentBack (u : State) (d : Nat) (q : TapW) (h : MapHdr) : OnlyDrum d u (u.sentBack d q h) := by
  rw [State.sentBack]
  exact (onlyDrum_modDrum u d _).trans (onlyDrum_modSeq _ d _)

theorem State.drum_audited (hu : d < u.drums.length) (q : TapW) : (u.audited d q).drum d = (u.drum d).audited q := by
  rw [State.audited, State.drum_modSeq _ (by rwa [State.modTap_length]), u.drum_modTap hu, Drum.audited]

theorem State.drum_sentBack (hu : d < u.drums.length) (q : TapW) (h : MapHdr) : (u.sentBack d q h).drum d = { u.drum d with
    tap := { (u.drum d).tap with replay := some q.mout, makeups := (u.drum d).tap.makeups + 1 }
    seq := { (u.drum d).seq with pc := h.replay, madeup := true } } := by
  rw [State.sentBack, State.drum_modSeq _ (by rwa [State.modTap_length]), u.drum_modTap hu]

/-- The tile of a replay goes into the latches and, with its scales, into the tuner; all else stays. -/
theorem State.refetched_effect (hu : d < u.drums.length) (rests : (u.drum d).unitsRest) (sound : (u.drum d).pad.failed = [])
    (o : Nat) (tile : Option Step) (loads : ∀ t, tile = some t → ((u.drum d).reload t).2 = []) :
    let v := u.refetched d o tile
    OnlyDrum d u v ∧ (v.drum d).unitsRest ∧ (v.drum d).seq = (u.drum d).seq ∧ (v.drum d).tap = (u.drum d).tap ∧
      (v.drum d).shell = (u.drum d).shell ∧ (v.drum d).pad.mem = (u.drum d).pad.mem := by
  cases tile with
  | none => exact ⟨.refl u d, rests, rfl, rfl, rfl, rfl⟩
  | some t =>
    let reads := ({ t with loadw := true, ascl := none } : Step).loadReads (u.drum d)
    let a := (u.access d reads).access d []
    have only : OnlyDrum d u a := (onlyDrum_access u d _).trans (onlyDrum_access _ d _)
    have ha := only.drum_lt hu
    obtain ⟨pad, first⟩ := State.access_effect hu reads
    obtain ⟨pad', second⟩ := State.access_effect (s := u.access d reads) (by rwa [State.access_length]) []
    have drum : a.drum d = { u.drum d with pad := (a.drum d).pad } := by
      rw [first] at second
      exact second
    have same : SamePad (u.drum d).pad (a.drum d).pad := pad.trans pad'
    have sound' : ((a.drum d).reload t).2 = [] := by
      rw [Drum.SameView.reload_faults (x := u.drum d) ⟨by rw [drum], same⟩ (by rw [drum])]
      exact loads t rfl
    obtain ⟨tile, cells, sums, tuner, idle, loaded⟩ := (a.drum d).reload_eq t
    have fetched : u.refetched d o (some t) = a.setDrum d ((a.drum d).reload t).1 := by
      refine (State.readWrite_sound hu sound o reads [] (·.reloads d o t)).trans ?_
      change a.reloads d o t = _
      rw [State.reloads, sound']
      rfl
    dsimp only
    rw [fetched, State.drum_setDrum _ ha, loaded]
    refine ⟨only.trans (onlyDrum_setDrum a d _), ?_, by rw [drum], by rw [drum], by rw [drum], same.mem⟩
    refine rests.withSkin ⟨?_, ?_, ?_⟩ ?_ ?_ (idle.trans ?_) <;> rw [drum]

/-- From x to y a CHECK has overwritten its rows and closed its map. -/
structure CheckClosed (q : TapW) (x y : Drum) : Prop where
  seq : y.seq = { x.seq with wrote := y.seq.wrote, tapMisses := y.seq.tapMisses }
  opened : (y.mapHdr q.mout).opened = false
  cells : ∀ i n, n < 1024 → shellAt y.shell i n =
    if q.row0 ≤ i ∧ i < q.row0 + q.m ∧ n < (x.mapHdr q.mout).n ∧ x.keptAt q.mout (i - q.row0) n = false then
      (x.mapHdr q.mout).fill else shellAt x.shell i n
  bytes : ∀ a, a ≠ x.abs q.mout + 2048 → getByte y.pad.mem a = getByte x.pad.mem a

section
variable (hu : d < u.drums.length) (rests : (u.drum d).unitsRest)
include hu rests

theorem State.check_closes (wf : Memory.wf (u.drum d).pad.mem = true) (shell : (u.drum d).shell.Kept)
    (narrow : ((u.drum d).mapHdr q.mout).n ≤ 1024) (quiet : ((u.drum d).found q).1 = 0 ∨ (u.drum d).seq.miss = 0) (n : Nat) :
    OnlyDrum d u (unitsGo d n (u.runCheck d q j)) ∧ CheckClosed q (u.drum d) ((unitsGo d n (u.runCheck d q j)).drum d) := by
  have counted := State.drum_audited hu q
  have hc := (onlyDrum_audited u d q).drum_lt hu
  let h := (u.drum d).mapHdr q.mout
  have rows : Overwritten h q.mout q.row0 q.m ((u.audited d q).drum d)
      (loop (fun m x => x.overwriteRow h q.mout q.row0 m) q.m ((u.audited d q).drum d)) :=
    Drum.overwritten (by rw [counted]; exact shell) narrow q.m
  rw [State.runCheck_eq, if_pos quiet]
  let t := (u.audited d q).modDrum d fun x =>
    (loop (fun m x => x.overwriteRow h q.mout q.row0 m) q.m x).closeMap q.mout h false
  change OnlyDrum d u (unitsGo d n t) ∧ CheckClosed q (u.drum d) ((unitsGo d n t).drum d)
  have drum : t.drum d = (loop (fun m x => x.overwriteRow h q.mout q.row0 m) q.m ((u.audited d q).drum d)).closeMap q.mout h
    false := State.drum_modDrum _ hc _
  rw [counted] at rows drum
  generalize loop (fun m x => x.overwriteRow h q.mout q.row0 m) q.m ((u.drum d).audited q) = y at rows drum
  have pad : y.pad = (u.drum d).pad := by rw [rows.same]; rfl
  have view : (u.drum d).SameView y := ⟨by rw [rows.same]; rfl, by rw [pad]; exact .refl _⟩
  have restsT : (t.drum d).unitsRest := by
    rw [drum]
    refine rests.withSkin ⟨?_, ?_, ?_⟩ ?_ ?_ ?_ <;> rw [Drum.closeMap, rows.same] <;> rfl
  have ⟨jobs, _, cur, _⟩ := restsT
  rw [unitsGo_idle restsT.others cur (.inl jobs), drum]
  refine ⟨(onlyDrum_audited u d q).trans (onlyDrum_modDrum _ d _), ?_, ?_, fun i n hn => rows.cells i n hn, fun a other => ?_⟩
  · rw [Drum.closeMap, rows.same]
    rfl
  · exact Drum.opened_closeMap (by rw [pad]; exact wf) q.mout (Nat.mod_lt _ (by decide)) false
  · rw [Drum.closeMap, Drum.padPut_mem, view.abs, Drum.abs_add, pad]
    refine getByte_putBytes_out _ ?_
    rw [leBytes_length]
    omega

theorem State.check_replays (sound : (u.drum d).pad.failed = []) (missed : ((u.drum d).found q).1 ≠ 0)
    (policy : (u.drum d).seq.miss = 1)
    (loads : ∀ t, (u.drum d).tap.mapTile q.mout = some t → ((u.drum d).reload t).2 = []) (n : Nat) :
    let t := unitsGo d n (u.runCheck d q j)
    OnlyDrum d u t ∧ (t.drum d).tap.replay = some q.mout ∧ (t.drum d).tap.makeups = (u.drum d).tap.makeups + 1 ∧
      (t.drum d).seq.pc = ((u.drum d).mapHdr q.mout).replay ∧ (t.drum d).seq.madeup = true ∧
      (t.drum d).shell = (u.drum d).shell ∧ (t.drum d).pad.mem = (u.drum d).pad.mem := by
  let h := (u.drum d).mapHdr q.mout
  let v := (u.audited d q).sentBack d q h
  have only : OnlyDrum d u v := (onlyDrum_audited u d q).trans (onlyDrum_sentBack _ d q h)
  have drum : v.drum d = { (u.drum d).audited q with
      tap := { ((u.drum d).audited q).tap with replay := some q.mout, makeups := (u.drum d).tap.makeups + 1 }
      seq := { ((u.drum d).audited q).seq with pc := h.replay, madeup := true } } := by
    rw [State.drum_sentBack ((onlyDrum_audited u d q).drum_lt hu), State.drum_audited hu]
    rfl
  have fetched := State.refetched_effect (only.drum_lt hu) (by rw [drum]; exact rests) (by rw [drum]; exact sound) j.ord
    ((u.drum d).tap.mapTile q.mout) fun t tile => by
      rw [Drum.SameView.reload_faults (x := u.drum d) ⟨by rw [drum]; rfl, by rw [drum]; exact .refl _⟩ (by rw [drum]; rfl)]
      exact loads t tile
  obtain ⟨only', rests', seq, tap, shell, mem⟩ := fetched
  have ⟨jobs, _, cur, _⟩ := rests'
  rw [State.runCheck_eq, if_neg (by omega), if_pos policy, unitsGo_idle rests'.others cur (.inl jobs)]
  refine ⟨only.trans only', ?_, ?_, ?_, ?_, ?_, ?_⟩
  · rw [tap, drum]
  · rw [tap, drum]
  · rw [seq, drum]
  · rw [seq, drum]
  · rw [shell, drum]
    rfl
  · rw [mem, drum]
    rfl

theorem State.check_faults {r : RunId} (run : (u.drum d).seq.run = some r) (free : (u.fault d).valid = false)
    (missed : ((u.drum d).found q).1 ≠ 0) (policy : 2 ≤ (u.drum d).seq.miss) (n : Nat) :
    let t := unitsGo d n (u.runCheck d q j)
    t.latched d 0x52 (some r.job) u.beat ∧ (t.drum d).seq.stopped = true ∧ (t.drum d).shell = (u.drum d).shell ∧
      (t.drum d).pad.mem = (u.drum d).pad.mem := by
  have only := onlyDrum_audited u d q
  have counted := State.drum_audited hu q
  have ends := State.unitFault_ends (u := u.audited d q) (only.drum_lt hu) (by rw [counted]; exact run)
    (by rw [only.fault]; exact free) (by rw [counted]; exact rests) j.ord 0x52 n
  rw [State.runCheck_eq, if_neg (by omega), if_neg (by omega)]
  obtain ⟨latched, stopped, pad, shell⟩ := ends
  rw [counted] at pad shell
  rw [only.beat] at latched
  exact ⟨latched, stopped, shell, congrArg Pad.mem pad⟩

end

end

/-- A CHECK without fault has as many outputs as its map's TAP (R211). -/
theorem TapW.mapHdr_n {q : TapW} {s : State} {d pc : Nat} (faults : q.checkFaults s d pc = []) :
    ((s.drum d).mapHdr q.mout).n = q.n := by
  by_contra other
  have differs : decide (q.n ≠ ((s.drum d).mapHdr q.mout).n) = true := decide_eq_true (Ne.symm other)
  simp only [TapW.checkFaults, differs, Bool.or_true, Bool.true_or, Bool.and_true, List.append_eq_nil_iff] at faults
  obtain ⟨⟨-, map⟩, region⟩ := faults
  rw [region] at map
  exact absurd map (by decide)

/-- Settles O25: each policy is one of the three ends of a CHECK; the overwrite reaches the dropped outputs alone, and a replay or
a fault leaves the shell. -/
theorem checkOverwritesReplaysOrFaults : Obligations.CheckOverwritesReplaysOrFaults := by
  intro s d w kept offers op q x h f sel good still closed first faults narrow
  have taps : s.Taps d w := ⟨offers, op, good, still⟩
  obtain ⟨u, n, runs, only, taken⟩ := taps.check_runs sel first closed faults
  have hu := only.drum_lt offers.2.1
  have view : x.SameView (u.drum d) := ⟨taken.run, taken.pad⟩
  have tap : (u.drum d).tap = x.tap := by rw [taken.same]
  have hdr : (u.drum d).mapHdr q.mout = h := view.mapHdr q.mout
  have found : (u.drum d).found q = x.audit h f q.mout q.row0 q.m := by
    rw [Drum.found, hdr, tap]
    exact view.audit taken.shell taken.logical q.m
  have rests : (u.drum d).unitsRest := (taken.still still).unitsRest
  have columns : h.n = q.n := TapW.mapHdr_n faults
  refine ⟨fun quiet => ?_, fun ⟨m, hm, miss⟩ => ?_⟩
  · obtain ⟨⟨wf, -⟩, shell⟩ := kept.drum d
    have quiet' : ((u.drum d).found q).1 = 0 ∨ (u.drum d).seq.miss = 0 := by
      rw [found, Drum.audit_eq_zero, taken.miss]
      exact quiet.symm
    obtain ⟨only', done⟩ := State.check_closes (j := x.newJob w true) hu rests (by rw [taken.mem]; exact wf)
      (by rw [taken.shell]; exact shell) (by rw [hdr, columns]; exact narrow) quiet' n
    refine ⟨_, runs, only.trans only', ?_, done.opened, fun m k hm hk => ?_, fun i k hk out => ?_, fun a other => ?_⟩
    · refine taken.moved.congr ?_ ?_ ?_ ?_ ?_ <;> rw [done.seq]
    · rw [done.cells _ k (hk.trans_le narrow), hdr, columns, view.keptAt, taken.shell, Nat.add_sub_cancel_left]
      cases keep : x.keptAt q.mout m k with
      | true => exact (if_neg fun ⟨_, _, _, dropped⟩ => Bool.false_ne_true dropped.symm).trans (if_pos rfl).symm
      | false =>
        exact (if_pos ⟨Nat.le_add_right .., Nat.add_lt_add_left hm _, hk, rfl⟩).trans (if_neg Bool.false_ne_true).symm
    · rw [done.cells i k hk, if_neg (by omega), taken.shell]
    · rw [done.bytes a (by rwa [taken.abs]), taken.mem]
  · have missed : ((u.drum d).found q).1 ≠ 0 := by
      rw [found, Ne, Drum.audit_eq_zero]
      exact fun none => absurd (none m hm) (Nat.ne_of_gt miss)
    refine ⟨fun policy loads => ?_, fun r policy run free => ?_⟩
    · obtain ⟨only', replay, makeups, pc, madeup, shell, mem⟩ := State.check_replays (j := x.newJob w true) hu rests
        (taken.pad.failed.trans still.sound) missed (taken.miss.trans policy) (fun v tile => by
          rw [view.reload_faults taken.tuner]
          exact loads v (by rw [← tap]; exact tile)) n
      exact ⟨_, runs, only.trans only', replay, by rw [makeups, tap], by rw [pc, hdr], madeup, shell.trans taken.shell,
        mem.trans taken.mem⟩
    · obtain ⟨latched, stopped, shell, mem⟩ := State.check_faults (j := x.newJob w true) hu rests (taken.run.trans run)
        (by rw [only.fault]; exact free) missed (by rw [taken.miss]; exact policy) n
      rw [only.beat] at latched
      exact ⟨_, runs, latched, stopped, shell.trans taken.shell, mem.trans taken.mem⟩

end Sys2Proof.Machine
end
